-- ==== Sys2Proof/Word.lean ====
section
/-! DEFINITION. The words of the machine and reading a bit field of one (R3, R8). -/

namespace Sys2Proof

abbrev Byte := BitVec 8
abbrev Word32 := BitVec 32
/-- A scalar register (R7). -/
abbrev X := BitVec 64
/-- A vector register, a latch or a queue entry (R7). -/
abbrev V := BitVec 512

/-- BITS(w, hi, lo) as a number (R8). -/
def bits {n : Nat} (w : BitVec n) (hi lo : Nat) : Nat := (w.toNat >>> lo) % 2 ^ (hi + 1 - lo)

/-- Bit i of w. -/
def bit {n : Nat} (w : BitVec n) (i : Nat) : Bool := w.getLsbD i

/-- The one-bit word of a truth value. -/
def ofBit (b : Bool) : BitVec 1 := if b then 1#1 else 0#1

/-- w with bits [hi:lo] replaced by the low bits of v. -/
def setBits {n : Nat} (w : BitVec n) (hi lo v : Nat) : BitVec n :=
  let m := (2 ^ (hi + 1 - lo) - 1) <<< lo
  (w &&& ~~~ BitVec.ofNat n m) ||| BitVec.ofNat n (m &&& (v <<< lo))

end Sys2Proof
end

