-- ==== Sys2Proof/Machine/RMap.lean ====
section
/-! DEFINITION. Sparse tables: a list of (key, value) pairs, keys strictly rising. A table read with a default lists
no entry equal to that default, so equal tables are equal lists. Memory, register files, tiles and the tables of
strands, cores and crews are held so. -/

namespace Sys2Proof.Machine

/-- A sparse table. -/
abbrev RMap (α : Type) := List (Nat × α)

/-- The entry at key k, if any. -/
def RMap.find? {α : Type} : RMap α → Nat → Option α
  | [], _ => none
  | (k', v) :: m, k => if k = k' then some v else RMap.find? m k

/-- The value at key k; d where k is not listed. -/
def RMap.get {α : Type} (m : RMap α) (d : α) (k : Nat) : α := (m.find? k).getD d

/-- Remove key k. -/
def RMap.del {α : Type} (m : RMap α) (k : Nat) : RMap α := m.filter (fun e => e.1 != k)

/-- Insert v at key k, before the first greater key. -/
def RMap.ins {α : Type} : RMap α → Nat → α → RMap α
  | [], k, v => [(k, v)]
  | (k', v') :: m, k, v => if k < k' then (k, v) :: (k', v') :: m else (k', v') :: RMap.ins m k v

/-- Write v at key k, replacing any entry there. -/
def RMap.put {α : Type} (m : RMap α) (k : Nat) (v : α) : RMap α := (m.del k).ins k v

/-- Write v at key k of a table read with default d: writing d removes the entry. -/
def RMap.set {α : Type} [DecidableEq α] (m : RMap α) (d : α) (k : Nat) (v : α) : RMap α :=
  if v = d then m.del k else m.put k v

/-- The canonical form: keys strictly rising. -/
abbrev RMap.sorted {α : Type} (m : RMap α) : Prop := m.Pairwise (fun a b => a.1 < b.1)

/-- The canonical form of a table read with default d: keys strictly rising and no entry equal to d. -/
abbrev RMap.wf {α : Type} [DecidableEq α] (m : RMap α) (d : α) : Prop := m.sorted ∧ ∀ e ∈ m, e.2 ≠ d

/-- The keys, in rising order. -/
def RMap.keys {α : Type} (m : RMap α) : List Nat := m.map (fun e => e.1)

/-- The values, in the order of their keys. -/
def RMap.vals {α : Type} (m : RMap α) : List α := m.map (fun e => e.2)

/-- Apply f to the entry at key k. -/
def RMap.modify {α : Type} (m : RMap α) (k : Nat) (f : α → α) : RMap α :=
  m.map (fun e => if e.1 = k then (e.1, f e.2) else e)

/-- Apply f to every value. -/
def RMap.mapVals {α : Type} (m : RMap α) (f : α → α) : RMap α := m.map (fun e => (e.1, f e.2))

end Sys2Proof.Machine
end

