-- ==== Sys2Proof/Syntax.lean ====
section
/-! DEFINITION. The operand forms of the slot words (R197 to R203, R297) and the one inductive of instructions:
a constructor for each row of the table of operations and events. A slot instruction carries the fields of its
form as the word holds them; which values are legal is WellFormed.lean's. An event carries what names its unit. -/

namespace Sys2Proof

/-- S slot, register form (R197). -/
structure SReg where
  d : BitVec 5
  nw : BitVec 1
  a : BitVec 5
  la : BitVec 1
  lb : BitVec 1
  b : BitVec 5
  sub : BitVec 6
  deriving DecidableEq, Repr

/-- S slot, immediate form (R197). -/
structure SImm where
  d : BitVec 5
  nw : BitVec 1
  a : BitVec 5
  la : BitVec 1
  imm : BitVec 12
  deriving DecidableEq, Repr

/-- B slot, offset form (R198). -/
structure BOff where
  g : BitVec 3
  gn : BitVec 1
  off : BitVec 22
  deriving DecidableEq, Repr

/-- B slot, predicate form (R198). -/
structure BPred where
  g : BitVec 3
  gn : BitVec 1
  pd : BitVec 3
  a : BitVec 5
  b : BitVec 5
  imm : BitVec 9
  deriving DecidableEq, Repr

/-- V slots (R199). -/
structure VOps where
  ty : BitVec 3
  mask : BitVec 3
  d : BitVec 10
  nw : BitVec 1
  a : BitVec 10
  b : BitVec 10
  c : BitVec 10
  step : BitVec 3
  k : BitVec 1
  e : BitVec 5
  deriving DecidableEq, Repr

/-- M slot (R201). -/
structure MOps where
  ty : BitVec 3
  mask : BitVec 3
  data : BitVec 10
  nw : BitVec 1
  base : BitVec 5
  ix : BitVec 5
  order : BitVec 2
  scope : BitVec 3
  update : BitVec 2
  offset : BitVec 22
  deriving DecidableEq, Repr

/-- P slots (R202). -/
structure POps where
  tile : BitVec 4
  row : BitVec 4
  vec : BitVec 10
  nw : BitVec 1
  dm : BitVec 4
  step : BitVec 1
  sub : BitVec 3
  deriving DecidableEq, Repr

/-! The E layouts of R297, in the order of its table. -/

structure EFmt where
  atype : BitVec 3
  btype : BitVec 3
  acc : BitVec 1
  deriving DecidableEq, Repr

structure EMma where
  n : BitVec 5
  tile : BitVec 4
  oA : BitVec 6
  oB : BitVec 6
  tA : BitVec 1
  tB : BitVec 1
  deriving DecidableEq, Repr

structure EMask where
  mask : BitVec 16
  deriving DecidableEq, Repr

structure ESlots where
  xd : BitVec 5
  first : BitVec 6
  count : BitVec 6
  deriving DecidableEq, Repr

structure EOfill where
  xB : BitVec 5
  xS : BitVec 5
  ety : BitVec 3
  off : BitVec 24
  slot : BitVec 6
  deriving DecidableEq, Repr

structure EOfillv where
  ety : BitVec 3
  vec : BitVec 10
  slot : BitVec 6
  deriving DecidableEq, Repr

structure EAddr where
  xB : BitVec 5
  off : BitVec 24
  deriving DecidableEq, Repr

structure ECset where
  xa : BitVec 5
  field : BitVec 6
  deriving DecidableEq, Repr

structure ECpy where
  xD : BitVec 5
  xS : BitVec 5
  xN : BitVec 5
  pe : BitVec 1
  flag : BitVec 5
  fcore : BitVec 5
  postn : BitVec 16
  deriving DecidableEq, Repr

structure ETag where
  tag : BitVec 16
  deriving DecidableEq, Repr

structure ECollq where
  xd : BitVec 5
  comm : BitVec 8
  deriving DecidableEq, Repr

structure ERtadd where
  xB : BitVec 5
  xL : BitVec 5
  mode : BitVec 2
  tag : BitVec 16
  deriving DecidableEq, Repr

structure ESpawn where
  xT : BitVec 5
  live : BitVec 32
  deriving DecidableEq, Repr

structure ESpawnp where
  xT : BitVec 5
  xP : BitVec 5
  xd : BitVec 5
  live : BitVec 32
  deriving DecidableEq, Repr

structure EPark where
  xW : BitVec 5
  wkind : BitVec 2
  live : BitVec 32
  deriving DecidableEq, Repr

structure ESteal where
  xd : BitVec 5
  xP : BitVec 5
  deriving DecidableEq, Repr

structure EPoolinit where
  xD : BitVec 5
  xA : BitVec 5
  xS : BitVec 5
  xW : BitVec 5
  deriving DecidableEq, Repr

structure EPush where
  xd : BitVec 5
  xP : BitVec 5
  xE : BitVec 5
  deriving DecidableEq, Repr

structure EPop where
  xd : BitVec 5
  xP : BitVec 5
  xE : BitVec 5
  tag : BitVec 16
  deriving DecidableEq, Repr

structure EPtr where
  xP : BitVec 5
  deriving DecidableEq, Repr

structure ETlb where
  xA : BitVec 5
  xN : BitVec 5
  deriving DecidableEq, Repr

structure EReg where
  xA : BitVec 5
  deriving DecidableEq, Repr

structure ENote where
  xa : BitVec 5
  code : BitVec 16
  deriving DecidableEq, Repr

/-- The classes of slots, in commit order (R185). -/
inductive SlotClass where
  | S | B | V0 | V1 | M | P0 | P1 | E
  deriving DecidableEq, Repr

/-- One constructor for each row of the table of operations and events. -/
inductive Instr where
  /-- ADD: Wrapping 64-bit addition (R227) -/
  | add (o : SReg)
  /-- SUB: Wrapping 64-bit subtraction (R227) -/
  | sub (o : SReg)
  /-- AND: Bitwise AND (R227) -/
  | and (o : SReg)
  /-- OR: Bitwise OR (R227) -/
  | or (o : SReg)
  /-- XOR: Bitwise XOR (R227) -/
  | xor (o : SReg)
  /-- ANDN: xa AND NOT xb (R227) -/
  | andn (o : SReg)
  /-- SHL: Wrapping left shift by a register count (R229) -/
  | shl (o : SReg)
  /-- SHR: Logical right shift by a register count (R229) -/
  | shr (o : SReg)
  /-- SHA: Arithmetic right shift by a register count (R229) -/
  | sha (o : SReg)
  /-- ROL: Rotate left by the count modulo 64 (R229) -/
  | rol (o : SReg)
  /-- MUL: Low 64 bits of the product (R227) -/
  | mul (o : SReg)
  /-- MULH: High 64 bits of the signed product (R227) -/
  | mulh (o : SReg)
  /-- MULHZ: High 64 bits of the unsigned product (R227) -/
  | mulhz (o : SReg)
  /-- DIV: Signed division truncating toward zero, with the fixed borderline cases (R228) -/
  | div (o : SReg)
  /-- DIVZ: Unsigned division (R228) -/
  | divz (o : SReg)
  /-- REM: Signed remainder, with the sign of the dividend (R228) -/
  | rem (o : SReg)
  /-- REMZ: Unsigned remainder (R228) -/
  | remz (o : SReg)
  /-- MIN: Signed minimum (R227) -/
  | min (o : SReg)
  /-- MAX: Signed maximum (R227) -/
  | max (o : SReg)
  /-- MINZ: Unsigned minimum (R227) -/
  | minz (o : SReg)
  /-- MAXZ: Unsigned maximum (R227) -/
  | maxz (o : SReg)
  /-- ADDS: Saturating 64-bit addition (R227) -/
  | adds (o : SReg)
  /-- SUBS: Saturating 64-bit subtraction (R227) -/
  | subs (o : SReg)
  /-- CLZ: Count of leading zero bits (R230) -/
  | clz (o : SReg)
  /-- CTZ: Count of trailing zero bits (R230) -/
  | ctz (o : SReg)
  /-- POPC: Count of 1 bits (R230) -/
  | popc (o : SReg)
  /-- SEXT: Sign-extend the low n bits (R231) -/
  | sext (o : SReg)
  /-- ZEXT: Zero-extend the low n bits (R231) -/
  | zext (o : SReg)
  /-- BFX: Extract a bit field, sign-extended (R231) -/
  | bfx (o : SReg)
  /-- BFXZ: Extract a bit field, zero-extended (R231) -/
  | bfxz (o : SReg)
  /-- BFI: Insert a bit field into x[d] (R231) -/
  | bfi (o : SReg)
  /-- MOV: Copy xa, or a latch, to xd (R230) -/
  | mov (o : SReg)
  /-- ADDI: Add a signed immediate, wrapping (R232) -/
  | addi (o : SImm)
  /-- ANDI: Bitwise AND with a sign-extended immediate (R232) -/
  | andi (o : SImm)
  /-- ORI: Bitwise OR with a sign-extended immediate (R232) -/
  | ori (o : SImm)
  /-- XORI: Bitwise XOR with a sign-extended immediate (R232) -/
  | xori (o : SImm)
  /-- SHLI: Left shift by an unsigned immediate count (R229) -/
  | shli (o : SImm)
  /-- SHRI: Logical right shift by an immediate count (R229) -/
  | shri (o : SImm)
  /-- SHAI: Arithmetic right shift by an immediate count (R229) -/
  | shai (o : SImm)
  /-- ROLI: Rotate left by an immediate count (R229) -/
  | roli (o : SImm)
  /-- MULI: Multiply by a signed immediate, wrapping (R232) -/
  | muli (o : SImm)
  /-- MINI: Signed minimum with an immediate (R232) -/
  | mini (o : SImm)
  /-- MAXI: Signed maximum with an immediate (R232) -/
  | maxi (o : SImm)
  /-- MOVI: Load a signed immediate (R232) -/
  | movi (o : SImm)
  /-- LIH: Shift xa left by 12 bits and OR in an unsigned immediate (R232) -/
  | lih (o : SImm)
  /-- MOVW: Load a sign-extended 32-bit literal word (R233) -/
  | movw (o : SImm)
  /-- MOVD: Load a 64-bit value from two literal words (R233) -/
  | movd (o : SImm)
  /-- ADDW: Add a sign-extended 32-bit literal word (R233) -/
  | addw (o : SImm)
  /-- CSRR: Read a control register (R234) -/
  | csrr (o : SImm)
  /-- CSRW: Write a control register and return its old value (R234) -/
  | csrw (o : SImm)
  /-- CSRS: Set bits of a control register unless xa is 0, returning the old value (R234) -/
  | csrs (o : SImm)
  /-- CSRC: Clear bits of a control register unless xa is 0, returning the old value (R234) -/
  | csrc (o : SImm)
  /-- ESET: Write a scale register from xa; the only way to clear SATS (R236) -/
  | eset (o : SReg)
  /-- EGET: Read a scale register, zero-extended (R236) -/
  | eget (o : SReg)
  /-- ECENS: Turn a census into a shift count less a margin, and optionally reset the census (R236) -/
  | ecens (o : SReg)
  /-- EADD: Add xb to a scale register's exponent with saturation (R236) -/
  | eadd (o : SReg)
  /-- ECOPY: Copy one scale register to another (R236) -/
  | ecopy (o : SReg)
  /-- BR: Branch to PC plus an offset (R239) -/
  | br (o : BOff)
  /-- BRL: Branch and link into x31 (R239) -/
  | brl (o : BOff)
  /-- JR: Jump to xa (R239) -/
  | jr (o : BPred)
  /-- JRL: Jump to xa and link into x31 (R239) -/
  | jrl (o : BPred)
  /-- LOOP: Decrement x30 and branch while it exceeds 1 (R240) -/
  | loop (o : BOff)
  /-- CMPEQ: Set a predicate when the registers are equal (R237) -/
  | cmpeq (o : BPred)
  /-- CMPNE: Set a predicate when the registers differ (R237) -/
  | cmpne (o : BPred)
  /-- CMPLT: Signed less-than compare (R237) -/
  | cmplt (o : BPred)
  /-- CMPLE: Signed less-or-equal compare (R237) -/
  | cmple (o : BPred)
  /-- CMPLTZ: Unsigned less-than compare (R237) -/
  | cmpltz (o : BPred)
  /-- CMPLEZ: Unsigned less-or-equal compare (R237) -/
  | cmplez (o : BPred)
  /-- CMPEQI: Equality compare with a signed 9-bit immediate (R237) -/
  | cmpeqi (o : BPred)
  /-- CMPNEI: Inequality compare with an immediate (R237) -/
  | cmpnei (o : BPred)
  /-- CMPLTI: Signed less-than compare with an immediate (R237) -/
  | cmplti (o : BPred)
  /-- CMPLEI: Signed less-or-equal compare with an immediate (R237) -/
  | cmplei (o : BPred)
  /-- PAND: Predicate AND (R238) -/
  | pand (o : BPred)
  /-- POR: Predicate OR (R238) -/
  | por (o : BPred)
  /-- PXOR: Predicate XOR (R238) -/
  | pxor (o : BPred)
  /-- PANDN: Predicate AND NOT (R238) -/
  | pandn (o : BPred)
  /-- PMOV: Predicate move (R238) -/
  | pmov (o : BPred)
  /-- TRAP: Raise trap 0x3A with a code (R241) -/
  | trap (o : BPred)
  /-- SVC: Raise trap 0x38 and enter supervisor mode (R241) -/
  | svc (o : BPred)
  /-- BRK: Raise breakpoint trap 0x39 (R241) -/
  | brk (o : BPred)
  /-- ERET: Return from a handler, resuming the trapped issue or beginning a bundle afresh (R242) -/
  | eret (o : BOff)
  /-- END: End the task and the strand's part in the crew, dropping its barriers (R243) -/
  | endTask (o : BOff)
  /-- YIELD: Yield the crew for saving when REQ is 1; otherwise give way to another ready strand (R243) -/
  | yield (o : BOff)
  /-- IDLE: End the task and make the strand idle (R243) -/
  | idle (o : BOff)
  /-- VNOP: Issue nothing and leave NOP in the sticky word (R251) -/
  | vnop (o : VOps)
  /-- VMOV: Move lanes as bits (R251) -/
  | vmov (o : VOps)
  /-- VADD: Wrapping lane addition (R252) -/
  | vadd (o : VOps)
  /-- VSUB: Wrapping lane subtraction (R252) -/
  | vsub (o : VOps)
  /-- VADDS: Saturating lane addition (R252) -/
  | vadds (o : VOps)
  /-- VSUBS: Saturating lane subtraction (R252) -/
  | vsubs (o : VOps)
  /-- VNEG: Saturating negation (R252) -/
  | vneg (o : VOps)
  /-- VABS: Saturating absolute value (R252) -/
  | vabs (o : VOps)
  /-- VMUL: Wrapping lane multiply (R252) -/
  | vmul (o : VOps)
  /-- VMULH: High part of the lane product (R252) -/
  | vmulh (o : VOps)
  /-- VMULQ: Fractional multiply with RNE (R252) -/
  | vmulq (o : VOps)
  /-- VMAC: Wrapping multiply-accumulate (R252) -/
  | vmac (o : VOps)
  /-- VMACS: Saturating multiply-accumulate (R252) -/
  | vmacs (o : VOps)
  /-- VMIN: Lane minimum (R252) -/
  | vmin (o : VOps)
  /-- VMAX: Lane maximum (R252) -/
  | vmax (o : VOps)
  /-- VAVG: Rounded lane average (R252) -/
  | vavg (o : VOps)
  /-- VABSD: Saturating absolute difference (R252) -/
  | vabsd (o : VOps)
  /-- VDIV: Lane division truncating toward zero (R252) -/
  | vdiv (o : VOps)
  /-- VSHL: Wrapping lane left shift (R253) -/
  | vshl (o : VOps)
  /-- VSHR: Logical lane right shift (R253) -/
  | vshr (o : VOps)
  /-- VSHA: Arithmetic lane right shift (R253) -/
  | vsha (o : VOps)
  /-- VSHRR: Rounding (RNE) right shift (R253) -/
  | vshrr (o : VOps)
  /-- VSHRS: Stochastic right shift with keys from c (R253) -/
  | vshrs (o : VOps)
  /-- VSHLS: Saturating lane left shift (R253) -/
  | vshls (o : VOps)
  /-- VNORM: Shift by a signed count in either direction (R253) -/
  | vnorm (o : VOps)
  /-- VCENS: Census write of a register's active lanes into a scale register (R255) -/
  | vcens (o : VOps)
  /-- VAND: Lane AND (R256) -/
  | vand (o : VOps)
  /-- VOR: Lane OR (R256) -/
  | vor (o : VOps)
  /-- VXOR: Lane XOR (R256) -/
  | vxor (o : VOps)
  /-- VANDN: Lane AND NOT (R256) -/
  | vandn (o : VOps)
  /-- VNOT: Lane NOT (R256) -/
  | vnot (o : VOps)
  /-- VCMPEQ: Lane equality compare, optionally writing a mask (R257) -/
  | vcmpeq (o : VOps)
  /-- VCMPNE: Lane inequality compare (R257) -/
  | vcmpne (o : VOps)
  /-- VCMPLT: Lane less-than compare (R257) -/
  | vcmplt (o : VOps)
  /-- VCMPLE: Lane less-or-equal compare (R257) -/
  | vcmple (o : VOps)
  /-- VSEL: Select a or b by lane c (R256) -/
  | vsel (o : VOps)
  /-- VCLAMP: Clamp lanes between b and c (R256) -/
  | vclamp (o : VOps)
  /-- VPOPC: Lane population count (R256) -/
  | vpopc (o : VOps)
  /-- VCLZ: Lane leading zero count (R256) -/
  | vclz (o : VOps)
  /-- VSPLAT: Broadcast one lane to every lane (R258) -/
  | vsplat (o : VOps)
  /-- VIOTA: Arithmetic sequence from a[0] with a stride (R258) -/
  | viota (o : VOps)
  /-- VINS: Insert a[0] at one lane of c (R258) -/
  | vins (o : VOps)
  /-- VEXT: Extract one lane, extended to 64 bits (R259) -/
  | vext (o : VOps)
  /-- VPERM: Permute lanes from a and c by the indices in b (R258) -/
  | vperm (o : VOps)
  /-- VSLIDE: Slide lanes across a and b (R258) -/
  | vslide (o : VOps)
  /-- VZIP: Interleave two registers (R258) -/
  | vzip (o : VOps)
  /-- VUNZIP: De-interleave two registers (R258) -/
  | vunzip (o : VOps)
  /-- VREDADD: Exact sum of active lanes plus a carried total (R260) -/
  | vredadd (o : VOps)
  /-- VREDMAX: Maximum of active lanes (R260) -/
  | vredmax (o : VOps)
  /-- VREDMIN: Minimum of active lanes (R260) -/
  | vredmin (o : VOps)
  /-- VSCAN: Saturating inclusive prefix sum (R261) -/
  | vscan (o : VOps)
  /-- VMCOUNT: Count of active lanes (R260) -/
  | vmcount (o : VOps)
  /-- VEXP2Q: Lane EXP2_Q16 (R262) -/
  | vexp2q (o : VOps)
  /-- VLOG2Q: Lane LOG2_Q16 (R262) -/
  | vlog2q (o : VOps)
  /-- VRCPQ: Lane reciprocal by RCP (R262) -/
  | vrcpq (o : VOps)
  /-- VRSQQ: Lane reciprocal square root by RSQ (R262) -/
  | vrsqq (o : VOps)
  /-- VDIVQ: Lane fixed-point division by DIVQ (R262) -/
  | vdivq (o : VOps)
  /-- VHASH: Accumulate signature projections of row elements (R263) -/
  | vhash (o : VOps)
  /-- VMIX: Lane MIX32 (R264) -/
  | vmix (o : VOps)
  /-- VSEGSUM: Sum lanes into their representatives by REPIDX (R265) -/
  | vsegsum (o : VOps)
  /-- VMAPSCAT: Scatter representative values back to member lanes, copied or shared (R265) -/
  | vmapscat (o : VOps)
  /-- VMAPCNT: Count the member lanes of each representative (R265) -/
  | vmapcnt (o : VOps)
  /-- VMAPCNT_FIRST: First-row form: flag lanes whose row opens a gathering (R265) -/
  | vmapcntFirst (o : VOps)
  /-- VCVT: Convert signedness with saturation (R267) -/
  | vcvt (o : VOps)
  /-- VPACK: Narrow two registers into one with saturation (R267) -/
  | vpack (o : VOps)
  /-- VUNPK: Widen half a register exactly (R267) -/
  | vunpk (o : VOps)
  /-- VQUANT: Fused stochastic shift and saturate to a target range (R268) -/
  | vquant (o : VOps)
  /-- LDX: Scalar load of 1 to 8 bytes into an x register (R274) -/
  | ldx (o : MOps)
  /-- LDV: Contiguous 64-byte vector load of the active lanes (R275) -/
  | ldv (o : MOps)
  /-- LDVS: Strided vector load (R275) -/
  | ldvs (o : MOps)
  /-- LDVB: Broadcast load of one element (R275) -/
  | ldvb (o : MOps)
  /-- STX: Scalar store of 1 to 8 bytes (R274) -/
  | stx (o : MOps)
  /-- STV: Contiguous vector store of the active lanes (R275) -/
  | stv (o : MOps)
  /-- STVS: Strided vector store (R275) -/
  | stvs (o : MOps)
  /-- STVM: Packed store of the active elements (R275) -/
  | stvm (o : MOps)
  /-- AADD: Atomic wrapping add, returning the old value (R277) -/
  | aadd (o : MOps)
  /-- AADDS: Atomic saturating add (R277) -/
  | aadds (o : MOps)
  /-- AMIN: Atomic minimum (R277) -/
  | amin (o : MOps)
  /-- AMAX: Atomic maximum (R277) -/
  | amax (o : MOps)
  /-- AAND: Atomic AND (R277) -/
  | aand (o : MOps)
  /-- AOR: Atomic OR (R277) -/
  | aor (o : MOps)
  /-- AXOR: Atomic XOR (R277) -/
  | axor (o : MOps)
  /-- ASWP: Atomic swap (R277) -/
  | aswp (o : MOps)
  /-- ACAS: Atomic compare and swap (R277) -/
  | acas (o : MOps)
  /-- FENCE: Order the strand's accesses at a scope and write the refusal status word (R123) -/
  | fence (o : MOps)
  /-- QFENCE: Insert a join into the named engine queues, blocking the strand under hold (R126) -/
  | qfence (o : MOps)
  /-- RWAIT: Block until no range entry of the launch overlaps a range (R279) -/
  | rwait (o : MOps)
  /-- GWINIT: Initialise a galley word in one atomic step (R280) -/
  | gwinit (o : MOps)
  /-- GWWAIT: Block until a galley word's GEN differs from a given value (R281) -/
  | gwwait (o : MOps)
  /-- FSET: Set a flag and walk its waits (R283) -/
  | fset (o : MOps)
  /-- FGET: Read a flag, optionally with acquire (R283) -/
  | fget (o : MOps)
  /-- FADD: Add to a flag with saturation and walk its waits (R283) -/
  | fadd (o : MOps)
  /-- ENQ_V: Enqueue a vector-field element on a ring, blocking while the ring is full (R287) -/
  | enqV (o : MOps)
  /-- ENQ_X: Enqueue an x register element on a ring (R287) -/
  | enqX (o : MOps)
  /-- DEQ_V: Dequeue a ring element into a vector field, blocking while the ring is empty and open (R287) -/
  | deqV (o : MOps)
  /-- DEQ_X: Dequeue a ring element into an x register (R287) -/
  | deqX (o : MOps)
  /-- RINIT: Initialise a ring descriptor and retest its waiters (R286) -/
  | rinit (o : MOps)
  /-- RCLOSE: Close a ring, settling its waiting DEQ and ENQ (R288) -/
  | rclose (o : MOps)
  /-- BJOIN: Join a barrier's member set (R290) -/
  | bjoin (o : MOps)
  /-- BARR: Arrive at a barrier, optionally waiting for the phase to change (R290) -/
  | barr (o : MOps)
  /-- BWAIT: Block until a barrier's PHASE differs from a given value (R290) -/
  | bwait (o : MOps)
  /-- BDROP: Arrive at a barrier and drop from it (R290) -/
  | bdrop (o : MOps)
  /-- ARD: Read a tile row as s32, saturated or as the low bits (R294) -/
  | ard (o : POps)
  /-- ARDW: Read half a tile row as s64 lanes (R294) -/
  | ardw (o : POps)
  /-- ARDH: Read the high parts of a tile row (R294) -/
  | ardh (o : POps)
  /-- AWR: Write a tile row, clearing TSAT and the K-step count (R294) -/
  | awr (o : POps)
  /-- AADDV: Add s32 lanes into a tile row with s56 saturation (R294) -/
  | aaddv (o : POps)
  /-- AZERO: Zero a tile (R294) -/
  | azero (o : POps)
  /-- ARQ: Requantising drain of a tile row with census (R295) -/
  | arq (o : POps)
  /-- ACENS: Census of a tile row into a scale register (R294) -/
  | acens (o : POps)
  /-- MFMT: Write the strand's format latch (R300) -/
  | mfmt (o : EFmt)
  /-- MMA: Queue one K-step on a tile (R301) -/
  | mma (o : EMma)
  /-- MCHAIN: Queue n K-steps on a tile over successive slots (R301) -/
  | mchain (o : EMma)
  /-- MSEAL: Queue a retirement point for the named tiles (R302) -/
  | mseal (o : EMask)
  /-- MZERO: Queue the zeroing of the named tiles (R302) -/
  | mzero (o : EMask)
  /-- OCLAIM: Claim operand slots for the crew, returning success (R303) -/
  | oclaim (o : ESlots)
  /-- ORELEASE: Mark operand slots releasing and queue their release (R303) -/
  | orelease (o : ESlots)
  /-- OFILL: Queue the fill of an operand slot from memory (R304) -/
  | ofill (o : EOfill)
  /-- OFILLV: Fill an operand slot from vector registers (R304) -/
  | ofillv (o : EOfillv)
  /-- TTASK: Enqueue a forme in the cluster forme queue (R305) -/
  | ttask (o : EAddr)
  /-- TDEP: Decrement a forme or dependence counter in FORME order (R305) -/
  | tdep (o : EAddr)
  /-- CSET: Write one field of the copy shadow set (R306) -/
  | cset (o : ECset)
  /-- CGO: Snapshot the shadow set into the copy queue (R307) -/
  | cgo
  /-- CPY: Queue a contiguous byte copy (R308) -/
  | cpy (o : ECpy)
  /-- CARM: Snapshot the shadow set into the armed set (R307) -/
  | carm
  /-- CCANCEL: Remove the strand's armed commands with a tag (R309) -/
  | ccancel (o : ETag)
  /-- COLL: Start a collective from a parameter block (R310) -/
  | coll (o : EAddr)
  /-- COLLQ: Read a communicator's outstanding and completed collective counts (R310) -/
  | collq (o : ECollq)
  /-- RTADD: Add a tracked range-table entry (R311) -/
  | rtadd (o : ERtadd)
  /-- RTDEL: Remove the tracked entries with a tag (R311) -/
  | rtdel (o : ETag)
  /-- SPAWN: Build a child record and place it in the run queue (R312) -/
  | spawn (o : ESpawn)
  /-- SPAWNP: Build a child record and push it to a spore pool (R312) -/
  | spawnp (o : ESpawnp)
  /-- PARK: Save the task into its slot with a wait, making the strand idle (R313) -/
  | park (o : EPark)
  /-- STEAL: Pop a record from a pool into the crew's run queue (R314) -/
  | steal (o : ESteal)
  /-- POOLINIT: Write a pool descriptor at its home (R315) -/
  | poolinit (o : EPoolinit)
  /-- POOLPUSH_REG: Push an x register element to a pool (R316) -/
  | poolpushReg (o : EPush)
  /-- POOLPUSH_MEM: Push an element read from memory to a pool (R316) -/
  | poolpushMem (o : EPush)
  /-- POOLPOP_REG: Pop a pool element into an x register (R317) -/
  | poolpopReg (o : EPop)
  /-- POOLPOP_MEM: Pop a pool element into memory (R317) -/
  | poolpopMem (o : EPop)
  /-- POOLPOPW_REG: Pop into an x register, joining the waiting list when the pool is empty (R317) -/
  | poolpopwReg (o : EPop)
  /-- POOLPOPW_MEM: Pop into memory, joining the waiting list when the pool is empty (R317) -/
  | poolpopwMem (o : EPop)
  /-- POOLFENCE: Block until the strand's operations on a pool are linearised and counted (R318) -/
  | poolfence (o : EPtr)
  /-- TLBINV: Invalidate cached translations at every core (R319) -/
  | tlbinv (o : ETlb)
  /-- CTXSAVE: Write the strand's per-strand block (R320) -/
  | ctxsave (o : EReg)
  /-- CTXLOAD: Load the strand's state from a per-strand block and resume it (R320) -/
  | ctxload (o : EReg)
  /-- NOTE: Queue a software notice in the crew notice ring (R321) -/
  | note (o : ENote)
  /-- HOST_REGISTER_WRITE: A host write to a BAR 0 register with no row of its own (PODPOS, EXPLICIT_RING, COMM n, QBASE, YGRACE); it is ignored and sets CFGERR when the register is restricted at that moment (R172) -/
  | hostRegisterWrite (off : Nat) (v : BitVec 64)
  /-- CFGERR_CLEAR: A host write to CFGERR; each bit written with 1 is cleared (R172) -/
  | cfgerrClear (v : BitVec 64)
  /-- QCTL_ENABLE: A host write to QCTL with EN = 1; it enables the queue, or it is ignored and sets QBUSY or QBAD (R172) -/
  | qctlEnable (q : Nat) (v : BitVec 64)
  /-- QCTL_DISABLE: A host write to QCTL with EN = 0; it clears EN, and launches already fetched run to their end (R172) -/
  | qctlDisable (q : Nat) (v : BitVec 64)
  /-- QTAIL_DOORBELL: A host write to QTAIL; it announces the packets written and orders the host's earlier writes before the fetch (R173) -/
  | qtailDoorbell (q : Nat) (v : BitVec 32)
  /-- PACKET_FETCH: An enabled queue with QTAIL different from QHEAD fetches its head packet and checks it (R173) -/
  | packetFetch (q : Nat)
  /-- DISPATCH_ROUND: The dispatcher picks one ready queue by class and by the rotating pointer, and tries to place that queue's offer (R176) -/
  | dispatchRound
  /-- DEADLINE_EXPIRY: TIME reaches a victim's DEADLINE without a YIELD, which forces pre-emption of the crew (R178) -/
  | deadlineExpiry (crew : Nat)
  /-- CREW_SAVE: Once the drains end, the context save engine writes the crew's dirty state and then its header, and the save completes (R179) -/
  | crewSave (crew : Nat)
  /-- SAVE_RETRY: After an abandoned save, the save is retried at the crew's next retirement point or after 65,536 cycles (R412) -/
  | saveRetry (crew : Nat)
  /-- CREW_RESTORE: A placed saved crew's record is read and VALID is cleared; AGEs, flags, armed commands and forme entries are restored before any strand issues (R180) -/
  | crewRestore (crew : Nat)
  /-- TASK_SCHEDULER_ROUND: Each cycle the cluster task scheduler hands the oldest ready records to idle strands, at most four handouts per round (R38) -/
  | taskSchedulerRound (cluster : Nat)
  /-- TASK_START: A strand begins a handed-out task 10 cycles after the handout, with its state set from the record (R32) -/
  | taskStart (strand : Nat)
  /-- STRAND_SWITCH: The next ready strand becomes the issuing strand 2 cycles after the previous one blocks, and its latches are invalidated (R29) -/
  | strandSwitch (core : Nat)
  /-- BUNDLE_DECODE: A bundle is fetched and checked at decode before its sync wait, and an illegal bundle traps with 0x01 (R205) -/
  | bundleDecode
  /-- HEADER_SYNC_WAIT: The header wait of COUNT on FLAG is made before the first issue, and it acts as an acquire (R188) -/
  | headerSyncWait
  /-- HEADER_SYNC_POST: The header post of COUNT to FLAG is made after the last issue, and it acts as a release (R188) -/
  | headerSyncPost
  /-- ASYNC_TRAP_DELIVERY: A pending asynchronous trap is taken at the strand's next bundle boundary, or at once by an idle strand (R356) -/
  | asyncTrapDelivery (strand : Nat)
  /-- LOAD_DATA_ARRIVAL: A load's data arrives and is written to its pending destination, which releases any blocked reader (R272) -/
  | loadDataArrival (acc : Nat) (part : Nat)
  /-- FAILED_LAUNCH_RELEASE: The surviving strands of a failed launch are released with trap 0x28 or 0x29, or they are discarded (R363) -/
  | failedLaunchRelease (strand : Nat)
  /-- ABORT_GRACE_EXPIRY: A strand of a failed launch that has not ended YGRACE ns after the containment is stopped and discarded (R363) -/
  | abortGraceExpiry (strand : Nat)
  /-- CORE_SCRUB: A contained core is scrubbed to zero and becomes placeable again, or it is retired (R367) -/
  | coreScrub (core : Nat)
  /-- STORE_PERFORM: A queued store drains and is performed at its scopes (R114) -/
  | storePerform (acc : Nat) (part : Nat) (scope : Nat)
  /-- PAGE_WALK: A walker performs the three-level walk once one is free, setting A and D, or reports 0x10 or 0x11 (R92) -/
  | pageWalk (die : Nat)
  /-- REMOTE_ATOMIC: An atomic message reaches the owning bank or controller atomic unit and is performed there (R107) -/
  | remoteAtomic (acc : Nat)
  /-- BANK_RETENTION_ENTRY: A window bank that no access has touched for 2,048 cycles enters retention (R48) -/
  | bankRetentionEntry (core : Nat) (bank : Nat)
  /-- TIERING_EPOCH: At the end of each 65,536 switch-cycle epoch the tiering unit chooses granule moves and halves every count (R100) -/
  | tieringEpoch
  /-- GRANULE_MOVE_COMPLETE: A granule copy completes; the granule's place is switched and the accesses waiting on it are performed in arrival order (R102) -/
  | granuleMoveComplete (frame : Nat)
  /-- K_STEP_EXECUTE: A DIRECT engine performs one MMA K-step on a tile, clamping and setting TSAT (R79) -/
  | kStepExecute (core : Nat)
  /-- OFILL_EXECUTE: The matrix engine reaches an OFILL or OFILLV entry and fills the operand slot (R136) -/
  | ofillExecute (core : Nat)
  /-- MSEAL_RETIREMENT: The engine reaches an MSEAL, and the named tiles are at a retirement point (R138) -/
  | msealRetirement (core : Nat)
  /-- MZERO_EXECUTE: The engine reaches an MZERO and zeroes the named tiles, with TSAT and count 0 (R302) -/
  | mzeroExecute (core : Nat)
  /-- ORELEASE_EXECUTE: The engine reaches an ORELEASE; the slots are unclaimed and zeroed (R303) -/
  | oreleaseExecute (core : Nat)
  /-- FORME_ISSUE: Each cycle the forme scheduler issues the oldest ready entry to each free SHARED engine, reading its record (R144) -/
  | formeIssue (cluster : Nat)
  /-- FORME_COMPLETION: A forme finishes; it writes its map and outputs, merges its census, decrements DEC0 and DEC1, posts its flag and leaves the queue (R147) -/
  | formeCompletion (core : Nat)
  /-- DEPENDENCE_DECREMENT: A counter is decremented in its atomic unit, making a forme entry ready at zero or underflowing (R144) -/
  | dependenceDecrement (tok : Nat)
  /-- COPY_START: The copy queue starts a command: it reads the index list, enters tracked ranges and begins the element transfers (R152) -/
  | copyStart (core : Nat)
  /-- COPY_WRITE_LANDED: An element write of a copy is performed at its destination (R152) -/
  | copyWriteLanded (core : Nat)
  /-- COPY_COMPLETION: A copy completes; it merges its census, removes its ranges, decrements DECDEP, posts its flag and leaves the queue (R154) -/
  | copyCompletion (core : Nat)
  /-- COPY_ABORT: A copy element meets a fault; the command is aborted without completion release, and an asynchronous trap is sent (R393) -/
  | copyAbort (core : Nat)
  /-- COLL_ACCEPT: The collective engine accepts a COLL from a strand's queue and matches it by order on its communicator (R163) -/
  | collAccept (strand : Nat)
  /-- COLL_CHECK_STEP: Ranks exchange OP, ROP, DTYPE, ALG, CLOG, ROOT and COUNT, and abandon the collective on a local failure or a mismatch (R402) -/
  | collCheckStep (comm : Nat)
  /-- COLL_CHUNK_STEP: At a chunk boundary the engine picks the next chunk step by PRIO and pointer, and runs it (R165) -/
  | collChunkStep
  /-- COLL_COMPLETION: The status word is all-reduced, RSTAT is written, and the completion is signalled by flag or galley word (R161) -/
  | collCompletion (comm : Nat)
  /-- COLL_ABANDON_MESSAGE: An abandon from a peer reaches this rank, which abandons the collective with 0x28 (R403) -/
  | collAbandonMessage (comm : Nat) (rank : Nat)
  /-- COLL_HOLD_MESSAGE: A hold reaches a rank; it pauses the communicator's timers and queues notice 0x0005 (R405) -/
  | collHoldMessage (comm : Nat) (rank : Nat)
  /-- COLL_RELEASE_MESSAGE: A release reaches a rank, and the communicator's timers resume from 0 (R405) -/
  | collReleaseMessage (comm : Nat) (rank : Nat)
  /-- COLL_TIMER_EXPIRY: The progress timer reaches TIMER times 1,024 switch cycles, and the collective is abandoned with 0x28 (R404) -/
  | collTimerExpiry (comm : Nat)
  /-- POOL_SWITCH_ARRIVAL: A pool operation arrives at a pairing point, where it pairs, is held or is forwarded (R167) -/
  | poolSwitchArrival (op : Nat)
  /-- POOL_HOLD_EXPIRY: A held pool operation's hold ends unpaired, and the operation moves on toward the home (R167) -/
  | poolHoldExpiry (op : Nat)
  /-- PAIRS_INCREMENT: A PAIRS increment sent by a pairing switch reaches the pool home and is applied (R167) -/
  | pairsIncrement (n : Nat)
  /-- POOL_HOME_ARRIVAL: An unmatched operation reaches the home and is performed against storage or the waiting list (R169) -/
  | poolHomeArrival (op : Nat)
  /-- POOL_ANSWER_ARRIVAL: A pool answer reaches its core; it writes the status and element and may wake a WKIND 3 record (R317) -/
  | poolAnswerArrival (op : Nat)
  /-- LAUNCH_COMPLETION_RECORD: When a launch ends or its failure discards are complete, the completion record is written at HOST scope and then signalled (R175) -/
  | launchCompletionRecord (launch : Nat)
  /-- FUNCTION_READY: A function finishes training and self-test and sets its READY bit (R182) -/
  | functionReady (bit : Nat)
  /-- FUNCTION_LOSS: A function stops working and clears its READY bit, failing the launches that depend on it (R368) -/
  | functionLoss (bit : Nat)
  /-- PACKAGE_RESET: Package reset sets the rotating pointers and AGE counters to 0 and starts bring-up (R182) -/
  | packageReset
  /-- CRITICAL_TEMPERATURE_RESET: The package reaches its critical temperature and enters reset, and no completion records are written (R421) -/
  | criticalTemperatureReset
  /-- ISLAND_THROTTLE: An island's clock and voltage are lowered to respect power or temperature limits (R420) -/
  | islandThrottle (island : Nat)
  /-- ISLAND_STOP: An island's clocks stop with its state retained, and holds are sent for its collectives (R420) -/
  | islandStop (island : Nat)
  /-- ISLAND_RESUME: A stopped island resumes, sends releases and acts on any deadlines that fell during the stop (R420) -/
  | islandResume (island : Nat)
  /-- LINK_FLIT_ERROR: A flit CRC error on a Mboif or PCIe link is replayed silently (R184) -/
  | linkFlitError (link : Nat)
  /-- PORT_RETRAIN_TIMEOUT: A port retraining longer than 20 µs clears PORT, and link loss follows (R422) -/
  | portRetrainTimeout (port : Nat)
  /-- PORT_TRAINED: A port finishes training, PORT is set, and waiting collectives proceed (R422) -/
  | portTrained (port : Nat)
  /-- PCIE_LINK_LOSS: The PCIe link leaves L0 without recovery, and host-tier accesses are refused (R389) -/
  | pcieLinkLoss
  /-- PORT_RETRAINING: An Mboif port begins retraining without clearing its PORT bit; its traffic waits and its flits are replayed (R422) -/
  | portRetraining (port : Nat)
  /-- PCIE_LINK_UP: PCIe reports the link up, after which the host may configure queues and ring doorbells (R182) -/
  | pcieLinkUp
  /-- TLBINV_COMPLETION: Every core has dropped the cached translations named by a TLBINV, and the blocked strand continues (R319) -/
  | tlbinvCompletion (strand : Nat)
  deriving DecidableEq, Repr

end Sys2Proof
end

