-- ==== Sys2Proof/Machine/State.lean ====
section
/-! DEFINITION. The state of the machine as plain data: strands, cores, clusters, package and the host-visible registers,
the reasons a step can stop, and the state after reset. Strands are held by a unique number 96*crew + crew strand index,
crews by the number of their placement, cores by package core number (R11). -/

namespace Sys2Proof.Machine

/-! ### Strands (03, 10) -/

/-- An entry of a queue register; acc names the load whose data has not arrived (R272); bad is set when a word of it is
uncorrectable (R366). -/
structure QEnt where
  val : V := 0
  acc : Option Nat := none
  bad : Bool := false
  deriving DecidableEq, Repr

/-- A queue register read made at the start of an issue (R51): the slot that reads it, the queue, whether it pops, and
the entry found. -/
structure Capt where
  slot : Nat
  q : Nat
  pop : Bool
  ent : Option QEnt
  deriving DecidableEq, Repr

/-- A continuation record as its 160 bytes (R31). -/
abbrev Rec := List Byte

/-- A transfer decided at its slot and performed after the header post (R192). -/
inductive Transfer where
  | jump (target : X)
  | eret
  | endTask
  | idle
  /-- YIELD: REQ as read at the issue, and whether DEADLINE had passed by then (R178, R243) -/
  | yield (req late : Bool)
  /-- PARK with its record's LIVE, WKIND and WAIT (R313) -/
  | park (live : BitVec 32) (wkind : Nat) (wait : X)
  | ctxload (va : Nat)
  deriving DecidableEq, Repr

/-- The bundle in execution (R185 to R193). -/
structure Bundle where
  pc : X := 0
  header : Word32 := 0
  /-- the words present in memory, by slot number 0 to 7 in commit order -/
  words : RMap Nat := []
  lits : List Nat := []
  /-- the issue index, and the next slot of that issue -/
  rep : Nat := 0
  slot : Nat := 0
  /-- the words of the current issue, by slot number -/
  cur : RMap Nat := []
  /-- the latches valid at the start of the issue and the load then outstanding into L3 (R376, R272), and queue reads made for it (R51) -/
  latch : RMap V := []
  l3acc : Option Nat := none
  l3lost : Option Nat := none
  capt : List Capt := []
  /-- the header wait has been granted (R375) -/
  granted : Bool := false
  /-- the issue has been started: cur, latch and capt are those of issue rep -/
  started : Bool := false
  deriving DecidableEq, Repr, Inhabited

/-- The trap sticky set (R196, R375, R376). -/
structure TrapSet where
  cur : RMap Nat := []
  latch : RMap V := []
  l3acc : Option Nat := none
  l3lost : Option Nat := none
  pend : Option Transfer := none
  granted : Bool := false
  /-- the words in cur are those of an issue that had started, not the live sticky words of a bundle that had not -/
  started : Bool := false
  /-- STATUS.SUP before the entry (R241) -/
  sup : Bool := false
  deriving DecidableEq, Repr, Inhabited

/-- Where a strand stands in its bundle. -/
inductive Phase where
  /-- about to fetch the bundle at pc -/
  | boundary
  /-- decoded, the header wait comes next -/
  | wait
  /-- in the issue and slot of the bundle -/
  | issue
  /-- the header post comes next -/
  | post
  /-- the pending transfer comes next -/
  | transfer
  deriving DecidableEq, Repr, Inhabited

/-- What a blocked strand waits for (R29). -/
inductive Why where
  /-- destinations whose data has not arrived (R272, R298) -/
  | pending (accs : List Nat)
  /-- the header wait on a flag (R188) -/
  | flag
  /-- a full engine queue (R299): 0 MATRIX, 1 COPY, 2 FORME, 3 COLL, 4 POOL, 5 the armed set -/
  | queueFull (q : Nat)
  /-- a ring operation -/
  | ring
  | galley
  /-- a barrier number -/
  | barrier (b : Nat)
  /-- a run-queue slot -/
  | runq
  /-- the answer of a STEAL -/
  | answer (op : Nat)
  /-- its POOLFENCE, an entry of the POOL queue -/
  | poolfence (op : Nat)
  /-- a FENCE: the accesses that must be performed at the scope first -/
  | fence (accs : List Nat) (scope : Nat)
  /-- a QFENCE hold on a join -/
  | hold (join : Nat)
  /-- TLBINV of n bytes at va -/
  | tlbinv (va n : Nat)
  /-- RWAIT on a byte range -/
  | range (lo len : Nat)
  /-- a translation walk in progress for an access at va: 0 load, 1 store, 2 atomic, 3 fetch -/
  | walk (va acc : Nat)
  /-- a YIELD until another strand of the core issues a bundle -/
  | yieldTurn
  /-- earlier accesses that must be performed at a scope first (R120, R124, R127) -/
  | order (accs : List Nat) (scope : Nat)
  deriving DecidableEq, Repr

/-- What a unit grants a blocked strand; consumed when the blocked slot runs again. -/
inductive Grant where
  | ok
  | elem (val : V) (pred : Bool)
  | num (n : Nat)
  | rslot (n : Nat)
  | trap (cause : Nat) (tval : X)
  /-- an uncorrectable word met when the wait was tested; its FVAL (R366) -/
  | upset (fval : X)
  deriving DecidableEq, Repr

/-- Running state of a strand (R29, R41). -/
inductive Run where
  | ready
  | blocked (w : Why)
  | idle
  /-- handed a record by the task scheduler, in the run-queue slot n (R38) -/
  | starting (n : Nat)
  | ended
  deriving DecidableEq, Repr, Inhabited

/-- A pending asynchronous trap (R356). -/
structure ATrap where
  cause : Nat
  tval : X
  deriving DecidableEq, Repr

/-- A command in a strand's COLL queue (R299). -/
inductive CollCmd where
  /-- the block at va, and its bytes as they stood at the issue, [] where they could not be read; it is read when the collective
  starts (R159) -/
  | coll (va : Nat) (sup : Bool) (seen : List Byte)
  | rtadd (base len : Nat) (mode : Nat) (tag : Nat)
  | rtdel (tag : Nat)
  deriving DecidableEq, Repr

/-- What a full FENCE at PACKAGE scope lets the fetches see after the next branch (R129): of the stores performed at PACKAGE before step
fence, that of the FENCE, the strand's own and those that its acquires before the FENCE have observed: it saw them before step acq. -/
structure CodeMark where
  acq : Nat := 0
  fence : Nat := 0
  deriving DecidableEq, Repr

structure Strand where
  crew : Nat := 0
  /-- crew strand index (R24) -/
  idx : Nat := 0
  /-- package core number and strand number of the core -/
  core : Nat := 0
  sn : Nat := 0
  x : RMap X := []
  p : RMap Bool := []
  m : RMap X := []
  q : RMap (List QEnt) := []
  e : RMap (BitVec 16) := []
  /-- v registers by logical name (R46) -/
  v : RMap V := []
  /-- physical banks of the window units (R45) -/
  banks : List Nat := [0]
  /-- the valid latches (R49); l3acc is an outstanding load into L3 (R272), l3lost one whose arrival leaves L3 invalid, since the
  latches were cleared after it committed (R380) -/
  latch : RMap V := []
  l3acc : Option Nat := none
  l3lost : Option Nat := none
  /-- format latch and MFMTs in flight as (strand issue of effect, value) (R58, R59) -/
  fmt : BitVec 7 := 0b0100100#7
  fmtPipe : List (Nat × BitVec 7) := []
  issues : Nat := 0
  sup : Bool := true
  inh : Bool := false
  retn : Bool := false
  tcause : BitVec 8 := 0
  tpc : BitVec 48 := 0
  tval : X := 0
  tstat : BitVec 10 := 0
  tvec : BitVec 48 := 0
  tscr : X := 0
  dirty : BitVec 30 := 0
  /-- sticky words by slot number 2 to 6; NOP is absence (R194) -/
  sticky : RMap Nat := []
  trapSet : TrapSet := {}
  pend : Option Transfer := none
  pc : X := 0
  phase : Phase := .boundary
  bun : Bundle := {}
  depth : Nat := 0
  /-- the run-queue slot the running task holds (R35) -/
  rslot : Option Nat := none
  run : Run := .ready
  grant : Option Grant := none
  /-- pending x and v destinations with the access that fills them, oldest first (R272, R298) -/
  xpend : List (Nat × Nat) := []
  vpend : List (Nat × Nat) := []
  async : List ATrap := []
  /-- an idle strand runs a handler (R356) -/
  idleHandler : Bool := false
  /-- refusals since the last FENCE: COUNT, CAUSE and SCOPE (R66) -/
  refCount : Nat := 0
  refCause : Nat := 0
  refScope : Nat := 0
  /-- fields of the copy shadow set that differ from their reset values (R151) -/
  shadow : RMap X := []
  /-- its acquires have observed the stores that it saw before this step; the mark of its latest full FENCE at PACKAGE or beyond with no
  branch after it yet; and the mark of the one that its fetches follow (R129) -/
  acqAt : Nat := 0
  codeFence : Option CodeMark := none
  codeSeen : CodeMark := {}
  collq : List (Nat × CollCmd) := []
  /-- a released strand's grace ends at this TIME (R363) -/
  grace : Option Nat := none
  /-- it was discarded, and did not execute END (R361, R363) -/
  lost : Bool := false
  /-- it was lost by the containment of its core (R361, R415) -/
  contained : Bool := false
  deriving DecidableEq, Repr, Inhabited

/-! ### Memory accesses in flight (06) -/

/-- Kinds of accesses a strand has in flight. -/
inductive AccKind where
  | load | store | atomic
  deriving DecidableEq, Repr

/-- Where the data of a load or atomic goes. -/
inductive Dest where
  | x (r : Nat) (ty : Nat)
  | v (r : Nat)
  | q (r : Nat)
  /-- a scalar of type ty, to latch L3 only -/
  | l3 (ty : Nat)
  | none
  deriving DecidableEq, Repr

/-- One part of an access: bytes at a canonical address that are performed together (R117, R118). -/
structure Part where
  addr : Nat
  /-- bytes of a store; for a load only their number counts -/
  data : List Byte
  /-- where in the destination the first byte goes -/
  pos : Nat
  /-- bits [11:0] of the page's leaf: ORD in [5:4], PIN in [6], TIER in [8:7]; 0 for the window -/
  flags : Nat
  /-- the virtual address -/
  va : Nat
  /-- parts of one access with the same number are performed together (R118) -/
  tie : Nat := 0
  /-- the access it belongs to: the element of an element form, or the half of a straddling one (R95, R276) -/
  unit : Nat := 0
  /-- the scopes it has reached: 0 none yet, n+1 performed at scope code n and below, 7 finished -/
  reached : Nat := 0
  /-- each value that reached has taken, with the step at which it did: its place in coherence order (R115) -/
  shown : List (Nat × Nat) := []
  deriving DecidableEq, Repr

/-- An M-slot access in flight; its number is its place in the order of issue. -/
structure Acc where
  strand : Nat
  core : Nat
  kind : AccKind
  parts : List Part
  order : Nat := 0
  scope : Nat := 0
  dest : Dest := .none
  /-- bytes gathered for the destination, with those of inactive lanes as they were -/
  buf : V := 0
  /-- byte positions that all receive the one part's data (LDVB); empty for every other form -/
  spread : List Nat := []
  /-- unit operations numbered below this come before it: a pop among them that is not answered holds it back (R127) -/
  after : Nat := 0
  /-- an element form: its units are stored in ascending order (R275, R276) -/
  elems : Bool := false
  /-- atomics: opcode, scalar type, operand and comparand -/
  op : Nat := 0
  ty : Nat := 0
  opnd : Nat := 0
  cmp : Nat := 0
  /-- the bundle that issued it, for the FPC of a containment (R364) -/
  pc : X := 0
  /-- a load or atomic: it has read what stores visible before this step wrote, or a later value (R121) -/
  obs : Nat := 0
  deriving DecidableEq, Repr

/-- The value of the aligned 8-byte word at va, under the key it has, that a strand's load still to come, numbered num or above, has
been fixed at ahead of its turn (R114, R119): near is the smallest scope that holds the strand and an agent that has acted since; obs is
that of Acc. -/
structure Early where
  strand : Nat
  num : Nat
  va : Nat
  key : Nat
  bytes : List Byte
  near : Nat := 7
  obs : Nat := 0
  deriving DecidableEq, Repr

/-- A cached translation (R94) of one 64 KiB frame: the page's virtual base and size in bytes, its physical base, the
flags, the frame it serves, and the core that holds it. -/
structure Tlb where
  core : Nat
  launch : Nat
  va : Nat
  size : Nat
  pa : Nat
  flags : Nat
  /-- VA[47:16] of the accesses it translates -/
  frame : Nat
  deriving DecidableEq, Repr

/-! ### Engines of a core (07, 08) -/

/-- An entry of a matrix queue with the strand that issued it (R135). -/
inductive MxEnt where
  /-- one K-step still to do of an MMA or MCHAIN: tile, slots, formats (R137) -/
  | mma (tile oA oB n : Nat) (tA tB : Bool) (fmt : BitVec 7)
  | mzero (mask : BitVec 16)
  | mseal (mask : BitVec 16)
  | ofill (slot : Nat) (ety : Nat) (va : X) (stride : X) (sup : Bool)
  /-- rows as read at issue, element (i, j) at i*16+j -/
  | ofillv (slot : Nat) (rows : List (BitVec 16))
  | orelease (first count : Nat)
  deriving DecidableEq, Repr

structure MxQ where
  num : Nat
  strand : Nat
  ent : MxEnt
  deriving DecidableEq, Repr

/-- A copy command: the snapshot of a shadow set (R151), by field number. -/
structure CopyCmd where
  /-- its number in the order of entry to the engine queues -/
  num : Nat
  strand : Nat
  crew : Nat
  fields : RMap X
  /-- STATUS.SUP of the strand at its issue -/
  sup : Bool := true
  deriving DecidableEq, Repr

/-- The command a copy engine is performing (R152): its index list, the elements done, the value read for the current
element with the number of its destinations written, and its census and saturation so far. -/
structure CopyRun where
  cmd : CopyCmd
  ix : List Nat := []
  done : Nat := 0
  val : Option Nat := none
  dest : Nat := 0
  census : List Nat := []
  sat : Bool := false
  /-- galley words, with their cores, whose update by the last element completes a generation: it waits for the command's last write
  (R112); and whether the census is merged and the ranges are gone, which come before it (R154) -/
  late : List (Nat × Nat) := []
  merged : Bool := false
  deriving DecidableEq, Repr

/-- An armed copy command (R155). -/
structure Armed where
  cmd : CopyCmd
  deriving DecidableEq, Repr

inductive EngMode where
  | direct | shared
  deriving DecidableEq, Repr

/-- A wait in a flag unit (R34): a strand's header wait, or the parked record in a run-queue slot. -/
inductive FlagWaiter where
  | header (strand : Nat)
  | parked (rslot : Nat)
  deriving DecidableEq, Repr

structure FlagWait where
  flag : Nat
  count : Nat
  who : FlagWaiter
  deriving DecidableEq, Repr

/-- Whether a core is in service (R361, R367). -/
inductive Service where
  | inService | contained | retired
  deriving DecidableEq, Repr

structure Core where
  /-- resident strands by strand number (R10) -/
  res : RMap Nat := []
  /-- the issuing strand's number s, and the one that issued last (R29, R50) -/
  cur : Option Nat := none
  lastIssuer : Option Nat := none
  flags : RMap Word32 := []
  waits : List FlagWait := []
  mode : EngMode := .direct
  /-- tiles: element (t, i, j) at t*256+i*16+j (R55) -/
  acc : RMap (BitVec 56) := []
  tsat : RMap Bool := []
  ksteps : RMap Nat := []
  /-- the issue count of each tile (R408) -/
  issued : RMap Nat := []
  /-- operand slots: element (o, i, j) at o*256+i*16+j (R56) -/
  opnd : RMap (BitVec 16) := []
  /-- the crew that claims a slot, and the slots marked releasing (R57, R303) -/
  claim : RMap Nat := []
  releasing : List Nat := []
  mxq : List MxQ := []
  copyq : List CopyCmd := []
  copyRun : Option CopyRun := none
  armed : List Armed := []
  /-- pool descriptors cached by the network interface: address, parameters, STORAGE, WLIST (R166) -/
  poolCache : List (Nat × Nat) := []
  /-- banks in retention (R48) -/
  retained : List Nat := []
  service : Service := .inService
  /-- the forme a SHARED engine is running, by its number in the cluster's forme queue (R144) -/
  forme : Option Nat := none
  deriving DecidableEq, Repr

/-! ### Clusters (02, 07, 14) -/

/-- How a run-queue slot stands (R35). -/
inductive RqState where
  /-- its task runs on the strand -/
  | running (strand : Nat)
  /-- ready with its AGE; handed to a strand or not -/
  | ready (handed : Option Nat)
  | parked
  deriving DecidableEq, Repr

/-- A task's slot. Keys: 0 to 511 general, 512+j reserved of depth j (1 to 32), 1024+4k+s the home slot of a strand. -/
structure RqSlot where
  crew : Nat
  st : RqState
  bytes : Rec := []
  age : Word32 := 0
  deriving DecidableEq, Repr

/-- An entry blocked for a slot (R36), oldest first in its list, with the record it enters. -/
structure RqWait where
  strand : Nat
  crew : Nat
  depth : Nat
  bytes : Rec
  deriving DecidableEq, Repr

/-- An entry of the forme queue (R143): the enqueuing strand, the window offset. -/
structure FormeEnt where
  num : Nat
  strand : Nat
  crew : Nat
  off : Nat
  ready : Bool
  /-- issued to this core's engine; the record's 64 bytes as read at issue -/
  core : Option Nat := none
  bytes : List Byte := []
  deriving DecidableEq, Repr

structure Cluster where
  rq : RMap RqSlot := []
  rqWaits : List RqWait := []
  age : Word32 := 0
  formes : List FormeEnt := []
  deriving DecidableEq, Repr

/-! ### Crews and launches (02, 09) -/

/-- A barrier number (R289): sets of crew strand indexes. -/
structure Barrier where
  mem : List Nat := []
  arrived : List Nat := []
  drops : List Nat := []
  phase : BitVec 16 := 0
  deriving DecidableEq, Repr

/-- A live answer tag (R317): the pop that carries it, and whether its answer is written and not yet claimed. -/
structure TagEnt where
  tag : Nat
  op : Nat
  written : Bool
  deriving DecidableEq, Repr

inductive PoolKind where
  | push | pop | popw | init
  /-- a POOLFENCE in the POOL queue (R299, R318) -/
  | fence
  deriving DecidableEq, Repr

/-- A pool operation in flight (R166 to R170). -/
structure PoolOp where
  num : Nat
  kind : PoolKind
  strand : Nat
  crew : Nat
  core : Nat
  sn : Nat
  /-- VA and canonical key of the descriptor, and the word of parameters carried from the core's cache -/
  desc : Nat
  home : Nat
  params : Nat
  /-- STATUS.SUP of the issuer at the issue -/
  sup : Bool := true
  /-- a push's element; a POOLINIT's 64 bytes -/
  elem : List Byte := []
  tag : Nat := 0
  /-- result registers: status, and the element register or element address of a pop -/
  xd : Nat := 0
  xe : Option Nat := none
  mem : Option Nat := none
  steal : Bool := false
  budget : Nat := 0
  /-- switches still ahead, the next first; held at the first when held is set -/
  path : List Nat := []
  held : Bool := false
  /-- it has left its core's interface -/
  sent : Bool := false
  /-- the switch cycle and the input port of its arrival at the switch that holds it, and the cycle its hold ends (R167) -/
  arrival : Nat := 0
  port : Nat := 0
  till : Nat := 0
  /-- a pop in the home's waiting list -/
  joined : Bool := false
  /-- an orphan on its way back to the home (R401) -/
  orphan : Bool := false
  /-- the answer: status and element, travelling back -/
  answer : Option (Nat × List Byte) := none
  deriving DecidableEq, Repr

/-- What a save record holds (R179): per-position flags, tiles and slots, run-queue records with their slots, forme
entries. The crew's strands stay in the package's table, on no core; its scratchpad bytes stay in memory, under the keys
of core numbers that no core has. The spec gives the parts' sizes, not their layout. -/
structure SaveImage where
  flags : RMap Word32 := []
  acc : RMap (BitVec 56) := []
  tsat : RMap Bool := []
  ksteps : RMap Nat := []
  issued : RMap Nat := []
  opnd : RMap (BitVec 16) := []
  claims : List Nat := []
  releasing : List Nat := []
  armed : RMap (List Armed) := []
  mxq : RMap (List MxQ) := []
  copyq : RMap (List CopyCmd) := []
  rq : RMap RqSlot := []
  formes : List FormeEnt := []
  /-- pool answers that came while the crew was saved, in their order (R178) -/
  answers : List PoolOp := []
  deriving DecidableEq, Repr

/-- Where a crew stands. -/
inductive CrewSt where
  | resident
  /-- leaving: the save drains; forced by deadline or not (R178) -/
  | saving (forced : Bool)
  /-- a save was abandoned: resident, and to be saved again (R412) -/
  | retry (forced : Bool)
  | saved (forced : Bool)
  /-- placed again; the record has not been read -/
  | restoring
  | ended
  | lost
  deriving DecidableEq, Repr

structure Crew where
  launch : Nat
  index : Nat
  cluster : Nat
  /-- the step of its placement in the cluster (R38) -/
  placed : Nat := 0
  /-- package cores by position, strand numbers per position, scratchpad offset per position (R24, R27) -/
  cores : List Nat
  spad : List Nat
  st : CrewSt := .resident
  barriers : RMap Barrier := []
  tags : List TagEnt := []
  /-- YIELDREQ (R65) -/
  req : Bool := false
  deadline : Nat := 0
  /-- the waiting crew (launch, index) the request is for, its saves abandoned in a row, and the waiting crews for which
  this one is no longer a victim (R177, R412) -/
  waiter : Option (Nat × Nat) := none
  fails : Nat := 0
  excl : List (Nat × Nat) := []
  /-- cores on which an MSEAL of the crew has completed since its save began or was abandoned, and CYCLE then (R178, R412) -/
  sealed : List Nat := []
  resumed : Nat := 0
  image : SaveImage := {}
  /-- its cores that were contained while it stood on them (R389) -/
  dead : List Nat := []
  /-- it was discarded while its save header lay in a granule on the move: VALID is cleared when the move is complete (R102, R362) -/
  unclear : Bool := false
  deriving DecidableEq, Repr

/-- The first fault of a launch (R364). -/
structure FirstFault where
  time : Nat
  cause : Nat
  core : Nat
  sn : Nat
  pc : Nat
  val : X
  deriving DecidableEq, Repr

structure Launch where
  queue : Nat
  packet : List Byte
  fetched : Nat := 0
  nextCrew : Nat := 0
  placing : Bool := true
  /-- QHEAD has passed its packet (R173) -/
  headed : Bool := false
  failed : Bool := false
  failTime : Nat := 0
  faults : Nat := 0
  first : Option FirstFault := none
  done : Nat := 0
  ended : Nat := 0
  tstart : Option Nat := none
  tend : Nat := 0
  csat : Bool := false
  tsats : Bool := false
  esats : Bool := false
  /-- the core whose containment failed it -/
  failCore : Nat := 0
  /-- its completion record is written -/
  recorded : Bool := false
  root : Nat := 0
  /-- physical addresses of COMPL and SIGVA, found at fetch (R417) -/
  complPa : Option Nat := none
  sigPa : Option Nat := none
  deriving DecidableEq, Repr

/-! ### Units of the package (05, 06, 08, 20) -/

/-- A range-table entry (R110). -/
structure Range where
  base : Nat
  units : Nat
  mode : Nat
  owner : Nat
  launch : Nat
  /-- 0 an RTADD, 1 a copy engine, 2 a collective -/
  src : Nat
  /-- the command or collective that entered it -/
  tok : Nat := 0
  deriving DecidableEq, Repr

/-- A walk asked for and not yet performed (R94). -/
structure Walk where
  strand : Nat
  core : Nat
  va : Nat
  /-- 0 load, 1 store, 2 atomic, 3 fetch -/
  acc : Nat
  deriving DecidableEq, Repr

/-- A join of QFENCE (R126), by its number in the order of entry to the engine queues: entries of the strand numbered
above it, in the queues of mask, wait for those below it. -/
structure Join where
  num : Nat
  strand : Nat
  mask : Nat
  deriving DecidableEq, Repr

/-- A pending decrement of a dependence counter (R125, R305): TDEP. -/
structure PendDec where
  tok : Nat
  strand : Nat
  crew : Nat
  off : Nat
  deriving DecidableEq, Repr

/-- A PAIRS increment on its way to a home (R167), with the strands of the pair. -/
structure PairInc where
  home : Nat
  push : Nat
  pop : Nat
  deriving DecidableEq, Repr

/-- A collective accepted at this rank (R163): it is the m-th of its communicator; this package is rank of ranks. -/
structure Coll where
  num : Nat
  m : Nat
  strand : Nat
  crew : Nat
  launch : Nat
  va : Nat
  comm : Nat
  rank : Nat
  ranks : Nat
  sup : Bool
  block : List Byte
  /-- 0 accepted, 1 checked here, 2 in its chunk steps, 3 delivered -/
  stage : Nat := 0
  chunk : Nat := 0
  /-- the chunks of the receive buffer delivered, and the chunk buffers of its channel that it holds (R165) -/
  filled : List Nat := []
  bufs : Nat := 0
  /-- the send buffer as read -/
  data : List Byte := []
  sat : Bool := false
  /-- switch cycles counted by the progress timer -/
  timer : Nat := 0
  deriving DecidableEq, Repr

/-- What a peer has sent for a collective (R163, R402): its parameter block, its data and its status. -/
structure PeerMsg where
  comm : Nat
  rank : Nat
  num : Nat
  block : List Byte := []
  data : List Byte := []
  status : Option Word32 := none
  abandon : Bool := false
  deriving DecidableEq, Repr

/-- What this rank sends its peers (R402, R405). -/
inductive OutMsg where
  | check (comm num : Nat) (block : List Byte)
  | data (comm num : Nat) (bytes : List Byte)
  | status (comm num : Nat) (w : Word32)
  | abandon (comm num : Nat)
  | hold (comm : Nat)
  | release (comm : Nat)
  deriving DecidableEq, Repr

/-- A granule of a TIER 00 page, by home frame (R99): its place, its count, and the move in progress. -/
structure Granule where
  place : Option Nat := none
  count : BitVec 16 := 0
  byDie : RMap Nat := []
  moving : Option (Option Nat) := none
  deriving DecidableEq, Repr

inductive Island where
  | running | throttled | stopped
  deriving DecidableEq, Repr

/-- A ring or galley waiter in arrival order (R106, R281). -/
structure UnitWait where
  strand : Nat
  /-- key of the descriptor or galley word, its VA -/
  key : Nat
  va : Nat
  /-- 0 ENQ, 1 DEQ, 2 GWWAIT, 3 parked WKIND 2 record -/
  kind : Nat
  val : V := 0
  ty : Nat := 0
  gen : Nat := 0
  rslot : Nat := 0
  deriving DecidableEq, Repr

/-- A CTXSAVE block's strand image by its physical or canonical address (R320): its bytes are those of Config.ctxByte for it. -/
structure CtxImage where
  addr : Nat
  units : Nat
  strand : Strand
  deriving DecidableEq, Repr

/-- A write performed at PACKAGE scope, at step: the strand that made it or none for an engine or the host, its core or agent, the
smaller scopes that it had reached before with their steps, the first byte's key and the bytes before (R129). -/
structure CodeStore where
  step : Nat
  strand : Option Nat
  core : Nat
  shown : List (Nat × Nat) := []
  key : Nat
  old : List Byte
  deriving DecidableEq, Repr

/-- Everything of the package that a slot instruction can reach. -/
structure Pkg where
  /-- bytes by canonical key: physical below 2^48, scratchpads from 2^48, crew notice areas from 2^52 -/
  mem : RMap Byte := []
  /-- keys of uncorrectable words, but for those of queue entries: memory words by their first byte, words of register storage and of
  chunk buffers by keys of their own (R366) -/
  poison : List Nat := []
  strands : RMap Strand := []
  cores : RMap Core := []
  clusters : RMap Cluster := []
  crews : RMap Crew := []
  launches : RMap Launch := []
  accs : RMap Acc := []
  nextAcc : Nat := 0
  early : List Early := []
  /-- writes performed at PACKAGE scope, oldest first (R129) -/
  codeLog : List CodeStore := []
  tlb : List Tlb := []
  walks : List Walk := []
  ranges : List Range := []
  /-- ranges of commands that wait for room in the table; they refuse as entries do (R110, R112) -/
  wanted : List Range := []
  joins : List Join := []
  nextNum : Nat := 0
  decs : List PendDec := []
  unitWaits : List UnitWait := []
  pools : RMap PoolOp := []
  pairs : List PairInc := []
  /-- the switch cycle, and by switch the cycle and input port of the latest arrival (R167) -/
  swcyc : Nat := 0
  swPorts : RMap (Nat × Nat) := []
  colls : List Coll := []
  /-- collectives accepted per communicator, completed per communicator (R310) -/
  collAcc : RMap Nat := []
  collDone : RMap Nat := []
  collPtr : Nat := 0
  /-- holds in force: (communicator, rank) received; (crew, communicator) sent (R405) -/
  holdsIn : List (Nat × Nat) := []
  holdsOut : List (Nat × Nat) := []
  inbox : List PeerMsg := []
  outbox : List OutMsg := []
  granules : RMap Granule := []
  ctx : List CtxImage := []
  /-- TIME in ns, and CYCLE of each island's cores (R62) -/
  time : Nat := 0
  cycs : RMap Nat := []
  /-- steps taken -/
  tick : Nat := 0
  nextCrew : Nat := 0
  nextLaunch : Nat := 0
  deriving DecidableEq, Repr

/-! ### Host side (09) -/

/-- A host queue's registers (R171). -/
structure HQueue where
  base : X := 0
  root : Nat := 0
  qlog : Nat := 0
  en : Bool := false
  head : Word32 := 0
  tail : Word32 := 0
  deriving DecidableEq, Repr

/-- BAR 0, dispatcher and physical environment. -/
structure HostRegs where
  ready : BitVec 20 := 0
  podpos : BitVec 24 := 0
  cfgerr : BitVec 4 := 0
  explicitRing : BitVec 7 := 0
  ygrace : Word32 := 100000
  comm : RMap Word32 := []
  queues : RMap HQueue := []
  queuePtr : Nat := 0
  clusterPtr : Nat := 0
  pcieUp : Bool := false
  /-- MSI-X vectors signalled, latest first -/
  signals : List Nat := []
  islands : RMap Island := []
  /-- ports in retraining with the TIME at which it began (R422) -/
  retraining : List (Nat × Nat) := []
  /-- the MSI-X table of BAR 2 as 64-bit words: vector v has its message address at 2v, its data and control at 2v + 1;
  the vectors pending (R171) -/
  msix : RMap X := []
  msixPending : List Nat := []
  /-- what the latest host read of BAR 0 or BAR 2 answered -/
  readData : X := 0
  /-- crews that made a yield request and wait: launch and crew index (R176) -/
  waiting : List (Nat × Nat) := []
  deriving DecidableEq, Repr

/-- What acts next: a core, an operation or event of another agent, or an input from outside. -/
inductive Action where
  /-- the core's issuing strand takes its next action -/
  | core (c : Nat)
  | event (i : Instr)
  /-- the host or a peer writes memory (physical address, bytes) -/
  | write (addr : Nat) (bytes : List Byte)
  /-- a soft error leaves a word uncorrectable (R366) -/
  | upset (key : Nat)
  /-- a peer's contribution arrives -/
  | peer (m : PeerMsg)
  /-- a core drops a cached translation -/
  | evict (core va : Nat)
  /-- the value of the aligned word at va is fixed ahead of its turn for a strand's load still to come -/
  | early (strand va : Nat)
  /-- the host reads a register of BAR 0 -/
  | hostRead (off : Nat)
  /-- the host reads a word of BAR 2: of the MSI-X table, or beyond it of the pending-bit array -/
  | msixRead (word : Nat)
  /-- the host writes a word of the MSI-X table -/
  | msix (word : Nat) (v : X)
  deriving DecidableEq, Repr, Inhabited

structure State where
  pkg : Pkg
  host : HostRegs
  /-- the strand whose slot runs -/
  focus : Nat
  agenda : List Action
  deriving DecidableEq, Repr

/-- Why the machine stops. -/
inductive Fault where
  /-- Raised by every slot meaning when no strand is in focus: no machine state of the spec; safe. -/
  | noStrand
  deriving DecidableEq, Repr

/-- Why an instruction has no meaning. -/
inductive Refusal where
  /-- Raised by a dispatch arm with no meaning yet; safe. -/
  | notModelled (mnemonic : String)
  deriving DecidableEq, Repr

/-- Package reset (R182): no launch, no strand, every register at its reset value; where the spec gives none, 0. -/
def State.reset : State := { pkg := {}, host := {}, focus := 0, agenda := [] }

end Sys2Proof.Machine
end

