-- ==== Sys2Proof/Config.lean ====
section
/-! DEFINITION. What the package fixes and what the spec leaves open. Every constant here has no body: no proof and no
evaluation can use a value of it. Each is applied to the step counter where every use may differ. -/

namespace Sys2Proof.Config

open Sys2Proof.Machine

/-- MEMCAP: installed LPDDR-6 capacity in bytes (R171); assumption 4. -/
opaque memcap : BitVec 48

/-- What MEMCAP reads before the memory is trained (R171); assumption 4. -/
opaque earlyMemcap : Nat → BitVec 48

/-- What acts next when the agenda is empty; assumption 6. -/
opaque schedule : Nat → Action

/-- Nanoseconds, cycles of an island and switch cycles that pass in a step (R62, R404); assumption 5. -/
opaque timeStep : Nat → Nat
opaque cycleStep : Nat → Nat → Nat
opaque switchStep : Nat → Nat

/-- A choice among n allowed outcomes where the spec fixes none (R1, R139, R403); assumption 5. -/
opaque pick : Nat → Nat → Nat

/-- Which of n values a trap reports where several fields of one word offend, by the word (R357): no timing decides it (R1);
assumption 8. -/
opaque fieldOf : Nat → Nat → Nat

/-- TVAL for a nonzero bit that no field of the word holds, by the word (R357, R371); assumption 8. -/
opaque unusedTval : Nat → BitVec 64

/-- The strand, cause and value that the loss of a die records; assumption 8. -/
opaque lossTval : Nat → BitVec 64

/-- Whether a store part in flight at a containment is performed, in bit 0 (R361); assumption 7. -/
opaque openByte : Nat → Nat → BitVec 8

/-- The bytes of a CTXSAVE block of a strand, by offset (R320): the spec gives their number, not their layout; assumption 7. -/
opaque ctxByte : Strand → Nat → BitVec 8

/-- The strand state a CTXLOAD takes from bytes that no CTXSAVE of this model wrote (R320); assumption 7. -/
opaque foreignBlock : List (BitVec 8) → Strand

/-- The bytes of a crew's save record, by what it saves and by offset (R179): the spec gives the sizes of its parts, not their
layout; assumption 7. -/
opaque saveByte : SaveImage → List Strand → Nat → BitVec 8

/-- What the byte at an offset of a strand's 8,192 bytes of register classes belongs to, modulo 7: 0 to 5 the classes of DIRTY bits 12
to 17, 6 what no bit of DIRTY marks (R61, R179); assumption 7. -/
opaque classByte : Nat → Nat

/-- Chunk buffers of its channel that a chunk step takes, less one, by algorithm (R165); assumption 55. -/
opaque chunkNeed : Nat → Nat

/-- Whether a scrub or self-test of a core finds a fault that does not clear (R367, R419); assumption 9. -/
opaque scrubFails : Nat → Nat → Bool

/-- Whether the host completes a host-tier load with status UR or CA (R389); assumption 10. -/
opaque hostRefuses : Nat → Bool

end Sys2Proof.Config
end

