-- ==== Sys2Proof/Machine/View.lean ====
section
/-! DEFINITION. The opcode map (R206 to R212): for each slot instruction its slot class, its opcode and its operand
form, and for each opcode its instruction. The E operand bits of R297 stand here too. -/

namespace Sys2Proof

/-- An instruction as its slot word shows it: class and form, opcode, operands. For an E instruction pay holds the
operand bits [55:0] (R297). -/
inductive View where
  | sReg (op : Nat) (o : SReg)
  | sImm (op : Nat) (o : SImm)
  | bOff (op : Nat) (o : BOff)
  | bPred (op : Nat) (o : BPred)
  | v (op : Nat) (o : VOps)
  | m (op : Nat) (o : MOps)
  | p (op : Nat) (o : POps)
  | e (op : Nat) (pay : Nat)
  | event
  deriving DecidableEq, Repr

/-! The operand bits of each E layout (R297): packing and reading them. -/

/-- n bits of w from bit lo. -/
def fld (w lo n : Nat) : BitVec n := BitVec.ofNat n (w / 2 ^ lo)

def EFmt.pay (o : EFmt) : Nat := o.atype.toNat * 2 ^ 4 + o.btype.toNat * 2 ^ 1 + o.acc.toNat

def EFmt.ofPay (w : Nat) : EFmt :=
  { atype := fld w 4 3, btype := fld w 1 3, acc := fld w 0 1 }

def EMma.pay (o : EMma) : Nat := o.n.toNat * 2 ^ 20 + o.tile.toNat * 2 ^ 16 + o.oA.toNat * 2 ^ 10 + o.oB.toNat * 2 ^ 4 + o.tA.toNat * 2 ^ 1 + o.tB.toNat

def EMma.ofPay (w : Nat) : EMma :=
  { n := fld w 20 5, tile := fld w 16 4, oA := fld w 10 6, oB := fld w 4 6, tA := fld w 1 1, tB := fld w 0 1 }

def EMask.pay (o : EMask) : Nat := o.mask.toNat

def EMask.ofPay (w : Nat) : EMask :=
  { mask := fld w 0 16 }

def ESlots.pay (o : ESlots) : Nat := o.xd.toNat * 2 ^ 51 + o.first.toNat * 2 ^ 10 + o.count.toNat

def ESlots.ofPay (w : Nat) : ESlots :=
  { xd := fld w 51 5, first := fld w 10 6, count := fld w 0 6 }

def EOfill.pay (o : EOfill) : Nat := o.xB.toNat * 2 ^ 51 + o.xS.toNat * 2 ^ 46 + o.ety.toNat * 2 ^ 43 + o.off.toNat * 2 ^ 16 + o.slot.toNat * 2 ^ 10

def EOfill.ofPay (w : Nat) : EOfill :=
  { xB := fld w 51 5, xS := fld w 46 5, ety := fld w 43 3, off := fld w 16 24, slot := fld w 10 6 }

def EOfillv.pay (o : EOfillv) : Nat := o.ety.toNat * 2 ^ 43 + o.vec.toNat * 2 ^ 16 + o.slot.toNat * 2 ^ 10

def EOfillv.ofPay (w : Nat) : EOfillv :=
  { ety := fld w 43 3, vec := fld w 16 10, slot := fld w 10 6 }

def EAddr.pay (o : EAddr) : Nat := o.xB.toNat * 2 ^ 51 + o.off.toNat * 2 ^ 16

def EAddr.ofPay (w : Nat) : EAddr :=
  { xB := fld w 51 5, off := fld w 16 24 }

def ECset.pay (o : ECset) : Nat := o.xa.toNat * 2 ^ 51 + o.field.toNat

def ECset.ofPay (w : Nat) : ECset :=
  { xa := fld w 51 5, field := fld w 0 6 }

def ECpy.pay (o : ECpy) : Nat := o.xD.toNat * 2 ^ 51 + o.xS.toNat * 2 ^ 46 + o.xN.toNat * 2 ^ 41 + o.pe.toNat * 2 ^ 40 + o.flag.toNat * 2 ^ 35 + o.fcore.toNat * 2 ^ 30 + o.postn.toNat * 2 ^ 14

def ECpy.ofPay (w : Nat) : ECpy :=
  { xD := fld w 51 5, xS := fld w 46 5, xN := fld w 41 5, pe := fld w 40 1, flag := fld w 35 5, fcore := fld w 30 5, postn := fld w 14 16 }

def ETag.pay (o : ETag) : Nat := o.tag.toNat

def ETag.ofPay (w : Nat) : ETag :=
  { tag := fld w 0 16 }

def ECollq.pay (o : ECollq) : Nat := o.xd.toNat * 2 ^ 51 + o.comm.toNat

def ECollq.ofPay (w : Nat) : ECollq :=
  { xd := fld w 51 5, comm := fld w 0 8 }

def ERtadd.pay (o : ERtadd) : Nat := o.xB.toNat * 2 ^ 51 + o.xL.toNat * 2 ^ 46 + o.mode.toNat * 2 ^ 44 + o.tag.toNat

def ERtadd.ofPay (w : Nat) : ERtadd :=
  { xB := fld w 51 5, xL := fld w 46 5, mode := fld w 44 2, tag := fld w 0 16 }

def ESpawn.pay (o : ESpawn) : Nat := o.xT.toNat * 2 ^ 51 + o.live.toNat

def ESpawn.ofPay (w : Nat) : ESpawn :=
  { xT := fld w 51 5, live := fld w 0 32 }

def ESpawnp.pay (o : ESpawnp) : Nat := o.xT.toNat * 2 ^ 51 + o.xP.toNat * 2 ^ 46 + o.xd.toNat * 2 ^ 41 + o.live.toNat

def ESpawnp.ofPay (w : Nat) : ESpawnp :=
  { xT := fld w 51 5, xP := fld w 46 5, xd := fld w 41 5, live := fld w 0 32 }

def EPark.pay (o : EPark) : Nat := o.xW.toNat * 2 ^ 46 + o.wkind.toNat * 2 ^ 32 + o.live.toNat

def EPark.ofPay (w : Nat) : EPark :=
  { xW := fld w 46 5, wkind := fld w 32 2, live := fld w 0 32 }

def ESteal.pay (o : ESteal) : Nat := o.xd.toNat * 2 ^ 51 + o.xP.toNat * 2 ^ 46

def ESteal.ofPay (w : Nat) : ESteal :=
  { xd := fld w 51 5, xP := fld w 46 5 }

def EPoolinit.pay (o : EPoolinit) : Nat := o.xD.toNat * 2 ^ 51 + o.xA.toNat * 2 ^ 46 + o.xS.toNat * 2 ^ 41 + o.xW.toNat * 2 ^ 36

def EPoolinit.ofPay (w : Nat) : EPoolinit :=
  { xD := fld w 51 5, xA := fld w 46 5, xS := fld w 41 5, xW := fld w 36 5 }

def EPush.pay (o : EPush) : Nat := o.xd.toNat * 2 ^ 51 + o.xP.toNat * 2 ^ 46 + o.xE.toNat * 2 ^ 41

def EPush.ofPay (w : Nat) : EPush :=
  { xd := fld w 51 5, xP := fld w 46 5, xE := fld w 41 5 }

def EPop.pay (o : EPop) : Nat := o.xd.toNat * 2 ^ 51 + o.xP.toNat * 2 ^ 46 + o.xE.toNat * 2 ^ 41 + o.tag.toNat * 2 ^ 24

def EPop.ofPay (w : Nat) : EPop :=
  { xd := fld w 51 5, xP := fld w 46 5, xE := fld w 41 5, tag := fld w 24 16 }

def EPtr.pay (o : EPtr) : Nat := o.xP.toNat * 2 ^ 46

def EPtr.ofPay (w : Nat) : EPtr :=
  { xP := fld w 46 5 }

def ETlb.pay (o : ETlb) : Nat := o.xA.toNat * 2 ^ 51 + o.xN.toNat * 2 ^ 46

def ETlb.ofPay (w : Nat) : ETlb :=
  { xA := fld w 51 5, xN := fld w 46 5 }

def EReg.pay (o : EReg) : Nat := o.xA.toNat * 2 ^ 51

def EReg.ofPay (w : Nat) : EReg :=
  { xA := fld w 51 5 }

def ENote.pay (o : ENote) : Nat := o.xa.toNat * 2 ^ 51 + o.code.toNat

def ENote.ofPay (w : Nat) : ENote :=
  { xa := fld w 51 5, code := fld w 0 16 }

/-- The instruction as its word shows it; the machine's own events have no word. -/
def Instr.view : Instr → View
  | .add o => .sReg 0x00 o
  | .sub o => .sReg 0x01 o
  | .and o => .sReg 0x02 o
  | .or o => .sReg 0x03 o
  | .xor o => .sReg 0x04 o
  | .andn o => .sReg 0x05 o
  | .shl o => .sReg 0x06 o
  | .shr o => .sReg 0x07 o
  | .sha o => .sReg 0x08 o
  | .rol o => .sReg 0x09 o
  | .mul o => .sReg 0x0A o
  | .mulh o => .sReg 0x0B o
  | .mulhz o => .sReg 0x0C o
  | .div o => .sReg 0x0D o
  | .divz o => .sReg 0x0E o
  | .rem o => .sReg 0x0F o
  | .remz o => .sReg 0x10 o
  | .min o => .sReg 0x11 o
  | .max o => .sReg 0x12 o
  | .minz o => .sReg 0x13 o
  | .maxz o => .sReg 0x14 o
  | .adds o => .sReg 0x15 o
  | .subs o => .sReg 0x16 o
  | .clz o => .sReg 0x17 o
  | .ctz o => .sReg 0x18 o
  | .popc o => .sReg 0x19 o
  | .sext o => .sReg 0x1A o
  | .zext o => .sReg 0x1B o
  | .bfx o => .sReg 0x1C o
  | .bfxz o => .sReg 0x1D o
  | .bfi o => .sReg 0x1E o
  | .mov o => .sReg 0x1F o
  | .addi o => .sImm 0x40 o
  | .andi o => .sImm 0x41 o
  | .ori o => .sImm 0x42 o
  | .xori o => .sImm 0x43 o
  | .shli o => .sImm 0x44 o
  | .shri o => .sImm 0x45 o
  | .shai o => .sImm 0x46 o
  | .roli o => .sImm 0x47 o
  | .muli o => .sImm 0x48 o
  | .mini o => .sImm 0x49 o
  | .maxi o => .sImm 0x4A o
  | .movi o => .sImm 0x4B o
  | .lih o => .sImm 0x4C o
  | .movw o => .sImm 0x80 o
  | .movd o => .sImm 0x81 o
  | .addw o => .sImm 0x82 o
  | .csrr o => .sImm 0xA0 o
  | .csrw o => .sImm 0xA1 o
  | .csrs o => .sImm 0xA2 o
  | .csrc o => .sImm 0xA3 o
  | .eset o => .sReg 0xB0 o
  | .eget o => .sReg 0xB1 o
  | .ecens o => .sReg 0xB2 o
  | .eadd o => .sReg 0xB3 o
  | .ecopy o => .sReg 0xB4 o
  | .br o => .bOff 0x00 o
  | .brl o => .bOff 0x01 o
  | .jr o => .bPred 0x02 o
  | .jrl o => .bPred 0x03 o
  | .loop o => .bOff 0x04 o
  | .cmpeq o => .bPred 0x05 o
  | .cmpne o => .bPred 0x06 o
  | .cmplt o => .bPred 0x07 o
  | .cmple o => .bPred 0x08 o
  | .cmpltz o => .bPred 0x09 o
  | .cmplez o => .bPred 0x0A o
  | .cmpeqi o => .bPred 0x0B o
  | .cmpnei o => .bPred 0x0C o
  | .cmplti o => .bPred 0x0D o
  | .cmplei o => .bPred 0x0E o
  | .pand o => .bPred 0x0F o
  | .por o => .bPred 0x10 o
  | .pxor o => .bPred 0x11 o
  | .pandn o => .bPred 0x12 o
  | .pmov o => .bPred 0x13 o
  | .trap o => .bPred 0x14 o
  | .svc o => .bPred 0x15 o
  | .brk o => .bPred 0x16 o
  | .eret o => .bOff 0x17 o
  | .endTask o => .bOff 0x18 o
  | .yield o => .bOff 0x19 o
  | .idle o => .bOff 0x1A o
  | .vnop o => .v 0x00 o
  | .vmov o => .v 0x01 o
  | .vadd o => .v 0x02 o
  | .vsub o => .v 0x03 o
  | .vadds o => .v 0x04 o
  | .vsubs o => .v 0x05 o
  | .vneg o => .v 0x06 o
  | .vabs o => .v 0x07 o
  | .vmul o => .v 0x08 o
  | .vmulh o => .v 0x09 o
  | .vmulq o => .v 0x0A o
  | .vmac o => .v 0x0B o
  | .vmacs o => .v 0x0C o
  | .vmin o => .v 0x0D o
  | .vmax o => .v 0x0E o
  | .vavg o => .v 0x0F o
  | .vabsd o => .v 0x10 o
  | .vdiv o => .v 0x11 o
  | .vshl o => .v 0x40 o
  | .vshr o => .v 0x41 o
  | .vsha o => .v 0x42 o
  | .vshrr o => .v 0x43 o
  | .vshrs o => .v 0x44 o
  | .vshls o => .v 0x45 o
  | .vnorm o => .v 0x46 o
  | .vcens o => .v 0x47 o
  | .vand o => .v 0x60 o
  | .vor o => .v 0x61 o
  | .vxor o => .v 0x62 o
  | .vandn o => .v 0x63 o
  | .vnot o => .v 0x64 o
  | .vcmpeq o => .v 0x65 o
  | .vcmpne o => .v 0x66 o
  | .vcmplt o => .v 0x67 o
  | .vcmple o => .v 0x68 o
  | .vsel o => .v 0x69 o
  | .vclamp o => .v 0x6A o
  | .vpopc o => .v 0x6B o
  | .vclz o => .v 0x6C o
  | .vsplat o => .v 0x80 o
  | .viota o => .v 0x81 o
  | .vins o => .v 0x82 o
  | .vext o => .v 0x83 o
  | .vperm o => .v 0x84 o
  | .vslide o => .v 0x85 o
  | .vzip o => .v 0x86 o
  | .vunzip o => .v 0x87 o
  | .vredadd o => .v 0x88 o
  | .vredmax o => .v 0x89 o
  | .vredmin o => .v 0x8A o
  | .vscan o => .v 0x8B o
  | .vmcount o => .v 0x8C o
  | .vexp2q o => .v 0xA0 o
  | .vlog2q o => .v 0xA1 o
  | .vrcpq o => .v 0xA2 o
  | .vrsqq o => .v 0xA3 o
  | .vdivq o => .v 0xA4 o
  | .vhash o => .v 0xA5 o
  | .vmix o => .v 0xA6 o
  | .vsegsum o => .v 0xA7 o
  | .vmapscat o => .v 0xA8 o
  | .vmapcnt o => .v 0xA9 o
  | .vmapcntFirst o => .v 0xA9 o
  | .vcvt o => .v 0xC0 o
  | .vpack o => .v 0xC1 o
  | .vunpk o => .v 0xC2 o
  | .vquant o => .v 0xC3 o
  | .ldx o => .m 0x00 o
  | .ldv o => .m 0x01 o
  | .ldvs o => .m 0x02 o
  | .ldvb o => .m 0x03 o
  | .stx o => .m 0x20 o
  | .stv o => .m 0x21 o
  | .stvs o => .m 0x22 o
  | .stvm o => .m 0x23 o
  | .aadd o => .m 0x40 o
  | .aadds o => .m 0x41 o
  | .amin o => .m 0x42 o
  | .amax o => .m 0x43 o
  | .aand o => .m 0x44 o
  | .aor o => .m 0x45 o
  | .axor o => .m 0x46 o
  | .aswp o => .m 0x47 o
  | .acas o => .m 0x48 o
  | .fence o => .m 0x60 o
  | .qfence o => .m 0x61 o
  | .rwait o => .m 0x62 o
  | .gwinit o => .m 0x63 o
  | .gwwait o => .m 0x64 o
  | .fset o => .m 0x65 o
  | .fget o => .m 0x66 o
  | .fadd o => .m 0x67 o
  | .enqV o => .m 0x80 o
  | .enqX o => .m 0x80 o
  | .deqV o => .m 0x81 o
  | .deqX o => .m 0x81 o
  | .rinit o => .m 0x82 o
  | .rclose o => .m 0x83 o
  | .bjoin o => .m 0x84 o
  | .barr o => .m 0x85 o
  | .bwait o => .m 0x86 o
  | .bdrop o => .m 0x87 o
  | .ard o => .p 0x00 o
  | .ardw o => .p 0x01 o
  | .ardh o => .p 0x02 o
  | .awr o => .p 0x03 o
  | .aaddv o => .p 0x04 o
  | .azero o => .p 0x05 o
  | .arq o => .p 0x06 o
  | .acens o => .p 0x07 o
  | .mfmt o => .e 0x00 (o.pay)
  | .mma o => .e 0x01 (o.pay)
  | .mchain o => .e 0x02 (o.pay)
  | .mseal o => .e 0x03 (o.pay)
  | .mzero o => .e 0x04 (o.pay)
  | .oclaim o => .e 0x05 (o.pay)
  | .orelease o => .e 0x06 (o.pay)
  | .ofill o => .e 0x07 (o.pay)
  | .ofillv o => .e 0x08 (o.pay)
  | .ttask o => .e 0x20 (o.pay)
  | .tdep o => .e 0x21 (o.pay)
  | .cset o => .e 0x30 (o.pay)
  | .cgo => .e 0x31 0
  | .cpy o => .e 0x32 (o.pay)
  | .carm => .e 0x33 0
  | .ccancel o => .e 0x34 (o.pay)
  | .coll o => .e 0x40 (o.pay)
  | .collq o => .e 0x41 (o.pay)
  | .rtadd o => .e 0x42 (o.pay)
  | .rtdel o => .e 0x43 (o.pay)
  | .spawn o => .e 0x50 (o.pay)
  | .spawnp o => .e 0x51 (o.pay)
  | .park o => .e 0x52 (o.pay)
  | .steal o => .e 0x53 (o.pay)
  | .poolinit o => .e 0x54 (o.pay)
  | .poolpushReg o => .e 0x55 (o.pay)
  | .poolpushMem o => .e 0x55 (o.pay + 2 ^ 40)
  | .poolpopReg o => .e 0x56 (o.pay)
  | .poolpopMem o => .e 0x56 (o.pay + 2 ^ 40)
  | .poolpopwReg o => .e 0x57 (o.pay)
  | .poolpopwMem o => .e 0x57 (o.pay + 2 ^ 40)
  | .poolfence o => .e 0x58 (o.pay)
  | .tlbinv o => .e 0x60 (o.pay)
  | .ctxsave o => .e 0x61 (o.pay)
  | .ctxload o => .e 0x62 (o.pay)
  | .note o => .e 0x63 (o.pay)
  | .hostRegisterWrite _ _ => .event
  | .cfgerrClear _ => .event
  | .qctlEnable _ _ => .event
  | .qctlDisable _ _ => .event
  | .qtailDoorbell _ _ => .event
  | .packetFetch _ => .event
  | .dispatchRound => .event
  | .deadlineExpiry _ => .event
  | .crewSave _ => .event
  | .saveRetry _ => .event
  | .crewRestore _ => .event
  | .taskSchedulerRound _ => .event
  | .taskStart _ => .event
  | .strandSwitch _ => .event
  | .bundleDecode => .event
  | .headerSyncWait => .event
  | .headerSyncPost => .event
  | .asyncTrapDelivery _ => .event
  | .loadDataArrival _ _ => .event
  | .failedLaunchRelease _ => .event
  | .abortGraceExpiry _ => .event
  | .coreScrub _ => .event
  | .storePerform _ _ _ => .event
  | .pageWalk _ => .event
  | .remoteAtomic _ => .event
  | .bankRetentionEntry _ _ => .event
  | .tieringEpoch => .event
  | .granuleMoveComplete _ => .event
  | .kStepExecute _ => .event
  | .ofillExecute _ => .event
  | .msealRetirement _ => .event
  | .mzeroExecute _ => .event
  | .oreleaseExecute _ => .event
  | .formeIssue _ => .event
  | .formeCompletion _ => .event
  | .dependenceDecrement _ => .event
  | .copyStart _ => .event
  | .copyWriteLanded _ => .event
  | .copyCompletion _ => .event
  | .copyAbort _ => .event
  | .collAccept _ => .event
  | .collCheckStep _ => .event
  | .collChunkStep => .event
  | .collCompletion _ => .event
  | .collAbandonMessage _ _ => .event
  | .collHoldMessage _ _ => .event
  | .collReleaseMessage _ _ => .event
  | .collTimerExpiry _ => .event
  | .poolSwitchArrival _ => .event
  | .poolHoldExpiry _ => .event
  | .pairsIncrement _ => .event
  | .poolHomeArrival _ => .event
  | .poolAnswerArrival _ => .event
  | .launchCompletionRecord _ => .event
  | .functionReady _ => .event
  | .functionLoss _ => .event
  | .packageReset => .event
  | .criticalTemperatureReset => .event
  | .islandThrottle _ => .event
  | .islandStop _ => .event
  | .islandResume _ => .event
  | .linkFlitError _ => .event
  | .portRetrainTimeout _ => .event
  | .portTrained _ => .event
  | .pcieLinkLoss => .event
  | .portRetraining _ => .event
  | .pcieLinkUp => .event
  | .tlbinvCompletion _ => .event

/-- The S instructions in register form (R207). -/
def sRegOf (op : Nat) (o : SReg) : Option Instr :=
  match op with
  | 0x00 => some (.add o)
  | 0x01 => some (.sub o)
  | 0x02 => some (.and o)
  | 0x03 => some (.or o)
  | 0x04 => some (.xor o)
  | 0x05 => some (.andn o)
  | 0x06 => some (.shl o)
  | 0x07 => some (.shr o)
  | 0x08 => some (.sha o)
  | 0x09 => some (.rol o)
  | 0x0A => some (.mul o)
  | 0x0B => some (.mulh o)
  | 0x0C => some (.mulhz o)
  | 0x0D => some (.div o)
  | 0x0E => some (.divz o)
  | 0x0F => some (.rem o)
  | 0x10 => some (.remz o)
  | 0x11 => some (.min o)
  | 0x12 => some (.max o)
  | 0x13 => some (.minz o)
  | 0x14 => some (.maxz o)
  | 0x15 => some (.adds o)
  | 0x16 => some (.subs o)
  | 0x17 => some (.clz o)
  | 0x18 => some (.ctz o)
  | 0x19 => some (.popc o)
  | 0x1A => some (.sext o)
  | 0x1B => some (.zext o)
  | 0x1C => some (.bfx o)
  | 0x1D => some (.bfxz o)
  | 0x1E => some (.bfi o)
  | 0x1F => some (.mov o)
  | 0xB0 => some (.eset o)
  | 0xB1 => some (.eget o)
  | 0xB2 => some (.ecens o)
  | 0xB3 => some (.eadd o)
  | 0xB4 => some (.ecopy o)
  | _ => none

/-- The S instructions in immediate form (R207). -/
def sImmOf (op : Nat) (o : SImm) : Option Instr :=
  match op with
  | 0x40 => some (.addi o)
  | 0x41 => some (.andi o)
  | 0x42 => some (.ori o)
  | 0x43 => some (.xori o)
  | 0x44 => some (.shli o)
  | 0x45 => some (.shri o)
  | 0x46 => some (.shai o)
  | 0x47 => some (.roli o)
  | 0x48 => some (.muli o)
  | 0x49 => some (.mini o)
  | 0x4A => some (.maxi o)
  | 0x4B => some (.movi o)
  | 0x4C => some (.lih o)
  | 0x80 => some (.movw o)
  | 0x81 => some (.movd o)
  | 0x82 => some (.addw o)
  | 0xA0 => some (.csrr o)
  | 0xA1 => some (.csrw o)
  | 0xA2 => some (.csrs o)
  | 0xA3 => some (.csrc o)
  | _ => none

/-- The B instructions in offset form (R208). -/
def bOffOf (op : Nat) (o : BOff) : Option Instr :=
  match op with
  | 0x00 => some (.br o)
  | 0x01 => some (.brl o)
  | 0x04 => some (.loop o)
  | 0x17 => some (.eret o)
  | 0x18 => some (.endTask o)
  | 0x19 => some (.yield o)
  | 0x1A => some (.idle o)
  | _ => none

/-- The B instructions in predicate form (R208). -/
def bPredOf (op : Nat) (o : BPred) : Option Instr :=
  match op with
  | 0x02 => some (.jr o)
  | 0x03 => some (.jrl o)
  | 0x05 => some (.cmpeq o)
  | 0x06 => some (.cmpne o)
  | 0x07 => some (.cmplt o)
  | 0x08 => some (.cmple o)
  | 0x09 => some (.cmpltz o)
  | 0x0A => some (.cmplez o)
  | 0x0B => some (.cmpeqi o)
  | 0x0C => some (.cmpnei o)
  | 0x0D => some (.cmplti o)
  | 0x0E => some (.cmplei o)
  | 0x0F => some (.pand o)
  | 0x10 => some (.por o)
  | 0x11 => some (.pxor o)
  | 0x12 => some (.pandn o)
  | 0x13 => some (.pmov o)
  | 0x14 => some (.trap o)
  | 0x15 => some (.svc o)
  | 0x16 => some (.brk o)
  | _ => none

/-- The V instructions (R209); VMAPCNT has its two forms by e[4] (R265). -/
def vOf (op : Nat) (o : VOps) : Option Instr :=
  match op with
  | 0x00 => some (.vnop o)
  | 0x01 => some (.vmov o)
  | 0x02 => some (.vadd o)
  | 0x03 => some (.vsub o)
  | 0x04 => some (.vadds o)
  | 0x05 => some (.vsubs o)
  | 0x06 => some (.vneg o)
  | 0x07 => some (.vabs o)
  | 0x08 => some (.vmul o)
  | 0x09 => some (.vmulh o)
  | 0x0A => some (.vmulq o)
  | 0x0B => some (.vmac o)
  | 0x0C => some (.vmacs o)
  | 0x0D => some (.vmin o)
  | 0x0E => some (.vmax o)
  | 0x0F => some (.vavg o)
  | 0x10 => some (.vabsd o)
  | 0x11 => some (.vdiv o)
  | 0x40 => some (.vshl o)
  | 0x41 => some (.vshr o)
  | 0x42 => some (.vsha o)
  | 0x43 => some (.vshrr o)
  | 0x44 => some (.vshrs o)
  | 0x45 => some (.vshls o)
  | 0x46 => some (.vnorm o)
  | 0x47 => some (.vcens o)
  | 0x60 => some (.vand o)
  | 0x61 => some (.vor o)
  | 0x62 => some (.vxor o)
  | 0x63 => some (.vandn o)
  | 0x64 => some (.vnot o)
  | 0x65 => some (.vcmpeq o)
  | 0x66 => some (.vcmpne o)
  | 0x67 => some (.vcmplt o)
  | 0x68 => some (.vcmple o)
  | 0x69 => some (.vsel o)
  | 0x6A => some (.vclamp o)
  | 0x6B => some (.vpopc o)
  | 0x6C => some (.vclz o)
  | 0x80 => some (.vsplat o)
  | 0x81 => some (.viota o)
  | 0x82 => some (.vins o)
  | 0x83 => some (.vext o)
  | 0x84 => some (.vperm o)
  | 0x85 => some (.vslide o)
  | 0x86 => some (.vzip o)
  | 0x87 => some (.vunzip o)
  | 0x88 => some (.vredadd o)
  | 0x89 => some (.vredmax o)
  | 0x8A => some (.vredmin o)
  | 0x8B => some (.vscan o)
  | 0x8C => some (.vmcount o)
  | 0xA0 => some (.vexp2q o)
  | 0xA1 => some (.vlog2q o)
  | 0xA2 => some (.vrcpq o)
  | 0xA3 => some (.vrsqq o)
  | 0xA4 => some (.vdivq o)
  | 0xA5 => some (.vhash o)
  | 0xA6 => some (.vmix o)
  | 0xA7 => some (.vsegsum o)
  | 0xA8 => some (.vmapscat o)
  | 0xA9 => some (if o.e.getLsbD 4 then .vmapcntFirst o else .vmapcnt o)
  | 0xC0 => some (.vcvt o)
  | 0xC1 => some (.vpack o)
  | 0xC2 => some (.vunpk o)
  | 0xC3 => some (.vquant o)
  | _ => none

/-- The M instructions (R210); ENQ and DEQ have their two forms by type (R285). -/
def mOf (op : Nat) (o : MOps) : Option Instr :=
  match op with
  | 0x00 => some (.ldx o)
  | 0x01 => some (.ldv o)
  | 0x02 => some (.ldvs o)
  | 0x03 => some (.ldvb o)
  | 0x20 => some (.stx o)
  | 0x21 => some (.stv o)
  | 0x22 => some (.stvs o)
  | 0x23 => some (.stvm o)
  | 0x40 => some (.aadd o)
  | 0x41 => some (.aadds o)
  | 0x42 => some (.amin o)
  | 0x43 => some (.amax o)
  | 0x44 => some (.aand o)
  | 0x45 => some (.aor o)
  | 0x46 => some (.axor o)
  | 0x47 => some (.aswp o)
  | 0x48 => some (.acas o)
  | 0x60 => some (.fence o)
  | 0x61 => some (.qfence o)
  | 0x62 => some (.rwait o)
  | 0x63 => some (.gwinit o)
  | 0x64 => some (.gwwait o)
  | 0x65 => some (.fset o)
  | 0x66 => some (.fget o)
  | 0x67 => some (.fadd o)
  | 0x80 => some (if o.ty = 1#3 then .enqX o else .enqV o)
  | 0x81 => some (if o.ty = 1#3 then .deqX o else .deqV o)
  | 0x82 => some (.rinit o)
  | 0x83 => some (.rclose o)
  | 0x84 => some (.bjoin o)
  | 0x85 => some (.barr o)
  | 0x86 => some (.bwait o)
  | 0x87 => some (.bdrop o)
  | _ => none

/-- The P instructions (R211). -/
def pOf (op : Nat) (o : POps) : Option Instr :=
  match op with
  | 0x00 => some (.ard o)
  | 0x01 => some (.ardw o)
  | 0x02 => some (.ardh o)
  | 0x03 => some (.awr o)
  | 0x04 => some (.aaddv o)
  | 0x05 => some (.azero o)
  | 0x06 => some (.arq o)
  | 0x07 => some (.acens o)
  | _ => none

/-- The E instructions (R212), from the operand bits; the pool operations have their two forms by bit 40 (R297). -/
def eOf (op w : Nat) : Option Instr :=
  match op with
  | 0x00 => some (.mfmt (.ofPay w))
  | 0x01 => some (.mma (.ofPay w))
  | 0x02 => some (.mchain (.ofPay w))
  | 0x03 => some (.mseal (.ofPay w))
  | 0x04 => some (.mzero (.ofPay w))
  | 0x05 => some (.oclaim (.ofPay w))
  | 0x06 => some (.orelease (.ofPay w))
  | 0x07 => some (.ofill (.ofPay w))
  | 0x08 => some (.ofillv (.ofPay w))
  | 0x20 => some (.ttask (.ofPay w))
  | 0x21 => some (.tdep (.ofPay w))
  | 0x30 => some (.cset (.ofPay w))
  | 0x31 => some .cgo
  | 0x32 => some (.cpy (.ofPay w))
  | 0x33 => some .carm
  | 0x34 => some (.ccancel (.ofPay w))
  | 0x40 => some (.coll (.ofPay w))
  | 0x41 => some (.collq (.ofPay w))
  | 0x42 => some (.rtadd (.ofPay w))
  | 0x43 => some (.rtdel (.ofPay w))
  | 0x50 => some (.spawn (.ofPay w))
  | 0x51 => some (.spawnp (.ofPay w))
  | 0x52 => some (.park (.ofPay w))
  | 0x53 => some (.steal (.ofPay w))
  | 0x54 => some (.poolinit (.ofPay w))
  | 0x55 => some (if w.testBit 40 then .poolpushMem (.ofPay w) else .poolpushReg (.ofPay w))
  | 0x56 => some (if w.testBit 40 then .poolpopMem (.ofPay w) else .poolpopReg (.ofPay w))
  | 0x57 => some (if w.testBit 40 then .poolpopwMem (.ofPay w) else .poolpopwReg (.ofPay w))
  | 0x58 => some (.poolfence (.ofPay w))
  | 0x60 => some (.tlbinv (.ofPay w))
  | 0x61 => some (.ctxsave (.ofPay w))
  | 0x62 => some (.ctxload (.ofPay w))
  | 0x63 => some (.note (.ofPay w))
  | _ => none

end Sys2Proof
end

