-- ==== Sys2Proof/Decode.lean ====
section
/-! DEFINITION. Slot words and instructions (R185, R197 to R203, R206 to R212): decoding a word of a slot class,
total on every word and refusing a reserved opcode by name, and encoding. -/

namespace Sys2Proof

/-- Why a word is no instruction of its slot class. -/
inductive Reject where
  /-- The opcode is reserved in R207 to R212; the bundle that holds it is illegal (R205). -/
  | reservedOpcode (c : SlotClass) (op : Nat)
  deriving DecidableEq, Repr

/-- The fields of a SReg word below its opcode. -/
def SReg.bitsOf (o : SReg) : Nat := o.d.toNat * 2 ^ 19 + o.nw.toNat * 2 ^ 18 + o.a.toNat * 2 ^ 13 + o.la.toNat * 2 ^ 12 + o.lb.toNat * 2 ^ 11 + o.b.toNat * 2 ^ 6 + o.sub.toNat

def SReg.ofWord (w : Nat) : SReg :=
  { d := fld w 19 5, nw := fld w 18 1, a := fld w 13 5, la := fld w 12 1, lb := fld w 11 1, b := fld w 6 5, sub := fld w 0 6 }

/-- The fields of a SImm word below its opcode. -/
def SImm.bitsOf (o : SImm) : Nat := o.d.toNat * 2 ^ 19 + o.nw.toNat * 2 ^ 18 + o.a.toNat * 2 ^ 13 + o.la.toNat * 2 ^ 12 + o.imm.toNat

def SImm.ofWord (w : Nat) : SImm :=
  { d := fld w 19 5, nw := fld w 18 1, a := fld w 13 5, la := fld w 12 1, imm := fld w 0 12 }

/-- The fields of a BOff word below its opcode. -/
def BOff.bitsOf (o : BOff) : Nat := o.g.toNat * 2 ^ 23 + o.gn.toNat * 2 ^ 22 + o.off.toNat

def BOff.ofWord (w : Nat) : BOff :=
  { g := fld w 23 3, gn := fld w 22 1, off := fld w 0 22 }

/-- The fields of a BPred word below its opcode. -/
def BPred.bitsOf (o : BPred) : Nat := o.g.toNat * 2 ^ 23 + o.gn.toNat * 2 ^ 22 + o.pd.toNat * 2 ^ 19 + o.a.toNat * 2 ^ 14 + o.b.toNat * 2 ^ 9 + o.imm.toNat

def BPred.ofWord (w : Nat) : BPred :=
  { g := fld w 23 3, gn := fld w 22 1, pd := fld w 19 3, a := fld w 14 5, b := fld w 9 5, imm := fld w 0 9 }

/-- The fields of a VOps word below its opcode. -/
def VOps.bitsOf (o : VOps) : Nat := o.ty.toNat * 2 ^ 53 + o.mask.toNat * 2 ^ 50 + o.d.toNat * 2 ^ 40 + o.nw.toNat * 2 ^ 39 + o.a.toNat * 2 ^ 29 + o.b.toNat * 2 ^ 19 + o.c.toNat * 2 ^ 9 + o.step.toNat * 2 ^ 6 + o.k.toNat * 2 ^ 5 + o.e.toNat

def VOps.ofWord (w : Nat) : VOps :=
  { ty := fld w 53 3, mask := fld w 50 3, d := fld w 40 10, nw := fld w 39 1, a := fld w 29 10, b := fld w 19 10, c := fld w 9 10, step := fld w 6 3, k := fld w 5 1, e := fld w 0 5 }

/-- The fields of a MOps word below its opcode. -/
def MOps.bitsOf (o : MOps) : Nat := o.ty.toNat * 2 ^ 53 + o.mask.toNat * 2 ^ 50 + o.data.toNat * 2 ^ 40 + o.nw.toNat * 2 ^ 39 + o.base.toNat * 2 ^ 34 + o.ix.toNat * 2 ^ 29 + o.order.toNat * 2 ^ 27 + o.scope.toNat * 2 ^ 24 + o.update.toNat * 2 ^ 22 + o.offset.toNat

def MOps.ofWord (w : Nat) : MOps :=
  { ty := fld w 53 3, mask := fld w 50 3, data := fld w 40 10, nw := fld w 39 1, base := fld w 34 5, ix := fld w 29 5, order := fld w 27 2, scope := fld w 24 3, update := fld w 22 2, offset := fld w 0 22 }

/-- The fields of a POps word below its opcode. -/
def POps.bitsOf (o : POps) : Nat := o.tile.toNat * 2 ^ 23 + o.row.toNat * 2 ^ 19 + o.vec.toNat * 2 ^ 9 + o.nw.toNat * 2 ^ 8 + o.dm.toNat * 2 ^ 4 + o.step.toNat * 2 ^ 3 + o.sub.toNat

def POps.ofWord (w : Nat) : POps :=
  { tile := fld w 23 4, row := fld w 19 4, vec := fld w 9 10, nw := fld w 8 1, dm := fld w 4 4, step := fld w 3 1, sub := fld w 0 3 }

/-- The opcode of a word of class c (R197 to R203). -/
def opcode (c : SlotClass) (w : Nat) : Nat :=
  match c with
  | .S => w / 2 ^ 24 % 2 ^ 8
  | .B => w / 2 ^ 26 % 2 ^ 6
  | .V0 | .V1 | .M | .E => w / 2 ^ 56 % 2 ^ 8
  | .P0 | .P1 => w / 2 ^ 27 % 2 ^ 5

/-- The instruction of a word, none for a reserved opcode. -/
def decode? (c : SlotClass) (w : Nat) : Option Instr :=
  let op := opcode c w
  match c with
  | .S => (sRegOf op (.ofWord w)).or (sImmOf op (.ofWord w))
  | .B => (bOffOf op (.ofWord w)).or (bPredOf op (.ofWord w))
  | .V0 | .V1 => vOf op (.ofWord w)
  | .M => mOf op (.ofWord w)
  | .P0 | .P1 => pOf op (.ofWord w)
  | .E => eOf op (w % 2 ^ 56)

/-- Decoding, total: a reserved opcode is refused by name. -/
def decodeWord (c : SlotClass) (w : Nat) : Except Reject Instr :=
  match decode? c w with
  | some i => .ok i
  | none => .error (.reservedOpcode c (opcode c w))

/-- The size in bits of a slot word (R185). -/
def SlotClass.size : SlotClass → Nat
  | .S | .B | .P0 | .P1 => 32
  | .V0 | .V1 | .M | .E => 64

/-- The slot word of an instruction; 0 for an event of the machine, which has none. -/
def encode (i : Instr) : Nat :=
  match i.view with
  | .sReg op o => op * 2 ^ 24 + o.bitsOf
  | .sImm op o => op * 2 ^ 24 + o.bitsOf
  | .bOff op o => op * 2 ^ 26 + o.bitsOf
  | .bPred op o => op * 2 ^ 26 + o.bitsOf
  | .v op o => op * 2 ^ 56 + o.bitsOf
  | .m op o => op * 2 ^ 56 + o.bitsOf
  | .p op o => op * 2 ^ 27 + o.bitsOf
  | .e op pay => op * 2 ^ 56 + pay
  | .event => 0

/-- The class of slot an instruction is written for; V0 and P0 stand for either of their two slots. -/
def slotClass (i : Instr) : Option SlotClass :=
  match i.view with
  | .sReg .. | .sImm .. => some .S
  | .bOff .. | .bPred .. => some .B
  | .v .. => some .V0
  | .m .. => some .M
  | .p .. => some .P0
  | .e .. => some .E
  | .event => none

/-- The bits of an E word that no field of its instruction holds (R297, R371); 0 for every other class, whose forms
hold every bit. -/
def unusedBits (c : SlotClass) (w : Nat) (i : Instr) : Nat :=
  match c with
  | .E => w ^^^ encode i
  | _ => 0

/-- The instruction the decoder reads from a word of nbits bits as the opcode table numbers them. A 32-bit word can
belong to an S, a B or a P slot, which the header's presence mask tells in a bundle; here S is tried first, then B,
then P. A 64-bit word is tried as V, M and E. -/
def decodeTableWord (nbits w : Nat) : Option Instr :=
  if nbits = 32 then
    ((decode? .S w).or (decode? .B w)).or (decode? .P0 w)
  else if nbits = 64 then
    ((decode? .V0 w).or (decode? .M w)).or (decode? .E w)
  else none

end Sys2Proof
end

