-- ==== Sys2Proof/Machine/Arith.lean ====
section
/-! DEFINITION. The arithmetic of the device (04): element types, wrapping and saturation, rounding shifts, keys,
census, the function routines and the signature projection. Values are exact integers; a result is narrowed once. -/

namespace Sys2Proof.Machine

/-! ### Element types (R2, R67) -/

/-- Width in bits of the element type with V-slot code t (R199): 0 s4, 1 z4, 2 s8, 3 z8, 4 s16, 5 z16, 6 s32, 7 z32. -/
def tyW (t : Nat) : Nat := 4 * 2 ^ (t / 2)

/-- Signed type codes are the even ones. -/
def tySigned (t : Nat) : Bool := t % 2 == 0

/-- Least value of a signed or unsigned format of w bits. -/
def fmtMin (sg : Bool) (w : Nat) : Int := if sg then -(2 ^ (w - 1) : Nat) else 0

/-- Greatest value of a signed or unsigned format of w bits. -/
def fmtMax (sg : Bool) (w : Nat) : Int := if sg then (2 ^ (w - 1) : Nat) - 1 else (2 ^ w : Nat) - 1

/-- The low w bits n read in the format. -/
def readFmt (sg : Bool) (w n : Nat) : Int := if sg && 2 ^ (w - 1) ≤ n then (n : Int) - (2 ^ w : Nat) else n

/-- WRAP(v, type) as a w-bit pattern. -/
def wrapBits (w : Nat) (v : Int) : Nat := (v % (2 ^ w : Nat)).toNat

/-- SAT(v, type). -/
def satTo (sg : Bool) (w : Nat) (v : Int) : Int :=
  if v < fmtMin sg w then fmtMin sg w else if fmtMax sg w < v then fmtMax sg w else v

/-- WRAP(v, s64) as a register. -/
def wrapX (v : Int) : X := BitVec.ofInt 64 v

/-! ### Shifts (R71, R73)

Every shifted value lies within 128 bits, so a count of 256 or more gives what 256 gives; shCap keeps the powers small. -/

/-- The count, cut at 256. -/
def shCap (s : Nat) : Nat := min s 256

/-- ASR(v, s) = floor(v / 2^s). -/
def asr (v : Int) (s : Nat) : Int := v / (2 ^ shCap s : Nat)

/-- v * 2^s. -/
def shlI (v : Int) (s : Nat) : Int := v * (2 ^ shCap s : Nat)

/-- MIX32 (R74). -/
def mix32 (x : Nat) : Nat :=
  let x := x % 2 ^ 32
  let x := x ^^^ (x / 2 ^ 16)
  let x := x * 0x7FEB352D % 2 ^ 32
  let x := x ^^^ (x / 2 ^ 15)
  let x := x * 0x846CA68B % 2 ^ 32
  x ^^^ (x / 2 ^ 16)

/-- TRUNC(v, s) (R73). -/
def trunc (v s : Int) : Int := if s ≤ 0 then shlI v (-s).toNat else asr v s.toNat

/-- RNE(v, s) (R73). -/
def rne (v s : Int) : Int :=
  if s ≤ 0 then shlI v (-s).toNat
  else
    let n := shCap s.toNat
    let q := asr v n
    let frac := v - q * (2 ^ n : Nat)
    let half : Int := (2 ^ (n - 1) : Nat)
    if frac > half ∨ (frac = half ∧ q % 2 = 1) then q + 1 else q

/-- STOCH(v, s, key) (R73). -/
def stoch (v s : Int) (key : Nat) : Int :=
  if s ≤ 0 then shlI v (-s).toNat
  else
    let n := shCap s.toNat
    let q := asr v n
    let frac := v - q * (2 ^ n : Nat)
    let r : Int := mix32 key
    let thr := if n ≤ 32 then shlI frac (32 - n) else asr frac (n - 32)
    if r < thr then q + 1 else q

/-! ### Census (R76) -/

/-- Number of leading zero bits of n read in w bits. -/
def clzW (w n : Nat) : Nat := if n = 0 then w else w - 1 - n.log2

/-- Redundant sign bits of v in a format (R76): w-1 for 0 and -1, 0 at a bound. -/
def rsb (sg : Bool) (w : Nat) (v : Int) : Nat :=
  if sg then
    let m := if v < 0 then (-v - 1).toNat else v.toNat
    clzW (w - 1) m
  else min (w - 1) (clzW w v.toNat)

/-! ### Division (R70) -/

/-- Quotient truncated toward zero with the corner cases of R70; true where saturation is reported. -/
def divQuot (sg : Bool) (w : Nat) (a b : Int) : Int × Bool :=
  if b = 0 then
    if a = 0 then (0, false) else if a > 0 then (fmtMax sg w, true) else (fmtMin sg w, true)
  else
    let q := a.tdiv b
    if q > fmtMax sg w then (fmtMax sg w, true) else (q, false)

/-- Remainder with the dividend's sign; x for a zero divisor (R70). -/
def divRem (a b : Int) : Int := if b = 0 then a else a.tmod b

/-! ### Function routines (R81 to R86); the Bool is the bit sat -/

/-- EXP2_Q16 (R83). -/
def exp2Q16 (x : Int) : Int × Bool :=
  let n := asr x 16
  let f := x - n * 65536
  let f15 := asr f 1
  let t := asr (f15 * 2562) 15
  let t := asr (f15 * (7406 + t)) 15
  let t := asr (f15 * (22800 + t)) 15
  let p := 32768 + t
  let y := rne p (-(n + 1))
  if y > 2147483647 then (2147483647, true) else (y, false)

/-- CLZ32 of a nonzero value (R81). -/
def clz32 (x : Int) : Nat := clzW 32 x.toNat

/-- One Newton step of LOG2_Q16 (R84). -/
def log2Step (m y : Int) : Int :=
  let w := (exp2Q16 (-(asr y 14))).1
  let u := asr (m * w) 16
  y + asr ((u - 2 ^ 30) * 1549082005) 30

/-- LOG2_Q16 (R84). -/
def log2Q16 (x : Int) : Int × Bool :=
  if x = 0 then (-2147483648, true)
  else
    let c := clz32 x
    let m := asr (shlI x c) 1
    let y := log2Step m (log2Step m (log2Step m (m - 2 ^ 30)))
    (rne ((15 - (c : Int)) * 2 ^ 30 + y) 14, false)

/-- One Newton step of RCPN (R85). -/
def rcpStep (m z : Int) : Int := z + asr (z * (2 ^ 30 - asr (m * z) 30)) 30

/-- RCPN (R85). -/
def rcpn (b : Int) : Int × Nat :=
  let c := clz32 b
  let m := asr (shlI b c) 2
  let z := 3031741621 - asr (2021161080 * m) 30
  (rcpStep m (rcpStep m (rcpStep m z)), c)

/-- DIVQ (R85): a * 2^s / b. -/
def divq (a b s : Int) : Int × Bool :=
  if b = 0 then
    if a > 0 then (2147483647, true) else if a < 0 then (-2147483648, true) else (0, false)
  else
    let zc := rcpn (b.natAbs : Int)
    let g := rne ((a.natAbs : Int) * zc.1) (62 - (zc.2 : Int) - s)
    let g := if (a < 0) != (b < 0) then -g else g
    let y := satTo true 32 g
    (y, y != g)

/-- RCP (R85): 2^s / x. -/
def rcp (x s : Int) : Int × Bool := divq 1 x s

/-- One Newton step of RSQ (R86). -/
def rsqStep (m z : Int) : Int :=
  let t := asr (z * z) 30
  let t := asr (m * t) 30
  asr (z * (3 * 2 ^ 30 - t)) 31

/-- RSQ (R86): 2^s / sqrt(x). -/
def rsq (x s : Int) : Int × Bool :=
  if x = 0 then (2147483647, true)
  else if x < 0 then (0, true)
  else
    let c := clz32 x
    let e2 := c - c % 2
    let m := asr (shlI x e2) 2
    let z := 2369781760 - asr (1431655765 * m) 30
    let z := rsqStep m (rsqStep m (rsqStep m z))
    let g := rne z (46 - s - ((e2 / 2 : Nat) : Int))
    let y := satTo true 32 g
    (y, y != g)

/-! ### Signature projection (R87) -/

/-- The sign word of column k. -/
def sigWord (seed k : Nat) : Nat := mix32 (k + seed * 0x9E3779B9)

/-- sgn[j][k] * a for one element. -/
def sigTerm (seed k j : Nat) (a : Int) : Int := if (sigWord seed k).testBit j then -a else a

/-- The signature code of a row's elements (R87). -/
def sigCode (seed h : Nat) (row : List Int) : Nat :=
  (List.range h).foldl (fun acc j =>
    let dot := ((row.zipIdx).map (fun p => sigTerm seed p.2 j p.1)).sum
    if dot < 0 then acc + 2 ^ j else acc) 0

/-! ### Bytes of a word, little-endian (R3) -/

/-- The n bytes of v, lowest address first. -/
def toBytes : Nat → Nat → List Byte
  | 0, _ => []
  | n + 1, v => BitVec.ofNat 8 v :: toBytes n (v / 256)

/-- The number whose little-endian bytes are given. -/
def ofBytes : List Byte → Nat
  | [] => 0
  | b :: bs => b.toNat + 256 * ofBytes bs

end Sys2Proof.Machine
end

