-- ==== Sys2Proof/Machine/Fields.lean ====
section
/-! DEFINITION. Which field values are legal for each slot instruction (R205 item 2, R370 step 1, R371, R384), as the
list of the offending values, and which registers each instruction names. -/

namespace Sys2Proof

/-! ### Small checks: each answers the offending values, none when the field is legal -/

/-- v must be 0. -/
def mbz (v : Nat) : List Nat := if v = 0 then [] else [v]

/-- v must be below n: its bits from log2 n up must be 0. The field is the one its layout names (R197 to R202), so the
whole of it is the offending value. -/
def below (v n : Nat) : List Nat := if v < n then [] else [v]

/-- v must be at most n. -/
def atMost (v n : Nat) : List Nat := if v ≤ n then [] else [v]

/-- v must be one of l. -/
def oneOf (v : Nat) (l : List Nat) : List Nat := if v ∈ l then [] else [v]

/-- v offends when p holds. -/
def when (p : Bool) (v : Nat) : List Nat := if p then [v] else []

/-- An S-slot source: with the latch bit, a[4:3] is 0 and the code is 0 to 5 (R197). -/
def latchSrc (a : BitVec 5) (la : BitVec 1) : List Nat := if la = 1#1 then atMost a.toNat 5 else []

/-- A vector source code (R200). -/
def vSrc (c : BitVec 10) : List Nat := when ((768 ≤ c.toNat && c.toNat < 1008) || c.toNat == 1022) c.toNat

/-- A vector destination code (R200). -/
def vDst (c : BitVec 10) : List Nat :=
  when ((768 ≤ c.toNat && c.toNat < 1008) || (1016 ≤ c.toNat && c.toNat < 1023)) c.toNat

/-- A vector code names a queue register. -/
def isQ (c : BitVec 10) : Bool := 1008 ≤ c.toNat && c.toNat < 1016

/-- A vector code names a v register. -/
def isV (c : BitVec 10) : Bool := c.toNat < 768

/-- A vector code names a latch. -/
def isL (c : BitVec 10) : Bool := 1016 ≤ c.toNat && c.toNat < 1022

/-! ### S slot (R227 to R236, R384) -/

/-- The control registers of R62. -/
def csrListed (n : Nat) : Bool := n ≤ 0x00A || n == 0x010 || n == 0x011 || n == 0x018 || n == 0x019 || n == 0x01A

def sRegBad (op : Nat) (o : SReg) : List Nat :=
  let b0 := mbz o.b.toNat ++ mbz o.lb.toNat
  if op ≤ 0x16 then latchSrc o.a o.la ++ latchSrc o.b o.lb ++ mbz o.sub.toNat
  else if op ≤ 0x19 || op == 0x1F then latchSrc o.a o.la ++ b0 ++ mbz o.sub.toNat
  else if op == 0x1A || op == 0x1B then latchSrc o.a o.la ++ b0
  else if op ≤ 0x1E then
    latchSrc o.a o.la ++ mbz o.lb.toNat
      ++ (if o.sub.toNat + o.b.toNat + 1 ≤ 64 then [] else [o.sub.toNat, o.b.toNat])
  else if op == 0xB0 then latchSrc o.a o.la ++ b0 ++ mbz o.sub.toNat ++ mbz o.nw.toNat
  else if op == 0xB1 then mbz o.la.toNat ++ b0 ++ mbz o.sub.toNat
  else if op == 0xB2 then mbz o.la.toNat ++ b0
  else if op == 0xB3 then mbz o.la.toNat ++ latchSrc o.b o.lb ++ mbz o.sub.toNat ++ mbz o.nw.toNat
  else mbz o.la.toNat ++ b0 ++ mbz o.sub.toNat ++ mbz o.nw.toNat

/-- lit is the literal count of the bundle (R204). -/
def sImmBad (lit op : Nat) (o : SImm) : List Nat :=
  let a0 := mbz o.a.toNat ++ mbz o.la.toNat
  let n := o.imm.toNat % 4
  if op == 0x4B then a0
  else if op == 0x80 then a0 ++ below o.imm.toNat 4 ++ when (lit ≤ n) n
  else if op == 0x81 then a0 ++ below o.imm.toNat 4 ++ when (lit ≤ n + 1) n
  else if op == 0x82 then latchSrc o.a o.la ++ below o.imm.toNat 4 ++ when (lit ≤ n) n
  else if op == 0xA0 then a0 ++ when (!csrListed o.imm.toNat) o.imm.toNat
  else if 0xA1 ≤ op then latchSrc o.a o.la ++ when (!csrListed o.imm.toNat) o.imm.toNat
  else latchSrc o.a o.la

/-! ### B slot (R208, R384) -/

def bOffBad (op : Nat) (o : BOff) : List Nat := if 0x17 ≤ op then mbz o.off.toNat else []

def bPredBad (op : Nat) (o : BPred) : List Nat :=
  if op ≤ 0x03 then mbz o.pd.toNat ++ mbz o.b.toNat ++ mbz o.imm.toNat
  else if op ≤ 0x0A then mbz o.imm.toNat
  else if op ≤ 0x0E then mbz o.b.toNat
  else if op ≤ 0x12 then atMost o.a.toNat 7 ++ atMost o.b.toNat 7 ++ mbz o.imm.toNat
  else if op == 0x13 then atMost o.a.toNat 7 ++ mbz o.b.toNat ++ mbz o.imm.toNat
  else mbz o.pd.toNat ++ mbz o.a.toNat ++ mbz o.b.toNat

/-! ### V slots (R245 to R268, R384) -/

/-- The role of the e field (R249). -/
inductive ERole where
  | record | satOnly | unused
  /-- an immediate; the bits of mask are named -/
  | imm (mask : Nat)
  deriving DecidableEq, Repr

/-- Which fields a V instruction reads and writes, the types it allows and its e role. -/
structure VShape where
  ra : Bool
  rb : Bool
  rc : Bool
  wd : Bool
  tyLo : Nat
  tyHi : Nat
  role : ERole
  deriving DecidableEq, Repr

def vShape (op : Nat) : VShape :=
  match op with
  | 0x00 => ⟨false, false, false, false, 0, 0, .unused⟩
  | 0x01 => ⟨true, false, false, true, 0, 7, .unused⟩
  | 0x06 | 0x07 | 0xC0 => ⟨true, false, false, true, 0, 7, .record⟩
  | 0x0B | 0x0C | 0x44 | 0x6A => ⟨true, true, true, true, 0, 7, .record⟩
  | 0x47 => ⟨true, false, false, false, 0, 7, .record⟩
  | 0x60 | 0x61 | 0x62 | 0x63 | 0x80 | 0x83 => ⟨true, true, false, true, 0, 7, .unused⟩
  | 0x64 | 0x6B | 0x6C | 0x89 | 0x8A => ⟨true, false, false, true, 0, 7, .unused⟩
  | 0x65 | 0x66 | 0x67 | 0x68 => ⟨true, true, false, true, 0, 7, .imm 0xF⟩
  | 0x69 | 0x82 | 0x84 | 0x85 => ⟨true, true, true, true, 0, 7, .unused⟩
  | 0x81 => ⟨true, false, false, true, 0, 7, .imm 0x1F⟩
  | 0x86 | 0x87 => ⟨true, true, false, true, 0, 7, .imm 1⟩
  | 0x88 => ⟨true, false, true, true, 0, 7, .satOnly⟩
  | 0x8C => ⟨false, false, false, true, 0, 7, .unused⟩
  | 0xA0 => ⟨true, false, false, true, 6, 6, .record⟩
  | 0xA1 => ⟨true, false, false, true, 7, 7, .record⟩
  | 0xA2 | 0xA3 => ⟨true, true, false, true, 6, 6, .record⟩
  | 0xA4 => ⟨true, true, true, true, 6, 6, .record⟩
  | 0xA5 => ⟨true, true, true, true, 0, 5, .imm 0x1F⟩
  | 0xA6 => ⟨true, false, false, true, 6, 7, .unused⟩
  | 0xA7 => ⟨true, true, true, true, 2, 7, .imm 0xF⟩
  | 0xA8 => ⟨true, true, true, true, 2, 7, .imm 0x1F⟩
  | 0xA9 => ⟨false, true, true, true, 2, 7, .imm 0x1F⟩
  | 0xC1 => ⟨true, true, false, true, 0, 5, .record⟩
  | 0xC2 => ⟨true, false, false, true, 0, 5, .imm 1⟩
  | 0xC3 => ⟨true, true, true, true, 0, 5, .record⟩
  | _ => ⟨true, true, false, true, 0, 7, .record⟩

/-- W·n must not exceed 255 (R265): W up to 3, 7 or 15 for types of 8, 16 or 32 bits. -/
def windowBad (o : VOps) : List Nat := atMost (o.e.toNat % 16) (if o.ty.toNat < 4 then 3 else if o.ty.toNat < 6 then 7 else 15)

def vBad (op : Nat) (o : VOps) : List Nat :=
  let h := vShape op
  let src (r : Bool) (c : BitVec 10) := if r then vSrc c else mbz c.toNat
  let share0 := op == 0xA8 && !(o.e.getLsbD 4)
  when (o.ty.toNat < h.tyLo || h.tyHi < o.ty.toNat) o.ty.toNat
    ++ (if h.wd then vDst o.d else mbz o.d.toNat)
    ++ src h.ra o.a ++ src h.rb o.b
    ++ (if share0 then when (o.c != 1023#10) o.c.toNat else src h.rc o.c)
    ++ when (o.k == 1#1 && !(isQ o.a || isQ o.b || isQ o.c || isQ o.d)) 1
    ++ (match h.role with
        | .unused => mbz o.e.toNat
        | .imm mask => when (o.e.toNat &&& (31 - mask) != 0) o.e.toNat
        | _ => [])
    ++ (if op == 0x00 then mbz o.mask.toNat ++ mbz o.nw.toNat ++ mbz o.step.toNat
        else if op == 0x47 then mbz o.nw.toNat ++ mbz o.step.toNat
        else if op == 0x83 then mbz o.mask.toNat ++ mbz o.e.toNat
        else if op == 0xA5 then when (o.e.toNat % 16 == 0 || 12 < o.e.toNat % 16) (o.e.toNat % 16)
        else if op == 0xA7 || op == 0xA8 then windowBad o
        else if op == 0xA9 then if o.e.getLsbD 4 then mbz (o.e.toNat % 16) else windowBad o
        else [])

/-! ### M slot (R270 to R290, R384) -/

/-- Order and scope: plain takes scope 0, an order of the class takes scope 0 to 6 (R273). -/
def orderScope (o : MOps) (allowed : List Nat) : List Nat :=
  if o.order = 0#2 then mbz o.scope.toNat else oneOf o.order.toNat allowed ++ atMost o.scope.toNat 6

/-- Plain, or one named order at CLUSTER scope (R280, R283). -/
def orderCluster (o : MOps) (ord : Nat) : List Nat :=
  if o.order = 0#2 then mbz o.scope.toNat else oneOf o.order.toNat [ord] ++ oneOf o.scope.toNat [2]

/-- An x register in the data field (R201). -/
def xData (o : MOps) : List Nat := below o.data.toNat 32

/-- ix is 0 under update 1 for an instruction whose ix enters EA (R270). -/
def ixIndex (o : MOps) : List Nat := if o.update = 1#2 then mbz o.ix.toNat else []

/-- Under an update a load or atomic does not name its base as data (R270). -/
def dataBase (o : MOps) : List Nat := when (o.update != 0#2 && o.data.toNat == o.base.toNat) o.data.toNat

def z0 (o : MOps) : List Nat := mbz o.order.toNat ++ mbz o.scope.toNat

def mBad (op : Nat) (o : MOps) : List Nat :=
  let ty := o.ty.toNat
  let up := o.update.toNat
  match op with
  | 0x00 => atMost ty 6 ++ xData o ++ mbz o.mask.toNat ++ orderScope o [1] ++ ixIndex o ++ dataBase o
  | 0x01 | 0x03 => vDst o.data ++ orderScope o [1] ++ ixIndex o
  | 0x02 => when (ty < 2) ty ++ vDst o.data ++ orderScope o [1] ++ atMost up 1
  | 0x20 => atMost ty 6 ++ xData o ++ mbz o.mask.toNat ++ mbz o.nw.toNat ++ orderScope o [2] ++ ixIndex o
  | 0x21 | 0x23 => vSrc o.data ++ mbz o.nw.toNat ++ orderScope o [2] ++ ixIndex o
  | 0x22 => when (ty < 2) ty ++ vSrc o.data ++ mbz o.nw.toNat ++ orderScope o [2] ++ atMost up 1
  | 0x40 | 0x41 | 0x42 | 0x43 | 0x44 | 0x45 | 0x46 | 0x47 =>
    atMost ty 6 ++ xData o ++ mbz o.mask.toNat ++ orderScope o [1, 2, 3] ++ ixIndex o ++ dataBase o
  | 0x48 => atMost ty 6 ++ xData o ++ mbz o.mask.toNat ++ orderScope o [1, 2, 3] ++ atMost up 1 ++ dataBase o
  | 0x60 => mbz ty ++ mbz o.mask.toNat ++ xData o ++ mbz o.base.toNat ++ mbz o.ix.toNat ++ atMost o.scope.toNat 6
      ++ mbz up ++ mbz o.offset.toNat
  | 0x61 => mbz ty ++ mbz o.mask.toNat ++ mbz o.data.toNat ++ mbz o.nw.toNat ++ mbz o.base.toNat ++ mbz o.ix.toNat
      ++ oneOf o.order.toNat [0, 3] ++ mbz o.scope.toNat ++ mbz up ++ below o.offset.toNat 32
      ++ when (o.offset.toNat % 32 == 0) 0
  | 0x62 => mbz ty ++ mbz o.mask.toNat ++ mbz o.data.toNat ++ mbz o.nw.toNat ++ z0 o ++ atMost up 1
  | 0x63 => mbz ty ++ mbz o.mask.toNat ++ xData o ++ mbz o.nw.toNat ++ mbz o.ix.toNat ++ orderCluster o 2 ++ atMost up 1
  | 0x64 => mbz ty ++ mbz o.mask.toNat ++ xData o ++ z0 o ++ atMost up 1
  | 0x65 | 0x67 => mbz ty ++ mbz o.mask.toNat ++ xData o ++ mbz o.nw.toNat ++ mbz o.ix.toNat ++ z0 o ++ mbz up
  | 0x66 => mbz ty ++ mbz o.mask.toNat ++ xData o ++ mbz o.ix.toNat ++ orderCluster o 1 ++ mbz up
  | 0x80 => atMost ty 1 ++ mbz o.mask.toNat ++ (if ty = 1 then xData o else vSrc o.data) ++ mbz o.nw.toNat ++ z0 o
      ++ atMost o.ix.toNat 7 ++ atMost up 1
  | 0x81 => atMost ty 1 ++ mbz o.mask.toNat ++ (if ty = 1 then xData o else vDst o.data) ++ z0 o
      ++ atMost o.ix.toNat 7 ++ atMost up 1
  | 0x82 => mbz ty ++ mbz o.mask.toNat ++ xData o ++ mbz o.nw.toNat ++ z0 o ++ atMost up 1
  | 0x83 => mbz ty ++ mbz o.mask.toNat ++ mbz o.data.toNat ++ mbz o.nw.toNat ++ mbz o.ix.toNat ++ z0 o ++ atMost up 1
  | 0x84 | 0x87 => mbz ty ++ mbz o.mask.toNat ++ mbz o.data.toNat ++ mbz o.nw.toNat ++ mbz o.base.toNat
      ++ mbz o.ix.toNat ++ z0 o ++ mbz up ++ below o.offset.toNat 32
  | 0x85 => mbz ty ++ mbz o.mask.toNat ++ xData o ++ mbz o.base.toNat ++ mbz o.ix.toNat ++ z0 o ++ mbz up
      ++ below o.offset.toNat 64
  | _ => mbz ty ++ mbz o.mask.toNat ++ xData o ++ mbz o.base.toNat ++ z0 o ++ mbz up ++ below o.offset.toNat 32

/-! ### P slots (R293 to R295, R384) -/

/-- lits are the literal words of the bundle. -/
def pBad (lits : List Nat) (op : Nat) (o : POps) : List Nat :=
  let sub := o.sub.toNat
  match op with
  | 0x00 => vDst o.vec ++ below sub 2 ++ (if sub % 2 = 1 then mbz o.dm.toNat else [])
  | 0x01 => vDst o.vec ++ below sub 2 ++ mbz o.dm.toNat
  | 0x02 => vDst o.vec ++ mbz sub ++ mbz o.dm.toNat
  | 0x03 => vSrc o.vec ++ below sub 4 ++ mbz o.nw.toNat
  | 0x04 => vSrc o.vec ++ mbz sub ++ mbz o.dm.toNat ++ mbz o.nw.toNat
  | 0x05 => mbz o.row.toNat ++ mbz o.vec.toNat ++ mbz o.nw.toNat ++ mbz o.dm.toNat ++ mbz o.step.toNat ++ mbz sub
  | 0x06 => vDst o.vec ++ below sub 4
      ++ (if lits.length ≤ sub % 4 + 1 then [sub % 4]
          else
            let w := lits.getD (sub % 4) 0
            let mv := w % 1024
            mbz (w / 2 ^ 21) ++ when (768 ≤ mv && mv != 1023) mv)
  | _ => mbz o.vec.toNat ++ mbz o.nw.toNat ++ mbz sub

/-! ### E slot (R297 to R321, R384) -/

/-- LIVE: bit 0 clear, at most 16 bits set (R31, R312, R313). -/
def liveBad (l : BitVec 32) : List Nat :=
  when (l.getLsbD 0 || 16 < ((List.range 32).filter (fun i => l.getLsbD i)).length) l.toNat

def eBad (i : Instr) : List Nat :=
  match i with
  | .mfmt o => atMost o.atype.toNat 4 ++ atMost o.btype.toNat 4
  | .mma o => mbz o.n.toNat
  | .mchain o => when (63 < o.oA.toNat + o.n.toNat) o.oA.toNat ++ when (63 < o.oB.toNat + o.n.toNat) o.oB.toNat
  | .mseal o | .mzero o => when (o.mask == 0#16) 0
  | .oclaim o => when (64 < o.first.toNat + o.count.toNat + 1) o.count.toNat
  | .orelease o => mbz o.xd.toNat ++ when (64 < o.first.toNat + o.count.toNat + 1) o.count.toNat
  | .ofill o => atMost o.ety.toNat 4
  | .ofillv o => atMost o.ety.toNat 4 ++ atMost o.vec.toNat 752
  | .cset o => atMost o.field.toNat 21
  | .cpy o => if o.pe = 0#1 then mbz o.flag.toNat ++ mbz o.fcore.toNat ++ mbz o.postn.toNat else []
  | .rtadd o => oneOf o.mode.toNat [1, 2]
  | .spawn o => liveBad o.live
  | .spawnp o => liveBad o.live
  | .park o => liveBad o.live
  | _ => []

/-- The offending field values of an instruction in a bundle with the literal words lits; [] when every field is
legal (R370 step 1). Limits that depend on registers or on the crew stand with the meanings. -/
def badFields (lits : List Nat) (i : Instr) : List Nat :=
  match i.view with
  | .sReg op o => sRegBad op o
  | .sImm op o => sImmBad lits.length op o
  | .bOff op o => bOffBad op o
  | .bPred op o => bPredBad op o
  | .v op o => vBad op o
  | .m op o => mBad op o
  | .p op o => pBad lits op o
  | .e _ _ => eBad i
  | .event => []

/-! ### The registers an instruction names -/

/-- Vector source fields in field order (R51), the peek bit, the destination field if any, and the x registers. -/
structure Foot where
  vr : List (BitVec 10) := []
  peek : Bool := false
  vw : Option (BitVec 10) := none
  nw : Bool := false
  xr : List (BitVec 5) := []
  xw : List (BitVec 5) := []
  deriving DecidableEq, Repr

/-- The x register in the data field of a scalar M form. -/
def MOps.xd (o : MOps) : BitVec 5 := o.data.setWidth 5

/-- The base as a written register, when the update field writes it. -/
def MOps.upd (o : MOps) : List (BitVec 5) := if o.update = 0#2 then [] else [o.base]

/-- The registers of LIVE (R31). -/
def liveRegs (l : BitVec 32) : List (BitVec 5) := ((List.range 32).filter (fun i => l.getLsbD i)).map (BitVec.ofNat 5)

def vFoot (op : Nat) (o : VOps) : Foot :=
  let h := vShape op
  let rc := h.rc && !(op == 0xA8 && !(o.e.getLsbD 4))
  { vr := (if h.ra then [o.a] else []) ++ (if h.rb then [o.b] else []) ++ (if rc then [o.c] else [])
    peek := o.k == 1#1
    vw := if h.wd then some o.d else none
    nw := o.nw == 1#1 }

def mFoot (op : Nat) (o : MOps) : Foot :=
  let nw := o.nw == 1#1
  let ad := [o.base, o.ix]
  match op with
  | 0x00 => { xr := ad, xw := o.upd ++ (if nw then [] else [o.xd]), nw := nw }
  | 0x01 | 0x02 | 0x03 => { vw := some o.data, nw := nw, xr := ad, xw := o.upd }
  | 0x20 => { xr := ad ++ [o.xd], xw := o.upd }
  | 0x21 | 0x22 | 0x23 => { vr := [o.data], xr := ad, xw := o.upd }
  | 0x40 | 0x41 | 0x42 | 0x43 | 0x44 | 0x45 | 0x46 | 0x47 | 0x48 =>
    { xr := ad ++ [o.xd], xw := o.upd ++ (if nw then [] else [o.xd]), nw := nw }
  | 0x60 => { xw := if nw then [] else [o.xd], nw := nw }
  | 0x61 => {}
  | 0x62 => { xr := ad, xw := o.upd }
  | 0x63 => { xr := [o.base, o.xd], xw := o.upd }
  | 0x64 => { xr := ad, xw := o.upd ++ (if nw then [] else [o.xd]), nw := nw }
  | 0x65 | 0x67 => { xr := [o.base, o.xd] }
  | 0x66 => { xr := [o.base], xw := if nw then [] else [o.xd], nw := nw }
  | 0x80 => if o.ty = 1#3 then { xr := [o.base, o.xd], xw := o.upd } else { vr := [o.data], xr := [o.base], xw := o.upd }
  | 0x81 => if o.ty = 1#3 then { xr := [o.base], xw := o.upd ++ (if nw then [] else [o.xd]), nw := nw }
      else { vw := some o.data, nw := nw, xr := [o.base], xw := o.upd }
  | 0x82 => { xr := ad ++ [o.xd], xw := o.upd }
  | 0x83 => { xr := [o.base], xw := o.upd }
  | 0x85 => { xw := if nw then [] else [o.xd], nw := nw }
  | 0x86 => { xr := [o.ix], xw := if nw then [] else [o.xd], nw := nw }
  | _ => {}

def pFoot (op : Nat) (o : POps) : Foot :=
  match op with
  | 0x00 | 0x01 | 0x02 | 0x06 => { vw := some o.vec, nw := o.nw == 1#1 }
  | 0x03 | 0x04 => { vr := [o.vec] }
  | _ => {}

def eFoot (i : Instr) : Foot :=
  match i with
  | .oclaim o => { xw := [o.xd] }
  | .ofill o => { xr := [o.xB, o.xS] }
  | .ofillv o => { vr := (List.range 16).map (fun k => o.vec + BitVec.ofNat 10 k) }
  | .ttask o | .tdep o | .coll o => { xr := [o.xB] }
  | .cset o => { xr := [o.xa] }
  | .cpy o => { xr := [o.xD, o.xS, o.xN] }
  | .collq o => { xw := [o.xd] }
  | .rtadd o => { xr := [o.xB, o.xL] }
  | .spawn o => { xr := o.xT :: liveRegs o.live }
  | .spawnp o => { xr := o.xT :: o.xP :: liveRegs o.live, xw := [o.xd] }
  | .park o => { xr := [o.xW] }
  | .steal o => { xr := [o.xP], xw := [o.xd] }
  | .poolinit o => { xr := [o.xD, o.xA, o.xS, o.xW] }
  | .poolpushReg o | .poolpushMem o => { xr := [o.xP, o.xE], xw := [o.xd] }
  | .poolpopReg o | .poolpopwReg o => { xr := [o.xP], xw := [o.xd, o.xE] }
  | .poolpopMem o | .poolpopwMem o => { xr := [o.xP, o.xE], xw := [o.xd] }
  | .poolfence o => { xr := [o.xP] }
  | .tlbinv o => { xr := [o.xA, o.xN] }
  | .ctxsave o | .ctxload o => { xr := [o.xA] }
  | .note o => { xr := [o.xa] }
  | _ => {}

/-- An S source as an x register, none when it names a latch. -/
def xSrc (a : BitVec 5) (la : BitVec 1) : List (BitVec 5) := if la = 1#1 then [] else [a]

def sRegFoot (op : Nat) (o : SReg) : Foot :=
  let d := if o.nw = 1#1 then [] else [o.d]
  if op == 0x1E then { xr := o.d :: xSrc o.a o.la, xw := d }
  else if op ≤ 0x16 then { xr := xSrc o.a o.la ++ xSrc o.b o.lb, xw := d }
  else if op ≤ 0x1F then { xr := xSrc o.a o.la, xw := d }
  else if op == 0xB0 then { xr := xSrc o.a o.la }
  else if op == 0xB3 then { xr := xSrc o.b o.lb }
  else if op == 0xB4 then {}
  else { xw := d }

def sImmFoot (op : Nat) (o : SImm) : Foot :=
  let d := if o.nw = 1#1 then [] else [o.d]
  if op == 0x4B || op == 0x80 || op == 0x81 || op == 0xA0 then { xw := d } else { xr := xSrc o.a o.la, xw := d }

/-- The B slot's registers, for a slot whose guard holds (R225). -/
def bFoot (i : Instr) : Foot :=
  match i.view with
  | .bOff op _ => if op == 0x01 then { xw := [31] } else if op == 0x04 then { xr := [30], xw := [30] } else {}
  | .bPred op o =>
    if op == 0x02 then { xr := [o.a] }
    else if op == 0x03 then { xr := [o.a], xw := [31] }
    else if op ≤ 0x0A then { xr := [o.a, o.b] }
    else if op ≤ 0x0E then { xr := [o.a] }
    else {}
  | _ => {}

/-- The registers an instruction names. -/
def foot (i : Instr) : Foot :=
  match i.view with
  | .sReg op o => sRegFoot op o
  | .sImm op o => sImmFoot op o
  | .bOff _ _ => bFoot i
  | .bPred _ _ => bFoot i
  | .v op o => vFoot op o
  | .m op o => mFoot op o
  | .p op o => pFoot op o
  | .e _ _ => eFoot i
  | .event => {}

/-- The latches an S instruction reads (R49); vector fields name theirs in vr. -/
def sLatches (i : Instr) : List Nat :=
  let s (a : BitVec 5) (la : BitVec 1) := if la = 1#1 then [a.toNat % 8] else []
  match i.view with
  | .sReg op o => s o.a o.la ++ (if op ≤ 0x16 || op == 0xB3 then s o.b o.lb else [])
  | .sImm _ o => s o.a o.la
  | _ => []

/-- STEP(w) of R194: the word of a sticky slot for its next issue. -/
def stepWord (c : SlotClass) (w : Nat) : Nat :=
  let fld10 (lo : Nat) := w / 2 ^ lo % 1024
  let inc (on : Bool) (lo : Nat) : Nat := if on && fld10 lo < 768 then 2 ^ lo else 0
  match c with
  | .V0 | .V1 =>
    let s := w / 2 ^ 6 % 8
    w + inc (s ∈ [1, 2, 3, 5, 7]) 40 + inc (s ∈ [2, 3, 4, 6, 7]) 29 + inc (s ∈ [3, 5, 6, 7]) 19 + inc (s == 7) 9
  | .P0 | .P1 =>
    if w / 8 % 2 = 1 then
      let row := w / 2 ^ 19 % 16
      w - row * 2 ^ 19 + (row + 1) % 16 * 2 ^ 19 + inc true 9
    else w
  | _ => w

end Sys2Proof
end

