-- ==== Sys2Proof/WellFormed.lean ====
section
/-! DEFINITION. A well-formed instruction: every field of its word holds a value its opcode allows (R205, R371, R384),
in a bundle with the literal words lits. -/

namespace Sys2Proof

/-- An instruction that shares its opcode with another form has the field that selects its own form (R265, R285). -/
def formOk : Instr → Bool
  | .enqV o => o.ty != 1#3
  | .enqX o => o.ty == 1#3
  | .deqV o => o.ty != 1#3
  | .deqX o => o.ty == 1#3
  | .vmapcnt o => !o.e.getLsbD 4
  | .vmapcntFirst o => o.e.getLsbD 4
  | _ => true

/-- Every field is legal. An event of the machine has no word and is well-formed. -/
abbrev WellFormed (lits : List Nat) (i : Instr) : Prop := formOk i = true ∧ badFields lits i = []

/-- The same as a truth value. -/
def wellFormed (lits : List Nat) (i : Instr) : Bool := formOk i && (badFields lits i).isEmpty

end Sys2Proof
end

