-- ==== Sys2Proof/Machine/Operands.lean ====
section
/-! DEFINITION. Reading and writing a strand's registers (03): every access to a register goes through here, where the
fixed registers, the dirty bits, the latches and the queue registers behave as the spec says. -/

namespace Sys2Proof.Machine

/-! ### Registers (R43, R60) -/

/-- Set bits of DIRTY (R60). -/
def Strand.mark (st : Strand) (b : Nat) : Strand := { st with dirty := st.dirty ||| BitVec.ofNat 30 (2 ^ b) }

/-- x[r]; x0 reads 0. -/
def Strand.getX (st : Strand) (r : Nat) : X := if r = 0 then 0 else st.x.get 0 r

/-- Write x[r]; a write to x0 is discarded and sets no DIRTY bit. -/
def Strand.setX (st : Strand) (r : Nat) (v : X) : Strand :=
  if r = 0 then st else ({ st with x := RMap.set st.x 0 r v }).mark 12

/-- p[n]; p0 reads true. -/
def Strand.getP (st : Strand) (n : Nat) : Bool := if n = 0 then true else st.p.get false n

def Strand.setP (st : Strand) (n : Nat) (b : Bool) : Strand :=
  if n = 0 then st else ({ st with p := RMap.set st.p false n b }).mark 13

/-- m[n]; m0 reads all ones. -/
def Strand.getM (st : Strand) (n : Nat) : X := if n = 0 then BitVec.allOnes 64 else st.m.get 0 n

def Strand.setM (st : Strand) (n : Nat) (v : X) : Strand :=
  if n = 0 then st else ({ st with m := RMap.set st.m 0 n v }).mark 13

/-- e[n] (R53). -/
def Strand.getE (st : Strand) (n : Nat) : BitVec 16 := st.e.get 0 n

def Strand.setE (st : Strand) (n : Nat) (v : BitVec 16) : Strand := ({ st with e := RMap.set st.e 0 n v }).mark 15

/-- VUSED of the window unit of v[n] (R61). -/
def Strand.vused (st : Strand) (n : Nat) : Bool := st.dirty.getLsbD (18 + n / 64)

/-- v[n] (R46); a register of a window unit whose VUSED bit is 0 reads 0 (R61). -/
def Strand.getV (st : Strand) (n : Nat) : V := if st.vused n then st.v.get 0 n else 0

/-- The banks of the window units in use: the others are not read (R61). -/
def Strand.usedBanks (st : Strand) : List Nat := (st.banks.zipIdx.filter (fun b => st.vused (64 * b.2))).map (fun b => b.1)

/-- The v registers that hold a value once the window unit of v[n] is in use: the others of a unit that was not still read 0 (R61). -/
def Strand.usedV (st : Strand) (n : Nat) : RMap V := if st.vused n then st.v else st.v.filter (fun e => e.1 / 64 != n / 64)

/-- Write v[n], with DU and VUSED of its window unit (R60). -/
def Strand.setV (st : Strand) (n : Nat) (v : V) : Strand :=
  (({ st with v := RMap.set (st.usedV n) 0 n v }).mark (n / 64)).mark (18 + n / 64)

/-- Entries of q[n] (R51). -/
def Strand.getQ (st : Strand) (n : Nat) : List QEnt := st.q.get [] n

def Strand.setQ (st : Strand) (n : Nat) (l : List QEnt) : Strand := ({ st with q := RMap.set st.q [] n l }).mark 14

/-- Push an entry to q[n] (R51). -/
def Strand.push (st : Strand) (n : Nat) (e : QEnt) : Strand := st.setQ n (st.getQ n ++ [e])

/-- Write latch n and set its valid bit (R50). -/
def Strand.setL (st : Strand) (n : Nat) (v : V) : Strand :=
  { st with latch := st.latch.put n v, l3acc := if n = 3 then none else st.l3acc }

/-- Clear the six valid bits (R50); a load outstanding into L3 will not set its bit (R380). -/
def Strand.dropLatches (st : Strand) : Strand := { st with latch := [], l3lost := st.l3acc }

/-! ### Slots -/

/-- The class of slot number k, in commit order. -/
def slotCls (k : Nat) : SlotClass :=
  match k with
  | 0 => .S | 1 => .B | 2 => .V0 | 3 => .V1 | 4 => .M | 5 => .P0 | 6 => .P1 | _ => .E

/-- Slots 2 to 6 are sticky (R185). -/
def isSticky (k : Nat) : Bool := 2 ≤ k && k ≤ 6

/-- The latch of slot number k (R49): S 0, V0 1, V1 2, M 3, P0 4, P1 5. -/
def latchOf (k : Nat) : Nat :=
  match k with
  | 0 => 0 | 2 => 1 | 3 => 2 | 4 => 3 | 5 => 4 | 6 => 5 | _ => 0

/-- The slot's instruction from its word. -/
def slotInstr (k w : Nat) : Option Instr := decode? (slotCls k) w

/-! ### S-slot sources and results (R224) -/

/-- The low 64 bits of captured latch n (R49, R376). -/
def Strand.latX (st : Strand) (n : Nat) : X := ((st.bun.latch.find? n).getD 0).setWidth 64

/-- An S source: x[a], or latch a[2:0] when the latch bit is set. -/
def Strand.src (st : Strand) (a : BitVec 5) (la : BitVec 1) : X :=
  if la = 1#1 then st.latX (a.toNat % 8) else st.getX a.toNat

/-- An S result: L0 always, x[d] unless nw. -/
def Strand.result (st : Strand) (d : BitVec 5) (nw : BitVec 1) (v : X) : Strand :=
  let st := st.setL 0 (v.setWidth 512)
  if nw = 1#1 then st else st.setX d.toNat v

/-! ### Vector sources and results (R200, R245, R246) -/

/-- A vector operand; l0 marks the 64-bit value of L0, which every lane reads wrapped (R49). -/
structure Src where
  l0 : Bool
  val : V
  deriving DecidableEq, Repr

/-- The bits of lane i in lanes of w bits. -/
def Src.lane (s : Src) (w i : Nat) : Nat :=
  if s.l0 then s.val.toNat % 2 ^ w else s.val.toNat / 2 ^ (w * i) % 2 ^ w

/-- Lane i read as an element of V type t. -/
def Src.elt (s : Src) (t i : Nat) : Int := readFmt (tySigned t) (tyW t) (s.lane (tyW t) i)

/-- A vector of n lanes of w bits. -/
def ofLanes (w n : Nat) (f : Nat → Nat) : V :=
  BitVec.ofNat 512 ((List.range n).foldl (fun acc i => acc + f i % 2 ^ w * 2 ^ (w * i)) 0)

/-- The bits of lane i of a vector. -/
def laneOf (v : V) (w i : Nat) : Nat := v.toNat / 2 ^ (w * i) % 2 ^ w

/-- Lane count of V type t. -/
def tyN (t : Nat) : Nat := 512 / tyW t

/-- Lane i of type t is active under mask bits m (R44). -/
def active (m : X) (t i : Nat) : Bool := if tyW t = 4 then m.getLsbD (i / 2) else m.getLsbD i

/-- The values of the source fields of a slot in field order; ents are its captured queue reads. -/
def readSrcs (st : Strand) : List (BitVec 10) → List Capt → List Src
  | [], _ => []
  | c :: cs, ents =>
    if isQ c then
      match ents with
      | e :: es => { l0 := false, val := (e.ent.getD {}).val } :: readSrcs st cs es
      | [] => { l0 := false, val := 0 } :: readSrcs st cs []
    else if isV c then { l0 := false, val := st.getV c.toNat } :: readSrcs st cs ents
    else if c.toNat = 1016 then { l0 := true, val := (st.bun.latch.find? 0).getD 0 } :: readSrcs st cs ents
    else if isL c then { l0 := false, val := (st.bun.latch.find? (c.toNat - 1016)).getD 0 } :: readSrcs st cs ents
    else { l0 := false, val := 0 } :: readSrcs st cs ents

/-- The captured queue reads of slot k. -/
def Strand.slotCapt (st : Strand) (k : Nat) : List Capt := st.bun.capt.filter (fun c => c.slot = k)

/-- The source values of the slot in execution. -/
def Strand.srcs (st : Strand) (codes : List (BitVec 10)) : List Src := readSrcs st codes (st.slotCapt st.bun.slot)

/-- The old value of a vector destination: 0 for a queue register or code 1023 (R246). -/
def Strand.old (st : Strand) (d : BitVec 10) : V := if isV d then st.getV d.toNat else 0

/-- Write a vector result: the slot's latch always, the destination unless nw (R50, R246). -/
def Strand.vresult (st : Strand) (d : BitVec 10) (nw : BitVec 1) (v : V) : Strand :=
  let st := st.setL (latchOf st.bun.slot) v
  if nw = 1#1 then st
  else if isV d then st.setV d.toNat v
  else if isQ d then st.push (d.toNat - 1008) { val := v }
  else st

/-! ### The checks of a slot that read registers only (R370 steps 1 to 5 and 9) -/

/-- Why a slot does not commit. -/
inductive Stop where
  | trap (cause : Nat) (tval : X)
  | block (w : Why)
  /-- an uncorrectable word is consumed; its FVAL (R360, R366) -/
  | contain (fval : X)
  /-- the slot waits on the memory system: no block (R29), its strand stays the issuing one -/
  | hold
  deriving DecidableEq, Repr

/-- The word in execution with its slot number. -/
def Strand.wordKey (st : Strand) : Nat := st.bun.slot + 8 * (st.bun.cur.find? st.bun.slot).getD 0

/-- One of several allowed values: the only one, or an open choice fixed by the word (R357 does not say which field is
reported; by R1 no timing decides it). -/
def chooseOf (key : Nat) (l : List Nat) : Nat :=
  match l with
  | [a] => a
  | l => l.getD (Config.fieldOf key l.length % max l.length 1) 0

/-- Keys of uncorrectable register words (R366): word 0 of v[n], the others following, and entry i of q[n]. -/
def poisonV (uid n : Nat) : Nat := 2 ^ 60 + uid * 2 ^ 14 + 8 * n
def poisonQ (uid n i : Nat) : Nat := 2 ^ 60 + uid * 2 ^ 14 + 8192 + 8 * n + i

/-- Words of v[n] of strand uid that are uncorrectable and that reading v[n] would consume: in a window unit not in use none is, as the
bank is not touched (R61). -/
def Strand.badWords (st : Strand) (uid : Nat) (poison : List Nat) (n : Nat) : List Nat :=
  (List.range 8).filter (fun w => st.vused n && decide (poisonV uid n + w ∈ poison))

/-- Byte k of a register lies in a lane of width w that mask m has active (R44). -/
def byteOn (m : X) (w k : Nat) : Bool := m.getLsbD (if w ≤ 8 then k else k / (w / 8))

/-- The lanes of width w that byte k of a register holds or lies in. -/
def lanesAt (w k : Nat) : List Nat := if w = 4 then [2 * k, 2 * k + 1] else [k / (w / 8)]

/-- Byte k of its vector destination is one that slot i writes; the other bytes it reads and keeps (R246, R275). -/
def Strand.writesByte (st : Strand) (i : Instr) (k : Nat) : Bool :=
  match i with
  | .vext _ | .vredadd _ | .vredmax _ | .vredmin _ | .vmcount _ | .vhash _ | .vsegsum _ | .vmapcnt _ => true
  | .vexp2q o | .vlog2q o | .vrcpq o | .vrsqq o | .vdivq o | .vquant o => byteOn (st.getM o.mask.toNat) 32 k
  | .vunpk o => byteOn (st.getM o.mask.toNat) (2 * tyW o.ty.toNat) k
  | .vmapscat o =>
    let n := tyN o.ty.toNat
    let idx (i : Nat) : Nat := ((st.srcs (foot (.vmapscat o)).vr).getD 1 { l0 := false, val := 0 }).lane 8 i
    byteOn (st.getM o.mask.toNat) (tyW o.ty.toNat) k
      && (lanesAt (tyW o.ty.toNat) k).all (fun i => idx i / n == o.e.toNat % 16)
  | .ldv o | .ldvs o | .ldvb o => byteOn (st.getM o.mask.toNat) (tyW o.ty.toNat) k
  | i =>
    match i.view with
    | .v _ o => byteOn (st.getM o.mask.toNat) (tyW o.ty.toNat) k
    | _ => true

/-- An uncorrectable word enters slot i (R366): of a vector register or queue entry that it reads, or of its destination where it does
not write the whole word. -/
def Strand.spoiled (st : Strand) (uid : Nat) (poison : List Nat) (i : Instr) : Bool :=
  let f := foot i
  f.vr.any (fun c => isV c && st.badWords uid poison c.toNat != [])
    || (st.slotCapt st.bun.slot).any (fun c => c.ent.any (fun e => e.bad))
    || f.vw.any (fun c => isV c && (st.badWords uid poison c.toNat).any (fun w => (List.range 8).any (fun b => !st.writesByte i (8 * w + b))))

/-- An uncorrectable word lies in the vector registers of the units that sel picks, or, with queues set, in a queue entry (R366). -/
def Strand.upsetIn (st : Strand) (uid : Nat) (poison : List Nat) (sel : Nat → Bool) (queues : Bool) : Bool :=
  poison.any (fun q => decide (poisonV uid 0 ≤ q) && decide (q < poisonV uid (64 * st.banks.length)) && sel ((q - poisonV uid 0) / 512))
    || (queues && (st.q.any (fun e => e.2.any (fun x => x.bad)) || st.bun.capt.any (fun c => c.ent.any (fun x => x.bad))))

/-- x registers of l awaiting data, as the accesses that fill them (R272). -/
def Strand.waitX (st : Strand) (l : List (BitVec 5)) : List Nat :=
  (st.xpend.filter (fun e => l.any (fun r => r.toNat = e.1))).map (fun e => e.2)

/-- v registers of l awaiting data. -/
def Strand.waitV (st : Strand) (l : List (BitVec 10)) : List Nat :=
  (st.vpend.filter (fun e => l.any (fun r => r.toNat = e.1))).map (fun e => e.2)

/-- Everything a slot must wait for before it reads its registers: pending x and v registers it reads or writes, queue
entries whose data has not arrived, and L3 under a load (R272). -/
def Strand.waits (st : Strand) (f : Foot) (lats : List Nat) : List Nat :=
  st.waitX (f.xr ++ f.xw)
    ++ st.waitV (f.vr ++ f.vw.toList)
    ++ (st.slotCapt st.bun.slot).filterMap (fun c => c.ent.bind (fun e => e.acc))
    ++ (if (3 ∈ lats ∨ 1019 ∈ f.vr.map (fun c => c.toNat)) then st.bun.l3acc.toList else [])

/-- The latches a slot reads. -/
def latchesRead (f : Foot) (lats : List Nat) : List Nat :=
  lats ++ (f.vr.filter isL).map (fun c => c.toNat - 1016)

/-- The register checks of a slot, in the order of R370: fields (0x02), window (0x03), latches (0x06), queue reads
(0x05); a slot with a pending register blocks. fx holds field offences the word itself does not show, pv the privilege
check of step 2; both may rest on register values, so a slot that still waits for one blocks before they are judged (R272). -/
def regStop (uid : Nat) (poison : List Nat) (i : Instr) (fx : List Nat) (pv : Option Stop)
    (st : Strand) : Option Stop :=
  let f := foot i
  let lats := latchesRead f (sLatches i)
  let outw := ((f.vw.toList ++ f.vr).filter (fun c => isV c && decide (st.banks.length ≤ c.toNat / 64))).map (fun c => c.toNat)
  let lost := lats.filter (fun n => (st.bun.latch.find? n).isNone && !(n == 3 && st.bun.l3acc.isSome))
  let under := ((st.slotCapt st.bun.slot).filter (fun c => c.ent.isNone)).map (fun c => c.q)
  let w := st.waits f (sLatches i)
  let bad := badFields st.bun.lits i ++ (if w = [] then fx else [])
  if badFields st.bun.lits i = [] ∧ (fx ≠ [] ∨ pv ≠ none) ∧ w ≠ [] then some (.block (.pending w))
  else if bad ≠ [] then some (.trap 0x02 (BitVec.ofNat 64 (chooseOf st.wordKey bad)))
  else if pv ≠ none then pv
  else if outw ≠ [] then some (.trap 0x03 (BitVec.ofNat 64 (chooseOf st.wordKey outw)))
  else if lost ≠ [] then some (.trap 0x06 (BitVec.ofNat 64 (chooseOf st.wordKey lost)))
  else if under ≠ [] then some (.trap 0x05 (BitVec.ofNat 64 (under.headD 0)))
  else if w ≠ [] then some (.block (.pending w))
  else if st.spoiled uid poison i then some (.contain 0)
  else none

/-- Room for a push by the slot (R370 step 9, R381). -/
def pushStop (i : Instr) (st : Strand) : Option Stop :=
  let f := foot i
  match f.vw with
  | some d =>
    if isQ d && !f.nw && decide (8 ≤ (st.getQ (d.toNat - 1008)).length) then
      some (.trap 0x04 (BitVec.ofNat 64 (d.toNat - 1008)))
    else none
  | none => none

end Sys2Proof.Machine
end

