-- ==== Sys2Proof/Machine/Flags.lean ====
section
/-! DEFINITION. The device's flag computations: saturation and census in the scale registers (R72, R76, R77). -/

namespace Sys2Proof.Machine

/-- Set SATS of e[n] (R72). -/
def Strand.sats (st : Strand) (n : Nat) : Strand := st.setE n (st.getE n ||| 0x8000#16)

/-- Set SATS of e[n] when b. -/
def Strand.satsIf (st : Strand) (n : Nat) (b : Bool) : Strand := if b then st.sats n else st

/-- e after a census of c is merged: the minimum with a valid census, else c; CV becomes 1 (R77). -/
def mergeCensus (e : BitVec 16) (c : Nat) : BitVec 16 :=
  let old := bits e 13 8
  setBits e 14 8 (64 + (if e.getLsbD 14 then min old c else c) % 64)

/-- The least of a list of redundant-sign-bit counts, none for no element. -/
def minOf : List Nat → Option Nat
  | [] => none
  | a :: l => some (l.foldl min a)

/-- A census write into e[n] over the given counts; no element leaves e unchanged (R77). -/
def Strand.census (st : Strand) (n : Nat) (l : List Nat) : Strand :=
  match minOf l with
  | some c => st.setE n (mergeCensus (st.getE n) c)
  | none => st

end Sys2Proof.Machine
end

