-- ==== Sys2Proof/Machine/Memory.lean ====
section
/-! DEFINITION. Addresses and memory (05): the launch packet's fields, the regions of the virtual space, canonical
keys of bytes, the page walk, cached translations and plain byte access. -/

namespace Sys2Proof.Machine

/-! ### Fields of numbers and byte records -/

/-- Bits [hi:lo] of a number. -/
def fieldN (w hi lo : Nat) : Nat := w / 2 ^ lo % 2 ^ (hi + 1 - lo)

/-- Bit i of a number. -/
def bitN (w i : Nat) : Bool := w / 2 ^ i % 2 == 1

/-- A number of n bits read signed. -/
def sextN (n w : Nat) : Int := readFmt true n (w % 2 ^ n)

/-- The little-endian word of n bytes at byte offset o of a record. -/
def recN (l : List Byte) (o n : Nat) : Nat := ofBytes ((l.drop o).take n)

/-! ### The launch packet (R174) -/

def Launch.entry (l : Launch) : Nat := fieldN (recN l.packet 0 8) 47 0
def Launch.args (l : Launch) : Nat := fieldN (recN l.packet 8 8) 47 0
def Launch.ncrew (l : Launch) : Nat := recN l.packet 16 4
def Launch.lid (l : Launch) : Nat := recN l.packet 20 4
def Launch.shape (l : Launch) : Nat := recN l.packet 24 8
def Launch.spc (l : Launch) : Nat := fieldN l.shape 63 62 + 1
def Launch.cpc (l : Launch) : Nat := fieldN l.shape 61 57 + 1
def Launch.units (l : Launch) : Nat := fieldN l.shape 56 53 + 1
def Launch.spad (l : Launch) : Nat := 1024 * fieldN l.shape 52 44
def Launch.barr (l : Launch) : Nat := fieldN l.shape 43 38
def Launch.gcap (l : Launch) : Nat := fieldN l.shape 37 29 + 1
def Launch.retn (l : Launch) : Bool := bitN l.shape 28
def Launch.emask (l : Launch) : Nat := fieldN l.shape 27 4
def Launch.misc (l : Launch) : Nat := recN l.packet 32 8
/-- D/16, the largest number of K-steps (R138). -/
def Launch.maxSteps (l : Launch) : Nat := fieldN l.misc 63 56 + 1
def Launch.cls (l : Launch) : Nat := fieldN l.misc 55 53
def Launch.sigm (l : Launch) : Bool := bitN l.misc 52
def Launch.vec (l : Launch) : Nat := fieldN l.misc 51 41
def Launch.deadline (l : Launch) : Nat := fieldN l.misc 31 0
def Launch.sigva (l : Launch) : Nat := fieldN (recN l.packet 40 8) 47 0
def Launch.compl (l : Launch) : Nat := fieldN (recN l.packet 48 8) 47 0
def Launch.savesz (l : Launch) : Nat := fieldN (recN l.packet 56 8) 63 48
def Launch.save (l : Launch) : Nat := fieldN (recN l.packet 56 8) 47 16 * 65536
/-! ### Entities -/

def Pkg.core (p : Pkg) (c : Nat) : Core := (p.cores.find? c).getD {}
def Pkg.setCore (p : Pkg) (c : Nat) (k : Core) : Pkg := { p with cores := RMap.put p.cores c k }
def Pkg.cluster (p : Pkg) (c : Nat) : Cluster := (p.clusters.find? c).getD {}
def Pkg.setCluster (p : Pkg) (c : Nat) (k : Cluster) : Pkg := { p with clusters := RMap.put p.clusters c k }
def Pkg.crew (p : Pkg) (c : Nat) : Crew :=
  (p.crews.find? c).getD { launch := 0, index := 0, cluster := 0, cores := [], spad := [], st := .ended }
def Pkg.setCrew (p : Pkg) (c : Nat) (k : Crew) : Pkg := { p with crews := RMap.put p.crews c k }
def Pkg.launch (p : Pkg) (l : Nat) : Launch := (p.launches.find? l).getD { queue := 0, packet := [] }
def Pkg.setLaunch (p : Pkg) (l : Nat) (k : Launch) : Pkg := { p with launches := RMap.put p.launches l k }
def Pkg.setStrand (p : Pkg) (u : Nat) (st : Strand) : Pkg := { p with strands := RMap.put p.strands u st }
def Pkg.modStrand (p : Pkg) (u : Nat) (f : Strand → Strand) : Pkg := { p with strands := p.strands.modify u f }

/-- The launch of a strand. -/
def Pkg.launchOf (p : Pkg) (st : Strand) : Launch := p.launch (p.crew st.crew).launch

/-- The unique number of a strand. -/
def Strand.uid (st : Strand) : Nat := 96 * st.crew + st.idx

/-- A fresh number for a command or unit operation. -/
def Pkg.fresh (p : Pkg) : Nat × Pkg := (p.nextNum, { p with nextNum := p.nextNum + 1 })

/-! ### Regions of the virtual space (R88, R96, R358) -/

def windowBase : Nat := 0x7F0000000000
def noticeBase : Nat := 0x7F0000600000

inductive Loc where
  | general
  | window (j off : Nat)
  | notice (off : Nat)
  /-- reserved, or bits [63:48] nonzero -/
  | bad
  deriving DecidableEq, Repr

def locOf (va : Nat) : Loc :=
  if va < windowBase then .general
  else if va < noticeBase then .window ((va - windowBase) / 2 ^ 18) ((va - windowBase) % 2 ^ 18)
  else if va < noticeBase + 0x1000 then .notice (va - noticeBase)
  else .bad

/-- Canonical keys of scratchpad and notice-area bytes. -/
def spadKey (core off : Nat) : Nat := 2 ^ 48 + core * 2 ^ 18 + off
def noticeKey (crew off : Nat) : Nat := 2 ^ 52 + crew * 4096 + off

/-- The key of byte off of a crew's allocation at position j. -/
def Crew.winKey (c : Crew) (j off : Nat) : Nat := spadKey (c.cores.getD j 0) (c.spad.getD j 0 + off)

/-- Address k is one of n bytes from a. -/
def within (a n k : Nat) : Bool := decide (a ≤ k) && decide (k < a + n)

/-- n bytes at offset off of position j lie in the crew's allocation (R96). -/
def Pkg.inWin (p : Pkg) (cu j off n : Nat) : Bool :=
  let l := p.launch (p.crew cu).launch
  j < l.cpc && off + n ≤ l.spad

/-- n bytes at a window VA lie in the allocation of one position. -/
def Pkg.inWinVa (p : Pkg) (cu va n : Nat) : Bool :=
  match locOf va with
  | .window j off => p.inWin cu j off n
  | _ => false

/-! ### Granules and plain bytes (R99) -/

/-- The granule place of a physical address: accesses to an LPDDR-6 home frame reach the granule where it lies (R99). -/
def Pkg.physKey (p : Pkg) (pa : Nat) : Nat :=
  match (p.granules.find? (pa / 65536)).bind (fun g => g.place) with
  | some f => f * 65536 + pa % 65536
  | none => pa

/-- The canonical form of memory: addresses strictly rising, and no entry equal to what an unlisted address reads as. -/
abbrev Memory.wf (m : List Host.Cell) : Prop := RMap.wf m (0 : Byte)

/-- A byte of memory; what nothing has written reads 0 (assumption 2). -/
def Pkg.byte (p : Pkg) (k : Nat) : Byte := p.mem.get 0 k

def Pkg.bytes (p : Pkg) (k n : Nat) : List Byte := (List.range n).map (fun i => p.byte (k + i))

def Pkg.num (p : Pkg) (k n : Nat) : Nat := ofBytes (p.bytes k n)

/-- Write bytes from key k upward. -/
def memWrite (m : RMap Byte) : Nat → List Byte → RMap Byte
  | _, [] => m
  | k, b :: bs => memWrite (RMap.set m 0 k b) (k + 1) bs

def Pkg.write (p : Pkg) (k : Nat) (bs : List Byte) : Pkg := { p with mem := memWrite p.mem k bs }

/-- The lowest uncorrectable word that meets n bytes at key k, if any (R366): memory words are the aligned 8 bytes. -/
def Pkg.poisoned (p : Pkg) (k n : Nat) : Option Nat :=
  (p.poison.filter (fun q => decide (q < 2 ^ 60) && decide (q < k + n) && decide (k < q + 8))).min?

/-- The lowest uncorrectable word that a write of n bytes at key k does not replace whole, and so consumes (R366). -/
def Pkg.partlyHit (p : Pkg) (k n : Nat) : Option Nat :=
  (p.poison.filter (fun q => decide (q < 2 ^ 60) && decide (q < k + n) && decide (k < q + 8) && !(decide (k ≤ q) && decide (q + 8 ≤ k + n)))).min?

/-- A write of whole words clears their errors (R366). -/
def Pkg.clearPoison (p : Pkg) (k n : Nat) : Pkg :=
  { p with poison := p.poison.filter (fun q => !(decide (k ≤ q) && decide (q + 8 ≤ k + n))) }

/-- The address FVAL names for a memory word (R357): a physical address, or the window VA of a scratchpad word. -/
def Pkg.fvalOf (p : Pkg) (cu k : Nat) : X :=
  if k < 2 ^ 48 then BitVec.ofNat 64 k
  else if k < 2 ^ 52 then
    let c := p.crew cu
    let core := (k - 2 ^ 48) / 2 ^ 18
    let j := c.cores.findIdx (fun x => x == core)
    BitVec.ofNat 64 (windowBase + j * 2 ^ 18 + ((k - 2 ^ 48) % 2 ^ 18 - c.spad.getD j 0))
  else BitVec.ofNat 64 (noticeBase + (k - 2 ^ 52) % 4096)

/-! ### Stores in flight (R114, R115) -/

/-- Numbers of the agents that belong to no core: the ring of die d, the base die, the host or another package, and the context save
engine of a cluster (R5, R12, R179). -/
def ringAgent (d : Nat) : Nat := 4608 + d
def baseAgent : Nat := 4616
def outerAgent : Nat := 4617
def saveAgent (cluster : Nat) : Nat := 4618 + cluster

/-- The cluster of an agent, if it lies in one. -/
def clusterOf (a : Nat) : Option Nat := if a < 4608 then some (a / 24) else if 4618 ≤ a then some (a - 4618) else none

/-- The die of an agent; 8 and 9 for those outside the dies. -/
def dieOf (a : Nat) : Nat := if a < 4608 then a / 576 else if 4618 ≤ a then (a - 4618) / 24 else a - 4608

/-- The code of the smallest scope that holds two agents: cores with their engines, rings, the base die, agents outside (R5). -/
def common (a b : Nat) : Nat :=
  if a = b then 1 else if (clusterOf a).isSome ∧ clusterOf a = clusterOf b then 2
  else if a = outerAgent ∨ b = outerAgent then 5 else if dieOf a = dieOf b then 3 else 4

def Part.len (q : Part) : Nat := q.data.length

def Part.meets (q : Part) (k n : Nat) : Bool := decide (q.addr < k + n) && decide (k < q.addr + q.len)

/-- A store part in flight. -/
structure Hit where
  num : Nat
  idx : Nat
  strand : Nat
  core : Nat
  part : Part
  deriving DecidableEq, Repr

/-- The store parts in flight that sel picks. -/
def Pkg.hits (p : Pkg) (sel : Part → Bool) : List Hit :=
  p.accs.flatMap (fun e =>
    if e.2.kind = .store then
      e.2.parts.zipIdx.filterMap (fun q =>
        if q.1.reached < 7 && sel q.1 then some { num := e.1, idx := q.2, strand := e.2.strand, core := e.2.core, part := q.1 } else none)
    else [])

/-- The step at which a store part was performed at scope code s, if it has been. -/
def Part.shownAt (q : Part) (s : Nat) : Option Nat := (q.shown.find? (fun e => decide (s < e.1))).map (fun e => e.2)

/-- x is later than y in coherence order (R115): by program order for one strand, else by the steps at which they were performed at
the smallest scope that holds both strands, where each becomes visible at one instant (R114); one that is not performed there yet
is later than one that is. -/
def Hit.later (x y : Hit) : Bool :=
  if x.strand = y.strand then y.num < x.num || (y.num == x.num && y.idx < x.idx)
  else
    let s := common x.core y.core
    match x.part.shownAt s, y.part.shownAt s with
    | some a, some b => decide (b < a)
    | none, some _ => true
    | _, _ => false

/-- The byte at canonical address k when the stores in flight that see picks are seen: that of the latest of them, else memory's. -/
def Pkg.seenByte (p : Pkg) (see : Hit → Bool) (k : Nat) : Byte :=
  match (p.hits (fun q => q.meets k 1)).filter see with
  | [] => p.byte (p.physKey k)
  | h :: hs =>
    let b := hs.foldl (fun b x => if x.later b then x else b) h
    b.part.data.getD (k - b.part.addr) 0

/-- The byte that an agent at PACKAGE scope reads: walkers and bundle fetches (R93, R129). -/
def Pkg.pkgByte (p : Pkg) (k : Nat) : Byte := p.seenByte (fun h => 4 < h.part.reached) k

/-- The byte that an engine of agent c reads: a store is seen once it is performed at the scope that holds both (R114). -/
def Pkg.engByte (p : Pkg) (c k : Nat) : Byte := p.seenByte (fun h => common h.core c < h.part.reached) k

/-- The bytes of a part, with those that bs covers from address k replaced. -/
def Part.overlay (q : Part) (k : Nat) (bs : List Byte) : Part :=
  { q with data := q.data.zipIdx.map (fun e =>
      if k ≤ q.addr + e.2 ∧ q.addr + e.2 < k + bs.length then bs.getD (q.addr + e.2 - k) e.1 else e.1) }

/-- Bytes written over what an agent sees: to memory, and to the stores in flight that it sees, which are earlier in coherence
order. -/
def Pkg.writeOver (p : Pkg) (see : Acc → Part → Bool) (k : Nat) (bs : List Byte) : Pkg :=
  let upd (a : Acc) (q : Part) : Part := if q.reached < 7 && see a q && q.meets k bs.length then q.overlay k bs else q
  { p.write (p.physKey k) bs with
    accs := p.accs.mapVals (fun a => if a.kind = .store then { a with parts := a.parts.map (upd a) } else a) }

/-- A granule on the move holds its accesses (R102). -/
def Pkg.moving (p : Pkg) (k : Nat) : Bool := ((p.granules.find? (k / 65536)).bind (fun g => g.moving)).isSome

/-- A load or atomic of the strand acquires at a scope: of the values fixed ahead for its later loads, those with no agent of the
scope active since stay (R120, R121, R132). -/
def Pkg.dropEarly (p : Pkg) (u scope : Nat) : Pkg :=
  { p with early := p.early.filter (fun e => e.strand != u || decide (scope < e.near)) }

/-- Every value fixed ahead for strand u is given up: a fence, or what a unit grants, orders all its later loads (R123, R127). -/
def Pkg.forget (p : Pkg) (u : Nat) : Pkg := { p with early := p.early.filter (fun e => e.strand != u) }

/-- An agent, strand who if it is one, acts: the values fixed ahead for other strands are marked with the scope that holds it and
each; scope gives its code by core. -/
def Pkg.heard (p : Pkg) (who : Option Nat) (scope : Nat → Nat) : Pkg :=
  { p with early := p.early.map (fun e =>
      if who = some e.strand then e
      else { e with near := min e.near ((p.strands.find? e.strand).elim 7 (fun st => scope st.core)) }) }

/-- Values fixed ahead for strand u of words that n bytes at address k meet are given up (R115). -/
def Pkg.dropEarlyAt (p : Pkg) (u k n : Nat) : Pkg :=
  { p with early := p.early.filter (fun e => e.strand != u || !(decide (e.key < k + n) && decide (k < e.key + 8))) }

/-- A write of n bytes at canonical address k by agent c, a strand's or, for none, an engine's or the host's, is performed at PACKAGE
scope, after the scopes of shown: what fetches read before is kept (R129). -/
def Pkg.logCode (p : Pkg) (who : Option Nat) (c : Nat) (shown : List (Nat × Nat)) (k n : Nat) : Pkg :=
  let old := (List.range n).map (fun i => p.pkgByte (k + i))
  { p with codeLog := p.codeLog ++ [{ step := p.tick, strand := who, core := c, shown := shown, key := k, old := old }] }

/-- The step at which a strand on core c came to see a logged write. -/
def CodeStore.seenAt (e : CodeStore) (c : Nat) : Nat := ((e.shown.find? (fun x => decide (common e.core c < x.1))).map (fun x => x.2)).getD e.step

/-- The others' writes to n bytes at key k that strand u of core c sees were visible before this step (R121); 0 where there is none. -/
def Pkg.newest (p : Pkg) (u c k n : Nat) : Nat :=
  let done := p.codeLog.foldl (fun r e =>
    if e.key < k + n ∧ k < e.key + e.old.length ∧ e.strand ≠ some u then max r (e.seenAt c + 1) else r) 0
  (p.hits (fun q => q.meets k n && 0 < q.reached)).foldl (fun r h =>
    if h.strand = u then r else max r ((h.part.shownAt (common h.core c)).elim 0 (fun t => t + 1))) done

/-! ### Page walk (R90 to R93, R98, R387) -/

/-- Tier of a physical address: 1 ring, 2 LPDDR-6, 3 host, 0 reserved (R89). -/
def tierOf (pa : Nat) : Nat :=
  if pa < 0x018000000000 ∧ pa < Config.memcap.toNat then 2
  else if 0x400000000000 ≤ pa ∧ pa < 0x400030000000 then 1
  else if 0x800000000000 ≤ pa ∧ pa < 2 ^ 48 then 3
  else 0

/-- A table frame lies in LPDDR-6 or the ring; any frame of the ring will do (assumption 56). -/
def tableTier (pa : Nat) : Bool := tierOf pa == 1 || tierOf pa == 2

def pteV (e : Nat) : Bool := bitN e 0
def pteLeaf (e : Nat) : Bool := e / 2 % 8 != 0
def pteFrame (e : Nat) : Nat := fieldN e 47 16 * 65536
def pteReserved (e : Nat) : Bool := fieldN e 63 48 != 0 || fieldN e 15 12 != 0

/-- A well-formed pointer to a table. -/
def ptePtr (e : Nat) : Bool := pteV e && !pteLeaf e && !pteReserved e && fieldN e 11 4 == 0 && tableTier (pteFrame e)

/-- A well-formed leaf, for an access at pa; er is EXPLICIT_RING. The frame tested against the tier and the pool is that of the access,
also under a leaf of 512 MiB (assumption 81). -/
def pteLeafOk (er e pa : Nat) : Bool :=
  let tier := fieldN e 8 7
  pteV e && pteLeaf e && !pteReserved e && fieldN e 5 4 != 3
    && (if tier == 0 || tier == 2 then tierOf pa == 2
        else if tier == 1 then tierOf pa == 1 && pa / 65536 % 64 < er
        else tierOf pa == 3)

/-- A leaf found: where its entry lies, the entry, the page's virtual and physical base and size. -/
structure Leaf where
  pte : Nat
  e : Nat
  va : Nat
  pa : Nat
  size : Nat
  deriving DecidableEq, Repr

inductive WalkResult where
  | leaf (l : Leaf)
  | missing
  /-- an uncorrectable word in a table, at this key -/
  | upset (key : Nat)
  /-- an entry lies in a granule on the move (R102) -/
  | busy
  deriving DecidableEq, Repr

/-- The entry at a, as the walker reads it. -/
def Pkg.pte (p : Pkg) (a : Nat) : Nat := ofBytes ((List.range 8).map (fun i => p.pkgByte (a + i)))

/-- What stands in the way of reading the entry at a. -/
def Pkg.pteStop (p : Pkg) (a : Nat) : Option WalkResult :=
  if p.moving a then some .busy else (p.poisoned (p.physKey a) 8).map (fun _ => .upset (p.physKey a))

/-- WALK (R92) without the permission test. -/
def Pkg.walkLeaf (p : Pkg) (er root va : Nat) : WalkResult :=
  let a1 := root * 65536 + fieldN va 47 39 * 8
  if !tableTier a1 then .missing
  else match p.pteStop a1 with
  | some r => r
  | none =>
    let e1 := p.pte a1
    if !ptePtr e1 then .missing
    else
      let a2 := pteFrame e1 + fieldN va 38 29 * 8
      match p.pteStop a2 with
      | some r => r
      | none =>
        let e2 := p.pte a2
        if pteV e2 && pteLeaf e2 then
          if pteLeafOk er e2 (pteFrame e2 + fieldN va 28 0) && fieldN (pteFrame e2) 28 16 == 0 then
            .leaf { pte := a2, e := e2, va := va / 2 ^ 29 * 2 ^ 29, pa := pteFrame e2, size := 2 ^ 29 }
          else .missing
        else if !ptePtr e2 then .missing
        else
          let a3 := pteFrame e2 + fieldN va 28 16 * 8
          match p.pteStop a3 with
          | some r => r
          | none =>
            let e3 := p.pte a3
            if pteLeafOk er e3 (pteFrame e3 + fieldN va 15 0) then
              .leaf { pte := a3, e := e3, va := va / 65536 * 65536, pa := pteFrame e3, size := 65536 }
            else .missing

/-- Kinds of access for permission: 0 load, 1 store, 2 atomic, 3 fetch (R92). -/
def permOk (sup : Bool) (flags acc : Nat) : Bool :=
  (!bitN flags 11 || sup)
    && (match acc with
        | 0 => bitN flags 1
        | 1 => bitN flags 2
        | 2 => bitN flags 1 && bitN flags 2 && fieldN flags 8 7 != 3
        | _ => bitN flags 3)

/-- The walk with its permission test and its A and D updates (R92, R93): the leaf and the package after it, or the
cause of the failure, 0 where it must wait; none for an uncorrectable table word. -/
def Pkg.walk (p : Pkg) (er root va acc : Nat) (sup : Bool) : Option (Except Nat (Leaf × Pkg)) :=
  match p.walkLeaf er root va with
  | .upset _ => none
  | .busy => some (.error 0)
  | .missing => some (.error 0x10)
  | .leaf l =>
    if permOk sup l.e acc then
      let l : Leaf := { l with e := l.e ||| 0x200 ||| (if acc = 1 ∨ acc = 2 then 0x400 else 0) }
      some (.ok (l, p.writeOver (fun _ q => 4 < q.reached) l.pte (toBytes 8 l.e)))
    else some (.error 0x11)

/-- The key of the uncorrectable table word that a walk meets (R366), 0 where it meets none. -/
def Pkg.tableUpset (p : Pkg) (er root va : Nat) : Nat :=
  match p.walkLeaf er root va with
  | .upset k => k
  | _ => 0

/-! ### Pinned granules (R101) -/

/-- Indexes of the 8-byte words of the frame at a that memory lists or a store in flight meets; every other reads 0. -/
def Pkg.wordsIn (p : Pkg) (a : Nat) : List Nat :=
  (((p.mem.filter (fun (e : Nat × Byte) => e.1 / 65536 == p.physKey a / 65536)).map (fun (e : Nat × Byte) => e.1 % 65536 / 8)
    ++ (p.hits (fun q => 4 < q.reached && q.addr / 65536 == a / 65536)).map (fun (h : Hit) => h.part.addr % 65536 / 8) : List Nat)).dedup

/-- The entries, but for those that are 0, of the table of n entries at the start of a frame. -/
def Pkg.entriesOf (p : Pkg) (a n : Nat) : List Nat :=
  if tableTier a then ((p.wordsIn a).filter (fun i => decide (i < n))).map (fun i => p.pte (a + 8 * i)) else []

/-- An entry is a TIER 00 leaf with PIN 1 that covers frame f; it spans n frames. -/
def pinLeaf (e n f : Nat) : Bool :=
  pteV e && pteLeaf e && !pteReserved e && fieldN e 5 4 != 3 && fieldN e 8 7 == 0 && bitN e 6
    && decide (pteFrame e / 65536 ≤ f) && decide (f < pteFrame e / 65536 + n)

/-- Some leaf of the page tables at a root frame fixes the granule of home frame f. -/
def Pkg.pinsUnder (p : Pkg) (f root : Nat) : Bool :=
  (p.entriesOf (root * 65536) 512).any (fun e1 => ptePtr e1 && (p.entriesOf (pteFrame e1) 1024).any (fun e2 =>
    pinLeaf e2 8192 f || (ptePtr e2 && (p.entriesOf (pteFrame e2) 8192).any (fun e3 => pinLeaf e3 1 f))))

/-- Count n 64-byte accesses by agent c to a granule of a TIER 00 page whose leaf has the given flags (R99). -/
def Pkg.touch (p : Pkg) (c flags pa n : Nat) : Pkg :=
  if fieldN flags 8 7 ≠ 0 ∨ 2 ^ 48 ≤ pa ∨ n = 0 then p
  else
    let f := pa / 65536
    let g := (p.granules.find? f).getD {}
    let d := dieOf c
    { p with granules := RMap.put p.granules f { g with
        count := BitVec.ofNat 16 (min (g.count.toNat + n) 0xFFFF)
        byDie := RMap.set g.byDie 0 d (g.byDie.get 0 d + n) } }

/-- The cached translation of a core that covers va (R94): of its 64 KiB frame. -/
def Pkg.tlbHit (p : Pkg) (core launch va : Nat) : Option Tlb :=
  p.tlb.find? (fun t => t.core == core && t.launch == launch && t.frame == va / 65536)

/-- The parts of n bytes at va on 64 KiB frames, in ascending address; fuel bounds their number. -/
def framesFrom : Nat → Nat → Nat → List (Nat × Nat)
  | 0, _, _ => []
  | f + 1, va, n =>
    if n = 0 then []
    else
      let m := min n (65536 - va % 65536)
      (va, m) :: framesFrom f (va + m) (n - m)

/-- The parts of n bytes at va, cut at 64 KiB boundaries (R95). -/
def pageParts (va n : Nat) : List (Nat × Nat) := framesFrom (n / 65536 + 2) va n

/-- 64-byte lines that n bytes at va meet, but for one counted already. -/
def linesOf (va n : Nat) (skip : Option Nat) : Nat :=
  (va + n - 1) / 64 + 1 - va / 64 - (if skip = some (va / 64) then 1 else 0)

/-- The translation of n bytes within one frame by an engine of agent c, walked at once: the canonical key and the package with A and
D set, or the cause, 0 while the bytes or an entry lie in a granule on the move (R102). Window addresses are those of crew cu. -/
def Pkg.engKey (p : Pkg) (er c cu : Nat) (sup : Bool) (va n acc : Nat) (skip : Option Nat := none) : Except Nat (Nat × Pkg) :=
  match locOf va with
  | .window j off => if p.inWin cu j off n then .ok ((p.crew cu).winKey j off, p) else .error 0x13
  | .notice off =>
    if 0x1000 < off + n then .error 0x10 else if acc = 0 ∧ off + n ≤ 0x248 then .ok (noticeKey cu off, p) else .error 0x13
  | .bad => .error 0x10
  | .general =>
    match p.walk er (p.launch (p.crew cu).launch).root va acc sup with
    | none => .error 0x30
    | some (.error e) => .error e
    | some (.ok (l, p1)) =>
      let pa := l.pa + (va - l.va)
      if p.moving pa then .error 0 else .ok (pa, p1.touch c l.e pa (linesOf va n skip))

/-- Read n bytes for an engine of agent c, part by part; the cause and the VA of the first failure. -/
def Pkg.engRead (p : Pkg) (er c cu : Nat) (sup : Bool) (va n : Nat) (skip : Option Nat := none) : Except (Nat × Nat) (List Byte × Pkg) :=
  (pageParts va n).foldl (fun r q =>
    match r with
    | .error e => .error e
    | .ok (bs, p) =>
      match p.engKey er c cu sup q.1 q.2 0 skip with
      | .error e => .error (e, q.1)
      | .ok (k, p) =>
        match p.poisoned (p.physKey k) q.2 with
        | some w => .error (0x30, q.1 + (w - p.physKey k))
        | none => .ok (bs ++ (List.range q.2).map (fun i => p.engByte c (k + i)), p)) (.ok ([], p))

/-- An agent c other than a strand writes at canonical address k, performed everywhere at once: fetches read what was there until they
have observed the write (R129), and other strands' values fixed ahead are marked. see picks the stores in flight that the agent sees. -/
def Pkg.agentWrite (p : Pkg) (c : Nat) (see : Acc → Part → Bool) (k : Nat) (bs : List Byte) : Pkg :=
  (((p.logCode none c [] k bs.length).writeOver see k bs).clearPoison (p.physKey k) bs.length).heard none (common c)

/-- Write bytes for an engine of agent c, part by part; every part is checked before any is written. -/
def Pkg.engWrite (p : Pkg) (er c cu : Nat) (sup : Bool) (va : Nat) (bs : List Byte) (skip : Option Nat := none) : Except (Nat × Nat) Pkg :=
  let keys := (pageParts va bs.length).foldl (fun r q =>
    match r with
    | .error e => .error e
    | .ok (ks, p) =>
      match p.engKey er c cu sup q.1 q.2 1 skip with
      | .error e => .error (e, q.1)
      | .ok (k, p) =>
        -- a write that does not replace the whole uncorrectable word consumes it (R366)
        match p.partlyHit (p.physKey k) q.2 with
        | some w => .error (0x30, q.1 + (w - p.physKey k))
        | none => .ok (ks ++ [(k, q.1 - va, q.2)], p)) (Except.ok (([] : List (Nat × Nat × Nat)), p))
  match keys with
  | .error e => .error e
  | .ok (ks, p) => .ok (ks.foldl (fun p k =>
      p.agentWrite c (fun a q => common a.core c < q.reached) k.1 ((bs.drop k.2.1).take k.2.2)) p)

end Sys2Proof.Machine
end

