-- ==== Sys2Proof/Machine/Queues.lean ====
section
/-! DEFINITION. The engine queues as QFENCE sees them (R124 to R126): which entries of a strand are not yet complete,
and which entries a join holds back. Queue numbers are the bits of QFENCE's mask: 0 MATRIX, 1 COPY, 2 FORME, 3 COLL,
4 POOL. Entries are numbered in the order in which they entered any queue. -/

namespace Sys2Proof.Machine

/-- The number under which a pool operation's result registers are pending. -/
def poolAcc (n : Nat) : Nat := 2 ^ 40 + n

/-- The entries of strand u in queue q that are not complete, by number; those of a saved crew are in its record. -/
def Pkg.entries (p : Pkg) (u q : Nat) : List Nat :=
  let mx (l : List MxQ) : List Nat := (l.filter (fun x => x.strand == u)).map (fun x => x.num)
  let copies (l : List CopyCmd) : List Nat := (l.filter (fun x => x.strand == u)).map (fun x => x.num)
  let formes (l : List FormeEnt) : List Nat := (l.filter (fun x => x.strand == u)).map (fun x => x.num)
  match q with
  | 0 => p.cores.flatMap (fun e => mx e.2.mxq) ++ p.crews.flatMap (fun e => e.2.image.mxq.flatMap (fun l => mx l.2))
  | 1 => p.cores.flatMap (fun e => copies (e.2.copyq ++ e.2.copyRun.toList.map (fun r => r.cmd)))
      ++ p.crews.flatMap (fun e => e.2.image.copyq.flatMap (fun l => copies l.2))
  | 2 => p.clusters.flatMap (fun e => formes e.2.formes) ++ p.crews.flatMap (fun e => formes e.2.image.formes)
      ++ (p.decs.filter (fun d => d.strand == u)).map (fun d => d.tok)
  | 3 => (p.strands.find? u).elim [] (fun st => st.collq.map (fun x => x.1))
      ++ (p.colls.filter (fun c => c.strand == u)).map (fun c => c.num)
  | _ => (p.pools.filter (fun e => e.2.strand == u)).map (fun e => e.2.num)

/-- Strand u has an entry numbered below n in queue q that is not complete. -/
def Pkg.pendingIn (p : Pkg) (u q n : Nat) : Bool := (p.entries u q).any (fun m => decide (m < n))

/-- The queues of a mask. -/
def maskQueues (m : Nat) : List Nat := (List.range 5).filter (bitN m)

/-- Every entry ahead of a join, in every queue it names, is complete. -/
def Pkg.joinDone (p : Pkg) (j : Join) : Bool := (maskQueues j.mask).all (fun q => !p.pendingIn j.strand q j.num)

/-- Entry n of strand u in queue q stands behind a join that is not done. -/
def Pkg.held (p : Pkg) (u q n : Nat) : Bool :=
  p.joins.any (fun j => j.strand == u && bitN j.mask q && decide (j.num < n) && !p.joinDone j)

/-! ### Entries that cannot run while their strands stand still (R178) -/

/-- Entry m of queue q is a FORME entry that is not ready, or a POOLPOPW in its home's waiting list: neither can run. -/
def Pkg.inert (p : Pkg) (u q m : Nat) : Bool :=
  match q with
  | 2 => p.clusters.any (fun e => e.2.formes.any (fun f => f.num == m && f.strand == u && !f.ready))
  | 4 => (p.pools.find? m).any (fun o => o.strand == u && o.joined && o.answer.isNone && o.kind == .popw)
  | _ => false

/-- The entries of the same crew ahead of entry m in an engine queue of a core, by strand and number. -/
def Pkg.aheadOf (p : Pkg) (u q m : Nat) : List (Nat × Nat) :=
  let cut (l : List (Nat × Nat)) : List (Nat × Nat) :=
    if l.any (fun x => x.2 == m) then (l.takeWhile (fun x => x.2 != m)).filter (fun x => x.1 / 96 == u / 96) else []
  match q with
  | 0 => p.cores.flatMap (fun e => cut (e.2.mxq.map (fun x => (x.strand, x.num))))
  | 1 => p.cores.flatMap (fun e => cut (e.2.copyq.map (fun x => (x.strand, x.num))))
  | _ => []

/-- Entry m of strand u in queue q waits, behind joins and in the order of its queue, for an entry that cannot run; fuel bounds the
length of the chain. -/
def Pkg.stuckIn (p : Pkg) : Nat → Nat → Nat → Nat → Bool
  | 0, _, _, _ => false
  | f + 1, u, q, m =>
    p.joins.any (fun j => j.strand == u && bitN j.mask q && decide (j.num < m)
      && (maskQueues j.mask).any (fun r => (p.entries u r).any (fun n => decide (n < j.num) && (p.inert u r n || p.stuckIn f u r n))))
    || (p.aheadOf u q m).any (fun x => p.stuckIn f x.1 q x.2)

/-- The same: a chain goes through each join at most once. -/
def Pkg.stuck (p : Pkg) (u q m : Nat) : Bool := p.joins != [] && p.stuckIn (2 * p.joins.length + 2) u q m

/-- Insert a join; joins already done are dropped. -/
def Pkg.addJoin (p : Pkg) (u mask : Nat) : Pkg :=
  { p with
    joins := p.joins.filter (fun j => !p.joinDone j) ++ [{ num := p.nextNum, strand := u, mask := mask }]
    nextNum := p.nextNum + 1 }

end Sys2Proof.Machine
end

