-- ==== Sys2Proof/Machine/Issue.lean ====
section
/-! DEFINITION. A strand's way through a bundle (R186 to R196): starting an issue, finishing a slot, ending a bundle,
taking a trap and returning from one. Everything here concerns the strand alone. -/

namespace Sys2Proof.Machine

/-! ### The header (R186, R187) -/

def hdrMask (h : Word32) : Nat := bits h 7 0
def hdrRepeat (h : Word32) : Nat := bits h 12 8
def hdrStop (h : Word32) : Bool := bit h 13
def hdrLit (h : Word32) : Nat := bits h 15 14
def hdrSync (h : Word32) : Nat := bits h 17 16
def hdrFlag (h : Word32) : Nat := bits h 22 18
def hdrCount (h : Word32) : Nat := bits h 31 23

/-- Slot k is present. -/
def present (h : Word32) (k : Nat) : Bool := h.getLsbD k

/-- Size of slot k in 4-byte words. -/
def slotWords (k : Nat) : Nat := (slotCls k).size / 32

/-- Length of the bundle in 4-byte words (R186). -/
def bundleWords (h : Word32) : Nat :=
  1 + ((List.range 8).filter (present h)).foldl (fun n k => n + slotWords k) 0 + hdrLit h

/-- The next address in sequence. -/
def Bundle.next (b : Bundle) : X := b.pc + BitVec.ofNat 64 (4 * bundleWords b.header)

/-! ### Issues (R189, R194) -/

/-- The word slot k issues: its present word at the first issue, the stepped word after, the stepped sticky word when
the slot is absent and STOP is 0. -/
def issueWord (st : Strand) (fresh : Bool) (k : Nat) : Option Nat :=
  match st.bun.words.find? k with
  | some w => if fresh then some w else if isSticky k then (st.bun.cur.find? k).map (stepWord (slotCls k)) else none
  | none =>
    if isSticky k && !hdrStop st.bun.header then (st.sticky.find? k).map (stepWord (slotCls k)) else none

/-- The words of the next issue, by slot number. -/
def issueWords (st : Strand) (fresh : Bool) : RMap Nat :=
  (List.range 8).filterMap (fun k => (issueWord st fresh k).map (fun w => (k, w)))

/-- Read the queue registers that slot k names, in field order (R51): pops leave the queue, peeks do not. A pop marks DQ where it finds
no entry too, and where a trap puts it back (assumption 77). -/
def captSlot (k : Nat) (peek : Bool) : List (BitVec 10) → Strand → Strand
  | [], st => st
  | c :: cs, st =>
    if isQ c then
      let n := c.toNat - 1008
      let l := st.getQ n
      let cap : Capt := { slot := k, q := n, pop := !peek, ent := l.head? }
      let st1 := if peek then st else st.setQ n l.tail
      captSlot k peek cs { st1 with bun := { st1.bun with capt := st1.bun.capt ++ [cap] } }
    else captSlot k peek cs st

/-- Make the queue reads of slots k and above of the current issue, in slot order. -/
def captFrom (k : Nat) (st : Strand) : Strand :=
  (st.bun.cur.filter (fun e => k ≤ e.1)).foldl (fun s e =>
    match slotInstr e.1 e.2 with
    | some i => captSlot e.1 (foot i).peek (foot i).vr s
    | none => s) st

/-- The first slot at or after k that holds a word; 8 when none does. -/
def nextSlot (cur : RMap Nat) (k : Nat) : Nat := ((cur.keys).filter (fun j => k ≤ j)).headD 8

/-- Start issue r: count it, form its words, capture latches and queue reads. -/
def Strand.startIssue (st : Strand) (fresh : Bool) (r : Nat) : Strand :=
  let cur := issueWords st fresh
  captFrom 0 { st with
    issues := st.issues + 1
    bun := { st.bun with
      rep := r, cur := cur, slot := nextSlot cur 0, latch := st.latch, l3acc := st.l3acc, l3lost := st.l3lost, capt := [], started := true } }

/-- A VNOP leaves NOP in its sticky word (R194, R251). -/
def isVnop (k w : Nat) : Bool := (k == 2 || k == 3) && opcode .V0 w == 0

/-- The sticky words after an issue (R189). -/
def stickyAfter (sticky cur : RMap Nat) : RMap Nat :=
  (cur.filter (fun e => isSticky e.1)).foldl (fun s e => if isVnop e.1 e.2 then s.del e.1 else s.put e.1 e.2) sticky

/-! ### Ending a bundle (R192, R242, R377) -/

/-- Perform ERET: the bundle at TPC comes next, resumed when TV is 1. Its issue count goes on from the handler's (assumption 57). -/
def Strand.doEret (st : Strand) : Strand :=
  let t := st.trapSet
  let st := ({ st with inh := false, sup := t.sup, phase := .boundary, pc := st.tpc.setWidth 64 }).dropLatches
  if st.tstat.getLsbD 9 then
    { st with
      sticky := t.cur.filter (fun e => isSticky e.1 && !isVnop e.1 e.2)
      pend := t.pend
      bun := { pc := st.tpc.setWidth 64, rep := bits st.tstat 8 4, slot := bits st.tstat 3 0, cur := t.cur, latch := t.latch,
               l3acc := t.l3acc, l3lost := t.l3lost, granted := t.granted, started := t.started } }
  else { st with sticky := [], pend := none, bun := {} }

/-- After the last issue and the header post: jumps and ERET are made at once; END, IDLE, YIELD, PARK and CTXLOAD wait
for their own action. A jump is the branch after which earlier stores to code are seen (R129). -/
def Strand.endBundle (st : Strand) : Strand :=
  match st.pend with
  | none => { st with pc := st.bun.next, phase := .boundary, bun := {} }
  | some (.jump t) =>
    { st with pc := t, phase := .boundary, pend := none, bun := {}, codeSeen := st.codeFence.getD st.codeSeen, codeFence := none }
  | some .eret => { st with pend := none }.doEret
  | some _ => { st with phase := .transfer }

/-- After the last issue: STOP clears the sticky words, then the header post, then the transfer. -/
def Strand.endIssues (st : Strand) : Strand :=
  let st := if hdrStop st.bun.header then { st with sticky := [] } else st
  if 2 ≤ hdrSync st.bun.header then { st with phase := .post } else st.endBundle

/-- End the current issue and start the ones that follow, past issues in which no slot holds a word. -/
def endIssue : Nat → Strand → Strand
  | 0, st => st.endIssues
  | n + 1, st =>
    let st := { st with sticky := stickyAfter st.sticky st.bun.cur }
    if st.bun.rep < hdrRepeat st.bun.header then
      let st := st.startIssue false (st.bun.rep + 1)
      if st.bun.slot = 8 then endIssue n st else st
    else st.endIssues

/-- The slot in execution has committed: on to the next slot, the next issue or the end of the bundle. -/
def Strand.finish (st : Strand) : Strand :=
  let st := { st with grant := none }
  let k := nextSlot st.bun.cur (st.bun.slot + 1)
  if k = 8 then endIssue (hdrRepeat st.bun.header + 1) st
  else { st with bun := { st.bun with slot := k } }

/-- Begin the issues of a decoded bundle whose wait, if any, is granted (R189, R377). -/
def Strand.beginIssues (st : Strand) : Strand :=
  let st := { st with phase := .issue }
  if st.bun.slot = 8 then st.endIssues
  else if st.bun.started then
    -- resumed: the words, latches and slot of the trap sticky set, the queue reads of the slots still to run
    let st := captFrom st.bun.slot { st with bun := { st.bun with capt := [] } }
    let k := nextSlot st.bun.cur st.bun.slot
    if k = 8 then endIssue (hdrRepeat st.bun.header + 1) st else { st with bun := { st.bun with slot := k } }
  else
    let k0 := st.bun.slot
    let st := st.startIssue true st.bun.rep
    let k := nextSlot st.bun.cur k0
    if k = 8 then endIssue (hdrRepeat st.bun.header + 1) st else { st with bun := { st.bun with slot := k } }

/-! ### Traps (R193, R241, R355, R375) -/

/-- Put back the pops made for slots k and above, in their original order (R193). -/
def Strand.putBack (st : Strand) (k : Nat) : Strand :=
  (st.bun.capt.filter (fun c => c.pop && k ≤ c.slot)).reverse.foldl (fun s c =>
    match c.ent with
    | some e => { s with q := RMap.set s.q [] c.q (e :: s.getQ c.q) }
    | none => s) st

/-- The TSTAT word (R64). -/
def tstatWord (tv : Bool) (rep slot : Nat) : BitVec 10 := BitVec.ofNat 10 ((if tv then 512 else 0) + rep * 16 + slot)

/-- The entry writes that every trap makes (R241, R355), with the sticky words cur and the transfer pend moved to the
trap sticky set. Execution continues at TVEC. -/
def Strand.enter (st : Strand) (cause : Nat) (tval : X) (tpc : X) (tstat : BitVec 10) (t : TrapSet) : Strand :=
  ({ st with
    tpc := (tpc.setWidth 48) &&& ~~~ 3#48
    tcause := BitVec.ofNat 8 cause
    tval := tval
    tstat := tstat
    inh := true
    trapSet := { t with sup := st.sup }
    sticky := []
    pend := none
    pc := st.tvec.setWidth 64
    phase := .boundary
    bun := {}
    grant := none
    run := .ready }).dropLatches

/-- A synchronous trap at slot k of the issue in execution. -/
def Strand.syncTrap (st : Strand) (cause : Nat) (tval : X) (k : Nat) : Strand :=
  let st := st.putBack k
  st.enter cause tval st.bun.pc (tstatWord true st.bun.rep k)
    { cur := st.bun.cur, latch := st.bun.latch, l3acc := st.bun.l3acc, l3lost := st.bun.l3lost, pend := st.pend, granted := st.bun.granted, started := true }

/-- The TPC a fault of the strand would have now: the bundle it is in, or goes on at (R364). -/
def Strand.here (st : Strand) : X := if st.phase = .boundary then st.pc else st.bun.pc

/-- A trap before the first issue, at decode or fetch (R372, R373): REP 0, SLOT 0, the wait not granted. -/
def Strand.decodeTrap (st : Strand) (cause : Nat) (tval : X) : Strand :=
  st.enter cause tval st.pc (tstatWord true 0 0)
    { cur := st.sticky, pend := st.pend, granted := false, started := false }

/-- A trap at a boundary or before the first issue, with TV 0 (R355, R356); tpc is where the strand would go on. -/
def Strand.asyncTrap (st : Strand) (cause : Nat) (tval : X) (tpc : X) : Strand :=
  st.enter cause tval tpc (tstatWord false 0 0) { cur := st.sticky, pend := st.pend }

end Sys2Proof.Machine
end

