-- ==== Sys2Proof/Machine/Units.lean ====
section
/-! DEFINITION. The units that serve one operation at a time: flags (R34, R54), run-queue readiness (R37), the crew
notice ring (R358, R359), rings (R105, R106), galley words (R104) and barriers (R289, R291). -/

namespace Sys2Proof.Machine

/-! ### Waking strands and records -/

/-- Give a blocked strand its grant; it is ready again. -/
def Pkg.rouse (p : Pkg) (u : Nat) (g : Grant) : Pkg := p.modStrand u (fun st => { st with run := .ready, grant := some g })

/-- The same with a grant that acquires (R127): the releases it comes from are cumulative, so no later load keeps a value fixed ahead. -/
def Pkg.wake (p : Pkg) (u : Nat) (g : Grant) : Pkg :=
  (p.forget u).modStrand u (fun st => { st with run := .ready, grant := some g, acqAt := p.tick })

/-- The strand of a slot that acquires at its commit (R127, R129); the values fixed ahead for it go with Pkg.forget. -/
def Strand.acquired (st : Strand) (tick : Nat) : Strand := { st with acqAt := tick }

/-- x put in its place in a list in order le. -/
def insertBy {α : Type} (le : α → α → Bool) (x : α) : List α → List α
  | [] => [x]
  | y :: l => if le x y then x :: y :: l else y :: insertBy le x l

/-- A list in order le; equal members keep their places. -/
def sortBy {α : Type} (le : α → α → Bool) (l : List α) : List α := l.foldr (insertBy le) []

/-- A list in ascending order. -/
def sortUp (l : List Nat) : List Nat := sortBy (fun a b => decide (a ≤ b)) l

/-- A record becomes ready: it takes the cluster's next AGE (R37). -/
def Pkg.makeReady (p : Pkg) (cl slot : Nat) : Pkg :=
  let k := p.cluster cl
  p.setCluster cl { k with
    rq := k.rq.modify slot (fun s => { s with st := .ready none, age := k.age })
    age := k.age + 1 }

/-- A ready record enters slot n (R36, R37). -/
def Pkg.enterRecord (p : Pkg) (cl n cu : Nat) (r : Rec) : Pkg :=
  let k := p.cluster cl
  (p.setCluster cl { k with rq := RMap.put k.rq n { crew := cu, st := .parked, bytes := r } }).makeReady cl n

/-- The records of a cluster that became ready after its AGE counter stood at a became so together: their AGEs follow their slot
numbers, home slots last (R37). -/
def Cluster.together (k : Cluster) (a : Word32) : Cluster :=
  let new (r : RqSlot) : Bool := r.st == .ready none && decide ((r.age - a).toNat < (k.age - a).toNat)
  let slots := (k.rq.filter (fun e => new e.2)).map (fun e => e.1)
  { k with rq := slots.zipIdx.foldl (fun m e => RMap.modify m e.1 (fun r => { r with age := a + BitVec.ofNat 32 e.2 })) k.rq }

/-- The records that have become ready since p0 became so together. -/
def Pkg.together (p p0 : Pkg) : Pkg :=
  { p with clusters := p.clusters.map (fun e => (e.1, e.2.together (p0.cluster e.1).age)) }

/-! ### Run-queue slots (R35, R36) -/

/-- General slots a crew holds. -/
def Cluster.generalHeld (k : Cluster) (cu : Nat) : Nat := (k.rq.filter (fun e => decide (e.1 < 512) && e.2.crew == cu)).length

/-- G of a crew. -/
def Pkg.gcap (p : Pkg) (cu : Nat) : Nat := (p.launch (p.crew cu).launch).gcap

/-- The slot an entering record of crew cu and a depth takes, if any (R36): of the free general slots the lowest (assumption 58). -/
def Pkg.takeSlot (p : Pkg) (cl cu depth : Nat) : Option Nat :=
  let k := p.cluster cl
  let general := if k.generalHeld cu < p.gcap cu then (List.range 512).find? (fun n => (k.rq.find? n).isNone) else none
  general.or (if 1 ≤ depth ∧ depth ≤ 32 ∧ (k.rq.find? (512 + depth)).isNone then some (512 + depth) else none)

/-- Slot n goes to a blocked entry: its record enters at once (R37), and its strand goes on. -/
def Pkg.giveSlot (p : Pkg) (cl n : Nat) (w : RqWait) : Pkg :=
  let k := p.cluster cl
  ((p.setCluster cl { k with rqWaits := k.rqWaits.erase w }).enterRecord cl n w.crew w.bytes).rouse w.strand (.rslot n)

/-- Slot n frees and goes to the blocked entry that R36 names. -/
def Pkg.freeSlot (p : Pkg) (cl n : Nat) : Pkg :=
  let k := p.cluster cl
  match k.rq.find? n with
  | none => p
  | some r =>
    let p := p.setCluster cl { k with rq := RMap.del k.rq n }
    let k := p.cluster cl
    let next : Option RqWait :=
      if n < 512 then
        (k.rqWaits.find? (fun w => w.crew == r.crew)).or (k.rqWaits.find? (fun w => decide (k.generalHeld w.crew < p.gcap w.crew)))
      else if n < 1024 then k.rqWaits.find? (fun w => w.depth == n - 512)
      else none
    match next with
    | some w => p.giveSlot cl n w
    | none => p

/-- Free every slot of a cluster that sel picks. -/
def Pkg.freeSlots (p : Pkg) (cl : Nat) (sel : RqSlot → Bool) : Pkg :=
  (((p.cluster cl).rq.filter (fun e => sel e.2)).map (fun e => e.1)).foldl (fun p n => p.freeSlot cl n) p

/-! ### The crew notice ring (R358, R359) -/

/-- The 16 bytes of a notice slot. -/
def noticeBytes (code src core sn : Nat) (value : X) : List Byte :=
  toBytes 2 code ++ toBytes 1 src ++ toBytes 1 0 ++ toBytes 2 (core * 4 + sn) ++ toBytes 2 0 ++ toBytes 8 value.toNat

/-- The contents of a new crew's notice area: its ring descriptor, BASE, SLOG 4, CLOG 5, LIVE (R358). -/
def noticeInit : List Byte := toBytes 8 0x7F0000600040 ++ toBytes 8 0 ++ [0x45#8, 0x01#8]

/-- An element, and not the end of the stream: the DEQ that gets it acquires (R127). -/
def Grant.isElem : Grant → Bool
  | .elem _ b => !b
  | _ => false

/-- Write 0 or 1 waiting ring operation's outcome: the strand waits on, or takes its grant. -/
inductive RingRes where
  | wait
  | done (g : Grant) (p : Pkg)
  deriving DecidableEq, Repr

/-- A descriptor that is an illegal operand field: LIVE 0, a reserved bit, SLOG or CLOG out of range, or BASE not
aligned to the slot size (R285). -/
def ringIllegal (p : Pkg) (dk : Nat) : Bool :=
  let b := p.num dk 8
  let sz := p.num (dk + 16) 1
  let fl := p.num (dk + 17) 1
  let slog := sz / 16
  fl % 2 == 0 || fl / 4 != 0 || b / 2 ^ 48 != 0 || p.num (dk + 18) 14 != 0
    || slog < 3 || 6 < slog || 12 < sz % 16 || b % 2 ^ slog != 0

/-- The key of ring slot i: the notice ring's slots lie in the notice area, every other ring's in the crew's window. -/
def ringSlotKey (p : Pkg) (cu base slog i : Nat) : Nat :=
  match locOf (base + i * 2 ^ slog) with
  | .window j off => (p.crew cu).winKey j off
  | .notice off => noticeKey cu off
  | _ => 0

/-- The slots lie in the crew's allocation of one position; the notice ring is exempt (R285). -/
def ringInside (p : Pkg) (cu dk base n : Nat) : Bool := dk == noticeKey cu 0 || p.inWinVa cu base n

/-- The uncorrectable word that a ring operation would consume (R366): of the descriptor, or of the slot that a DEQ reads; a DEQ of an
empty ring reads none. -/
def ringUpset (p : Pkg) (cu : Nat) (w : UnitWait) : Option Nat :=
  let dk := w.key
  let slog := p.num (dk + 16) 1 / 16
  let cap := 2 ^ (p.num (dk + 16) 1 % 16)
  (p.poisoned dk 32).or
    (if w.kind = 0 ∨ ringIllegal p dk = true ∨ p.num (dk + 8) 4 = p.num (dk + 12) 4 then none
     else p.poisoned (ringSlotKey p cu (p.num dk 8) slog (p.num (dk + 8) 4 % cap)) (2 ^ slog))

/-- A ring operation on words that hold no error, in the descriptor's atomic unit (R287): kind 0 ENQ, 1 DEQ. An ENQ finds the ring full
at TAIL - HEAD of 2^CLOG and, where a plain store has made it so, beyond (assumption 82). -/
def ringAct (p : Pkg) (cu : Nat) (w : UnitWait) : RingRes :=
  let dk := w.key
  let base := p.num dk 8
  let sz := p.num (dk + 16) 1
  let slog := sz / 16
  let cap := 2 ^ (sz % 16)
  let head := p.num (dk + 8) 4
  let tail := p.num (dk + 12) 4
  let occ := (tail + 2 ^ 32 - head) % 2 ^ 32
  let closed := bitN (p.num (dk + 17) 1) 1
  if ringIllegal p dk then .done (.trap 0x02 (BitVec.ofNat 64 w.va)) p
  else if !ringInside p cu dk base (2 ^ (slog + sz % 16)) then .done (.trap 0x13 (BitVec.ofNat 64 base)) p
  else if w.kind = 0 then
    if closed then .done (.elem 0 true) p
    else if cap ≤ occ then .wait
    else
      let sk := ringSlotKey p cu base slog (tail % cap)
      -- the write of TAIL is a release that a load may read (R121); the strand's later loads see what it has written (R115)
      let p := p.logCode (some w.strand) ((p.strands.find? w.strand).elim 0 (fun st => st.core)) [] (dk + 12) 4
      let p := ((p.write sk (toBytes (2 ^ slog) w.val.toNat)).clearPoison sk (2 ^ slog)).dropEarlyAt w.strand sk (2 ^ slog)
      .done (.elem 0 false) ((p.write (dk + 12) (toBytes 4 (tail + 1))).dropEarlyAt w.strand dk 32)
  else
    if occ = 0 then if closed then .done (.elem 0 true) p else .wait
    else
      let v := p.num (ringSlotKey p cu base slog (head % cap)) (2 ^ slog)
      .done (.elem (BitVec.ofNat 512 v) false) (p.write (dk + 8) (toBytes 4 (head + 1)))

/-- One ring operation: an uncorrectable word that it would consume is reported (R366). -/
def ringTry (p : Pkg) (cu : Nat) (w : UnitWait) : RingRes :=
  match ringUpset p cu w with
  | some k => .done (.upset (p.fvalOf cu k)) p
  | none => ringAct p cu w

/-- The first waiter on the ring whose operation can be performed now. -/
def ringFirst (p : Pkg) (key : Nat) : List UnitWait → Option (UnitWait × Grant × Pkg)
  | [] => none
  | w :: ws =>
    if w.key = key ∧ w.kind ≤ 1 then
      match ringTry p ((p.strands.find? w.strand).elim 0 (fun s => s.crew)) w with
      | .wait => ringFirst p key ws
      | .done g p' => some (w, g, p')
    else ringFirst p key ws

/-- Test the waiters of a ring again, in arrival order, until none can go (R106, R286, R288). -/
def ringServe : Nat → Nat → Pkg → Pkg
  | 0, _, p => p
  | n + 1, key, p =>
    match ringFirst p key p.unitWaits with
    | none => p
    | some (w, g, p') =>
      let p' := { p' with unitWaits := p'.unitWaits.filter (fun x => !(x.strand == w.strand && x.kind == w.kind)) }
      ringServe n key (if w.kind = 1 ∧ g.isElem then p'.wake w.strand g else p'.rouse w.strand g)

def Pkg.serveRing (p : Pkg) (key : Nat) : Pkg := ringServe p.unitWaits.length key p

/-- Queue a notice in a crew's ring: the device writes it as an ENQ would, without blocking; a full ring drops it and
counts it in DROPS. -/
def Pkg.notify (p : Pkg) (cu code src core sn : Nat) (value : X) : Pkg :=
  let dk := noticeKey cu 0
  let head := p.num (dk + 8) 4
  let tail := p.num (dk + 12) 4
  if (tail + 2 ^ 32 - head) % 2 ^ 32 < 32 then
    let k := noticeKey cu (0x40 + tail % 32 * 16)
    let p := (p.write k (noticeBytes code src core sn value)).clearPoison k 16
    (p.write (dk + 12) (toBytes 4 (tail + 1))).serveRing dk
  else
    let k := noticeKey cu 0x240
    p.write k (toBytes 8 (min (p.num k 8 + 1) (2 ^ 64 - 1)))

/-! ### Flags (R34, R54) -/

/-- Walk the waits of a flag in order: each whose count is met is granted and its count subtracted. Answers the waits
left, the flag's value and those granted. -/
def walkFlag (flag : Nat) : List FlagWait → Nat → List FlagWait × Nat × List FlagWaiter
  | [], v => ([], v, [])
  | w :: ws, v =>
    if w.flag = flag ∧ w.count ≤ v then
      let r := walkFlag flag ws (v - w.count)
      (r.1, r.2.1, w.who :: r.2.2)
    else
      let r := walkFlag flag ws v
      (w :: r.1, r.2.1, r.2.2)

/-- Records whose waits are met together become ready in ascending slot number, home slots last (R37). -/
def Pkg.readyAll (p : Pkg) (cl : Nat) (slots : List Nat) : Pkg := (sortUp slots).foldl (fun p n => p.makeReady cl n) p

/-- The strands, and the slots, of waits granted. -/
def headersOf (l : List FlagWaiter) : List Nat := l.filterMap (fun w => match w with | .header u => some u | .parked _ => none)
def parkedOf (l : List FlagWaiter) : List Nat := l.filterMap (fun w => match w with | .header _ => none | .parked n => some n)

/-- Serve the waits of a flag of a core. -/
def Pkg.serveFlag (p : Pkg) (c f : Nat) : Pkg :=
  let k := p.core c
  let r := walkFlag f k.waits ((k.flags.get 0 f).toNat)
  ((headersOf r.2.2).foldl (fun p u => p.wake u .ok)
    (p.setCore c { k with waits := r.1, flags := RMap.set k.flags 0 f (BitVec.ofNat 32 r.2.1) })).readyAll (c / 24) (parkedOf r.2.2)

/-- POST n to a flag, saturating (R54); a post that saturates queues the notice to the poster's crew. -/
def Pkg.post (p : Pkg) (c f n pcu pcore psn : Nat) : Pkg :=
  let k := p.core c
  let v := (k.flags.get 0 f).toNat + n
  let p1 := p.setCore c { k with flags := RMap.set k.flags 0 f (BitVec.ofNat 32 (min v (2 ^ 32 - 1))) }
  let p2 := p1.serveFlag c f
  if v ≤ 2 ^ 32 - 1 then p2 else p2.notify pcu 2 0 pcore psn (BitVec.ofNat 64 (32 * c + f))

/-- FSET: write the flag, then walk its waits (R283). -/
def Pkg.flagSet (p : Pkg) (c f v : Nat) : Pkg :=
  let k := p.core c
  (p.setCore c { k with flags := RMap.set k.flags 0 f (BitVec.ofNat 32 v) }).serveFlag c f

/-- The crew stands on no core. -/
def Crew.away (c : Crew) : Bool := match c.st with | .saved _ => true | _ => false

/-- The crew's record has not been read back. -/
def Crew.isSaved (c : Crew) : Bool := c.away || c.st == .restoring

/-- A post addressed to a crew's core position: the flags of a crew on no core are in its record (R178, R181). -/
def Pkg.postPos (p : Pkg) (cu j f n pcu pcore psn : Nat) : Pkg :=
  let c := p.crew cu
  if c.away then
    let v := (c.image.flags.get 0 (32 * j + f)).toNat + n
    let p1 := p.setCrew cu { c with image := { c.image with
      flags := RMap.set c.image.flags 0 (32 * j + f) (BitVec.ofNat 32 (min v (2 ^ 32 - 1))) } }
    -- the flag's own core is the one at its position when the post is made (assumption 59)
    if v ≤ 2 ^ 32 - 1 then p1 else p1.notify pcu 2 0 pcore psn (BitVec.ofNat 64 (32 * c.cores.getD j 0 + f))
  else p.post (c.cores.getD j 0) f n pcu pcore psn

/-! ### Galley words (R103, R104) -/

/-- Every galley word that is waited on is tested: of the waiters whose word has another generation now, strands take the generation
observed, and parked records become ready together (R37). An update of the word, a store or an atomic may have changed it (R281). -/
def Pkg.retestGalleys (p : Pkg) : Pkg :=
  let gen (w : UnitWait) : Nat := p.num (w.key + 8) 2
  let met (w : UnitWait) : Bool := (w.kind == 2 || w.kind == 3) && w.gen != gen w
  let hit := p.unitWaits.filter met
  let p1 : Pkg := (hit.filter (fun w => w.kind == 2)).foldl (fun p w => p.wake w.strand (.num (gen w)))
    { p with unitWaits := p.unitWaits.filter (fun w => !met w) }
  ((hit.filter (fun w => w.kind == 3)).foldl (fun p w => p.makeReady (p.crew w.strand).cluster w.rslot) p1).together p

/-- The uncorrectable word that an update of the galley word at key would consume. -/
def Pkg.galleyUpset (p : Pkg) (key : Nat) : Option Nat := p.poisoned key 16

/-- An update of n bytes completes a generation of the word at key. -/
def Pkg.galleyFires (p : Pkg) (key n : Nat) : Bool := p.num key 4 != 0 && decide (p.num key 4 ≤ p.num (key + 4) 4 + n)

/-- GALLEY_ADD (R104): n bytes counted into the word at key of crew cu's scratchpad; a completion with an FCORE at or
beyond cpc makes no post. The records that the posts and the new generation make ready become so together (R37). Reserved bits of
the word that a plain store has set are ignored and kept (assumption 60). -/
def Pkg.galleyAdd (p : Pkg) (cu key n pcore : Nat) : Pkg :=
  let p0 := p
  let target := p.num key 4
  let count := p.num (key + 4) 4 + n
  let sat32 (v : Nat) := min v (2 ^ 32 - 1)
  if target = 0 then p.write (key + 4) (toBytes 4 (sat32 count))
  else
    let times := count / target
    let gen := (p.num (key + 8) 2 + times) % 2 ^ 16
    let p := p.write (key + 4) (toBytes 4 (count % target) ++ toBytes 2 gen)
    let flag := p.num (key + 10) 1 % 32
    let fcore := p.num (key + 11) 1 % 32
    let postn := p.num (key + 12) 2
    let p := if 0 < times ∧ 0 < postn ∧ fcore < (p.launch (p.crew cu).launch).cpc then
        (List.range times).foldl (fun p _ => p.postPos cu fcore flag postn cu pcore 0) p
      else p
    p.retestGalleys.together p0

/-! ### Barriers (R289, R291) -/

def Crew.barrier (c : Crew) (b : Nat) : Barrier := (c.barriers.find? b).getD {}

/-- The key of a barrier's waiters in the wait list. -/
def barKey (cu b : Nat) : Nat := 2 ^ 56 + cu * 64 + b

/-- The barrier's members have all arrived. -/
def Barrier.complete (k : Barrier) : Bool := k.mem != [] && k.mem.all (fun i => i ∈ k.arrived)

/-- A phase completes: the drop set leaves, the sets empty, PHASE rises, and the waits of the phase are released: BWAIT (kind 4)
with the new phase, BARR with wait (kind 5) with that of its arrival. -/
def Pkg.barrierDone (p : Pkg) (cu b : Nat) : Pkg :=
  let c := p.crew cu
  let k := c.barrier b
  let phase := k.phase + 1
  let k' : Barrier := { mem := k.mem.filter (fun i => i ∉ k.drops), arrived := [], drops := [], phase := phase }
  let p := p.setCrew cu { c with barriers := RMap.put c.barriers b k' }
  let mine (w : UnitWait) : Bool := w.key == barKey cu b && w.kind != 6
  (p.unitWaits.filter mine).foldl (fun p w => p.wake w.strand (.num (if w.kind = 4 then phase.toNat else w.gen)))
    { p with unitWaits := p.unitWaits.filter (fun w => !mine w) }

/-- A BARR that has waited for its phase to end (kind 6; ty 1 with wait) arrives in the phase now in progress; a strand that has
left the member set meanwhile traps as one outside it (assumption 61). -/
def Pkg.barrierLate (p : Pkg) (cu b : Nat) (w : UnitWait) : Pkg :=
  let c := p.crew cu
  let k := c.barrier b
  let i := w.strand % 96
  let p : Pkg := { p with unitWaits := p.unitWaits.erase w }
  if i ∉ k.mem then p.rouse w.strand (.trap 0x02 (BitVec.ofNat 64 b))
  else
    let k' := { k with arrived := if i ∈ k.arrived then k.arrived else k.arrived ++ [i] }
    let p := p.setCrew cu { c with barriers := RMap.put c.barriers b k' }
    if w.ty = 1 then { p with unitWaits := p.unitWaits ++ [{ w with kind := 5, gen := k.phase.toNat }] }
    else p.rouse w.strand (.num k.phase.toNat)

/-- Test a barrier, and again after each arrival that a completion brings (R291); fuel bounds their number. -/
def barrierLoop (cu b : Nat) : Nat → Pkg → Pkg
  | 0, p => p
  | n + 1, p =>
    let k := (p.crew cu).barrier b
    if k.complete then barrierLoop cu b n (p.barrierDone cu b)
    else match p.unitWaits.find? (fun w => w.key == barKey cu b && w.kind == 6 && w.gen != k.phase.toNat) with
      | some w => barrierLoop cu b n (p.barrierLate cu b w)
      | none => p

def Pkg.barrierTest (p : Pkg) (cu b : Nat) : Pkg :=
  barrierLoop cu b (2 * (p.unitWaits.filter (fun w => w.key == barKey cu b)).length + 2) p

/-- Arrive, and drop when drop is set (R290). -/
def Pkg.barrierArrive (p : Pkg) (cu b idx : Nat) (drop : Bool) : Pkg :=
  let c := p.crew cu
  let k := c.barrier b
  let k' := { k with
    arrived := if idx ∈ k.arrived then k.arrived else k.arrived ++ [idx]
    drops := if drop && !(decide (idx ∈ k.drops)) then k.drops ++ [idx] else k.drops }
  (p.setCrew cu { c with barriers := RMap.put c.barriers b k' }).barrierTest cu b

end Sys2Proof.Machine
end

