-- ==== Sys2Proof/Machine/Ops.lean ====
section
/-! DEFINITION. The shared operations over the package: faults and first faults (R364), containment and launch failure
(R360 to R362), taking a trap (R355), the end of strands and crews (R40), and the frame in which every slot
instruction runs: its checks, its effect and its commit. -/

namespace Sys2Proof.Machine

/-- The outcome of an instruction or a step. -/
abbrev Out := Host.Outcome State Fault Refusal

/-- The state with another package. -/
def State.withPkg (s : State) (p : Pkg) : State := { s with pkg := p }

/-- EXPLICIT_RING as the walkers see it (R98). -/
def State.er (s : State) : Nat := s.host.explicitRing.toNat

/-! ### Faults of a launch (R364) -/

/-- Count a fault; the earliest is the first fault, ties to the lower core, then the lower strand. -/
def Pkg.countFault (p : Pkg) (ln cause core sn pc : Nat) (val : X) : Pkg :=
  let l := p.launch ln
  let f : FirstFault := { time := p.time, cause := cause, core := core, sn := sn, pc := pc, val := val }
  let first := match l.first with
    | none => some f
    | some g => if f.time = g.time ∧ (f.core < g.core ∨ (f.core = g.core ∧ f.sn < g.sn)) then some f else some g
  p.setLaunch ln { l with faults := min (l.faults + 1) (2 ^ 32 - 1), first := first }

/-- Queue an asynchronous trap for a strand (R356): a strand that has executed END passes it to the lowest strand of the crew
that has not, and a crew that has ended counts it as a fault. A strand that was discarded receives none. -/
def Pkg.asyncTo (p : Pkg) (u cause : Nat) (tval : X) : Pkg :=
  match p.strands.find? u with
  | none => p
  | some st =>
    let t : ATrap := { cause := cause, tval := tval }
    if st.lost then p
    else if st.run ≠ .ended then p.modStrand u (fun st => { st with async := st.async ++ [t] })
    else
      let us := (List.range 96).map (fun i => 96 * st.crew + i)
      match us.find? (fun v => (p.strands.find? v).elim false (fun x => x.run != .ended)) with
      | some v => p.modStrand v (fun st => { st with async := st.async ++ [t] })
      | none => p.countFault (p.crew st.crew).launch cause st.core st.sn 0 tval

/-! ### Leaving a core -/

/-- A strand leaves its core, if it is there: its place frees; if it was the issuing strand the core has none, and the next search
starts after it (R29). -/
def Pkg.leaveCore (p : Pkg) (st : Strand) : Pkg :=
  let k := p.core st.core
  if k.res.find? st.sn ≠ some st.uid then p
  else p.setCore st.core { k with
    res := RMap.del k.res st.sn
    cur := if k.cur = some st.sn then none else k.cur
    lastIssuer := if k.cur = some st.sn then k.cur else k.lastIssuer
    waits := k.waits.filter (fun w => w.who != .header st.uid) }

/-! ### Uncorrectable words of an engine's storage (R366) -/

/-- Keys of the rows of tiles and operand slots, and of buffer b of a channel. -/
def poisonTile (c t row : Nat) : Nat := 2 ^ 61 + c * 2 ^ 16 + t * 16 + row
def poisonOper (c o row : Nat) : Nat := 2 ^ 62 + c * 2 ^ 16 + o * 16 + row
def poisonBuf (ch b : Nat) : Nat := 2 ^ 63 + 4 * ch + b

/-- Words of tiles, slots or buffers that are written whole lose their errors. -/
def Pkg.mend (p : Pkg) (keys : List Nat) : Pkg := { p with poison := p.poison.filter (fun q => q ∉ keys) }

/-- The vector files hold no error for the strands of l. -/
def Pkg.mendFile (p : Pkg) (l : List Nat) : Pkg :=
  { p with poison := p.poison.filter (fun q => l.all (fun u => decide (q < poisonV u 0) || decide (poisonV u 0 + 8192 ≤ q))) }

/-- The rows of a tile, and of an operand slot, of core c. -/
def tileKeys (c t : Nat) : List Nat := (List.range 16).map (poisonTile c t)
def operKeys (c o : Nat) : List Nat := (List.range 16).map (poisonOper c o)

/-- Operand slots that were claimed in p0 and are no longer are 0, and hold no error. -/
def Pkg.mendFreed (p p0 : Pkg) : Pkg :=
  p.mend (p0.cores.flatMap (fun e =>
    (e.2.claim.filter (fun x => ((p.core e.1).claim.find? x.1).isNone)).flatMap (fun x => operKeys e.1 x.1)))

/-! ### Strands that are lost -/

/-- A strand is stopped and discarded (R361, R363). -/
def Pkg.discard (p : Pkg) (u : Nat) : Pkg :=
  match p.strands.find? u with
  | none => p
  | some st =>
    let p := p.leaveCore st
    { p.modStrand u (fun st => { st with run := .ended, lost := true, async := [] }) with
      unitWaits := p.unitWaits.filter (fun w => !(w.strand == u && w.kind != 3)) }

/-! ### Launch failure (R361, R362) -/

/-- Apply f to every core. -/
def Pkg.mapCores (p : Pkg) (f : Nat → Core → Core) : Pkg :=
  { p with cores := p.cores.map (fun e => (e.1, f e.1 e.2)) }

/-- Drop the flag waits of parked records that sel picks. -/
def Core.dropParked (k : Core) (sel : Nat → Bool) : Core :=
  { k with waits := k.waits.filter (fun w => match w.who with | .parked n => !sel n | _ => true) }

/-- Crews of a launch, by number. -/
def Pkg.crewsOf (p : Pkg) (ln : Nat) : List Nat := (p.crews.filter (fun e => e.2.launch == ln)).map (fun e => e.1)

/-- Address of the save record of a crew (R179). -/
def Launch.recSize (l : Launch) : Nat :=
  let sz := 64 + l.cpc * (128 + 4096 + 28672 + 32768 + l.spad) + l.spc * l.cpc * (8192 + 4096 * l.units)
    + 160 * (l.gcap + 32 + l.spc * l.cpc) + (8 + 8 * 1024)
  (sz + 65535) / 65536 * 65536

def Launch.nslot (l : Launch) : Nat := l.savesz * 65536 / l.recSize

def Launch.saveAddr (l : Launch) (i : Nat) : Nat := l.save + i % l.nslot * l.recSize

/-- VALID of a crew's save record becomes 0; with its header in a granule on the move, once the move is complete (R102). -/
def Pkg.clearValid (p : Pkg) (er cu : Nat) : Pkg :=
  let c := p.crew cu
  let l := p.launch c.launch
  let a := l.saveAddr c.index
  let late : Pkg := p.setCrew cu { c with unclear := true }
  match p.engRead er baseAgent cu true (a + 7) 1 with
  | .ok (bs, p1) =>
    match p1.engWrite er baseAgent cu true (a + 7) (toBytes 1 (ofBytes bs % 128)) with
    | .ok p2 => p2
    | .error (0, _) => late
    | .error _ => p
  | .error (0, _) => late
  | .error _ => p

/-- Crews whose VALID waits for the move of a granule clear it as soon as they can. -/
def Pkg.clearLate (p : Pkg) (er : Nat) : Pkg :=
  ((p.crews.filter (fun e => e.2.unclear)).map (fun e => e.1)).foldl (fun p cu =>
    (p.setCrew cu { p.crew cu with unclear := false }).clearValid er cu) p

/-! ### Abandoned collectives (R403) -/

/-- TVAL of the cause 0x28 for a communicator and a rank (R403). -/
def peerLost (comm rank : Nat) : X := BitVec.ofNat 64 (2 ^ 63 + 2 ^ 16 * comm + rank)

/-- A collective is abandoned at this rank: its ranges and what its peers have sent go, it still counts, and its strand
takes an asynchronous trap. tell: an abandon is sent to the peers. -/
def Pkg.abandonColl (p : Pkg) (c : Coll) (cause : Nat) (tval : X) (tell : Bool) : Pkg :=
  ({ p with
    colls := p.colls.filter (fun d => d.num != c.num)
    ranges := p.ranges.filter (fun r => !(r.src == 2 && r.tok == c.num))
    wanted := p.wanted.filter (fun r => !(r.src == 2 && r.tok == c.num))
    inbox := p.inbox.filter (fun m => !(m.comm == c.comm && m.num == c.m))
    collDone := RMap.put p.collDone c.comm (p.collDone.get 0 c.comm + 1)
    outbox := if tell then p.outbox ++ [.abandon c.comm c.m] else p.outbox } : Pkg).asyncTo c.strand cause tval

/-- A COLL still queued of a saved crew that had sent a hold on its communicator is abandoned with its launch: it counts as
accepted, and its peers are told (R405). -/
def Pkg.abandonQueued (p : Pkg) (comm : Nat) : Pkg :=
  { p with
    collAcc := RMap.put p.collAcc comm (p.collAcc.get 0 comm + 1)
    collDone := RMap.put p.collDone comm (p.collDone.get 0 comm + 1)
    outbox := p.outbox ++ [.abandon comm (p.collAcc.get 0 comm)] }

/-- The communicator that a queued COLL's block names, as it stood at the issue. -/
def CollCmd.comm : CollCmd → Option Nat
  | .coll _ _ seen => if seen.length = 128 then some (fieldN (recN seen 0 8) 55 48) else none
  | _ => none

/-! ### Launch failure: the commands (R362) -/

/-- The operand slots a crew claims on a core are unclaimed and 0. -/
def Core.releaseCrew (k : Core) (cu : Nat) : Core :=
  let mine := (k.claim.filter (fun e => e.2 == cu)).map (fun e => e.1)
  { k with
    claim := k.claim.filter (fun e => e.2 != cu)
    releasing := k.releasing.filter (fun o => o ∉ mine)
    opnd := k.opnd.filter (fun e => e.1 / 256 ∉ mine) }

/-- The slots of a queued ORELEASE. -/
def MxQ.slots (e : MxQ) : List Nat :=
  match e.ent with
  | .orelease f n => (List.range n).map (fun i => f + i)
  | _ => []

/-- Drop every engine command of the launch from a core (R361, R362). A slot whose ORELEASE is dropped is releasing no more; the slots
of a crew that has ended already are released at once (R398). -/
def Core.dropLaunch (k : Core) (mine ended : Nat → Bool) : Core :=
  let gone := k.mxq.filter (fun e => mine (e.strand / 96))
  (gone.map (fun e => e.strand / 96)).foldl (fun k cu => if ended cu then k.releaseCrew cu else k)
  { k with
    mxq := k.mxq.filter (fun e => !mine (e.strand / 96))
    releasing := k.releasing.filter (fun o => o ∉ gone.flatMap MxQ.slots)
    copyq := k.copyq.filter (fun e => !mine e.crew)
    copyRun := k.copyRun.bind (fun r => if mine r.cmd.crew then none else some r)
    armed := k.armed.filter (fun e => !mine e.cmd.crew) }

/-- A record waits in the slot: no strand runs it. -/
def RqSlot.waits (r : RqSlot) : Bool := match r.st with | .running _ => false | _ => true

/-- A SHARED engine whose forme has been discarded is free. -/
def Pkg.freeEngines (p : Pkg) : Pkg :=
  p.mapCores (fun c k => { k with
    forme := k.forme.bind (fun n => if (p.cluster (c / 24)).formes.any (fun f => f.num == n) then some n else none) })

/-- Pool entries that sel picks are discarded; a result register that awaited one is released as it stands. -/
def Pkg.dropPools (p : Pkg) (sel : PoolOp → Bool) : Pkg :=
  let gone := (p.pools.vals.filter sel).map (fun o => poolAcc o.num)
  { p with
    pools := p.pools.filter (fun e => !sel e.2)
    strands := if gone = [] then p.strands
      else p.strands.mapVals (fun st => { st with xpend := st.xpend.filter (fun e => e.2 ∉ gone) }) }

/-- Every engine command of a launch is discarded: matrix, copy, armed, forme and COLL entries, the POOL entries that have not left their
core, its ranges and its collectives. A COLL still queued behind a hold of its rank is abandoned too. -/
def Pkg.dropCommands (p : Pkg) (ln : Nat) : Pkg :=
  let mine (cu : Nat) : Bool := (p.crew cu).launch == ln
  let queued := (p.strands.filter (fun e => mine e.2.crew)).flatMap (fun e =>
    (e.2.collq.filterMap (fun q => q.2.comm)).filter (fun c => decide ((e.2.crew, c) ∈ p.holdsOut)))
  let p := p.dropPools (fun o => mine o.crew && !o.sent)
  let p := (p.mapCores (fun _ k => k.dropLaunch mine (fun cu => (p.crew cu).st == .ended))).mendFreed p
  let p : Pkg := { p with
    clusters := p.clusters.mapVals (fun k => { k with formes := k.formes.filter (fun e => !mine e.crew) })
    ranges := p.ranges.filter (fun r => r.launch != ln)
    wanted := p.wanted.filter (fun r => r.launch != ln)
    decs := p.decs.filter (fun d => !mine d.crew)
    strands := p.strands.mapVals (fun st => if mine st.crew then { st with collq := [] } else st)
    holdsOut := p.holdsOut.filter (fun h => !mine h.1) }
  let p := (p.colls.filter (fun c => c.launch == ln)).foldl (fun p c => p.abandonColl c 0x28 (peerLost c.comm c.rank) true) p
  (queued.foldl Pkg.abandonQueued p).freeEngines

/-! ### The end of a crew (R40, R156, R398) -/

/-- No interface keeps the parameters of a pool described in the n bytes from a (R166): they are given up, or move. -/
def Pkg.uncache (p : Pkg) (a n : Nat) : Pkg :=
  p.mapCores (fun _ k => { k with poolCache := k.poolCache.filter (fun e => !within a n e.1) })

/-- The slots a crew still claims on core n when it ends are released as ORELEASE would leave them: behind what is queued in a
DIRECT engine, else at once (R398). -/
def Core.endClaims (k : Core) (cu num : Nat) : Core :=
  let mine := (k.claim.filter (fun e => e.2 == cu && !(decide (e.1 ∈ k.releasing)))).map (fun e => e.1)
  if k.mxq = [] ∨ k.mode = .shared ∨ k.service ≠ .inService then k.releaseCrew cu
  else { k with
    releasing := k.releasing ++ mine
    mxq := k.mxq ++ mine.map (fun o => { num := num, strand := 96 * cu, ent := .orelease o 1 }) }

/-- Every strand of the crew has executed END: strands leave their cores, claims, records, armed commands, formes not ready and waits go,
and the launch counts the crew. A core left empty with a TSAT set marks TSATS (R175). -/
def Pkg.endCrew (p : Pkg) (cu : Nat) : Pkg :=
  let c := p.crew cu
  let us := (p.strands.filter (fun e => e.2.crew == cu)).map (fun e => e.1)
  let p := us.foldl (fun p u => match p.strands.find? u with | some st => p.leaveCore st | none => p) p
  let tsat := c.cores.any (fun k => (p.core k).res.isEmpty && (p.core k).mode == .direct && (p.core k).tsat.any (fun e => e.2))
  let parked (n : Nat) : Bool := ((p.cluster c.cluster).rq.find? n).elim false (fun r => r.crew == cu)
  let p := (p.mapCores (fun n k =>
    if n / 24 = c.cluster then
      { (k.endClaims cu p.nextNum).dropParked parked with armed := k.armed.filter (fun a => a.cmd.crew != cu) }
    else k)).mendFreed p
  let p := p.freeSlots c.cluster (fun r => r.crew == cu)
  let k := p.cluster c.cluster
  let p := p.setCluster c.cluster { k with formes := k.formes.filter (fun f => !(f.crew == cu && !f.ready)) }
  let p : Pkg := { p with unitWaits := p.unitWaits.filter (fun w => !(w.kind == 3 && w.strand == cu)) }
  let l := p.launch c.launch
  let p := (List.range c.cores.length).foldl (fun p j => p.uncache (c.winKey j 0) l.spad) p
  let p := p.setLaunch c.launch { l with
    done := if l.failed then l.done else l.done + 1
    ended := l.ended + 1, tend := p.time, tsats := l.tsats || tsat }
  p.setCrew cu { c with st := .ended, barriers := [], tags := [] }

/-- A crew is over once every strand of it has ended or is gone (R40, R364). -/
def Pkg.crewOver (p : Pkg) (cu : Nat) : Pkg :=
  if (p.crew cu).st ≠ .ended ∧ p.strands.all (fun e => e.2.crew != cu || e.2.run == .ended) then p.endCrew cu else p

/-! ### Launch failure: the launch (R362) -/

/-- The launch fails: placement ends, saved crews, records, commands, ranges and collectives are discarded (R362). -/
def Pkg.failLaunch (p : Pkg) (er ln core : Nat) : Pkg :=
  let l := p.launch ln
  if l.failed then p
  else
    let mine (cu : Nat) : Bool := (p.crew cu).launch == ln
    let saved := (p.crewsOf ln).filter (fun cu => (p.crew cu).isSaved)
    let placed := saved.filter (fun cu => (p.crew cu).st == .restoring)
    let p := p.setLaunch ln { l with failed := true, placing := false, failTime := p.time, failCore := core }
    let p := saved.foldl (fun p cu => p.clearValid er cu) p
    let p := p.dropCommands ln
    let p := saved.foldl (fun p cu =>
      let us := (p.strands.filter (fun e => e.2.crew == cu)).map (fun e => e.1)
      us.foldl (fun p u => match p.strands.find? u with
        | some st => (p.leaveCore st).modStrand u (fun st => { st with run := .ended })
        | none => p) (p.setCrew cu { p.crew cu with st := .lost })) p
    let p := placed.foldl Pkg.crewOver p
    let parkedOf (cl : Nat) (n : Nat) : Bool := ((p.cluster cl).rq.find? n).elim false (fun r => mine r.crew)
    let p := p.mapCores (fun c k => k.dropParked (parkedOf (c / 24)))
    let p : Pkg := { p with
      clusters := p.clusters.mapVals (fun k => { k with rqWaits := k.rqWaits.filter (fun w => !mine w.crew) })
      unitWaits := p.unitWaits.filter (fun w => !(w.kind == 3 && mine w.strand)) }
    p.clusters.keys.foldl (fun p cl => p.freeSlots cl (fun r => r.waits && mine r.crew)) p

/-- Commands that a strand of a failed launch issues are discarded at once (R363). -/
def Pkg.dropFailed (p : Pkg) (st : Strand) : Pkg :=
  let ln := (p.crew st.crew).launch
  if (p.launch ln).failed then p.dropCommands ln else p

/-! ### Containment (R360, R361) -/

/-- The aligned 8 bytes of a store part of a lost strand are performed or not, an open choice for each (R361). -/
def Pkg.settleStores (p : Pkg) (gone : Nat → Bool) : Pkg :=
  let lost := p.accs.filter (fun e => gone e.2.strand)
  let p1 := lost.foldl (fun p e =>
    if e.2.kind = .store then
      e.2.parts.foldl (fun p q =>
        if q.reached < 7 ∧ (Config.openByte p.tick (q.addr / 8)).getLsbD 0 = true then
          (((p.logCode (some e.2.strand) e.2.core q.shown q.addr q.len).write (p.physKey q.addr) q.data).clearPoison (p.physKey q.addr) q.len).heard
            (some e.2.strand) (common e.2.core)
        else p) p
    else p) p
  { p1 with accs := p1.accs.filter (fun e => !gone e.2.strand) }

/-- Containment of a core (R360, R361): its strands are lost, its engines stop and their commands are discarded, and
every launch that lost a strand fails. sn, fpc and fval describe the consumer or the undeliverable trap: fpc is the TPC
that fault would have (R364). -/
def Pkg.contain (p : Pkg) (er c cause sn fpc : Nat) (fval : X) : Pkg :=
  let us := (p.core c).res.vals
  let lns := ((us.filterMap (fun u => p.strands.find? u)).map (fun st => (p.crew st.crew).launch)).dedup
  let p := lns.foldl (fun p ln => p.countFault ln cause c sn fpc fval) p
  let crews := ((us.filterMap (fun u => p.strands.find? u)).map (fun st => st.crew)).dedup
  let p := p.dropPools (fun o => decide (o.strand ∈ us) && !o.sent)
  let p := us.foldl (fun p u => (p.discard u).modStrand u (fun st => { st with contained := true })) p
  let p : Pkg := { p with crews := p.crews.mapVals (fun k => if c ∈ k.cores ∧ k.st ≠ .ended then { k with dead := c :: k.dead } else k) }
  let p := p.settleStores (fun u => u ∈ us)
  let p := crews.foldl (fun p cu => p.setCrew cu { p.crew cu with st := .lost }) p
  let k := p.core c
  let p := p.setCore c { k with
    service := .contained, mxq := [], copyq := [], copyRun := none, armed := [], forme := none, cur := none, lastIssuer := none, waits := [] }
  let cl := p.cluster (c / 24)
  let p := p.setCluster (c / 24) { cl with formes := cl.formes.filter (fun f => f.core != some c) }
  crews.foldl Pkg.crewOver (lns.foldl (fun p ln => p.failLaunch er ln c) p)

/-! ### Taking a trap (R355, R360, R363) -/

/-- Strand u, now st, takes a trap whose entry leaves it as entered. A trap under INH or with TVEC 0 contains the core,
or discards the strand of a failed launch (R363), and is not itself counted. SVC and BRK are not counted (R364). -/
def Pkg.takeTrap (p : Pkg) (er u : Nat) (st : Strand) (cause : Nat) (tval : X) (entered : Strand) : Pkg :=
  let ln := (p.crew st.crew).launch
  let undeliverable := st.inh || st.tvec == 0
  if (p.launch ln).failed then
    if undeliverable then ((p.setStrand u st).discard u).crewOver st.crew
    else
      let p := if cause = 0x38 ∨ cause = 0x39 then p else p.countFault ln cause st.core st.sn entered.tpc.toNat tval
      p.setStrand u entered
  else if undeliverable then (p.setStrand u st).contain er st.core cause st.sn entered.tpc.toNat tval
  else
    let p := if cause = 0x38 ∨ cause = 0x39 then p else p.countFault ln cause st.core st.sn entered.tpc.toNat tval
    p.setStrand u entered

/-! ### The frame of a slot instruction (R193, R370) -/

/-- The slot in execution does not commit. -/
def Pkg.stopAt (p : Pkg) (er u : Nat) (st : Strand) : Stop → Pkg
  | .trap c v => p.takeTrap er u st c v (st.syncTrap c v st.bun.slot)
  | .block (.walk va acc) =>
    let p := p.setStrand u { st with run := .blocked (.walk va acc), grant := none }
    { p with walks := p.walks ++ [{ strand := u, core := st.core, va := va, acc := acc }] }
  | .block w => p.setStrand u { st with run := .blocked w, grant := none }
  | .contain v => (p.setStrand u st).contain er st.core 0x30 st.sn st.here.toNat v
  | .hold => p

/-- A refusal or release delivered to a blocked slot by a unit. -/
def grantStop (st : Strand) : Option Stop :=
  match st.grant with
  | some (.trap c v) => some (.trap c v)
  | some (.upset v) => some (.contain v)
  | _ => none

/-- Bits of an E word that no field holds are an illegal operand field (R371); its value is left open. -/
def unusedStop (i : Instr) (st : Strand) : Option Stop :=
  match st.bun.cur.find? st.bun.slot with
  | some w => if unusedBits (slotCls st.bun.slot) w i = 0 then none else some (.trap 0x02 (Config.unusedTval st.wordKey))
  | none => none

/-- The first check that a slot fails, in the order of R370; none when it may commit. fx, pv and chk are the
instruction's own field limits, privilege and memory, engine and depth checks. -/
def slotStop (i : Instr) (fx : List Nat) (pv : Option Stop) (chk : Option Stop) (s : State) (st : Strand) : Option Stop :=
  (((grantStop st).or (unusedStop i st)).or
    (regStop s.focus s.pkg.poison i fx pv st)).or (chk.or (pushStop i st))

/-- Banks of a core's vector file leave retention (R48). -/
def Pkg.wakeBanks (p : Pkg) (core : Nat) (bs : List Nat) : Pkg :=
  { p with cores := RMap.modify p.cores core (fun k => { k with retained := k.retained.filter (fun b => b ∉ bs) }) }

/-- A slot of strand u commits: the banks of the vector registers it writes, and of those it reads from units in use, leave retention
(R48, R61), a vector register it writes loses its errors (R366), and the strand is st. -/
def Pkg.commit (p : Pkg) (u : Nat) (i : Instr) (st : Strand) : Pkg :=
  let f := foot i
  let w := if f.nw then [] else f.vw.toList.filter isV
  let vs := w ++ f.vr.filter (fun c => isV c && st.vused c.toNat)
  let p := if vs = [] then p else
    { p with
      poison := p.poison.filter (fun q => w.all (fun c => decide (q < poisonV u c.toNat) || decide (poisonV u c.toNat + 8 ≤ q)))
      cores := RMap.modify p.cores st.core (fun k => { k with
        retained := k.retained.filter (fun b => vs.all (fun c => st.banks.getD (c.toNat / 64) 16 != b)) }) }
  p.setStrand u st

/-- A slot whose effect stays in the strand. -/
def onSlot (i : Instr) (fx : Strand → List Nat) (pv : Strand → Option Stop) (eff : Strand → Strand) (s : State) : Out :=
  match s.pkg.strands.find? s.focus with
  | none => .fault .noStrand
  | some st =>
    match slotStop i (fx st) (pv st) none s st with
    | some stop => .next { s with pkg := s.pkg.stopAt s.er s.focus st stop }
    | none => .next { s with pkg := s.pkg.commit s.focus i (eff st).finish }

/-- What the effect of a slot on the package's units comes to. -/
inductive Res where
  /-- the slot does not commit -/
  | stop (w : Stop)
  /-- the strand waits at a unit, which has taken its request -/
  | wait (p : Pkg) (w : Why)
  /-- the slot commits, leaving the package and its strand so -/
  | done (p : Pkg) (st : Strand)
  /-- the slot has taken a trap of its own or moved its strand: the package is final -/
  | moved (p : Pkg)

/-- A slot with package-wide checks and effect. -/
def onUnit (i : Instr) (fx : State → Strand → List Nat) (pv : Strand → Option Stop) (chk : State → Strand → Option Stop)
    (eff : State → Strand → Res) (s : State) : Out :=
  match s.pkg.strands.find? s.focus with
  | none => .fault .noStrand
  | some st =>
    match slotStop i (fx s st) (pv st) (chk s st) s st with
    | some stop => .next { s with pkg := s.pkg.stopAt s.er s.focus st stop }
    | none =>
      match eff s st with
      | .stop stop => .next { s with pkg := s.pkg.stopAt s.er s.focus st stop }
      | .wait p w => .next { s with pkg := p.setStrand s.focus { st with run := .blocked w, grant := none } }
      | .done p st' => .next { s with pkg := (p.commit s.focus i st'.finish).dropFailed st }
      | .moved p => .next { s with pkg := p }

/-- No field limit beyond the word's own, no privilege needed, no further check. -/
def noFx : State → Strand → List Nat := fun _ _ => []
def noPv : Strand → Option Stop := fun _ => none
def noChk : State → Strand → Option Stop := fun _ _ => none

/-- Privilege: supervisor mode (R382). -/
def needSup (st : Strand) : Option Stop := if st.sup then none else some (.trap 0x07 0)

end Sys2Proof.Machine
end

