-- ==== Sys2Proof/Machine/Access.lean ====
section
/-! DEFINITION. Accesses of the M slot (06, R270 to R277): effective addresses, the checks of R271, accesses in flight,
what a strand sees, and when an access may be performed (R114 to R121). -/

namespace Sys2Proof.Machine

/-! ### Effective addresses and updates (R270) -/

/-- SEXT(offset, 22). -/
def offX (o : MOps) : X := o.offset.signExtend 64

/-- x[base] + SEXT(offset, 22). -/
def eaN (st : Strand) (o : MOps) : X := st.getX o.base.toNat + offX o

/-- EA of an instruction whose ix enters it under update 0. -/
def eaX (st : Strand) (o : MOps) : X := if o.update = 0#2 then eaN st o + st.getX o.ix.toNat else eaN st o

/-- The base register after commit, for an access of size sz; st0 is the strand whose registers form EA and the update. -/
def Strand.updateFrom (st st0 : Strand) (o : MOps) (sz : Nat) : Strand :=
  match o.update.toNat with
  | 0 => st
  | 1 => st.setX o.base.toNat (eaN st0 o)
  | 2 => st.setX o.base.toNat (st0.getX o.base.toNat + st0.getX o.ix.toNat)
  | _ => st.setX o.base.toNat (st0.getX o.base.toNat + st0.getX o.ix.toNat * BitVec.ofNat 64 sz)

/-- The update of a slot that has written no x register. -/
def Strand.update (st : Strand) (o : MOps) (sz : Nat) : Strand := st.updateFrom st o sz

/-- a must be a multiple of n (R383). -/
def alignStop (a : X) (n : Nat) : Option Stop := if a.toNat % n = 0 then none else some (.trap 0x08 a)

/-! ### The bytes an access touches -/

/-- Contiguous bytes of an access: address, number, place in the register, data of a store. -/
structure Blk where
  va : Nat
  n : Nat
  pos : Nat
  data : List Byte := []
  deriving DecidableEq, Repr

/-- Split at 64 KiB boundaries (R95). -/
def Blk.pages (b : Blk) : List Blk :=
  (pageParts b.va b.n).map (fun q =>
    { va := q.1, n := q.2, pos := b.pos + (q.1 - b.va), data := (b.data.drop (q.1 - b.va)).take q.2 })

/-- Group the pieces of one contiguous form by 64 KiB frame: its one or two parts. -/
def groupPages : List Blk → List (List Blk)
  | [] => []
  | b :: bs =>
    match groupPages bs with
    | (c :: g) :: gs => if b.va / 65536 = c.va / 65536 then (b :: c :: g) :: gs else [b] :: (c :: g) :: gs
    | gs => [b] :: gs

/-- Kinds of access as the permission test numbers them (R92): 0 load, 1 store, 2 atomic. -/
def AccKind.code : AccKind → Nat
  | .load => 0 | .store => 1 | .atomic => 2

/-- Step 3 of R271: the piece lies in a region. -/
def regionStop (b : Blk) : Option Stop :=
  match locOf b.va with
  | .bad => some (.trap 0x10 (BitVec.ofNat 64 b.va))
  | .notice off => if 0x1000 < off + b.n then some (.trap 0x10 (BitVec.ofNat 64 b.va)) else none
  | _ => none

/-- Steps 3 to 5 of R271 for one piece. -/
def blkStop (p : Pkg) (st : Strand) (k : AccKind) (b : Blk) : Option Stop :=
  let tv := BitVec.ofNat 64 b.va
  match locOf b.va with
  | .bad => some (.trap 0x10 tv)
  | .window j off => if p.inWin st.crew j off b.n then none else some (.trap 0x13 tv)
  | .notice off =>
    if 0x1000 < off + b.n then some (.trap 0x10 tv)
    else if k = .load ∧ off + b.n ≤ 0x248 then none else some (.trap 0x13 tv)
  | .general =>
    match p.tlbHit st.core (p.crew st.crew).launch b.va with
    | none => some (.block (.walk b.va k.code))
    | some t =>
      if !permOk st.sup t.flags k.code then some (.trap 0x11 tv)
      else if k ≠ .load ∧ !bitN t.flags 10 then some (.block (.walk b.va k.code))
      else none

/-- The lowest byte of a piece inside an entry that refuses it (R111, R391); the ranges of a command that waits for room in the
table refuse as entries do (R112, assumption 21). -/
def rangeHit (p : Pkg) (st : Strand) (k : AccKind) (b : Blk) : Option Nat :=
  let ln := (p.crew st.crew).launch
  let hit := (p.ranges ++ p.wanted).filter (fun r => r.launch == ln && (r.mode == 2 || k ≠ .load)
    && decide (r.base * 64 < b.va + b.n) && decide (b.va < (r.base + r.units) * 64))
  minOf (hit.map (fun r => max b.va (r.base * 64)))

/-- Step 6 of R271. -/
def rangeStop (p : Pkg) (st : Strand) (k : AccKind) (b : Blk) : Option Stop :=
  (rangeHit p st k b).map (fun a => .trap 0x12 (BitVec.ofNat 64 a))

/-- The checks of one part, step by step over its pieces. -/
def partStop (p : Pkg) (st : Strand) (k : AccKind) (g : List Blk) : Option Stop :=
  ((g.findSome? regionStop).or (g.findSome? (blkStop p st k))).or (g.findSome? (rangeStop p st k))

/-- The checks of an access, part by part, the lower first; a refusal reports the lowest byte of the access inside an entry. -/
def accStop (p : Pkg) (st : Strand) (k : AccKind) (gs : List (List Blk)) : Option Stop :=
  match gs.findSome? (partStop p st k) with
  | some (.trap 0x12 v) => some (.trap 0x12 (match minOf (gs.flatten.filterMap (rangeHit p st k)) with | some a => BitVec.ofNat 64 a | none => v))
  | r => r

/-! ### Accesses in flight -/

/-- Cut a piece at multiples of 8 bytes: what is performed as one (R118). fuel bounds the number of cuts. -/
def cut8 : Nat → Blk → List Blk
  | 0, b => [b]
  | n + 1, b =>
    let m := 8 - b.va % 8
    if b.n ≤ m then [b]
    else { b with n := m, data := b.data.take m } :: cut8 n { va := b.va + m, n := b.n - m, pos := b.pos + m, data := b.data.drop m }

/-- The address and leaf flags of a checked piece. -/
def blkKey (p : Pkg) (st : Strand) (b : Blk) : Nat × Nat :=
  match locOf b.va with
  | .window j off => ((p.crew st.crew).winKey j off, 0)
  | .notice off => (noticeKey st.crew off, 0)
  | _ =>
    match p.tlbHit st.core (p.crew st.crew).launch b.va with
    | some t => (t.pa + (b.va - t.va), t.flags % 4096)
    | none => (0, 0)

/-- The base of the page an address lies on: its leaf's, or that of its region. -/
def pageBase (p : Pkg) (st : Strand) (va : Nat) : Nat :=
  match locOf va with
  | .general => (p.tlbHit st.core (p.crew st.crew).launch va).elim (va / 65536 * 65536) (fun t => t.va)
  | .window _ _ => windowBase
  | _ => noticeBase

/-- The parts of an access in flight; a load's data is zeros of the right length. In a contiguous form the bytes of one
aligned 8-byte word are performed together; in an element form each element is (R118, R276). -/
def mkParts (p : Pkg) (st : Strand) (elems : Bool) (gs : List (List Blk)) : List Part :=
  let first := ((gs.flatten.head?).elim 0 (fun b => pageBase p st b.va))
  (gs.flatten.flatMap (cut8 9)).zipIdx.map (fun (b, i) =>
    let k := blkKey p st b
    { addr := k.1, flags := k.2, pos := b.pos, va := b.va, tie := if elems then i else b.va / 8,
      unit := if elems then i else if pageBase p st b.va = first then 0 else 1,
      data := if b.data = [] then List.replicate b.n 0 else b.data })

/-- Enter an access. A store or atomic gives up the values fixed ahead for its strand's loads of the bytes (R115). -/
def Pkg.addAcc (p : Pkg) (a : Acc) : Pkg :=
  let p1 := if a.kind = .load then p else a.parts.foldl (fun p q => p.dropEarlyAt a.strand q.addr q.len) p
  { p1 with accs := RMap.put p.accs p.nextAcc a, nextAcc := p.nextAcc + 1 }

/-! ### What a strand sees (R114, R115) -/

/-- A store in flight that strand u of core c sees: its own from before access num, or one performed at their common
scope. -/
def Hit.seen (h : Hit) (u c num : Nat) : Bool :=
  if h.strand = u then h.num < num else common h.core c < h.part.reached

/-- The byte at address k as access num of strand u on core c reads it now. -/
def Pkg.view (p : Pkg) (u c num k : Nat) : Byte := p.seenByte (fun h => h.seen u c num) k

/-- The value fixed ahead for access num of strand u at address k, if one is (R119). -/
def Pkg.earlyByte (p : Pkg) (u num k : Nat) : Option Byte :=
  (p.early.find? (fun e => e.strand == u && decide (e.num ≤ num) && decide (e.key ≤ k) && decide (k < e.key + 8))).map
    (fun e => e.bytes.getD (k - e.key) 0)

/-- The key of a flag, where FGET reads (R283). -/
def flagKey (core f : Nat) : Nat := 2 ^ 53 + 4 * (32 * core + f)

/-- The flag word at a flag's key. -/
def Pkg.flagAt (p : Pkg) (k : Nat) : Nat :=
  let n := (k - 2 ^ 53) / 4
  ((p.core (n / 32)).flags.get 0 (n % 32)).toNat

/-! ### When an access may be performed (R116 to R121, R123) -/

/-- Page kind of a part (R91): 0 RC, 1 SO, 2 UO. -/
def Part.kind (q : Part) : Nat := fieldN q.flags 5 4

/-- An earlier part that need not be waited for: finished, or a store performed at the scope. -/
def doneAt (k : AccKind) (q : Part) (scope : Nat) : Bool := q.reached == 7 || (k == .store && scope < q.reached)

/-- Whether R116 keeps an earlier access before a later one: kinds of page, kind of the later access. -/
def kept (kx ky : Nat) (y : AccKind) : Bool :=
  if kx = 2 ∨ ky = 2 then false else if kx = 1 ∧ ky = 1 then true else y != .load

/-- The access acquires: it is a load or atomic of order acquire or acquire-release (R120). -/
def Acc.acquires (a : Acc) : Bool := a.kind != .store && (a.order == 1 || a.order == 3)

/-- The access releases. -/
def Acc.releases (a : Acc) : Bool := a.kind != .load && (a.order == 2 || a.order == 3)

/-- Part xp of the strand's earlier access x must be performed before part yp of y. -/
def before (x : Acc) (xp : Part) (y : Acc) (yp : Part) : Bool :=
  x.acquires || kept xp.kind yp.kind y.kind
    || (xp.meets yp.addr yp.len && !(x.kind == .store && y.kind == .load))

/-- The same within one access, for two of its units, xp the lower: the halves of a straddling access, which its order field
orders (R117), and the elements of an element form, which are accessed in ascending lane order where they meet and stored so
everywhere (R275, R276). -/
def beforeIn (y : Acc) (xp yp : Part) : Bool :=
  xp.unit != yp.unit
    && (y.acquires || y.releases || kept xp.kind yp.kind y.kind || xp.meets yp.addr yp.len || (y.kind != .load && y.elems))

/-- Performed at the scope, a store of part q is in memory. -/
def Part.final (q : Part) (scope : Nat) : Bool := scope == 6 || (decide (2 ^ 48 ≤ q.addr) && decide (2 ≤ scope))

/-- The first pop of strand u, entered below number n, that is on its way to its answer: what follows it waits, since the answer may
be an acquire (R127). A POOLPOPW in the home's waiting list holds nothing back: it acquires when a push serves it (assumption 48). -/
def Pkg.popAhead (p : Pkg) (u n : Nat) : Option Nat :=
  (p.pools.vals.find? (fun o => o.strand == u && decide (o.num < n) && (o.kind == .pop || o.kind == .popw) && o.answer.isNone && !o.joined)).map
    (fun o => o.num)

/-- Part idx of access num may be performed at the scope. -/
def Pkg.mayPerform (p : Pkg) (num idx scope : Nat) : Bool :=
  match p.accs.find? num with
  | none => false
  | some y =>
    match y.parts[idx]? with
    | none => false
    | some yp =>
      let own := p.accs.filter (fun e => e.2.strand == y.strand && decide (e.1 < num))
      let others := (p.hits (fun q => 0 < q.reached)).filter (fun h => h.strand != y.strand)
      let me : Hit := { num := num, idx := idx, strand := y.strand, core := y.core, part := yp }
      yp.reached < 7 && !p.moving yp.addr && (p.popAhead y.strand y.after).isNone
        && own.all (fun e => e.2.parts.all (fun xp =>
            (doneAt e.2.kind xp scope || !before e.2 xp y yp) && (doneAt e.2.kind xp y.scope || !y.releases)))
        && ((y.parts.take idx).all (fun xp => (doneAt y.kind xp scope && (doneAt y.kind xp y.scope || !y.releases)) || !beforeIn y xp yp))
        && (!y.releases || others.all (fun h => !h.seen y.strand y.core 0 || decide (y.scope < h.part.reached)))
        && (match y.kind with
            | .load => true
            -- every scope takes the stores to a byte in coherence order
            | .store => others.all (fun h => !h.part.meets yp.addr yp.len || decide (scope < h.part.reached) || !me.later h)
            | .atomic => others.all (fun h => !h.part.meets yp.addr yp.len))

/-- The accesses that a release or an engine command of strand st at the scope must see performed: the strand's own,
and the stores of others that it can have observed (R121, R124). -/
def Pkg.owed (p : Pkg) (st : Strand) (scope : Nat) : List Nat :=
  (p.accs.filter (fun e =>
    e.2.parts.any (fun q => !doneAt e.2.kind q scope)
      && (e.2.strand == st.uid
          || (e.2.kind == .store && e.2.parts.any (fun q => decide (common e.2.core st.core < q.reached) && decide (q.reached < 7)))))).map (fun e => e.1)

/-- Those of a list of accesses not yet performed at the scope. -/
def Pkg.undone (p : Pkg) (l : List Nat) (scope : Nat) : List Nat :=
  l.filter (fun n => match p.accs.find? n with
    | some a => a.parts.any (fun q => !doneAt a.kind q scope)
    | none => false)

/-- A slot waits for accesses it is ordered after. That is no block (R29): its strand stays the issuing one, unless a pop of its
own that has no answer yet may be what holds them. -/
def waitFor (p : Pkg) (st : Strand) (l : List Nat) : Option Stop :=
  if l = [] then none
  else match p.popAhead st.uid p.nextNum with
    | some n => some (.block (.answer n))
    | none => some .hold

/-- A release, or a command to an engine, waits for the accesses it is ordered after. -/
def orderStop (p : Pkg) (st : Strand) (scope : Nat) : Option Stop := waitFor p st (p.owed st scope)

/-! ### Performing (R89, R272, R366, R389) -/

/-- Write part q of an access: bytes at the key, errors of whole words cleared. -/
def Pkg.writePart (p : Pkg) (q : Part) : Pkg :=
  (p.write (p.physKey q.addr) q.data).clearPoison (p.physKey q.addr) q.len

/-- The uncorrectable word that reading n bytes at address k would consume. -/
def Pkg.consumes (p : Pkg) (k n : Nat) : Option Nat := p.poisoned (p.physKey k) n

/-- A store that does not replace the whole uncorrectable word consumes it. -/
def Pkg.partialHit (p : Pkg) (k n : Nat) : Option Nat := p.partlyHit (p.physKey k) n

/-- An uncorrectable word is consumed for strand u by an access or operation of the bundle at pc: the core is contained
(R360, R366). -/
def Pkg.upsetBy (p : Pkg) (er u k : Nat) (pc : X) : Pkg :=
  match p.strands.find? u with
  | some st => p.contain er st.core 0x30 st.sn pc.toNat (p.fvalOf st.crew k)
  | none => p

/-- Core c of a crew, other than the strand's own, is contained, or was since the crew stands on it (R389). -/
def Pkg.deadCore (p : Pkg) (cu own c : Nat) : Bool := c != own && ((p.core c).service != .inService || decide (c ∈ (p.crew cu).dead))

/-- Why an access that has left its core is refused (R389): a host-tier page with PCIe down or the host answering UR or
CA, a scratchpad of a core that was contained while the crew stood on it. -/
def refusal (p : Pkg) (pcie : Bool) (a : Acc) (q : Part) : Option (Nat × Nat) :=
  if q.addr < 2 ^ 48 then
    if tierOf q.addr = 3 then
      if !pcie then some (0x31, 6)
      else if a.kind == .load && Config.hostRefuses p.tick then some (0x11, 6) else none
    else none
  else if q.addr < 2 ^ 52 then
    if p.deadCore (a.strand / 96) a.core ((q.addr - 2 ^ 48) / 2 ^ 18) then some (0x28, 2) else none
  else none

/-- Count a refusal for the strand's next FENCE (R66). -/
def Strand.refused (st : Strand) (cause scope : Nat) : Strand :=
  { st with
    refCount := min (st.refCount + 1) 255
    refCause := if st.refCount = 0 then cause else st.refCause
    refScope := if st.refCount = 0 then scope else st.refScope }

/-- The parts of an access performed together with part idx. -/
def Acc.tied (a : Acc) (idx : Nat) : List Nat :=
  match a.parts[idx]? with
  | some q => (a.parts.zipIdx.filter (fun e => e.1.tie == q.tie)).map (fun e => e.2)
  | none => []

/-- The parts listed have reached the scope below reached. -/
def Pkg.markParts (p : Pkg) (num : Nat) (l : List Nat) (reached : Nat) : Pkg :=
  let f (q : Part × Nat) : Part :=
    if q.2 ∈ l then { q.1 with reached := reached, shown := q.1.shown ++ [(reached, p.tick)] } else q.1
  { p with accs := RMap.modify p.accs num (fun (a : Acc) => { a with parts := a.parts.zipIdx.map f }) }

/-- Widths and signs of scalar types (R201, R214): z8, s8, z16, s16, z32, s32, s64. -/
def scW (t : Nat) : Nat := 8 * 2 ^ (t / 2)
def scSigned (t : Nat) : Bool := t % 2 == 1 || t == 6

/-- A scalar of type t read from the low bits of n, extended to a register. -/
def scExt (t n : Nat) : X := wrapX (readFmt (scSigned t) (scW t) (n % 2 ^ scW t))

/-- n bytes put into a register value at byte position pos. -/
def putBytes (v : V) (pos : Nat) (bs : List Byte) : V :=
  setBits v (8 * (pos + bs.length) - 1) (8 * pos) (ofBytes bs)

/-- Data has arrived for latch L3 from access num: the live latch, that of the issue in execution, and that kept for a trapped
issue (R272, R376). The latch stays invalid where the latches were cleared after the load committed (R380). -/
def Strand.fillL3 (st : Strand) (num : Nat) (v : V) : Strand :=
  let st := if st.l3acc = some num then (if st.l3lost = some num then { st with l3acc := none } else st.setL 3 v) else st
  let b := st.bun
  let st := if b.l3acc = some num then
      { st with bun := { b with latch := if b.l3lost = some num then b.latch else b.latch.put 3 v, l3acc := none } }
    else st
  let t := st.trapSet
  if t.l3acc = some num then
    { st with trapSet := { t with latch := if t.l3lost = some num then t.latch else t.latch.put 3 v, l3acc := none } }
  else st

/-- The value an access delivers, zero-extended or sign-extended for a scalar. -/
def Acc.value (a : Acc) : V :=
  match a.dest with
  | .x _ ty | .l3 ty => (scExt ty a.buf.toNat).setWidth 512
  | _ => a.buf

/-- All data of an access has arrived: the destination, if it is still pending on it, is written and released (R272). -/
def Strand.arrive (st : Strand) (num : Nat) (a : Acc) : Strand :=
  let v := a.value
  let st := match a.dest with
    | .x r _ => if (r, num) ∈ st.xpend then { st.setX r (v.setWidth 64) with xpend := st.xpend.filter (fun e => e.2 != num) } else st
    | .v r => if (r, num) ∈ st.vpend then { st.setV r v with vpend := st.vpend.filter (fun e => e.2 != num) } else st
    | .q r =>
      let fill (e : QEnt) : QEnt := if e.acc = some num then { val := v } else e
      { st with
        q := RMap.set st.q [] r ((st.getQ r).map fill)
        bun := { st.bun with capt := st.bun.capt.map (fun (c : Capt) => { c with ent := c.ent.map fill }) } }
    | .l3 _ => st
    | .none => st
  st.fillL3 num v

/-- The data bytes of one part arrive in the access's buffer. -/
def Acc.gather (a : Acc) (q : Part) (bs : List Byte) : Acc :=
  { a with buf := (if a.spread = [] then [q.pos] else a.spread).foldl (fun v pos => putBytes v pos bs) a.buf }

/-- Access a of the strand acquires, if it does (R120): of the values fixed ahead those go that an agent of its scope may have outdated,
and it has observed what the value it read stands after (R121). An FGET reads what posts left, releases at CLUSTER (R127). -/
def Pkg.acquire (p : Pkg) (a : Acc) : Pkg :=
  if !a.acquires then p
  else if a.parts.any (fun q => decide (2 ^ 53 ≤ q.addr)) then (p.forget a.strand).modStrand a.strand (fun st => { st with acqAt := p.tick })
  else (p.dropEarly a.strand a.scope).modStrand a.strand (fun st => { st with acqAt := max st.acqAt a.obs })

/-- Remove a finished access; a load or atomic delivers its value, which takes the bank it enters out of retention (R48), and is
an acquire performed if it is one. -/
def Pkg.settleAcc (p : Pkg) (num : Nat) : Pkg :=
  match p.accs.find? num with
  | none => p
  | some a =>
    if a.parts.all (fun q => q.reached == 7) then
      let p := { p with accs := p.accs.del num }
      if a.kind = .store then p
      else
        let p := match a.dest, p.strands.find? a.strand with
          | .v r, some st => p.wakeBanks st.core [st.banks.getD (r / 64) 16]
          | _, _ => p
        (p.modStrand a.strand (fun st => st.arrive num a)).acquire a
    else p

/-- The parts of the unit of part idx. -/
def Acc.unitOf (a : Acc) (idx : Nat) : List Nat :=
  match a.parts[idx]? with
  | some q => (a.parts.zipIdx.filter (fun e => e.1.unit == q.unit)).map (fun e => e.2)
  | none => []

/-- Some part of the unit of part idx is in memory. -/
def Acc.begun (a : Acc) (idx : Nat) : Bool := (a.unitOf idx).any (fun i => (a.parts[i]?).any (fun q => q.reached == 7))

/-- The unit of part idx of an access is refused (R389): it writes nothing or delivers 0, and is counted once. -/
def Pkg.refuseUnit (p : Pkg) (num : Nat) (a : Acc) (idx cause scope : Nat) : Pkg :=
  let l := a.unitOf idx
  let zero (b : Acc) : Acc := if b.kind = .store then b else l.foldl (fun b i =>
    match b.parts[i]? with
    | some q => b.gather q (List.replicate q.len 0)
    | none => b) b
  ((({ p with accs := RMap.modify p.accs num zero } : Pkg).markParts num l 7).modStrand a.strand
    (fun st => st.refused cause scope)).settleAcc num

end Sys2Proof.Machine
end

