-- ==== Sys2Proof/Machine/MemSync.lean ====
section
/-! DEFINITION. The M slot (14, R270 to R291): loads, stores, atomics, fences, range waits, galley words, flags, rings
and barriers. -/

namespace Sys2Proof.Machine

/-! ### Loads and stores (R272 to R276) -/

/-- Units of es bytes that a vector access of type t touches (R44, R275): a lane, or a lane pair for 4-bit types. -/
def esOf (t : Nat) : Nat := max 1 (tyW t / 8)
def unitsOn (m : X) (t : Nat) : List Nat := (List.range (64 / esOf t)).filter (fun u => m.getLsbD u)

/-- Join pieces that touch in memory and in the register. -/
def mergeBlks : List Blk → List Blk
  | [] => []
  | b :: bs =>
    match mergeBlks bs with
    | c :: cs =>
      if b.va + b.n = c.va ∧ b.pos + b.n = c.pos then { b with n := b.n + c.n, data := b.data ++ c.data } :: cs
      else b :: c :: cs
    | [] => [b]

/-- One contiguous form: merged, split by page, grouped into its parts. -/
def blockParts (l : List Blk) : List (List Blk) := groupPages ((mergeBlks l).flatMap Blk.pages)

/-- An access in flight. -/
def newAcc (s : State) (st : Strand) (o : MOps) (k : AccKind) (parts : List Part) : Acc :=
  { strand := s.focus, core := st.core, kind := k, parts := parts, order := o.order.toNat, scope := o.scope.toNat,
    after := s.pkg.nextNum, pc := st.bun.pc }

/-- A committed load: its destination is reserved, L3 awaits it, the base is updated. A load of no byte arrives at
once. -/
def loadDone (s : State) (st : Strand) (o : MOps) (sz : Nat) (a : Acc) : Res :=
  let num := s.pkg.nextAcc
  let st1 : Strand := { st with l3acc := some num }
  let st2 := match a.dest with
    | .x r _ => if r = 0 then st1 else { st1 with xpend := st1.xpend ++ [(r, num)] }
    | .v r => { st1 with vpend := st1.vpend ++ [(r, num)] }
    | .q r => st1.push r { val := 0, acc := some num }
    | _ => st1
  if a.parts = [] then .done s.pkg ((st2.arrive num a).update o sz)
  else .done (s.pkg.addAcc a) (st2.update o sz)

/-- A committed store or atomic. -/
def storeDone (s : State) (st : Strand) (o : MOps) (sz : Nat) (a : Acc) : Res :=
  if a.parts = [] then .done s.pkg (st.update o sz) else .done (s.pkg.addAcc a) (st.update o sz)

/-- The piece of a scalar access. -/
def scalarBlk (a : X) (o : MOps) (data : List Byte) : List Blk := [{ va := a.toNat, n := scW o.ty.toNat / 8, pos := 0, data := data }]

/-- Alignment, then the parts. -/
def memChk (k : AccKind) (al : Nat) (a : X) (gs : List (List Blk)) (s : State) (st : Strand) : Option Stop :=
  (alignStop a al).or (accStop s.pkg st k gs)

/-- LDX (R274). -/
def execLdx (o : MOps) (s : State) : Out :=
  let n := scW o.ty.toNat / 8
  let parts (st : Strand) := blockParts (scalarBlk (eaX st o) o [])
  onUnit (.ldx o) noFx noPv (fun s st => memChk .load n (eaX st o) (parts st) s st)
    (fun s st =>
      let a := newAcc s st o .load (mkParts s.pkg st false (parts st))
      loadDone s st o n { a with dest := if o.nw = 1#1 then .l3 o.ty.toNat else .x o.xd.toNat o.ty.toNat }) s

/-- STX (R274). -/
def execStx (o : MOps) (s : State) : Out :=
  let n := scW o.ty.toNat / 8
  let parts (st : Strand) := blockParts (scalarBlk (eaX st o) o (toBytes n (st.getX o.xd.toNat).toNat))
  onUnit (.stx o) noFx noPv (fun s st => memChk .store n (eaX st o) (parts st) s st)
    (fun s st => storeDone s st o n (newAcc s st o .store (mkParts s.pkg st false (parts st)))) s

/-- Destination of a vector load. -/
def vDest (o : MOps) : Dest :=
  if o.nw = 1#1 then .none else if isV o.data then .v o.data.toNat else if isQ o.data then .q (o.data.toNat - 1008) else .none

/-- A vector access's checks: none but the register checks when no lane is active (R370). -/
def vecChk (k : AccKind) (es : Nat) (a stride : X) (us : List Nat) (gs : List (List Blk)) (s : State) (st : Strand) : Option Stop :=
  if us = [] then none
  else if a.toNat % es ≠ 0 ∨ stride.toNat % es ≠ 0 then some (.trap 0x08 a)
  else accStop s.pkg st k gs

/-- The mask of a vector form. -/
def mMask (st : Strand) (o : MOps) : X := st.getM o.mask.toNat

/-- Pieces of LDV and STV: unit u at EA + u·es. src is the register stored, none for a load. -/
def rowBlks (o : MOps) (ea : X) (us : List Nat) (src : Option V) : List Blk :=
  let es := esOf o.ty.toNat
  us.map (fun u => { va := ea.toNat + u * es, n := es, pos := u * es,
                     data := src.elim [] (fun v => toBytes es (laneOf v (8 * es) u)) })

/-- Pieces of LDVS and STVS: unit u at EA + u·stride. -/
def strideBlks (o : MOps) (ea stride : X) (us : List Nat) (src : Option V) : List Blk :=
  let es := esOf o.ty.toNat
  us.map (fun u => { va := (ea + stride * BitVec.ofNat 64 u).toNat, n := es, pos := u * es,
                     data := src.elim [] (fun v => toBytes es (laneOf v (8 * es) u)) })

/-- Pieces of STVM: the k-th active unit at EA + k·es. -/
def packBlks (o : MOps) (ea : X) (us : List Nat) (v : V) : List Blk :=
  let es := esOf o.ty.toNat
  us.zipIdx.map (fun (u, k) => { va := ea.toNat + k * es, n := es, pos := k * es, data := toBytes es (laneOf v (8 * es) u) })

/-- The register a vector store stores: L0 wrapped into each lane, zeros for code 1023 (R275). -/
def storeSrc (st : Strand) (o : MOps) : V :=
  match (st.srcs [o.data]).head? with
  | some s => if s.l0 then ofLanes (tyW o.ty.toNat) (tyN o.ty.toNat) (s.lane (tyW o.ty.toNat)) else s.val
  | none => 0

/-- A vector load; blks are its pieces, whole is set for a contiguous form. -/
def vecLoad (i : Instr) (o : MOps) (ea stride : Strand → X) (sz : Nat) (whole : Bool)
    (blks : Strand → List Nat → List Blk) (spread : Strand → List Nat → List Nat) (s : State) : Out :=
  let es := esOf o.ty.toNat
  let us (st : Strand) := unitsOn (mMask st o) o.ty.toNat
  let parts (st : Strand) := if whole then blockParts (blks st (us st)) else (blks st (us st)).map (fun b => [b])
  onUnit i noFx noPv (fun s st => vecChk .load es (ea st) (stride st) (us st) (parts st) s st)
    (fun s st =>
      let a := newAcc s st o .load (mkParts s.pkg st (!whole) (parts st))
      loadDone s st o sz { a with dest := vDest o, buf := st.old o.data, spread := spread st (us st), elems := !whole }) s

/-- A vector store; sz is the access size by the number of active units. -/
def vecStore (i : Instr) (o : MOps) (ea stride : Strand → X) (sz : Nat → Nat) (whole : Bool)
    (blks : Strand → List Nat → V → List Blk) (s : State) : Out :=
  let es := esOf o.ty.toNat
  let us (st : Strand) := unitsOn (mMask st o) o.ty.toNat
  let parts (st : Strand) :=
    let l := blks st (us st) (storeSrc st o)
    if whole then blockParts l else l.map (fun b => [b])
  onUnit i noFx noPv (fun s st => vecChk .store es (ea st) (stride st) (us st) (parts st) s st)
    (fun s st => storeDone s st o (sz (us st).length) { newAcc s st o .store (mkParts s.pkg st (!whole) (parts st)) with elems := !whole }) s

/-- No stride. -/
def noStride : Strand → X := fun _ => 0

/-- LDV (R275): a 64-byte block. -/
def execLdv (o : MOps) (s : State) : Out :=
  vecLoad (.ldv o) o (fun st => eaX st o) noStride 64 true (fun st us => rowBlks o (eaX st o) us none) (fun _ _ => []) s

/-- LDVS (R275): elements at a stride; a stride of 0 loads one element into every active lane. -/
def execLdvs (o : MOps) (s : State) : Out :=
  let es := esOf o.ty.toNat
  let stride (st : Strand) := st.getX o.ix.toNat
  vecLoad (.ldvs o) o (fun st => eaN st o) stride es false
    (fun st us => strideBlks o (eaN st o) (stride st) (if stride st = 0 then us.take 1 else us) none)
    (fun st us => if stride st = 0 then us.map (fun u => u * es) else []) s

/-- LDVB (R275): one element to every active lane. -/
def execLdvb (o : MOps) (s : State) : Out :=
  let es := esOf o.ty.toNat
  vecLoad (.ldvb o) o (fun st => eaX st o) noStride es true
    (fun st us => if us = [] then [] else [{ va := (eaX st o).toNat, n := es, pos := 0 }]) (fun _ us => us.map (fun u => u * es)) s

/-- STV (R275). -/
def execStv (o : MOps) (s : State) : Out :=
  vecStore (.stv o) o (fun st => eaX st o) noStride (fun _ => 64) true (fun st us v => rowBlks o (eaX st o) us (some v)) s

/-- STVS (R275): ascending lane order. -/
def execStvs (o : MOps) (s : State) : Out :=
  let stride (st : Strand) := st.getX o.ix.toNat
  vecStore (.stvs o) o (fun st => eaN st o) stride (fun _ => esOf o.ty.toNat) false
    (fun st us v => strideBlks o (eaN st o) (stride st) us (some v)) s

/-- STVM (R275): the active elements, packed. -/
def execStvm (o : MOps) (s : State) : Out :=
  vecStore (.stvm o) o (fun st => eaX st o) noStride (fun n => esOf o.ty.toNat * n) true
    (fun st us v => packBlks o (eaX st o) us v) s

/-! ### Atomics (R277) -/

/-- An atomic of opcode op at address ea. -/
def atomOp (i : Instr) (o : MOps) (op : Nat) (ea : Strand → X) (s : State) : Out :=
  let n := scW o.ty.toNat / 8
  let parts (st : Strand) := blockParts (scalarBlk (ea st) o [])
  onUnit i noFx noPv (fun s st => memChk .atomic n (ea st) (parts st) s st)
    (fun s st =>
      let a := newAcc s st o .atomic (mkParts s.pkg st false (parts st))
      let num := s.pkg.nextAcc
      let nw := o.nw = 1#1
      let st1 : Strand :=
        if nw then { st with l3acc := some num }
        else if o.xd = 0#5 then st else { st with xpend := st.xpend ++ [(o.xd.toNat, num)] }
      storeDone s st1 o n { a with
        dest := if nw then .l3 o.ty.toNat else .x o.xd.toNat o.ty.toNat
        op := op, ty := o.ty.toNat, opnd := (st.getX o.xd.toNat).toNat, cmp := (st.getX o.ix.toNat).toNat }) s

/-- The new value of an atomic, none for an ACAS that does not match (R277). -/
def atomNew (op t old v c : Nat) : Option Nat :=
  let w := scW t
  let rd (n : Nat) : Int := readFmt (scSigned t) w (n % 2 ^ w)
  match op with
  | 0x40 => some (wrapBits w (rd old + rd v))
  | 0x41 => some (wrapBits w (satTo (scSigned t) w (rd old + rd v)))
  | 0x42 => some (wrapBits w (min (rd old) (rd v)))
  | 0x43 => some (wrapBits w (max (rd old) (rd v)))
  | 0x44 => some (old % 2 ^ w &&& v % 2 ^ w)
  | 0x45 => some (old % 2 ^ w ||| v % 2 ^ w)
  | 0x46 => some (old % 2 ^ w ^^^ v % 2 ^ w)
  | 0x47 => some (v % 2 ^ w)
  | _ => if rd old = rd c then some (v % 2 ^ w) else none

/-- AADD (R277). -/
def execAadd (o : MOps) (s : State) : Out := atomOp (.aadd o) o 0x40 (fun st => eaX st o) s
/-- AADDS (R277). -/
def execAadds (o : MOps) (s : State) : Out := atomOp (.aadds o) o 0x41 (fun st => eaX st o) s
/-- AMIN (R277). -/
def execAmin (o : MOps) (s : State) : Out := atomOp (.amin o) o 0x42 (fun st => eaX st o) s
/-- AMAX (R277). -/
def execAmax (o : MOps) (s : State) : Out := atomOp (.amax o) o 0x43 (fun st => eaX st o) s
/-- AAND (R277). -/
def execAand (o : MOps) (s : State) : Out := atomOp (.aand o) o 0x44 (fun st => eaX st o) s
/-- AOR (R277). -/
def execAor (o : MOps) (s : State) : Out := atomOp (.aor o) o 0x45 (fun st => eaX st o) s
/-- AXOR (R277). -/
def execAxor (o : MOps) (s : State) : Out := atomOp (.axor o) o 0x46 (fun st => eaX st o) s
/-- ASWP (R277). -/
def execAswp (o : MOps) (s : State) : Out := atomOp (.aswp o) o 0x47 (fun st => eaX st o) s
/-- ACAS (R277): ix names the comparand. -/
def execAcas (o : MOps) (s : State) : Out := atomOp (.acas o) o 0x48 (fun st => eaN st o) s

/-! ### Results that arrive at the slot -/

/-- A scalar M result: L3 always, x[d] unless nw (R50, R272). -/
def Strand.mResult (st : Strand) (o : MOps) (v : X) : Strand :=
  let st := st.setL 3 (v.setWidth 512)
  if o.nw = 1#1 then st else st.setX o.xd.toNat v

/-! ### FENCE, QFENCE, RWAIT (R122, R123, R126, R278, R279) -/

/-- The strand's accesses of the kinds a fence covers that are not performed at its scope: 0 stores, 1 loads, 2 and 3
all; an atomic is both. -/
def fenceOwed (p : Pkg) (u kind scope : Nat) : List Nat :=
  (p.accs.filter (fun e => e.2.strand == u
    && (match kind with | 0 => e.2.kind != .load | 1 => e.2.kind != .store | _ => true)
    && e.2.parts.any (fun q => !doneAt e.2.kind q scope))).map (fun e => e.1)

/-- The status word of R66. -/
def Strand.fenceStatus (st : Strand) : X := BitVec.ofNat 64 (st.refScope * 2 ^ 16 + st.refCause * 2 ^ 8 + st.refCount)

/-- FENCE: the acquiring kinds (bit 0) order later loads; a full one at PACKAGE or beyond is that of R129. -/
def execFence (o : MOps) (s : State) : Out :=
  onUnit (.fence o) noFx noPv noChk (fun s st =>
    let l := fenceOwed s.pkg s.focus o.order.toNat o.scope.toNat
    if l ≠ [] then .stop (.block (.fence l o.scope.toNat))
    else
      let st1 : Strand := { st with
        refCount := 0, refCause := 0, refScope := 0
        codeFence := if o.order = 3#2 ∧ 4 ≤ o.scope.toNat then some { acq := st.acqAt, fence := s.pkg.tick } else st.codeFence }
      .done (if o.order.getLsbD 0 then s.pkg.forget s.focus else s.pkg) (st1.mResult o st.fenceStatus)) s

/-- QFENCE: a join in every queue named; a hold also blocks until every entry ahead is complete, and what follows sees the writes of
those entries (R124). -/
def execQfence (o : MOps) (s : State) : Out :=
  onUnit (.qfence o) noFx noPv noChk (fun s st =>
    if st.grant.isSome then .done (s.pkg.forget s.focus) (st.acquired s.pkg.tick)
    else
      let p := s.pkg.addJoin s.focus o.offset.toNat
      if o.order = 0#2 then .done p st else .wait p (.hold s.pkg.nextNum)) s

/-- Entries of a launch's ranges that overlap n bytes at va (R279). -/
def rangeMeets (p : Pkg) (st : Strand) (va n : Nat) : Bool :=
  (p.ranges ++ p.wanted).any (fun r => r.launch == (p.crew st.crew).launch && decide (r.base * 64 < va + n) && decide (va < (r.base + r.units) * 64))

/-- RWAIT: an acquire at PACKAGE scope of the writes of the ranges' owners. -/
def execRwait (o : MOps) (s : State) : Out :=
  onUnit (.rwait o) noFx noPv noChk (fun s st =>
    let va := (eaN st o).toNat
    let n := (st.getX o.ix.toNat).toNat
    if n ≠ 0 ∧ rangeMeets s.pkg st va n then .stop (.block (.range va n))
    else .done (s.pkg.forget s.focus) ((st.update o 1).acquired s.pkg.tick)) s

/-! ### Units of the window -/

/-- An object of n bytes in the crew's scratchpad: aligned, and in the allocation. DEQ alone may name the notice ring. -/
def objStop (p : Pkg) (st : Strand) (a : X) (al n : Nat) (notice : Bool) : Option Stop :=
  (alignStop a al).or
    (match locOf a.toNat with
     | .bad => some (.trap 0x10 a)
     | .window j off => if p.inWin st.crew j off n then none else some (.trap 0x13 a)
     | .notice off => if notice ∧ off = 0 then none else some (.trap 0x13 a)
     | .general => some (.trap 0x13 a))

/-- The key of an object. -/
def objKey (p : Pkg) (st : Strand) (a : X) : Nat :=
  match locOf a.toNat with
  | .window j off => (p.crew st.crew).winKey j off
  | .notice off => noticeKey st.crew off
  | _ => 0

/-- How a unit operation is ordered after the strand's earlier accesses: as a release, as a store or as a load of the
object (R116, R120). -/
inductive UnitOrder where
  | release | store | load
  deriving DecidableEq, Repr

/-- The accesses a unit operation on n bytes at key k must see performed in the cluster: of the strand's own, every acquire too. -/
def unitStop (p : Pkg) (st : Strand) (ord : UnitOrder) (k n : Nat) : Option Stop :=
  ((p.popAhead st.uid p.nextNum).map (fun n => .block (.answer n))).or
    (waitFor p st ((p.owed st 2).filter (fun a =>
      match p.accs.find? a with
      | none => false
      | some x => ord == .release || (x.acquires && x.strand == st.uid)
          || x.parts.any (fun q => q.meets k n || (ord == .store && q.kind != 2 && x.strand == st.uid)))))

/-- An uncorrectable word among n bytes at key k that a unit operation of the strand would consume (R366). -/
def unitUpset (p : Pkg) (st : Strand) (k n : Nat) : Option Stop := (p.poisoned k n).map (fun q => .contain (p.fvalOf st.crew q))

/-- The object lies in the scratchpad of a contained core other than the strand's own (R389). -/
def deadObj (p : Pkg) (st : Strand) (k : Nat) : Bool := decide (k < 2 ^ 52) && p.deadCore st.crew st.core ((k - 2 ^ 48) / 2 ^ 18)

/-! ### Galley words (R280, R281) -/

/-- GWINIT: FCORE at or beyond cpc is refused. -/
def execGwinit (o : MOps) (s : State) : Out :=
  let fcore (st : Strand) := bits (st.getX o.xd.toNat) 41 37
  onUnit (.gwinit o) noFx noPv
    (fun s st => (objStop s.pkg st (eaN st o) 16 16 false).or
      (if (s.pkg.launchOf st).cpc ≤ fcore st then some (.trap 0x13 (BitVec.ofNat 64 (fcore st))) else none))
    (fun s st =>
      let k := objKey s.pkg st (eaN st o)
      let v := st.getX o.xd.toNat
      match (unitStop s.pkg st (if o.order = 2#2 then .release else .store) k 16).or (unitUpset s.pkg st (k + 8) 8) with
      | some w => .stop w
      | none =>
        if deadObj s.pkg st k then .done s.pkg ((st.refused 0x28 2).update o 16)
        else
          let gen := s.pkg.num (k + 8) 2
          let p := s.pkg.write k (toBytes 4 (bits v 31 0) ++ toBytes 4 0 ++ toBytes 2 gen ++ toBytes 1 (bits v 36 32)
            ++ toBytes 1 (fcore st) ++ toBytes 2 (bits v 57 42) ++ toBytes 2 0)
          .done ((p.clearPoison k 8).dropEarlyAt s.focus k 16) (st.update o 16)) s

/-- GWWAIT. -/
def execGwwait (o : MOps) (s : State) : Out :=
  onUnit (.gwwait o) noFx noPv (fun s st => objStop s.pkg st (eaN st o) 16 16 false)
    (fun s st =>
      let k := objKey s.pkg st (eaN st o)
      match st.grant with
      | some (.num g) => .done s.pkg ((st.mResult o (BitVec.ofNat 64 g)).updateFrom st o 16)
      | _ =>
        match (unitStop s.pkg st .load k 16).or (unitUpset s.pkg st k 16) with
        | some w => .stop w
        | none =>
          let gen := s.pkg.num (k + 8) 2
          let g := bits (st.getX o.ix.toNat) 15 0
          if deadObj s.pkg st k then .done s.pkg (((st.refused 0x28 2).mResult o 0).updateFrom st o 16)
          else if gen ≠ g then
            .done (s.pkg.forget s.focus) (((st.mResult o (BitVec.ofNat 64 gen)).updateFrom st o 16).acquired s.pkg.tick)
          else .wait { s.pkg with unitWaits := s.pkg.unitWaits ++
                [{ strand := s.focus, key := k, va := (eaN st o).toNat, kind := 2, gen := g }] } .galley) s

/-! ### Flags (R282, R283) -/

/-- The checks of a flag selector. -/
def flagStop (p : Pkg) (st : Strand) (o : MOps) : Option Stop :=
  let sel := eaN st o
  if sel.toNat / 2 ^ 11 ≠ 0 then some (.trap 0x02 sel)
  else if !sel.getLsbD 10 ∧ (p.launchOf st).cpc ≤ bits sel 9 5 then some (.trap 0x13 (BitVec.ofNat 64 (bits sel 9 5)))
  else none

/-- The core a selector names. -/
def flagCore (p : Pkg) (st : Strand) (o : MOps) : Nat :=
  let sel := eaN st o
  if sel.getLsbD 10 then st.core else (p.crew st.crew).cores.getD (bits sel 9 5) 0

/-- FSET: a release at CLUSTER scope. -/
def execFset (o : MOps) (s : State) : Out :=
  onUnit (.fset o) noFx noPv (fun s st => flagStop s.pkg st o)
    (fun s st =>
      match orderStop s.pkg st 2 with
      | some w => .stop w
      | none => .done (s.pkg.flagSet (flagCore s.pkg st o) (bits (eaN st o) 4 0) (bits (st.getX o.xd.toNat) 31 0)) st) s

/-- FGET: a load of the flag word, in flight until the flag unit answers (R272). -/
def execFget (o : MOps) (s : State) : Out :=
  onUnit (.fget o) noFx noPv (fun s st => flagStop s.pkg st o)
    (fun s st =>
      let q : Part := { addr := flagKey (flagCore s.pkg st o) (bits (eaN st o) 4 0), data := List.replicate 4 0, pos := 0, flags := 0, va := 0 }
      loadDone s st o 4 { newAcc s st o .load [q] with dest := if o.nw = 1#1 then .l3 4 else .x o.xd.toNat 4 }) s

/-- FADD: a release at CLUSTER scope. -/
def execFadd (o : MOps) (s : State) : Out :=
  onUnit (.fadd o) noFx noPv (fun s st => flagStop s.pkg st o)
    (fun s st =>
      match orderStop s.pkg st 2 with
      | some w => .stop w
      | none => .done (s.pkg.post (flagCore s.pkg st o) (bits (eaN st o) 4 0) (bits (st.getX o.xd.toNat) 31 0)
          st.crew st.core st.sn) st) s

/-! ### Rings (R285 to R288) -/

/-- The test of the descriptor that ENQ, DEQ and RCLOSE make (R285). -/
def ringStop (p : Pkg) (st : Strand) (k : Nat) (ea : X) : Option Stop :=
  let base := p.num k 8
  let sz := p.num (k + 16) 1
  if ringIllegal p k then some (.trap 0x02 ea)
  else if !ringInside p st.crew k base (2 ^ (sz / 16 + sz % 16)) then some (.trap 0x13 (BitVec.ofNat 64 base))
  else none

/-- The checks of a ring operation that no unit has answered: the object, then, once what it is ordered after is performed, the
descriptor. -/
def ringChk (o : MOps) (ord : UnitOrder) (notice : Bool) (s : State) (st : Strand) : Option Stop :=
  let k := objKey s.pkg st (eaN st o)
  if st.grant.isSome then none
  else (objStop s.pkg st (eaN st o) 32 32 notice).or ((unitStop s.pkg st ord k 32).or
    (if deadObj s.pkg st k then none else (unitUpset s.pkg st k 32).or (ringStop s.pkg st k (eaN st o))))

/-- A ring operation of a strand: performed now, or waiting at the descriptor in arrival order. fin commits its
outcome: the element and the predicate. A DEQ that returns an element is an acquire. -/
def ringOp (s : State) (st : Strand) (o : MOps) (kind : Nat) (val : V) (fin : Strand → V → Bool → Strand) : Res :=
  let k := objKey s.pkg st (eaN st o)
  match st.grant with
  | some (.elem v b) => .done s.pkg ((fin st v b).updateFrom st o 32)
  | _ =>
    if deadObj s.pkg st k then .done s.pkg ((fin (st.refused 0x28 2) 0 false).updateFrom st o 32)
    else
      let w : UnitWait := { strand := s.focus, key := k, va := (eaN st o).toNat, kind := kind, val := val }
      match ringTry s.pkg st.crew w with
      | .wait => .wait { s.pkg with unitWaits := s.pkg.unitWaits ++ [w] } .ring
      | .done (.trap c v) _ => .stop (.trap c v)
      | .done (.upset v) _ => .stop (.contain v)
      | .done (.elem v b) p =>
        let st1 := (fin st v b).updateFrom st o 32
        if kind = 1 ∧ b = false then .done ((p.serveRing k).forget s.focus) (st1.acquired s.pkg.tick) else .done (p.serveRing k) st1
      | .done _ p => .done p st

/-- The predicate a ring instruction writes. -/
def ringPd (o : MOps) : Nat := o.ix.toNat % 8

/-- ENQ of a vector field. A code 1016 gives the 64-bit value of L0, zeros above. -/
def execEnqV (o : MOps) (s : State) : Out :=
  onUnit (.enqV o) noFx noPv (ringChk o .release false)
    (fun s st => ringOp s st o 0 (((st.srcs [o.data]).headD { l0 := false, val := 0 }).val)
      (fun st _ b => st.setP (ringPd o) b)) s

/-- ENQ of an x register. -/
def execEnqX (o : MOps) (s : State) : Out :=
  onUnit (.enqX o) noFx noPv (ringChk o .release false)
    (fun s st => ringOp s st o 0 ((st.getX o.xd.toNat).setWidth 512) (fun st _ b => st.setP (ringPd o) b)) s

/-- DEQ to a vector field. -/
def execDeqV (o : MOps) (s : State) : Out :=
  onUnit (.deqV o) noFx noPv (ringChk o .store true)
    (fun s st => ringOp s st o 1 0 (fun st v b => (st.vresult o.data o.nw v).setP (ringPd o) b)) s

/-- DEQ to an x register. -/
def execDeqX (o : MOps) (s : State) : Out :=
  onUnit (.deqX o) noFx noPv (ringChk o .store true)
    (fun s st => ringOp s st o 1 0 (fun st v b => (st.mResult o (v.setWidth 64)).setP (ringPd o) b)) s

/-- The limits of RINIT that are field rules (R286): SLOG, CLOG and the alignment of BASE. -/
def rinitFx (o : MOps) (_s : State) (st : Strand) : List Nat :=
  let base := bits (st.getX o.xd.toNat) 47 0
  let sz := bits (st.getX o.ix.toNat) 7 0
  (if sz / 16 < 3 ∨ 6 < sz / 16 then [sz / 16] else []) ++ (if 12 < sz % 16 then [sz % 16] else [])
    ++ (if base % 2 ^ (sz / 16) ≠ 0 then [base] else [])

/-- The slots of the new ring lie in the crew's allocation of one position. -/
def rinitStop (p : Pkg) (st : Strand) (o : MOps) : Option Stop :=
  let base := bits (st.getX o.xd.toNat) 47 0
  let sz := bits (st.getX o.ix.toNat) 7 0
  if !p.inWinVa st.crew base (2 ^ (sz / 16 + sz % 16)) then some (.trap 0x13 (BitVec.ofNat 64 base)) else none

/-- RINIT. -/
def execRinit (o : MOps) (s : State) : Out :=
  onUnit (.rinit o) (rinitFx o) noPv
    (fun s st => (objStop s.pkg st (eaN st o) 32 32 false).or (rinitStop s.pkg st o))
    (fun s st =>
      let k := objKey s.pkg st (eaN st o)
      match unitStop s.pkg st .store k 32 with
      | some w => .stop w
      | none =>
        if deadObj s.pkg st k then .done s.pkg ((st.refused 0x28 2).update o 32)
        else
          let p := s.pkg.write k (toBytes 8 (bits (st.getX o.xd.toNat) 47 0) ++ toBytes 8 0
            ++ toBytes 1 (bits (st.getX o.ix.toNat) 7 0) ++ toBytes 1 1 ++ toBytes 14 0)
          .done (((p.clearPoison k 32).dropEarlyAt s.focus k 32).serveRing k) (st.update o 32)) s

/-- RCLOSE. -/
def execRclose (o : MOps) (s : State) : Out :=
  onUnit (.rclose o) noFx noPv (ringChk o .store false)
    (fun s st =>
      let k := objKey s.pkg st (eaN st o)
      if deadObj s.pkg st k then .done s.pkg ((st.refused 0x28 2).update o 32)
      else
        let p := s.pkg.write (k + 17) (toBytes 1 (s.pkg.num (k + 17) 1 ||| 2))
        .done ((p.dropEarlyAt s.focus k 32).serveRing k) (st.update o 32)) s

/-! ### Barriers (R289 to R291) -/

def barNo (o : MOps) : Nat := o.offset.toNat % 32

/-- A barrier number at or beyond BARR, and BARR or BDROP by a strand outside the member set, are illegal fields. A
strand released from its wait is not checked again. -/
def barFx (o : MOps) (member : Bool) (s : State) (st : Strand) : List Nat :=
  if st.grant.isSome then []
  else if (s.pkg.launchOf st).barr ≤ barNo o then [barNo o]
  else if member ∧ st.idx ∉ ((s.pkg.crew st.crew).barrier (barNo o)).mem then [barNo o] else []

/-- BJOIN. -/
def execBjoin (o : MOps) (s : State) : Out :=
  onUnit (.bjoin o) (barFx o false) noPv noChk
    (fun s st =>
      let c := s.pkg.crew st.crew
      let k := c.barrier (barNo o)
      let k' := if st.idx ∈ k.mem then k else { k with mem := k.mem ++ [st.idx] }
      .done (s.pkg.setCrew st.crew { c with barriers := RMap.put c.barriers (barNo o) k' }) st) s

/-- A wait at a barrier of the strand's crew. -/
def barWait (p : Pkg) (u : Nat) (st : Strand) (b kind gen : Nat) (ty : Nat := 0) : Pkg :=
  { p with unitWaits := p.unitWaits ++ [{ strand := u, key := barKey st.crew b, va := b, kind := kind, gen := gen, ty := ty }] }

/-- BARR: a strand that has arrived in the phase waits for it to end, and arrives in the next at that moment (R291). -/
def execBarr (o : MOps) (s : State) : Out :=
  onUnit (.barr o) (barFx o true) noPv noChk
    (fun s st =>
      let b := barNo o
      let k := (s.pkg.crew st.crew).barrier b
      match st.grant with
      | some (.num ph) => .done s.pkg (st.mResult o (BitVec.ofNat 64 ph))
      | _ =>
        match orderStop s.pkg st 2 with
        | some w => .stop w
        | none =>
          if st.idx ∈ k.arrived then
            .wait (barWait s.pkg s.focus st b 6 k.phase.toNat (if o.offset.getLsbD 5 then 1 else 0)) (.barrier b)
          else
            let p := s.pkg.barrierArrive st.crew b st.idx false
            if o.offset.getLsbD 5 ∧ ((p.crew st.crew).barrier b).phase = k.phase then
              .wait (barWait p s.focus st b 5 k.phase.toNat) (.barrier b)
            else if o.offset.getLsbD 5 then .done (p.forget s.focus) ((st.mResult o (k.phase.setWidth 64)).acquired s.pkg.tick)
            else .done p (st.mResult o (k.phase.setWidth 64))) s

/-- BWAIT. -/
def execBwait (o : MOps) (s : State) : Out :=
  onUnit (.bwait o) (barFx o false) noPv noChk
    (fun s st =>
      let b := barNo o
      let k := (s.pkg.crew st.crew).barrier b
      match st.grant with
      | some (.num ph) => .done s.pkg (st.mResult o (BitVec.ofNat 64 ph))
      | _ =>
        if k.phase = (st.getX o.ix.toNat).setWidth 16 then .wait (barWait s.pkg s.focus st b 4 0) (.barrier b)
        else .done (s.pkg.forget s.focus) ((st.mResult o (k.phase.setWidth 64)).acquired s.pkg.tick)) s

/-- BDROP: arrive and drop. -/
def execBdrop (o : MOps) (s : State) : Out :=
  onUnit (.bdrop o) (barFx o true) noPv noChk
    (fun s st =>
      match orderStop s.pkg st 2 with
      | some w => .stop w
      | none => .done (s.pkg.barrierArrive st.crew (barNo o) st.idx true) st) s

end Sys2Proof.Machine
end

