-- ==== Sys2Proof/Machine/Matrix.lean ====
section
/-! DEFINITION. The P slots and the direct matrix engine (07, 15, R135 to R140, R293 to R304, R408): tiles, operand
slots, the matrix queue and the engine's steps. -/

namespace Sys2Proof.Machine

/-! ### Tiles and operand slots -/

/-- Element (i, j) of tile t (R55). -/
def Core.tile (k : Core) (t i j : Nat) : Int := (k.acc.get 0 (t * 256 + i * 16 + j)).toInt

def Core.setTile (k : Core) (t i j : Nat) (v : Int) : Core :=
  { k with acc := RMap.set k.acc 0 (t * 256 + i * 16 + j) (BitVec.ofInt 56 v) }

/-- Row i of a tile set to the values of f. -/
def Core.setRow (k : Core) (t i : Nat) (js : List Nat) (f : Nat → Int) : Core :=
  js.foldl (fun k j => k.setTile t i j (f j)) k

def Core.setTsat (k : Core) (t : Nat) (b : Bool) : Core := { k with tsat := RMap.set k.tsat false t b }

/-- The K-step count and the issue count of a tile become 0 (R138, R408). -/
def Core.unseal (k : Core) (t : Nat) : Core :=
  { k with ksteps := RMap.set k.ksteps 0 t 0, issued := RMap.set k.issued 0 t 0 }

/-- Every element of a tile becomes 0, with TSAT 0 and count 0. -/
def Core.zeroTile (k : Core) (t : Nat) : Core :=
  { k with acc := k.acc.filter (fun e => e.1 / 256 != t), tsat := RMap.set k.tsat false t false, ksteps := RMap.set k.ksteps 0 t 0 }

/-- Element (i, j) of operand slot o, read as format t (R56, R137). -/
def Core.oper (k : Core) (t o i j : Nat) : Int :=
  readFmt (tySigned t) (tyW t) ((k.opnd.get 0 (o * 256 + i * 16 + j)).toNat % 2 ^ tyW t)

/-- Operand slot o filled with 256 elements, element (i, j) at i·16 + j. -/
def Core.fillOper (k : Core) (o : Nat) (rows : List (BitVec 16)) : Core :=
  { k with opnd := rows.zipIdx.foldl (fun m e => RMap.set m 0 (o * 256 + e.2) e.1) k.opnd }

/-- A clamp to the accumulator's bounds: WIDE s56, else s32 (R79). -/
def clampAcc (s32 : Bool) (v : Int) : Int := satTo true (if s32 then 32 else 56) v

/-- Element (i, k) or (k, i). -/
def pick2 (tr : BitVec 1) (i k : Nat) : Nat × Nat := if tr = 1#1 then (k, i) else (i, k)

/-- One K-step (R79): fmt holds ATYPE, BTYPE and ACC as R297 lays them out. -/
def Core.kstep (k : Core) (t oA oB : Nat) (tA tB : Bool) (fmt : BitVec 7) : Core :=
  let at' := bits fmt 6 4
  let bt := bits fmt 3 1
  let s32 := fmt.getLsbD 0
  let a (i x : Nat) : Int := let q := pick2 (ofBit tA) i x; k.oper at' oA q.1 q.2
  let b (x j : Nat) : Int := let q := pick2 (ofBit tB) x j; k.oper bt oB q.1 q.2
  let sum (i j : Nat) : Int := (List.range 16).foldl (fun s x => s + a i x * b x j) 0
  let k' := (List.range 256).foldl (fun (r : Core) e =>
    let v := k.tile t (e / 16) (e % 16) + sum (e / 16) (e % 16)
    let n := clampAcc s32 v
    let r := r.setTile t (e / 16) (e % 16) n
    if n = v then r else r.setTsat t true) k
  { k' with ksteps := RMap.set k'.ksteps 0 t (k'.ksteps.get 0 t + 1) }

/-! ### P slots (R293 to R295) -/

/-- The core must be DIRECT (R140); op is the opcode TVAL reports. -/
def modeStop (p : Pkg) (st : Strand) (op : Nat) : Option Stop :=
  if (p.core st.core).mode = .shared then some (.trap 0x19 (BitVec.ofNat 64 op)) else none

/-- A slot that reads a tile row consumes its uncorrectable words. -/
def tileUpset (p : Pkg) (st : Strand) (o : POps) : Option Stop :=
  if poisonTile st.core o.tile.toNat o.row.toNat ∈ p.poison then some (.contain 0) else none

/-- A tile read (R139): f gives the strand after the read of the core's tile. -/
def pRead (i : Instr) (o : POps) (op : Nat) (f : Core → Strand → Strand) (s : State) : Out :=
  onUnit i noFx noPv (fun s st => (modeStop s.pkg st op).or (tileUpset s.pkg st o))
    (fun s st => .done s.pkg (f (s.pkg.core st.core) st)) s

/-- K-steps on tile t wait in the core's matrix queue. -/
def stepsOn (k : Core) (t : Nat) : Bool :=
  k.mxq.any (fun e => match e.ent with | .mma t' _ _ _ _ _ _ => t' == t | _ => false)

/-- A tile write: it holds the core's issue until every K-step on the tile issued before it is complete (R139). The
hold is no block: the strand stays the issuing one. reads says that the old row enters the result; the rows that whole names are
written whole. -/
def pWrite (i : Instr) (o : POps) (op : Nat) (reads : Bool) (whole : Nat → List Nat) (f : Core → Strand → Core × Strand)
    (s : State) : Out :=
  onUnit i noFx noPv (fun s st => (modeStop s.pkg st op).or (if reads then tileUpset s.pkg st o else none))
    (fun s st =>
      let k := s.pkg.core st.core
      if stepsOn k o.tile.toNat then .stop .hold
      else
        let r := f k st
        .done ((s.pkg.setCore st.core r.1).mend (whole st.core)) r.2) s

/-- The 16 values of the row a P slot names. -/
def rowOf (k : Core) (o : POps) (j : Nat) : Int := k.tile o.tile.toNat o.row.toNat j

/-- The source register of a tile write. -/
def pSrc (st : Strand) (o : POps) : Src := (st.srcs [o.vec]).headD { l0 := false, val := 0 }

/-- ARD. -/
def execArd (o : POps) (s : State) : Out :=
  pRead (.ard o) o 0x00 (fun k st =>
    if o.sub.getLsbD 0 then st.vresult o.vec o.nw (ofLanes 32 16 (fun j => wrapBits 32 (rowOf k o j)))
    else
      let sat := (List.range 16).any (fun j => satTo true 32 (rowOf k o j) != rowOf k o j)
      (st.vresult o.vec o.nw (ofLanes 32 16 (fun j => wrapBits 32 (satTo true 32 (rowOf k o j))))).satsIf o.dm.toNat sat) s

/-- ARDW. -/
def execArdw (o : POps) (s : State) : Out :=
  pRead (.ardw o) o 0x01 (fun k st =>
    let h := 8 * (o.sub.toNat % 2)
    st.vresult o.vec o.nw (ofLanes 64 8 (fun j => wrapBits 64 (rowOf k o (h + j))))) s

/-- ARDH. -/
def execArdh (o : POps) (s : State) : Out :=
  pRead (.ardh o) o 0x02 (fun k st => st.vresult o.vec o.nw (ofLanes 32 16 (fun j => wrapBits 32 (asr (rowOf k o j) 32)))) s

/-- AWR: the half bit is read by the wide form alone. -/
def execAwr (o : POps) (s : State) : Out :=
  pWrite (.awr o) o 0x03 false (fun c => if o.sub.getLsbD 0 then [] else [poisonTile c o.tile.toNat o.row.toNat]) (fun k st =>
    let v := pSrc st o
    let t := o.tile.toNat
    let k' :=
      if o.sub.getLsbD 0 then
        let h := if o.sub.getLsbD 1 then 8 else 0
        k.setRow t o.row.toNat ((List.range 8).map (fun j => h + j)) (fun j => satTo true 56 (readFmt true 64 (v.lane 64 (j - h))))
      else k.setRow t o.row.toNat (List.range 16) (fun j => readFmt true 32 (v.lane 32 j))
    let sat := o.sub.getLsbD 0 && (List.range 8).any (fun j =>
      satTo true 56 (readFmt true 64 (v.lane 64 j)) != readFmt true 64 (v.lane 64 j))
    ((k'.setTsat t false).unseal t, st.satsIf o.dm.toNat sat)) s

/-- AADDV. -/
def execAaddv (o : POps) (s : State) : Out :=
  pWrite (.aaddv o) o 0x04 true (fun c => [poisonTile c o.tile.toNat o.row.toNat]) (fun k st =>
    let v := pSrc st o
    let t := o.tile.toNat
    let sum (j : Nat) : Int := rowOf k o j + readFmt true 32 (v.lane 32 j)
    let k' := k.setRow t o.row.toNat (List.range 16) (fun j => satTo true 56 (sum j))
    (if (List.range 16).any (fun j => satTo true 56 (sum j) != sum j) then k'.setTsat t true else k', st)) s

/-- AZERO. -/
def execAzero (o : POps) (s : State) : Out :=
  pWrite (.azero o) o 0x05 false (fun c => tileKeys c o.tile.toNat) (fun k st => ((k.zeroTile o.tile.toNat).unseal o.tile.toNat, st)) s

/-- The literal words of an ARQ (R295). -/
def arqLit (st : Strand) (o : POps) (i : Nat) : Nat := st.bun.lits.getD (o.sub.toNat % 4 + i) 0

/-- The multiplier register of an ARQ lies in the window, is not pending and holds no error. -/
def arqStop (p : Pkg) (u : Nat) (st : Strand) (o : POps) : Option Stop :=
  let mv := arqLit st o 0 % 1024
  let w := st.waitV [BitVec.ofNat 10 mv]
  if mv = 1023 then none
  else if st.banks.length ≤ mv / 64 then some (.trap 0x03 (BitVec.ofNat 64 mv))
  else if w ≠ [] then some (.block (.pending w))
  else if st.badWords u p.poison mv ≠ [] then some (.contain 0) else none

/-- The rounded, unsaturated value the drain gives lane j (R146, R295). -/
def drainRound (v : Int) (stochastic : Bool) (shift key : Nat) : Int :=
  if stochastic then stoch v shift key else rne v shift

/-- ARQ. -/
def execArq (o : POps) (s : State) : Out :=
  onUnit (.arq o) noFx noPv
    (fun s st => (arqStop s.pkg s.focus st o).or ((modeStop s.pkg st 0x06).or (tileUpset s.pkg st o)))
    (fun s st =>
      let k := s.pkg.core st.core
      let w := arqLit st o 0
      let mv := w % 1024
      let oty := w / 2 ^ 18 % 8
      let m (j : Nat) : Int := if mv = 1023 then 1 else readFmt true 32 (laneOf (st.getV mv) 32 j)
      let r (j : Nat) : Int := drainRound (rowOf k o j * m j) (bitN w 17) (w / 2 ^ 10 % 128)
        ((arqLit st o 1 + o.row.toNat * 16 + j) % 2 ^ 32)
      let out (j : Nat) : Int := satTo (tySigned oty) (tyW oty) (r j)
      let js := List.range 16
      let sat := js.any (fun j => out j != r j) || k.tsat.get false o.tile.toNat
      -- the multiplier's bank leaves retention, if its unit is in use (R48, R61)
      .done (if mv = 1023 ∨ st.vused mv = false then s.pkg else s.pkg.wakeBanks st.core [st.banks.getD (mv / 64) 16])
        (((st.vresult o.vec o.nw (ofLanes 32 16 (fun j => wrapBits 32 (out j)))).census o.dm.toNat
          (js.map (fun j => rsb (tySigned oty) (tyW oty) (out j)))).satsIf o.dm.toNat sat)) s

/-- ACENS. -/
def execAcens (o : POps) (s : State) : Out :=
  pRead (.acens o) o 0x07 (fun k st =>
    (st.census o.dm.toNat ((List.range 16).map (fun j => rsb true 56 (rowOf k o j)))).satsIf o.dm.toNat (k.tsat.get false o.tile.toNat)) s

/-! ### The format latch (R58, R59) -/

/-- The value in force at the strand's current issue. -/
def Strand.format (st : Strand) : BitVec 7 := (st.fmtPipe.filter (fun e => e.1 ≤ st.issues)).foldl (fun _ (e : Nat × BitVec 7) => e.2) st.fmt

/-- MFMT: in force from the fourth issue after it. -/
def execMfmt (o : EFmt) (s : State) : Out :=
  onUnit (.mfmt o) noFx noPv (fun s st => modeStop s.pkg st 0x00)
    (fun s st => .done s.pkg ({ st with
      fmt := st.format
      fmtPipe := st.fmtPipe.filter (fun (e : Nat × BitVec 7) => st.issues < e.1) ++ [(st.issues + 4, BitVec.ofNat 7 o.pay)] }.mark 17)) s

/-! ### The matrix queue (R135, R299) -/

/-- Enter the core's matrix queue, after the strand's earlier accesses (R124); a full queue blocks. f changes the core at the
issue. -/
def mxEnter (s : State) (st : Strand) (ent : MxEnt) (f : Core → Core) : Res :=
  let k := s.pkg.core st.core
  match orderStop s.pkg st 6 with
  | some w => .stop w
  | none =>
    if 16 ≤ k.mxq.length then .stop (.block (.queueFull 0))
    else
      let q := s.pkg.fresh
      .done (q.2.setCore st.core { f k with mxq := k.mxq ++ [{ num := q.1, strand := s.focus, ent := ent }] }) st

/-- Every operand slot of a list is claimed by the crew and not releasing, else 0x18 (R301, R303). -/
def claimStop (p : Pkg) (st : Strand) (l : List Nat) : Option Stop :=
  let k := p.core st.core
  match l.find? (fun o => k.claim.find? o != some st.crew || o ∈ k.releasing) with
  | some o => some (.trap 0x18 (BitVec.ofNat 64 o))
  | none => none

/-- The issue count of the tile must not pass D/16 (R408). -/
def depthStop (p : Pkg) (st : Strand) (t n : Nat) : Option Stop :=
  if (p.launchOf st).maxSteps < (p.core st.core).issued.get 0 t + n then some (.trap 0x1A (BitVec.ofNat 64 t)) else none

/-- K-steps issued on tile t. -/
def Core.issue (k : Core) (t n : Nat) : Core := { k with issued := RMap.set k.issued 0 t (k.issued.get 0 t + n) }

/-- MMA and MCHAIN of n steps (R301). -/
def mmaOp (i : Instr) (o : EMma) (op n : Nat) (s : State) : Out :=
  let slots := (List.range n).flatMap (fun t => [o.oA.toNat + t, o.oB.toNat + t])
  onUnit i noFx noPv
    (fun s st => ((modeStop s.pkg st op).or (claimStop s.pkg st slots)).or (depthStop s.pkg st o.tile.toNat n))
    (fun s st => mxEnter s st (.mma o.tile.toNat o.oA.toNat o.oB.toNat n (o.tA == 1#1) (o.tB == 1#1) st.format)
      (fun k => k.issue o.tile.toNat n)) s

/-- MMA. -/
def execMma (o : EMma) (s : State) : Out := mmaOp (.mma o) o 0x01 1 s
/-- MCHAIN. -/
def execMchain (o : EMma) (s : State) : Out := mmaOp (.mchain o) o 0x02 (o.n.toNat + 1) s

/-- The tiles of a mask. -/
def maskTiles (m : BitVec 16) : List Nat := (List.range 16).filter (fun t => m.getLsbD t)

/-- Issue counts of the named tiles become 0 (R408). -/
def Core.clearIssued (k : Core) (m : BitVec 16) : Core :=
  { k with issued := (maskTiles m).foldl (fun c t => RMap.set c 0 t 0) k.issued }

/-- MSEAL (R302). -/
def execMseal (o : EMask) (s : State) : Out :=
  onUnit (.mseal o) noFx noPv (fun s st => modeStop s.pkg st 0x03)
    (fun s st => mxEnter s st (.mseal o.mask) (fun k => k.clearIssued o.mask)) s

/-- MZERO (R302). -/
def execMzero (o : EMask) (s : State) : Out :=
  onUnit (.mzero o) noFx noPv (fun s st => modeStop s.pkg st 0x04)
    (fun s st => mxEnter s st (.mzero o.mask) (fun k => k.clearIssued o.mask)) s

/-- The slots an OCLAIM or ORELEASE names. -/
def eSlots (o : ESlots) : List Nat := (List.range (o.count.toNat + 1)).map (fun i => o.first.toNat + i)

/-- OCLAIM: all of the slots or none (R303). -/
def execOclaim (o : ESlots) (s : State) : Out :=
  onUnit (.oclaim o) noFx noPv (fun s st => modeStop s.pkg st 0x05)
    (fun s st =>
      let k := s.pkg.core st.core
      let free := (eSlots o).all (fun n => match k.claim.find? n with
        | none => true
        | some c => c == st.crew && !(decide (n ∈ k.releasing)))
      if free then
        .done (s.pkg.setCore st.core { k with claim := (eSlots o).foldl (fun m n => RMap.put m n st.crew) k.claim }) (st.setX o.xd.toNat 1)
      else .done s.pkg (st.setX o.xd.toNat 0)) s

/-- ORELEASE: the slots are releasing from its issue (R303). -/
def execOrelease (o : ESlots) (s : State) : Out :=
  onUnit (.orelease o) noFx noPv (fun s st => (modeStop s.pkg st 0x06).or (claimStop s.pkg st (eSlots o)))
    (fun s st => mxEnter s st (.orelease o.first.toNat (o.count.toNat + 1))
      (fun k => { k with releasing := k.releasing ++ eSlots o })) s

/-- EA of an E instruction (R297). -/
def eaE (st : Strand) (xB : BitVec 5) (off : BitVec 24) : X := st.getX xB.toNat + off.signExtend 64

/-- A range an E command names, checked by steps 3 to 5 of R271: no range-table entry refuses it (R296). -/
def rangeChk (p : Pkg) (st : Strand) (k : AccKind) (va n : Nat) : Option Stop :=
  (Blk.pages { va := va, n := n, pos := 0 }).findSome? (blkStop p st k)

/-- Bytes of a row of 16 elements of type t. -/
def rowBytes (t : Nat) : Nat := 2 * tyW t

/-- The 16 elements of a row, each in the low bits of 16. -/
def rowElts (t : Nat) (bs : List Byte) : List (BitVec 16) :=
  (List.range 16).map (fun j => BitVec.ofNat 16 (ofBytes bs / 2 ^ (tyW t * j) % 2 ^ tyW t))

/-- OFILL (R304): alignment, then the 16 rows as loads, at issue. -/
def execOfill (o : EOfill) (s : State) : Out :=
  let t := o.ety.toNat
  let es := max 1 (tyW t / 8)
  onUnit (.ofill o) noFx noPv
    (fun s st =>
      let ea := eaE st o.xB o.off
      let sd := st.getX o.xS.toNat
      ((alignStop ea es).or (alignStop sd es)).or
        (((List.range 16).findSome? (fun i => rangeChk s.pkg st .load (ea + sd * BitVec.ofNat 64 i).toNat (rowBytes t))).or
          ((modeStop s.pkg st 0x07).or (claimStop s.pkg st [o.slot.toNat]))))
    (fun s st => mxEnter s st (.ofill o.slot.toNat t (eaE st o.xB o.off) (st.getX o.xS.toNat) st.sup) (fun k => k)) s

/-- OFILLV (R304): rows are read at issue. -/
def execOfillv (o : EOfillv) (s : State) : Out :=
  let t := o.ety.toNat
  onUnit (.ofillv o) noFx noPv (fun s st => (modeStop s.pkg st 0x08).or (claimStop s.pkg st [o.slot.toNat]))
    (fun s st =>
      mxEnter s st (.ofillv o.slot.toNat ((List.range 16).flatMap (fun i =>
        (List.range 16).map (fun j => BitVec.ofNat 16 (laneOf (st.getV (o.vec.toNat + i)) (tyW t) j))))) (fun k => k)) s

/-! ### The engine's steps -/

/-- A forced save stops a DIRECT engine for the crew once an MSEAL of it has completed there (R178). -/
def Pkg.sealStop (p : Pkg) (cu core : Nat) : Bool := (p.crew cu).st == .saving true && decide (core ∈ (p.crew cu).sealed)

/-- The head of a DIRECT engine's queue, when no join and no forced save holds it (R126, R178). -/
def mxHead (s : State) (core : Nat) : Option MxQ :=
  let k := s.pkg.core core
  match k.mxq with
  | [] => none
  | e :: _ => if k.mode = .direct ∧ k.service = .inService ∧ !s.pkg.held e.strand 0 e.num ∧ !s.pkg.sealStop (e.strand / 96) core then some e else none

/-- The core after its head entry. -/
def Core.popMx (k : Core) : Core := { k with mxq := k.mxq.drop 1 }

/-- An engine of core c consumes an uncorrectable word; fval is its address (R364, R366). -/
def engineUpset (s : State) (c : Nat) (fval : X) : Out := .next (s.withPkg (s.pkg.contain s.er c 0x30 0 0 fval))

/-- K_STEP_EXECUTE: the engine performs one K-step of its head entry (R79, R137). -/
def execKStepExecute (core : Nat) (s : State) : Out :=
  match mxHead s core with
  | some { ent := .mma t oA oB n tA tB fmt, num, strand } =>
    let k := s.pkg.core core
    if (List.range 16).any (fun r => decide (poisonTile core t r ∈ s.pkg.poison) || decide (poisonOper core oA r ∈ s.pkg.poison)
        || decide (poisonOper core oB r ∈ s.pkg.poison)) then engineUpset s core 0
    else
      let k := k.kstep t oA oB tA tB fmt
      let rest := k.mxq.drop 1
      let q := if n ≤ 1 then rest
        else { num := num, strand := strand, ent := .mma t (oA + 1) (oB + 1) (n - 1) tA tB fmt : MxQ } :: rest
      .next (s.withPkg (s.pkg.setCore core { k with mxq := q }))
  | _ => .next s

/-- The rows of an OFILL of core c, read until one fails: what was read, the package, and the failure. -/
def fillRows (er c cu : Nat) (sup : Bool) (t : Nat) (va stride : X) (p : Pkg) : List (BitVec 16) × Pkg × Option (Nat × Nat) :=
  (List.range 16).foldl (fun r i =>
    match r with
    | (rows, p, some e) => (rows ++ List.replicate 16 0, p, some e)
    | (rows, p, none) =>
      match p.engRead er c cu sup (va + stride * BitVec.ofNat 64 i).toNat (rowBytes t) with
      | .ok (bs, p') => (rows ++ rowElts t bs, p', none)
      | .error e => (rows ++ List.replicate 16 0, p, some e)) ([], p, none)

/-- The FVAL of an uncorrectable word that an engine of crew cu meets at va, in the data or in a table of its walk. -/
def engFval (p : Pkg) (er cu : Nat) (sup : Bool) (va : Nat) : X :=
  match p.engKey er baseAgent cu sup va 1 0 with
  | .ok (k, p) => p.fvalOf cu (p.physKey k / 8 * 8)
  | .error _ => p.fvalOf cu (p.tableUpset er (p.launch (p.crew cu).launch).root va)

/-- OFILL_EXECUTE: the slot is filled; a row that fails leaves it and the later rows 0, and traps the issuer (R394); a row on a
granule on the move waits (R102). -/
def execOfillExecute (core : Nat) (s : State) : Out :=
  match mxHead s core with
  | some { ent := .ofill o t va stride sup, strand := u, .. } =>
    let cu := u / 96
    match fillRows s.er core cu sup t va stride s.pkg with
    | (rows, p, f) =>
      match f with
      | some (0, _) => .next s
      | some (0x30, v) => engineUpset s core (engFval s.pkg s.er cu sup v)
      | _ =>
        let p := (p.setCore core ((p.core core).fillOper o rows).popMx).mend (operKeys core o)
        .next (s.withPkg (match f with | some (c, v) => p.asyncTo u c (BitVec.ofNat 64 v) | none => p))
  | some { ent := .ofillv o rows, .. } =>
    .next (s.withPkg ((s.pkg.setCore core ((s.pkg.core core).fillOper o rows).popMx).mend (operKeys core o)))
  | _ => .next s

/-- MSEAL_RETIREMENT: the named tiles are at a retirement point (R138). -/
def execMsealRetirement (core : Nat) (s : State) : Out :=
  match mxHead s core with
  | some { ent := .mseal m, strand := u, .. } =>
    let k := s.pkg.core core
    let c := s.pkg.crew (u / 96)
    let p := s.pkg.setCore core
      { k.popMx with ksteps := (maskTiles m).foldl (fun c t => RMap.set c 0 t 0) k.ksteps }
    let kept := c.st == .resident || decide (core ∈ c.sealed)
    .next (s.withPkg (if kept then p else p.setCrew (u / 96) { c with sealed := c.sealed ++ [core] }))
  | _ => .next s

/-- MZERO_EXECUTE (R302). -/
def execMzeroExecute (core : Nat) (s : State) : Out :=
  match mxHead s core with
  | some { ent := .mzero m, .. } =>
    .next (s.withPkg ((s.pkg.setCore core ((maskTiles m).foldl (fun k t => k.zeroTile t) (s.pkg.core core)).popMx).mend
      ((maskTiles m).flatMap (tileKeys core))))
  | _ => .next s

/-- ORELEASE_EXECUTE: the slots are unclaimed and zeroed (R303). -/
def execOreleaseExecute (core : Nat) (s : State) : Out :=
  match mxHead s core with
  | some { ent := .orelease f n, .. } =>
    let k := s.pkg.core core
    let gone (o : Nat) : Bool := decide (f ≤ o) && decide (o < f + n)
    .next (s.withPkg ((s.pkg.setCore core { k.popMx with
      claim := k.claim.filter (fun e => !gone e.1)
      releasing := k.releasing.filter (fun o => !gone o)
      opnd := k.opnd.filter (fun e => !gone (e.1 / 256)) }).mend ((List.range n).flatMap (fun i => operKeys core (f + i)))))
  | _ => .next s

end Sys2Proof.Machine
end

