-- ==== Sys2Proof/Machine/Depend.lean ====
section
/-! DEFINITION. Dependence counters (R144, R155), tracked ranges (R110 to R112, R157) and the census merge of the
engines (R78, R146). -/

namespace Sys2Proof.Machine

/-! ### Fields of a copy command (R151) -/

/-- The reset value of a shadow field. -/
def shadowReset (n : Nat) : X := if n = 2 then 2 else if n = 4 ∨ n = 5 then 1 else 0

/-- The width of a shadow field. -/
def shadowWidth (n : Nat) : Nat :=
  match n with
  | 0 | 1 | 10 => 48
  | 2 | 13 => 3
  | 3 => 25
  | 4 | 5 | 11 => 17
  | 6 | 7 | 8 | 9 => 40
  | 12 => 21
  | 14 => 24
  | 15 => 32
  | 19 => 2
  | 21 => 16
  | _ => 64

/-- Field n of a command. -/
def CopyCmd.field (c : CopyCmd) (n : Nat) : Nat := (RMap.get c.fields (shadowReset n) n).toNat

/-- A stride field, signed. -/
def CopyCmd.stride (c : CopyCmd) (n : Nat) : Int := sextN 40 (c.field n)

/-- Bytes of an element (R152). -/
def CopyCmd.es (c : CopyCmd) : Nat := max 1 (tyW (c.field 2) / 8)

/-- A window-offset field in use. -/
def CopyCmd.offset? (c : CopyCmd) (n : Nat) : Option Nat :=
  if bitN (c.field n) 63 then some (c.field n % 2 ^ 23) else none

/-- The positions of a multicast mask, ascending (R153). -/
def CopyCmd.positions (c : CopyCmd) : List Nat := (List.range 24).filter (bitN (c.field 14))

/-- Elements the command moves. -/
def CopyCmd.total (c : CopyCmd) : Nat :=
  if c.field 11 = 0 then c.field 3 * c.field 4 * c.field 5 else c.field 11 * (c.field 12 / c.es)

/-- An address plus a displacement. -/
def addrOf (b : Nat) (d : Int) : Nat := (BitVec.ofInt 64 (b + d)).toNat

/-- The destination of element n, before multicast (R152). -/
def CopyCmd.dstOf (c : CopyCmd) (n : Nat) : Nat :=
  if c.field 11 = 0 then
    let a := n % c.field 3
    let row := n / c.field 3 % c.field 4
    let pl := n / (c.field 3 * c.field 4)
    addrOf (c.field 1) (pl * c.stride 9 + row * c.stride 8 + a * c.es)
  else
    let per := c.field 12 / c.es
    addrOf (c.field 1) (n / per * c.field 12 + n % per * c.es : Nat)

/-- The window address at offset d's place of position j. -/
def atPos (d j : Nat) : Nat := windowBase + j * 2 ^ 18 + (d - windowBase) % 2 ^ 18

/-! ### Keys of window offsets -/

/-- n bytes at a window offset, cut where one position's part of the window ends (R96); fuel bounds the cuts. -/
def offCut : Nat → Nat → Nat → List (Nat × Nat)
  | 0, _, _ => []
  | f + 1, off, n =>
    if n = 0 then []
    else
      let m := min n (2 ^ 18 - off % 2 ^ 18)
      (off, m) :: offCut f (off + m) (n - m)

def offPieces (off n : Nat) : List (Nat × Nat) := offCut (n / 2 ^ 18 + 2) off n

/-- n bytes at a window offset lie in the allocation. -/
def Pkg.inOff (p : Pkg) (cu off n : Nat) : Bool := (offPieces off n).all (fun q => p.inWin cu (q.1 / 2 ^ 18) (q.1 % 2 ^ 18) q.2)

/-- The key of a window offset. -/
def Pkg.offKey (p : Pkg) (cu off : Nat) : Nat := (p.crew cu).winKey (off / 2 ^ 18) (off % 2 ^ 18)

/-- Bytes written at a window offset; errors of whole words go. -/
def Pkg.offWrite (p : Pkg) (cu off : Nat) (bs : List Byte) : Pkg :=
  (offPieces off bs.length).foldl (fun p q =>
    (p.write (p.offKey cu q.1) ((bs.drop (q.1 - off)).take q.2)).clearPoison (p.offKey cu q.1) q.2) p

/-- The lowest uncorrectable word among n bytes at a window offset. -/
def Pkg.offPoison (p : Pkg) (cu off n : Nat) : Option Nat := (offPieces off n).findSome? (fun q => p.poisoned (p.offKey cu q.1) q.2)

/-! ### Tracked ranges -/

/-- The entries of n bytes at va, at most 2^26 units each (R110, R157). -/
def rangeEntries (va n mode owner ln src tok : Nat) : List Range :=
  if n = 0 then []
  else
    let lo := va / 64
    let units := (va + n - 1) / 64 + 1 - lo
    (List.range ((units + 2 ^ 26 - 1) / 2 ^ 26)).map (fun i =>
      { base := lo + i * 2 ^ 26, units := min (2 ^ 26) (units - i * 2 ^ 26), mode := mode, owner := owner, launch := ln, src := src, tok := tok })

/-- Enter ranges in the table of 512 places, all or none. -/
def Pkg.enterRanges (p : Pkg) (l : List Range) : Option Pkg :=
  if p.ranges.length + l.length ≤ 512 then some { p with ranges := p.ranges ++ l } else none

/-- Remove the ranges a command entered, or waits to enter. -/
def Pkg.dropRanges (p : Pkg) (src tok : Nat) : Pkg :=
  { p with
    ranges := p.ranges.filter (fun r => !(r.src == src && r.tok == tok))
    wanted := p.wanted.filter (fun r => !(r.src == src && r.tok == tok)) }

/-- Values fixed ahead in bytes that NA ranges of the launch cover from now on are given up: no load is performed there until they
go (R111). -/
def Pkg.dropCovered (p : Pkg) (l : List Range) : Pkg :=
  let covers (e : Early) (r : Range) : Bool :=
    r.mode == 2 && (p.crew (e.strand / 96)).launch == r.launch && decide (r.base * 64 < e.va + 8) && decide (e.va < (r.base + r.units) * 64)
  { p with early := p.early.filter (fun e => !l.any (covers e)) }

/-- Ranges that refuse from now on and are not in the table yet (R112, assumption 21). -/
def Pkg.awaitRanges (p : Pkg) (l : List Range) : Pkg := { p with wanted := p.wanted ++ l }.dropCovered l

/-- The ranges of a command from its issue on: in the table, or where it has no room waiting for it. -/
def Pkg.wantRanges (p : Pkg) (l : List Range) : Pkg := ((p.enterRanges l).map (fun q => q.dropCovered l)).getD (p.awaitRanges l)

/-- Ranges in force: entered already by the command, or now; none where the table has no room. -/
def Pkg.inForce (p : Pkg) (src tok : Nat) (l : List Range) : Option Pkg :=
  if p.ranges.any (fun r => r.src == src && r.tok == tok) then some p
  else (({ p with wanted := p.wanted.filter (fun r => !(r.src == src && r.tok == tok)) } : Pkg).enterRanges l).map (fun q => q.dropCovered l)

/-- Lowest displacement and extent of a product of counted strides. -/
def extent (terms : List (Int × Int)) (tail : Int) : Int × Int :=
  let lo := terms.foldl (fun a t => a + min 0 (t.1 * t.2)) 0
  let hi := terms.foldl (fun a t => a + max 0 (t.1 * t.2)) 0
  (lo, hi - lo + tail)

/-- The offset in a position, and the bytes, that a multicast spans there: every element lands at its own offset with the position
replaced (R153), so a destination that crosses positions folds. d and n are the span before. -/
def CopyCmd.mcSpan (c : CopyCmd) (d : Nat) (n : Int) : Nat × Int :=
  let o := d - windowBase
  if o / 2 ^ 18 = (o + n.toNat - 1) / 2 ^ 18 then (o % 2 ^ 18, n)
  else
    let offs := (List.range c.total).map (fun i => (c.dstOf i - windowBase) % 2 ^ 18)
    let lo := offs.foldl min (offs.headD 0)
    (lo, ((offs.foldl max 0 + c.es - lo : Nat) : Int))

/-- The ranges a copy command tracks (R157); ix is its index list. -/
def CopyCmd.ranges (c : CopyCmd) (core ln : Nat) (ix : List Nat) : List Range :=
  let es : Int := c.es
  let gather := c.field 11 ≠ 0
  let mk (va : Nat) (n : Int) (mode : Nat) := rangeEntries va n.toNat mode core ln 1 c.num
  match c.field 19 with
  | 1 =>
    if gather then
      match ix with
      | [] => []
      | a :: l =>
        let lo := l.foldl min a
        let hi := l.foldl max a
        let e := extent [((hi : Int) - lo, c.stride 6)] (c.field 12)
        mk (addrOf (c.field 0) (lo * c.stride 6 + e.1)) e.2 1
    else if c.field 3 = 0 then []
    else
      let e := extent [((c.field 5 : Int) - 1, c.stride 7), ((c.field 4 : Int) - 1, c.stride 6)] (c.field 3 * es)
      mk (addrOf (c.field 0) e.1) e.2 1
  | 2 =>
    let e := if gather then (0, (c.field 11 : Int) * c.field 12)
      else extent [((c.field 5 : Int) - 1, c.stride 9), ((c.field 4 : Int) - 1, c.stride 8)] (c.field 3 * es)
    if !gather ∧ c.field 3 = 0 then []
    else
      let d := addrOf (c.field 1) e.1
      if c.field 14 = 0 then mk d e.2 2
      else
        let m := c.mcSpan d e.2
        c.positions.flatMap (fun j => mk (atPos windowBase j + m.1) m.2 2)
  | _ => []

/-! ### Appending a command to the copy queue (R125, R155, R157) -/

/-- Append a command. A strided command enters its ranges at once, where the table has room. Of a gather the destination refuses at
once too (R392), and its entry is made at the start; its source is known only then (R157). -/
def Pkg.appendCopy (p : Pkg) (core : Nat) (c : CopyCmd) : Pkg :=
  let q := p.fresh
  let c := { c with num := q.1 }
  let p := q.2
  let k := p.core core
  let p := p.setCore core { k with copyq := k.copyq ++ [c] }
  let l := c.ranges core (p.crew c.crew).launch []
  if c.field 11 = 0 then p.wantRanges l else p.awaitRanges l

/-- Append the armed commands of a crew that wait on the dependence word at off, in the order of their issue. -/
def Pkg.releaseArmed (p : Pkg) (cu off : Nat) : Pkg :=
  p.cores.foldl (fun p e =>
    let k := p.core e.1
    let hit (a : Armed) : Bool := a.cmd.crew == cu && a.cmd.offset? 17 == some off
    let p := p.setCore e.1 { k with armed := k.armed.filter (fun a => !hit a) }
    (k.armed.filter hit).foldl (fun p a => p.appendCopy e.1 a.cmd) p)
    p

/-- The armed commands of a crew on a core are tested against their counters, in their order (R156). -/
def Pkg.retestCore (p : Pkg) (cu core : Nat) : Pkg :=
  ((p.core core).armed.filter (fun a => a.cmd.crew == cu)).foldl (fun p a =>
    if p.num (p.offKey cu ((a.cmd.offset? 17).getD 0) + 6) 2 = 0 then
      (p.setCore core { p.core core with armed := (p.core core).armed.erase a }).appendCopy core a.cmd
    else p) p

/-! ### Dependence counters (R144, R396) -/

/-- The uncorrectable word that reading or changing the counter of a record would consume (R366). -/
def Pkg.counterUpset (p : Pkg) (cu off : Nat) : Option Nat := p.offPoison cu off 8

/-- Decrement the counter of the record at a window offset, in bits [63:48] of its word; bits [47:0], which must be 0 (R155), are
ignored and kept where they are not (assumption 73). At 0 its forme entries are ready and its armed commands are
appended; a counter already 0 queues the notice. core and sn name the agent. -/
def Pkg.decrement (p : Pkg) (cu off core sn : Nat) : Pkg :=
  let k := p.offKey cu off
  let n := p.num (k + 6) 2
  if n = 0 then p.notify cu 1 0 core sn (BitVec.ofNat 64 off)
  else
    let p := p.write (k + 6) (toBytes 2 (n - 1))
    if n = 1 then
      let cl := (p.crew cu).cluster
      let q := p.cluster cl
      let p := p.setCluster cl { q with
        formes := q.formes.map (fun f => if f.crew = cu ∧ f.off = off then { f with ready := true } else f) }
      p.releaseArmed cu off
    else p

/-! ### Census blocks (R78, R146) -/

/-- Merge into the block at a window offset: the least of the counts, bit 0 of the saturation word for a saturated
value, bit 1 for a tile's TSAT. -/
def Pkg.mergeBlock (p : Pkg) (cu off : Nat) (counts : List Nat) (sat tsat : Bool) : Pkg :=
  let k := p.offKey cu off
  let p := match minOf counts with
    | some c => p.write k (toBytes 4 (min (p.num k 4) c))
    | none => p
  let w := p.num (k + 4) 4
  p.write (k + 4) (toBytes 4 (w ||| (if sat then 1 else 0) ||| (if tsat then 2 else 0)))

end Sys2Proof.Machine
end

