-- ==== Sys2Proof/Machine/Coll.lean ====
section
/-! DEFINITION. Collectives and tracked ranges by instruction (08, 15, 22: R158 to R165, R310, R311, R402 to R405). What the
other ranks send stands in the inbox; what this rank sends them goes to the outbox. -/

namespace Sys2Proof.Machine

/-! ### COLLQ -/

/-- The COMM register of communicator n (R171). -/
def State.comm (s : State) (n : Nat) : Nat := (s.host.comm.get 0 n).toNat

/-- COLLQ: a communicator whose entry is not valid is an illegal field. -/
def execCollq (o : ECollq) (s : State) : Out :=
  onUnit (.collq o) (fun s _ => if bitN (s.comm o.comm.toNat) 31 then [] else [o.comm.toNat]) noPv noChk
    (fun s st =>
      let done := s.pkg.collDone.get 0 o.comm.toNat
      let out := s.pkg.collAcc.get 0 o.comm.toNat - done
      .done s.pkg (st.setX o.xd.toNat (BitVec.ofNat 64 (done % 2 ^ 32 * 2 ^ 16 + out % 2 ^ 16)))) s

/-! ### Communicators (R158) -/

/-- Origin and extents of a communicator's box, this package's place and the pod's extents, for X, Y, Z. -/
structure Box where
  org : List Nat
  ext : List Nat
  pos : List Nat
  pod : List Nat
  deriving DecidableEq, Repr

def State.box (s : State) (n : Nat) : Box :=
  let w := s.comm n
  let v := s.host.podpos.toNat
  { org := [fieldN w 3 0, fieldN w 7 4, fieldN w 11 8]
    ext := [fieldN w 15 12 + 1, fieldN w 19 16 + 1, fieldN w 23 20 + 1]
    pos := [fieldN v 3 0, fieldN v 7 4, fieldN v 11 8]
    pod := [fieldN v 15 12 + 1, fieldN v 19 16 + 1, fieldN v 23 20 + 1] }

/-- This package's displacement in the box. -/
def Box.disp (b : Box) (d : Nat) : Nat := (b.pos.getD d 0 + b.pod.getD d 1 - b.org.getD d 0 % b.pod.getD d 1) % b.pod.getD d 1

/-- The box can hold this package: no extent beyond the pod's, and the package inside (R158, R402). -/
def Box.holds (b : Box) : Bool := (List.range 3).all (fun d => decide (b.ext.getD d 1 ≤ b.pod.getD d 1) && decide (b.disp d < b.ext.getD d 1))

def Box.rank (b : Box) : Nat := b.disp 0 + b.ext.getD 0 1 * (b.disp 1 + b.ext.getD 1 1 * b.disp 2)

def Box.ranks (b : Box) : Nat := b.ext.getD 0 1 * (b.ext.getD 1 1 * b.ext.getD 2 1)

/-- Whether the path from place a to place b of a ring of n packages uses the positive and the negative port of the package at
place x (R15): it goes the shorter way, the positive one when both are equal; a package sends towards the far end by one port and
receives by the other. In a ring of two, traffic to the neighbour uses the positive port, and is taken to come in by it too
(assumption 74). -/
def pathPorts (n x a b : Nat) : Bool × Bool :=
  let fwd := (b + n - a % n) % n
  if fwd = 0 then (false, false)
  else if n = 2 then (true, false)
  else if 2 * fwd ≤ n then
    let t := (x + n - a % n) % n
    (decide (t < fwd), decide (0 < t) && decide (t ≤ fwd))
  else
    let t := (a + n - x % n) % n
    (decide (0 < t) && decide (t ≤ n - fwd), decide (t < n - fwd))

/-- The READY bits of this package's ports on the paths between the ranks, which exchange their blocks pair by pair (R15, R183, R402). -/
def Box.ports (b : Box) : List Nat :=
  (List.range 3).flatMap (fun d =>
    let e := b.ext.getD d 1
    let used := (List.range e).flatMap (fun i => (List.range e).map (fun j => pathPorts (b.pod.getD d 1) (b.disp d) i j))
    (if used.any (fun u => u.1) then [14 + 2 * d] else []) ++ (if used.any (fun u => u.2) then [15 + 2 * d] else []))

/-- The virtual channel to which a communicator is bound (R158, R171). -/
def State.channel (s : State) (n : Nat) : Nat := fieldN (s.comm n) 27 24

/-- The communicator is valid and can hold this package. -/
def State.commOk (s : State) (n : Nat) : Bool := bitN (s.comm n) 31 && (s.box n).holds

/-! ### The parameter block (R159) -/

/-- The block's 64-bit word n. -/
def Coll.w (c : Coll) (n : Nat) : Nat := recN c.block (8 * n) 8
def Coll.op (c : Coll) : Nat := fieldN (c.w 0) 63 61
def Coll.rop (c : Coll) : Nat := fieldN (c.w 0) 60 59
def Coll.dtype (c : Coll) : Nat := fieldN (c.w 0) 58 56
def Coll.prio (c : Coll) : Nat := fieldN (c.w 0) 44 42
def Coll.clog (c : Coll) : Nat := fieldN (c.w 0) 41 37
def Coll.root (c : Coll) : Nat := fieldN (c.w 0) 36 25
def Coll.send (c : Coll) : Nat := fieldN (c.w 1) 47 0
def Coll.recv (c : Coll) : Nat := fieldN (c.w 2) 47 0
def Coll.count (c : Coll) : Nat := fieldN (c.w 3) 39 0
def Coll.timerLimit (c : Coll) : Nat := fieldN (c.w 4) 15 0
def Coll.cmode (c : Coll) : Nat := fieldN (c.w 5) 63 62
def Coll.statin (c : Coll) : Nat := fieldN (c.w 6) 31 0

/-- Bytes of an element. -/
def Coll.size (c : Coll) : Nat := max 1 (tyW c.dtype / 8)

/-- Elements of the send and the receive buffer (R160). -/
def Coll.sendN (c : Coll) : Nat :=
  match c.op with
  | 0 | 2 => c.count
  | 1 | 5 => c.ranks * c.count
  | 3 => c.count
  | _ => 0
def Coll.recvN (c : Coll) : Nat :=
  match c.op with
  | 0 | 1 | 3 => c.count
  | 2 | 5 => c.ranks * c.count
  | _ => 0

/-- Rank q contributes data: every rank, but in a BROADCAST the root alone and in a BARRIER none. -/
def Coll.gives (c : Coll) (q : Nat) : Bool := c.op != 4 && (c.op != 3 || q == c.root)

/-- The fields exchanged by the check step, in block order: OP, ROP, DTYPE, ALG, CLOG, ROOT, COUNT (R163, R402). -/
def checkFields (block : List Byte) : List Nat :=
  let w := recN block 0 8
  [fieldN w 63 61, fieldN w 60 59, fieldN w 58 56, fieldN w 47 45, fieldN w 41 37, fieldN w 36 25, fieldN (recN block 24 8) 39 0]

/-- Values of the fields that fail this rank's own checks, in block order (R402). -/
def Coll.localBad (c : Coll) (p : Pkg) : List Nat :=
  let w (b : Bool) (v : Nat) : List Nat := if b then [v] else []
  let bar := c.op == 4
  let cpc := (p.launch c.launch).cpc
  let goff := fieldN (c.w 5) 22 0
  let fcore := fieldN (c.w 5) 45 41
  let res := fun (n lo : Nat) => fieldN (c.w n) 63 lo
  w (5 < c.op) c.op ++ w (c.rop == 3) c.rop ++ w (c.dtype < 2) c.dtype ++ w (2 < fieldN (c.w 0) 47 45) (fieldN (c.w 0) 47 45)
    ++ w (c.clog < 12 || 20 < c.clog) c.clog
    ++ w (decide (c.ranks ≤ c.root) || (c.op != 3 && c.root != 0)) c.root
    ++ w (fieldN (c.w 0) 24 0 != 0) (fieldN (c.w 0) 24 0)
    ++ w (res 1 48 != 0) (res 1 48) ++ w (c.send % c.size != 0 || (bar && c.send != 0)) c.send
    ++ w (res 2 48 != 0) (res 2 48) ++ w (c.recv % c.size != 0 || (bar && c.recv != 0)) c.recv
    ++ w (res 3 40 != 0) (res 3 40)
    ++ w (2 ^ 32 < max c.sendN c.recvN * c.size || (bar && c.count != 0)) c.count
    ++ w (res 4 16 != 0) (res 4 16)
    ++ w (c.cmode == 3) c.cmode ++ w (decide (cpc ≤ fcore)) fcore ++ w (fieldN (c.w 5) 35 23 != 0) (fieldN (c.w 5) 35 23)
    ++ w (c.cmode == 2 && (goff % 16 != 0 || !p.inOff c.crew goff 16)) goff
    ++ w (bitN c.statin 31) c.statin
    ++ (List.range 9).flatMap (fun n => w (c.w (7 + n) != 0) (c.w (7 + n)))

/-- SEND is entered RO and RECV NA, at every rank; the overlap NA only (R162). -/
def Coll.ranges (c : Coll) : List Range :=
  let mk (a b mode : Nat) : List Range := if a < b then rangeEntries a (b - a) mode c.comm c.launch 2 c.num else []
  let s0 := c.send
  let s1 := s0 + c.sendN * c.size
  let r0 := c.recv
  let r1 := r0 + c.recvN * c.size
  mk r0 r1 2 ++ (if r0 < s1 ∧ s0 < r1 then mk s0 (min s1 r0) 1 ++ mk (max s0 r1) s1 1 else mk s0 s1 1)

/-! ### Issue: COLL, RTADD, RTDEL -/

/-- Places of the strand's COLL queue in use: queued, or accepted and not complete (R125, R299). -/
def collUsed (p : Pkg) (u : Nat) (st : Strand) : Nat := st.collq.length + (p.colls.filter (fun c => c.strand == u)).length

/-- What keeps a command out of the strand's COLL queue of 8. -/
def collWait (s : State) (st : Strand) : Option Stop :=
  (orderStop s.pkg st 6).or (if 8 ≤ collUsed s.pkg s.focus st then some (.block (.queueFull 3)) else none)

/-- Enter the strand's COLL queue. The ranges the command adds, r of its number, refuse from its issue on (R112); one that finds no
room in the table enters them when the engine takes it. -/
def collEnter (s : State) (st : Strand) (c : CollCmd) (r : Nat → List Range) : Res :=
  match collWait s st with
  | some w => .stop w
  | none =>
    let q := s.pkg.fresh
    .done (q.2.wantRanges (r q.1)) { st with collq := st.collq ++ [(q.1, c)] }

/-- The collective of the block at va, as accepted. -/
def State.newColl (s : State) (strand : Nat) (st : Strand) (n va : Nat) (sup : Bool) (bs : List Byte) : Coll :=
  let comm := fieldN (recN bs 0 8) 55 48
  let b := s.box comm
  { num := n, m := s.pkg.collAcc.get 0 comm, strand := strand, crew := st.crew, launch := (s.pkg.crew st.crew).launch, va := va,
    comm := comm, rank := b.rank, ranks := b.ranks, sup := sup, block := bs }

/-- The ranges of a COLL of number n by its block: none for a block that its own checks refuse. -/
def State.collSeen (s : State) (strand : Nat) (st : Strand) (va : Nat) (sup : Bool) (bs : List Byte) (n : Nat) : List Range :=
  let c := s.newColl strand st n va sup bs
  if s.commOk c.comm ∧ c.localBad s.pkg = [] then c.ranges else []

/-- COLL (R310). Its ranges refuse from here on, by the block as it stands (R112): the collective engine reads the block when the
collective starts (R159). Behind a join, where the block may still be written, they refuse from the start (assumption 65). -/
def execColl (o : EAddr) (s : State) : Out :=
  onUnit (.coll o) noFx noPv
    (fun s st =>
      let a := eaE st o.xB o.off
      ((alignStop a 64).or (rangeChk s.pkg st .load a.toNat 128)).or (rangeChk s.pkg st .store (a + 52).toNat 4))
    (fun s st =>
      let a := (eaE st o.xB o.off).toNat
      match collWait s st with
      | some w => .stop w
      | none =>
        match s.pkg.engRead s.er baseAgent st.crew st.sup a 128 with
        | .error (0, _) => .stop .hold
        | .error _ => collEnter s st (.coll a st.sup []) (fun _ => [])
        | .ok (bs, _) =>
          collEnter s st (.coll a st.sup bs) (if s.pkg.held s.focus 3 s.pkg.nextNum then fun _ => [] else s.collSeen s.focus st a st.sup bs)) s

/-- RTADD: x[L] of 0 or beyond 2^26 units is an illegal field. Bits [63:48] of x[B] are kept: an entry with one set meets no
access (assumption 64). -/
def execRtadd (o : ERtadd) (s : State) : Out :=
  let units (st : Strand) : Nat :=
    ((st.getX o.xB.toNat).toNat + (st.getX o.xL.toNat).toNat - 1) / 64 + 1 - (st.getX o.xB.toNat).toNat / 64
  onUnit (.rtadd o)
    (fun _ st => if (st.getX o.xL.toNat).toNat = 0 ∨ 2 ^ 26 < units st then [(st.getX o.xL.toNat).toNat] else []) noPv noChk
    (fun s st =>
      let b := (st.getX o.xB.toNat).toNat
      let n := (st.getX o.xL.toNat).toNat
      collEnter s st (.rtadd b n o.mode.toNat o.tag.toNat)
        (fun k => rangeEntries b n o.mode.toNat o.tag.toNat (s.pkg.crew st.crew).launch 0 k)) s

/-- RTDEL. -/
def execRtdel (o : ETag) (s : State) : Out :=
  onUnit (.rtdel o) noFx noPv noChk (fun s st => collEnter s st (.rtdel o.tag.toNat) (fun _ => [])) s

/-! ### The engine -/

/-- The core that issued a COLL is contained: the engine met an uncorrectable word of it, with FVAL v (R366). -/
def collContain (s : State) (c : Coll) (v : X) : Out :=
  match s.pkg.strands.find? c.strand with
  | some st => .next (s.withPkg (s.pkg.contain s.er st.core 0x30 st.sn st.here.toNat v))
  | none => .next s

/-- The same for a word of memory at va. -/
def collUpset (s : State) (c : Coll) (va : Nat) : Out := collContain s c (engFval s.pkg s.er c.crew c.sup va)

/-- The ranges of command n are those of l: entries made already stay. -/
def Pkg.collRanges (p : Pkg) (n : Nat) (l : List Range) : Pkg :=
  if (p.ranges ++ p.wanted).filter (fun r => r.src == 2 && r.tok == n) = l then p else (p.dropRanges 2 n).wantRanges l

/-- Functions ready for a collective of a communicator (R183). -/
def State.collReady (s : State) (n : Nat) : Bool :=
  s.host.ready.getLsbD 12 && (!s.commOk n || (s.box n).ports.all (fun b => s.host.ready.getLsbD b))

/-- COLL_ACCEPT: the head of a strand's COLL queue is performed: an RTADD or RTDEL changes the table, a COLL is accepted, and its block
is read, once (R159, R163). A communicator that cannot hold the package abandons it here alone (R402). -/
def execCollAccept (strand : Nat) (s : State) : Out :=
  match s.pkg.strands.find? strand with
  | none => .next s
  | some st =>
    match st.collq with
    | [] => .next s
    | (n, cmd) :: rest =>
      if s.pkg.held strand 3 n ∨ (s.pkg.crew st.crew).isSaved then .next s
      else
        let ln := (s.pkg.crew st.crew).launch
        let p := s.pkg.modStrand strand (fun st => { st with collq := rest })
        match cmd with
        | .rtadd base len mode tag =>
          match p.inForce 0 n (rangeEntries base len mode tag ln 0 n) with
          | some p => .next (s.withPkg p)
          | none => .next s
        | .rtdel tag =>
          -- an RTADD still queued has not added its entry yet, though it refuses already
          let queued (t : Nat) : Bool := p.strands.any (fun e => e.2.collq.any (fun q => q.1 == t))
          .next (s.withPkg { p with
            ranges := p.ranges.filter (fun r => !(r.src == 0 && r.launch == ln && r.owner == tag && !queued r.tok)) })
        | .coll va sup _ =>
          if !s.host.ready.getLsbD 12 then .next s
          else match p.engRead s.er baseAgent st.crew sup va 128 with
          | .error (0, _) => .next s
          | .error (0x30, v) => collUpset s (s.newColl strand st n va sup []) v
          | .error (e, v) => .next (s.withPkg ((p.dropRanges 2 n).asyncTo strand e (BitVec.ofNat 64 v)))
          | .ok (bs, p) =>
            let c := s.newColl strand st n va sup bs
            if !s.collReady c.comm then .next s
            else if !s.commOk c.comm then .next (s.withPkg ((p.dropRanges 2 n).asyncTo strand 0x02 (BitVec.ofNat 64 c.comm)))
            else
              let p := p.collRanges n (s.collSeen strand st va sup bs n)
              .next (s.withPkg { p with collAcc := RMap.put p.collAcc c.comm (c.m + 1), colls := p.colls ++ [c] })

/-- The collective in progress on a communicator: the earliest accepted. -/
def Pkg.collOf (p : Pkg) (comm : Nat) : Option Coll := p.colls.find? (fun c => c.comm == comm)

/-- What rank q has sent for a collective, in the parts that sel picks. -/
def Pkg.peer (p : Pkg) (c : Coll) (q : Nat) (sel : PeerMsg → Bool) : Option PeerMsg :=
  p.inbox.find? (fun m => m.comm == c.comm && m.rank == q && m.num == c.m && !m.abandon && sel m)

/-- The other ranks. -/
def Coll.others (c : Coll) : List Nat := (List.range c.ranks).filter (fun q => q != c.rank)

def Pkg.setColl (p : Pkg) (c : Coll) : Pkg := { p with colls := p.colls.map (fun d => if d.num = c.num then c else d) }

/-- COLL_CHECK_STEP: this rank checks its block and sends it; when every rank's has come the fields are compared (R402). -/
def execCollCheckStep (comm : Nat) (s : State) : Out :=
  match s.pkg.collOf comm with
  | none => .next s
  | some c =>
    if c.stage = 0 then
      match c.localBad s.pkg with
      | v :: _ => .next (s.withPkg (s.pkg.abandonColl c 0x02 (BitVec.ofNat 64 v) true))
      | [] =>
        match s.pkg.inForce 2 c.num c.ranges with
        | none => .next s
        | some p => .next (s.withPkg ({ p with outbox := p.outbox ++ [OutMsg.check comm c.m c.block] }.setColl { c with stage := 1 }))
    else if c.stage = 1 then
      let got := c.others.map (fun q => s.pkg.peer c q (fun m => m.block != []))
      if got.any (fun m => m.isNone) then .next s
      else
        let mine := checkFields c.block
        let theirs := (got.filterMap id).map (fun m => checkFields m.block)
        match (List.range 7).find? (fun i => theirs.any (fun l => l.getD i 0 != mine.getD i 0)) with
        | some i => .next (s.withPkg (s.pkg.abandonColl c 0x02 (BitVec.ofNat 64 (mine.getD i 0)) false))
        | none => .next (s.withPkg (s.pkg.setColl { c with stage := 2 }))
    else .next s

/-! ### Chunk steps (R160, R164, R165) -/

/-- The data that rank q contributes, once it is here. -/
def Pkg.given (p : Pkg) (c : Coll) (q : Nat) : Option (List Byte) :=
  if !c.gives q then some []
  else if q = c.rank then some c.data
  else (p.peer c q (fun m => decide (m.data.length = c.sendN * c.size))).map (fun m => m.data)

/-- The data of every rank, by rank. -/
def Pkg.allGiven (p : Pkg) (c : Coll) : Option (List (List Byte)) := (List.range c.ranks).mapM (p.given c)

/-- Element i of a buffer. -/
def Coll.elt (c : Coll) (l : List Byte) (i : Nat) : Int := readFmt (tySigned c.dtype) (8 * c.size) (recN l (i * c.size) c.size)

/-- Element i of this rank's receive buffer, before delivery (R160). -/
def Coll.value (c : Coll) (d : List (List Byte)) (i : Nat) : Int :=
  let n := c.count
  let red (j : Nat) : Int :=
    let l := d.map (fun b => c.elt b j)
    match c.rop with
    | 1 => l.foldl max (l.headD 0)
    | 2 => l.foldl min (l.headD 0)
    | _ => l.sum
  match c.op with
  | 0 => red i
  | 1 => red (c.rank * n + i)
  | 2 => c.elt (d.getD (i / n) []) (i % n)
  | 3 => c.elt (d.getD c.root []) i
  | _ => c.elt (d.getD (i / n) []) (c.rank * n + i % n)

/-- DELIVER: saturation for SUM; the others fit. -/
def Coll.deliver (c : Coll) (v : Int) : Int := satTo (tySigned c.dtype) (8 * c.size) v

/-- Elements of a chunk. -/
def Coll.per (c : Coll) : Nat := 2 ^ c.clog / c.size

/-- n elements from lo, cut into chunks of per. -/
def cutChunks (per lo n : Nat) : List (Nat × Nat) := (List.range ((n + per - 1) / per)).map (fun i => (lo + i * per, min per (n - i * per)))

/-- The runs of elements of the receive buffer that are cut into chunks: all of it; under TORUS3 each third by element index of each
rank's part (R164, assumption 55). -/
def Coll.runs (c : Coll) : List (Nat × Nat) :=
  if fieldN (c.w 0) 47 45 = 1 then
    (List.range (c.recvN / max c.count 1)).flatMap (fun q => (List.range 3).map (fun t =>
      let a := (t * c.count + 2) / 3
      (q * c.count + a, ((t + 1) * c.count + 2) / 3 - a)))
  else [(0, c.recvN)]

/-- The chunks of the receive buffer: first element and number. -/
def Coll.chunkList (c : Coll) : List (Nat × Nat) := c.runs.flatMap (fun r => cutChunks c.per r.1 r.2)

/-- Buffers of its channel that a chunk step takes, 1 to 4 (assumption 55). -/
def Coll.need (c : Coll) : Nat := Config.chunkNeed (fieldN (c.w 0) 47 45) % 4 + 1

/-- Buffers of a channel that no collective holds (R165). -/
def State.buffers (s : State) (ch : Nat) : Nat :=
  4 - ((s.pkg.colls.filter (fun c => s.channel c.comm == ch)).map (fun c => c.bufs)).sum

/-- The collective's next chunk step can be performed now: it can take its buffers, and what it needs is here. The first step
sends this rank's data; the others need the data of every rank. -/
def Coll.canStep (c : Coll) (s : State) : Bool :=
  c.stage == 2 && decide (c.need ≤ s.buffers (s.channel c.comm)) && (c.chunk == 0 || c.recvN == 0 || (s.pkg.allGiven c).isSome)

/-- The chunk boundary: the buffers of the step that has ended, or of an abandoned collective, are free (R165, R403). -/
def State.boundary (s : State) : State := s.withPkg { s.pkg with colls := s.pkg.colls.map (fun c => { c with bufs := 0 }) }

/-- The choice of R165: lowest PRIO, then the first communicator at or after the pointer. -/
def State.pickColl (s : State) : Option Coll :=
  let cand := s.pkg.colls.filter (fun c => (s.pkg.collOf c.comm).any (fun d => d.num == c.num) && c.canStep s)
  let dist (c : Coll) : Nat := (c.comm + 256 - s.pkg.collPtr % 256) % 256
  cand.foldl (fun b c => match b with
    | none => some c
    | some b => if c.prio < b.prio ∨ (c.prio = b.prio ∧ dist c < dist b) then some c else some b) none

/-- The chunk that a step delivers: any that is not delivered; the path ALG gives the data decides which (R164, assumption 55). -/
def Coll.nextChunk (c : Coll) (p : Pkg) : Nat :=
  let left := (List.range c.chunkList.length).filter (fun i => i ∉ c.filled)
  left.getD (Config.pick p.tick left.length % left.length) 0

/-- All is delivered: this rank's status goes out. -/
def Pkg.collDelivered (p : Pkg) (c : Coll) : Pkg :=
  { p with outbox := p.outbox ++ [OutMsg.status c.comm c.m (BitVec.ofNat 32 (c.statin + (if c.sat then 2 ^ 31 else 0)))] }.setColl { c with stage := 3 }

/-- The buffers that a chunk step of c takes. -/
def Coll.buffersOf (c : Coll) (s : State) : List Nat := (List.range c.need).map (poisonBuf (s.channel c.comm))

/-- A chunk step of c (R160, R164): it sends this rank's data, or delivers a chunk of the receive buffer. An uncorrectable word of a
buffer that it uses is consumed (R366). -/
def chunkStep (s : State) (c : Coll) : Out :=
  let p := { s.pkg with collPtr := (c.comm + 1) % 256 }
  let c := { c with bufs := c.need }
  if (c.buffersOf s).any (fun k => decide (k ∈ p.poison)) then collContain (s.withPkg (p.mend (c.buffersOf s))) c 0
  else if c.chunk = 0 then
    if c.gives c.rank then
      match p.engRead s.er baseAgent c.crew c.sup c.send (c.sendN * c.size) with
      | .error (0, _) => .next s
      | .error (0x30, v) => collUpset s c v
      | .error (e, v) => .next (s.withPkg (p.abandonColl c e (BitVec.ofNat 64 v) true))
      | .ok (bs, p) =>
        .next (s.withPkg ({ p with outbox := p.outbox ++ [OutMsg.data c.comm c.m bs] }.setColl { c with chunk := 1, data := bs }))
    else .next (s.withPkg (p.setColl { c with chunk := 1 }))
  else if c.recvN = 0 then .next (s.withPkg (p.collDelivered c))
  else
    match p.allGiven c with
    | none => .next s
    | some d =>
      let i := c.nextChunk p
      let q := c.chunkList.getD i (0, 0)
      let lo := q.1
      let l := (List.range q.2).map (fun i => c.value d (lo + i))
      let bs := l.flatMap (fun v => toBytes c.size (wrapBits (8 * c.size) (c.deliver v)))
      match p.engWrite s.er baseAgent c.crew c.sup (c.recv + lo * c.size) bs with
      | .error (0, _) => .next s
      | .error (0x30, v) => collUpset s c v
      | .error (e, v) => .next (s.withPkg (p.abandonColl c e (BitVec.ofNat 64 v) true))
      | .ok p =>
        let c := { c with chunk := c.chunk + 1, filled := c.filled ++ [i], sat := c.sat || l.any (fun v => c.deliver v != v) }
        .next (s.withPkg (if c.chunkList.length ≤ c.filled.length then p.collDelivered c else p.setColl c))

/-- COLL_CHUNK_STEP: the one chunk step that the engine runs at this boundary. -/
def execCollChunkStep (s : State) : Out :=
  match s.boundary.pickColl with
  | none => .next s
  | some c => chunkStep s.boundary c

/-! ### Completion (R161) -/

/-- The completion signal: flag, or galley word; a crew that has left takes none. -/
def Coll.signal (c : Coll) (p : Pkg) : Pkg :=
  let cu := p.crew c.crew
  let q := (p.strands.find? c.strand).elim (0, 0) (fun st => (st.core, st.sn))
  if cu.st = .ended ∨ cu.st = .lost then p
  else if c.cmode = 1 then p.postPos c.crew (fieldN (c.w 5) 45 41) (fieldN (c.w 5) 40 36) (fieldN (c.w 5) 61 46) c.crew q.1 q.2
  else if c.cmode = 2 then
    let goff := fieldN (c.w 5) 22 0
    let key := p.offKey c.crew goff
    p.galleyAdd c.crew key (if c.op = 4 then p.num key 4 else c.recvN * c.size) (cu.cores.getD (goff / 2 ^ 18) 0)
  else p

/-- The galley word that the completion would update holds an uncorrectable word: its address. -/
def Coll.galleyUpset (c : Coll) (p : Pkg) : Option Nat :=
  let cu := p.crew c.crew
  let goff := fieldN (c.w 5) 22 0
  if c.cmode = 2 ∧ cu.st ≠ .ended ∧ cu.st ≠ .lost then (p.offPoison c.crew goff 16).map (fun _ => windowBase + goff) else none

/-- COLL_COMPLETION: with the status of every rank, RSTAT is written, ranges are removed and the completion signalled. -/
def execCollCompletion (comm : Nat) (s : State) : Out :=
  match s.pkg.collOf comm with
  | none => .next s
  | some c =>
    let got := c.others.map (fun q => s.pkg.peer c q (fun m => m.status.isSome))
    if c.stage ≠ 3 ∨ got.any (fun m => m.isNone) then .next s
    else
      let mine := c.statin + (if c.sat then 2 ^ 31 else 0)
      let stat := (got.filterMap id).foldl (fun a m => a ||| (m.status.getD 0).toNat) mine
      let p := s.pkg.dropRanges 2 c.num
      match (c.galleyUpset s.pkg, p.engWrite s.er baseAgent c.crew c.sup (c.va + 52) (toBytes 4 stat)) with
      | (some v, _) => collUpset s c v
      | (none, .error (0, _)) => .next s
      | (none, .error (0x30, v)) => collUpset s c v
      | (none, r) =>
        let p := match r with
          | .ok p => p
          | .error (e, _) => p.asyncTo c.strand e (BitVec.ofNat 64 (c.va + 52))
        let l := p.launch c.launch
        let p := p.setLaunch c.launch { l with csat := l.csat || bitN stat 31 }
        let p := c.signal p
        .next (s.withPkg { p with
          colls := p.colls.filter (fun d => d.num != c.num)
          inbox := p.inbox.filter (fun m => !(m.comm == comm && m.num == c.m))
          collDone := RMap.put p.collDone comm (p.collDone.get 0 comm + 1) })

/-! ### Messages and the timer (R403 to R405) -/

/-- COLL_ABANDON_MESSAGE: an abandon of a rank is acted on once this rank has checked its own block of that collective; one
for a collective already over is dropped. -/
def execCollAbandonMessage (comm rank : Nat) (s : State) : Out :=
  match s.pkg.inbox.find? (fun m => m.comm == comm && m.rank == rank && m.abandon) with
  | none => .next s
  | some m =>
    match s.pkg.colls.find? (fun c => c.comm == comm && c.m == m.num) with
    | some c =>
      if c.stage = 0 then .next s
      else .next (s.withPkg (s.pkg.abandonColl c 0x28 (peerLost comm rank) true))
    | none =>
      if m.num < s.pkg.collAcc.get 0 comm then .next (s.withPkg { s.pkg with inbox := s.pkg.inbox.erase m }) else .next s

/-- Crews with a COLL of a communicator accepted or queued, with the strand that issued it. -/
def collHolders (p : Pkg) (comm : Nat) : List (Nat × Nat) :=
  let acc := (p.colls.filter (fun c => c.comm == comm)).map (fun c => (c.crew, c.strand))
  let queued := p.strands.flatMap (fun e =>
    if e.2.collq.any (fun q => q.2.comm == some comm) then [(e.2.crew, e.1)] else [])
  (acc ++ queued).foldl (fun l x => if l.any (fun y => y.1 == x.1) then l else l ++ [x]) []

/-- COLL_HOLD_MESSAGE: the communicator's timers pause, and each crew with a COLL of it is told. -/
def execCollHoldMessage (comm rank : Nat) (s : State) : Out :=
  let p := { s.pkg with
    holdsIn := if (comm, rank) ∈ s.pkg.holdsIn then s.pkg.holdsIn else s.pkg.holdsIn ++ [(comm, rank)]
    colls := s.pkg.colls.map (fun c => if c.comm = comm then { c with timer := 0 } else c) }
  .next (s.withPkg ((collHolders p comm).foldl (fun p x =>
    let q := (p.strands.find? x.2).elim (0, 0) (fun st => (st.core, st.sn))
    p.notify x.1 5 0 q.1 q.2 (BitVec.ofNat 64 comm)) p))

/-- COLL_RELEASE_MESSAGE: the timers resume from 0. -/
def execCollReleaseMessage (comm rank : Nat) (s : State) : Out :=
  .next (s.withPkg { s.pkg with
    holdsIn := s.pkg.holdsIn.filter (fun h => h != (comm, rank))
    colls := s.pkg.colls.map (fun c => if c.comm = comm then { c with timer := 0 } else c) })

/-- The ranks a collective waits for now: those whose block, data or status is not here. -/
def Coll.awaited (c : Coll) (p : Pkg) : List Nat :=
  c.others.filter (fun q =>
    match c.stage with
    | 1 => (p.peer c q (fun m => m.block != [])).isNone
    | 2 => decide (0 < c.chunk) && c.recvN != 0 && (p.given c q).isNone
    | 3 => (p.peer c q (fun m => m.status.isSome)).isNone
    | _ => false)

/-- The timer counts: the collective is in progress, waits on a peer, and no hold is in force. -/
def Coll.counts (c : Coll) (p : Pkg) : Bool :=
  (p.collOf c.comm).any (fun d => d.num == c.num) && c.awaited p != [] && !p.holdsIn.any (fun h => h.1 == c.comm)

/-- n switch cycles pass for the progress timers. -/
def Pkg.tickTimers (p : Pkg) (n : Nat) : Pkg :=
  { p with colls := p.colls.map (fun c => if c.counts p then { c with timer := c.timer + n } else c) }

/-- COLL_TIMER_EXPIRY. -/
def execCollTimerExpiry (comm : Nat) (s : State) : Out :=
  match s.pkg.collOf comm with
  | none => .next s
  | some c =>
    if c.timerLimit = 0 ∨ c.timer < c.timerLimit * 1024 ∨ !c.counts s.pkg then .next s
    else .next (s.withPkg (s.pkg.abandonColl c 0x28 (peerLost comm ((c.awaited s.pkg).headD 0)) true))

end Sys2Proof.Machine
end

