-- ==== Sys2Proof/Machine/Control.lean ====
section
/-! DEFINITION. The B slot (12, R225, R237 to R243): guards, compares, predicate logic, transfers, traps on purpose and
the return from a handler. -/

namespace Sys2Proof.Machine

/-- The guard holds (R198). -/
def guard (st : Strand) (g : BitVec 3) (gn : BitVec 1) : Bool := st.getP g.toNat != (gn == 1#1)

/-- The checks of a B slot: a guarded-off slot checks its fields only (R225, R370). -/
def bStop (i : Instr) (on : Bool) (pv : Option Stop) (chk : Option Stop) (s : State) (st : Strand) : Option Stop :=
  if on then slotStop i [] pv chk s st
  else
    let bad := badFields st.bun.lits i
    if bad ≠ [] then some (.trap 0x02 (BitVec.ofNat 64 (chooseOf st.wordKey bad))) else none

/-- A B slot whose effect stays in the strand; guarded off, it does nothing and commits (R225). -/
def bOp (i : Instr) (g : BitVec 3) (gn : BitVec 1) (pv chk : Strand → Option Stop) (eff : Strand → Strand) (s : State) : Out :=
  match s.pkg.strands.find? s.focus with
  | none => .fault .noStrand
  | some st =>
    let on := guard st g gn
    match bStop i on (pv st) (chk st) s st with
    | some stop => .next { s with pkg := s.pkg.stopAt s.er s.focus st stop }
    | none => .next { s with pkg := s.pkg.setStrand s.focus (if on then eff st else st).finish }

def noStop : Strand → Option Stop := fun _ => none

/-! ### Compares and predicates (R237, R238) -/

def cmpOp (i : Instr) (o : BPred) (f : X → X → Bool) (s : State) : Out :=
  bOp i o.g o.gn noStop noStop (fun st => st.setP o.pd.toNat (f (st.getX o.a.toNat) (st.getX o.b.toNat))) s

def cmpiOp (i : Instr) (o : BPred) (f : X → X → Bool) (s : State) : Out :=
  bOp i o.g o.gn noStop noStop (fun st => st.setP o.pd.toNat (f (st.getX o.a.toNat) (o.imm.signExtend 64))) s

def predOp (i : Instr) (o : BPred) (f : Bool → Bool → Bool) (s : State) : Out :=
  bOp i o.g o.gn noStop noStop (fun st => st.setP o.pd.toNat (f (st.getP (o.a.toNat % 8)) (st.getP (o.b.toNat % 8)))) s

/-- CMPEQ (R237). -/
def execCmpeq (o : BPred) (s : State) : Out := cmpOp (.cmpeq o) o (fun a b => a == b) s
/-- CMPNE (R237). -/
def execCmpne (o : BPred) (s : State) : Out := cmpOp (.cmpne o) o (fun a b => a != b) s
/-- CMPLT (R237): signed. -/
def execCmplt (o : BPred) (s : State) : Out := cmpOp (.cmplt o) o (fun a b => decide (a.toInt < b.toInt)) s
/-- CMPLE (R237): signed. -/
def execCmple (o : BPred) (s : State) : Out := cmpOp (.cmple o) o (fun a b => decide (a.toInt ≤ b.toInt)) s
/-- CMPLTZ (R237): unsigned. -/
def execCmpltz (o : BPred) (s : State) : Out := cmpOp (.cmpltz o) o (fun a b => decide (a.toNat < b.toNat)) s
/-- CMPLEZ (R237): unsigned. -/
def execCmplez (o : BPred) (s : State) : Out := cmpOp (.cmplez o) o (fun a b => decide (a.toNat ≤ b.toNat)) s
/-- CMPEQI (R237). -/
def execCmpeqi (o : BPred) (s : State) : Out := cmpiOp (.cmpeqi o) o (fun a b => a == b) s
/-- CMPNEI (R237). -/
def execCmpnei (o : BPred) (s : State) : Out := cmpiOp (.cmpnei o) o (fun a b => a != b) s
/-- CMPLTI (R237): signed. -/
def execCmplti (o : BPred) (s : State) : Out := cmpiOp (.cmplti o) o (fun a b => decide (a.toInt < b.toInt)) s
/-- CMPLEI (R237): signed. -/
def execCmplei (o : BPred) (s : State) : Out := cmpiOp (.cmplei o) o (fun a b => decide (a.toInt ≤ b.toInt)) s
/-- PAND (R238). -/
def execPand (o : BPred) (s : State) : Out := predOp (.pand o) o (fun a b => a && b) s
/-- POR (R238). -/
def execPor (o : BPred) (s : State) : Out := predOp (.por o) o (fun a b => a || b) s
/-- PXOR (R238). -/
def execPxor (o : BPred) (s : State) : Out := predOp (.pxor o) o (fun a b => a != b) s
/-- PANDN (R238). -/
def execPandn (o : BPred) (s : State) : Out := predOp (.pandn o) o (fun a b => a && !b) s
/-- PMOV (R238). -/
def execPmov (o : BPred) (s : State) : Out := predOp (.pmov o) o (fun a _ => a) s

/-! ### Transfers (R192, R239, R240) -/

/-- The target of an offset form: PC + 4·SEXT(off, 22). -/
def offTarget (st : Strand) (o : BOff) : X := st.bun.pc + o.off.signExtend 64 * 4

/-- BR (R239). -/
def execBr (o : BOff) (s : State) : Out :=
  bOp (.br o) o.g o.gn noStop noStop (fun st => { st with pend := some (.jump (offTarget st o)) }) s

/-- BRL (R239): links the next address in x31. -/
def execBrl (o : BOff) (s : State) : Out :=
  bOp (.brl o) o.g o.gn noStop noStop
    (fun st => { st.setX 31 st.bun.next with pend := some (.jump (offTarget st o)) }) s

/-- A jump target with bits [1:0] nonzero is misaligned (R239). -/
def jumpAlign (o : BPred) (st : Strand) : Option Stop :=
  let a := st.getX o.a.toNat
  if a.toNat % 4 = 0 then none else some (.trap 0x08 a)

/-- JR (R239). -/
def execJr (o : BPred) (s : State) : Out :=
  bOp (.jr o) o.g o.gn noStop (jumpAlign o) (fun st => { st with pend := some (.jump (st.getX o.a.toNat)) }) s

/-- JRL (R239): reads xa before it writes x31. -/
def execJrl (o : BPred) (s : State) : Out :=
  bOp (.jrl o) o.g o.gn noStop (jumpAlign o)
    (fun st => { st.setX 31 st.bun.next with pend := some (.jump (st.getX o.a.toNat)) }) s

/-- LOOP (R240). -/
def execLoop (o : BOff) (s : State) : Out :=
  bOp (.loop o) o.g o.gn noStop noStop (fun st =>
    let n := st.getX 30
    if 1 < n.toNat then { st.setX 30 (n - 1) with pend := some (.jump (offTarget st o)) }
    else st.setX 30 0) s

/-- ERET (R242): privilege when STATUS.INH is 0; performed as a transfer. -/
def execEret (o : BOff) (s : State) : Out :=
  bOp (.eret o) o.g o.gn (fun st => if st.inh then none else some (.trap 0x07 0)) noStop
    (fun st => { st with pend := some .eret }) s

/-- END (R243): decided here, performed after the last issue and the header post. -/
def execEndTask (o : BOff) (s : State) : Out :=
  bOp (.endTask o) o.g o.gn noStop noStop (fun st => { st with pend := some .endTask }) s

/-- IDLE (R243). -/
def execIdle (o : BOff) (s : State) : Out :=
  bOp (.idle o) o.g o.gn noStop noStop (fun st => { st with pend := some .idle }) s

/-- YIELD (R243): REQ is read at the issue, and whether TIME has passed DEADLINE (R178). -/
def execYield (o : BOff) (s : State) : Out :=
  bOp (.yield o) o.g o.gn noStop noStop
    (fun st => let c := s.pkg.crew st.crew; { st with pend := some (.yield c.req (decide (c.deadline < s.pkg.time))) }) s

/-! ### Traps on purpose (R192, R241) -/

/-- TRAP, SVC and BRK commit at the B slot of the first issue and trap at once: TSTAT names the B slot with TV 1,
REP 0, SLOT 2, and no later slot of the issue has committed. -/
def trapOp (i : Instr) (o : BPred) (cause : Nat) (s : State) : Out :=
  match s.pkg.strands.find? s.focus with
  | none => .fault .noStrand
  | some st =>
    let on := guard st o.g o.gn
    match bStop i on none none s st with
    | some stop => .next { s with pkg := s.pkg.stopAt s.er s.focus st stop }
    | none =>
      if on then
        let e := { st.syncTrap cause (o.imm.setWidth 64) 2 with tstat := tstatWord true 0 2 }
        let e := if cause = 0x38 then { e with sup := true } else e
        .next { s with pkg := s.pkg.takeTrap s.er s.focus st cause (o.imm.setWidth 64) e }
      else .next { s with pkg := s.pkg.setStrand s.focus st.finish }

/-- TRAP (R241). -/
def execTrap (o : BPred) (s : State) : Out := trapOp (.trap o) o 0x3A s
/-- SVC (R241): enters supervisor mode. -/
def execSvc (o : BPred) (s : State) : Out := trapOp (.svc o) o 0x38 s
/-- BRK (R241). -/
def execBrk (o : BPred) (s : State) : Out := trapOp (.brk o) o 0x39 s

end Sys2Proof.Machine
end

