-- ==== Sys2Proof/Machine/Copy.lean ====
section
/-! DEFINITION. Copy commands and the copy engine (08, R151 to R157, R306 to R309, R393). -/

namespace Sys2Proof.Machine

/-! ### Issuing a command -/

/-- CSET (R306): the field's low bits. -/
def execCset (o : ECset) (s : State) : Out :=
  onUnit (.cset o) noFx noPv noChk (fun s st =>
    let n := o.field.toNat
    .done s.pkg { st with
      shadow := RMap.set st.shadow (shadowReset n) n (BitVec.ofNat 64 ((st.getX o.xa.toNat).toNat % 2 ^ shadowWidth n)) }) s

/-- The command of a snapshot. -/
def snapshot (s : State) (st : Strand) (f : RMap X) : CopyCmd :=
  { num := 0, strand := s.focus, crew := st.crew, fields := f, sup := st.sup }

/-- Structures named by window-offset fields: field, alignment, bytes. -/
def offFields : List (Nat × Nat × Nat) := [(16, 16, 16), (17, 64, 8), (18, 64, 8), (20, 8, 8)]

/-- Field numbers that break a limit of R151 to R153 (R307); dep is the value WAITDEP[63] must have. -/
def copyBad (c : CopyCmd) (dep : Bool) : List Nat :=
  let f := c.field
  let gather := f 11 ≠ 0
  let w (p : Prop) [Decidable p] (n : Nat) : List Nat := if p then [n] else []
  w (65536 < f 11) 11
    ++ (if gather then w (f 12 = 0 ∨ 2 ^ 20 < f 12 ∨ f 12 % c.es ≠ 0) 12 ++ w (f 10 % 4 ≠ 0) 10
        else w (2 ^ 24 < f 3) 3 ++ w (f 4 = 0 ∨ 65536 < f 4) 4 ++ w (f 5 = 0 ∨ 65536 < f 5) 5)
    ++ w (4 < f 13 ∨ (f 13 ≠ 0 ∧ f 2 ≠ 2 ∧ f 2 ≠ 4 ∧ f 2 ≠ 6)) 13
    ++ w (f 14 ≠ 0 ∧ !(decide (windowBase ≤ f 1) && decide (f 1 < noticeBase))) 1
    ++ w (fieldN (f 15) 15 10 ≠ 0) 15
    ++ w (f 19 = 3) 19
    ++ w (bitN (f 17) 63 ≠ dep) 17
    ++ offFields.flatMap (fun e => match c.offset? e.1 with | some off => w (off % e.2.1 ≠ 0) e.1 | none => [])

/-- Positions and offsets outside the crew (R307): the TVAL of each. -/
def copyOut (p : Pkg) (c : CopyCmd) : List Nat :=
  let cpc := (p.launch (p.crew c.crew).launch).cpc
  let fcore := fieldN (c.field 15) 9 5
  (if cpc ≤ fcore then [fcore] else [])
    ++ ((c.positions.filter (fun j => cpc ≤ j)).take 1)
    ++ offFields.flatMap (fun e => match c.offset? e.1 with
        | some off => if p.inOff c.crew off e.2.2 then [] else [windowBase + off]
        | none => [])

/-- 0x13 for a position or offset outside. -/
def copyStop (p : Pkg) (st : Strand) (c : CopyCmd) : Option Stop :=
  let l := copyOut p c
  if l = [] then none else some (.trap 0x13 (BitVec.ofNat 64 (chooseOf st.wordKey l)))

/-- Enter the copy queue of 16. -/
def copyEnter (s : State) (st : Strand) (c : CopyCmd) : Res :=
  match orderStop s.pkg st 6 with
  | some w => .stop w
  | none =>
    let k := s.pkg.core st.core
    if 16 ≤ k.copyq.length + k.copyRun.toList.length then .stop (.block (.queueFull 1))
    else .done (s.pkg.appendCopy st.core c) st

/-- CGO (R307). -/
def execCgo (s : State) : Out :=
  onUnit .cgo (fun s st => copyBad (snapshot s st st.shadow) false) noPv
    (fun s st => copyStop s.pkg st (snapshot s st st.shadow))
    (fun s st => copyEnter s st (snapshot s st st.shadow)) s

/-- CARM (R155, R307): armed, or appended at once when its counter is 0. -/
def execCarm (s : State) : Out :=
  onUnit .carm (fun s st => copyBad (snapshot s st st.shadow) true) noPv
    (fun s st => copyStop s.pkg st (snapshot s st st.shadow))
    (fun s st =>
      let c := snapshot s st st.shadow
      match orderStop s.pkg st 6 with
      | some w => .stop w
      | none =>
        let k := s.pkg.core st.core
        let off := (c.offset? 17).getD 0
        if 16 ≤ k.armed.length then .stop (.block (.queueFull 5))
        else match s.pkg.counterUpset st.crew off with
        | some q => .stop (.contain (s.pkg.fvalOf st.crew q))
        | none =>
          if s.pkg.num (s.pkg.offKey st.crew off + 6) 2 = 0 then .done (s.pkg.appendCopy st.core c) st
          else .done (s.pkg.setCore st.core { k with armed := k.armed ++ [{ cmd := c }] }) st) s

/-- The command of a CPY (R308). -/
def cpyCmd (s : State) (st : Strand) (o : ECpy) : CopyCmd :=
  snapshot s st [(0, st.getX o.xS.toNat), (1, st.getX o.xD.toNat), (2, 3), (3, st.getX o.xN.toNat),
    (15, BitVec.ofNat 64 (if o.pe = 1#1 then o.postn.toNat * 2 ^ 16 + o.fcore.toNat * 2 ^ 5 + o.flag.toNat else 0))]

/-- CPY. -/
def execCpy (o : ECpy) (s : State) : Out :=
  onUnit (.cpy o) noFx noPv
    (fun s st =>
      let n := st.getX o.xN.toNat
      if 2 ^ 24 < n.toNat then some (.trap 0x02 n)
      else ((rangeChk s.pkg st .load (st.getX o.xS.toNat).toNat 1).or (rangeChk s.pkg st .store (st.getX o.xD.toNat).toNat 1)).or
        (copyStop s.pkg st (cpyCmd s st o)))
    (fun s st => copyEnter s st (cpyCmd s st o)) s

/-- CCANCEL (R309): armed commands of the strand with the tag. -/
def execCcancel (o : ETag) (s : State) : Out :=
  onUnit (.ccancel o) noFx noPv noChk (fun s st =>
    let k := s.pkg.core st.core
    .done (s.pkg.setCore st.core { k with
      armed := k.armed.filter (fun a => !(a.cmd.strand == s.focus && a.cmd.field 21 == o.tag.toNat)) }) st) s

/-! ### The copy engine (R152 to R154) -/

/-- Source and destination of element n. -/
def CopyRun.place (r : CopyRun) (n : Nat) : Nat × Nat :=
  let c := r.cmd
  let src := if c.field 11 = 0 then
      let a := n % c.field 3
      let row := n / c.field 3 % c.field 4
      let pl := n / (c.field 3 * c.field 4)
      addrOf (c.field 0) (pl * c.stride 7 + row * c.stride 6 + a * c.es)
    else
      let per := c.field 12 / c.es
      addrOf (c.field 0) ((r.ix.getD (n / per) 0 : Nat) * c.stride 6 + (n % per : Nat) * c.es)
  (src, c.dstOf n)

/-- The destinations of address d: a multicast goes to every position of the mask. -/
def CopyCmd.dests (c : CopyCmd) (d : Nat) : List Nat := if c.field 14 = 0 then [d] else c.positions.map (atPos d)

/-- The value written over old for the value x read (R152), and whether it saturated. -/
def CopyCmd.combine (c : CopyCmd) (old x : Nat) : Nat × Bool :=
  let t := c.field 2
  let w := 8 * c.es
  let rd (n : Nat) : Int := readFmt (tySigned t) w (n % 2 ^ w)
  match c.field 13 with
  | 1 => (wrapBits w (rd old + rd x), false)
  | 2 => let y := satTo (tySigned t) w (rd old + rd x); (wrapBits w y, decide (y ≠ rd old + rd x))
  | 3 => (wrapBits w (max (rd old) (rd x)), false)
  | 4 => (wrapBits w (min (rd old) (rd x)), false)
  | _ => (x, false)

/-- The redundant sign bits of a stored element: of each 4-bit value for s4 and z4. -/
def CopyCmd.counts (c : CopyCmd) (y : Nat) : List Nat :=
  let t := c.field 2
  let one (n : Nat) : Nat := rsb (tySigned t) (tyW t) (readFmt (tySigned t) (tyW t) (n % 2 ^ tyW t))
  if tyW t = 4 then [one y, one (y / 16)] else [one y]

/-- The galley word that a write at d updates: its key, its core's number and its window address. Under multicast it is the word of
the position written (R153). -/
def galleyOf (p : Pkg) (c : CopyCmd) (d : Nat) : Option (Nat × Nat × Nat) :=
  (c.offset? 16).map (fun off =>
    let j := if c.field 14 = 0 then off / 2 ^ 18 else (d - windowBase) / 2 ^ 18
    ((p.crew c.crew).winKey j (off % 2 ^ 18), (p.crew c.crew).cores.getD j 0, windowBase + j * 2 ^ 18 + off % 2 ^ 18))

/-- A census block at c's offset is merged (R154). -/
def CopyRun.merge (r : CopyRun) (p : Pkg) : Pkg :=
  match r.cmd.offset? 20 with
  | some off => p.mergeBlock r.cmd.crew off r.census r.sat false
  | none => p

/-- The uncorrectable word that merging the census would consume. -/
def CopyCmd.censusUpset (c : CopyCmd) (p : Pkg) : Option Nat := (c.offset? 20).bind (fun off => p.offPoison c.crew off 8)

/-- The command's last write has been made: the galley updates that have waited for it complete their generations, after the census is
merged and the ranges are gone (R112, R154). -/
def CopyRun.closeGalleys (r : CopyRun) (p : Pkg) : Pkg × CopyRun :=
  if r.late = [] then (p, r)
  else (r.late.foldl (fun p g => p.galleyAdd r.cmd.crew g.1 r.cmd.es g.2) ((r.merge p).dropRanges 1 r.cmd.num), { r with late := [], merged := true })

/-- The next write of the running command on core: the element is read before its first write. The cause and VA of a failure. -/
def copyStep (er core : Nat) (p : Pkg) (r : CopyRun) : Except (Nat × Nat) (Pkg × CopyRun) :=
  let c := r.cmd
  let pl := r.place r.done
  -- the 64-byte lines of the element before are counted already (R99)
  let prev : Option (Nat × Nat) := if r.done = 0 then none else some (r.place (r.done - 1))
  let rd : Except (Nat × Nat) (Nat × Pkg) := match r.val with
    | some x => .ok (x, p)
    | none => match p.engRead er core c.crew c.sup pl.1 c.es (prev.map (fun q => q.1 / 64)) with | .ok (bs, p) => .ok (ofBytes bs, p) | .error e => .error e
  match rd with
  | .error e => .error e
  | .ok (x, p) =>
    let ds := c.dests pl.2
    let d := ds.getD r.dest 0
    let skip := prev.map (fun q => (c.dests q.2).getD r.dest 0 / 64)
    let gal := galleyOf p c d
    let last := decide (ds.length ≤ r.dest + 1)
    let final := decide (c.total ≤ r.done + 1)
    -- an update of the last element that completes a generation waits for the command's last write
    let held := final && gal.any (fun g => p.galleyFires g.1 c.es)
    let late := r.late ++ (if held then gal.toList.map (fun g => (g.1, g.2.1)) else [])
    if c.field 14 ≠ 0 ∧ !(decide (windowBase ≤ pl.2) && decide (pl.2 < noticeBase)) then .error (0x13, pl.2)
    else if gal.any (fun g => (p.galleyUpset g.1).isSome) then .error (0x30, gal.elim 0 (fun g => g.2.2))
    else if last ∧ final ∧ late ≠ [] ∧ (c.censusUpset p).isSome then .error (0x30, windowBase + (c.offset? 20).getD 0)
    else
      let old : Except (Nat × Nat) (Nat × Pkg) := if c.field 13 = 0 then .ok (0, p)
        else match p.engRead er core c.crew c.sup d c.es skip with | .ok (bs, p) => .ok (ofBytes bs, p) | .error e => .error e
      match old with
      | .error e => .error e
      | .ok (o, p) =>
        let y := c.combine o x
        match p.engWrite er core c.crew c.sup d (toBytes c.es y.1) skip with
        | .error e => .error e
        | .ok p =>
          let p := if held then p else gal.elim p (fun g => p.galleyAdd c.crew g.1 c.es g.2.1)
          let r : CopyRun := { r with
            val := if last then none else some x
            dest := if last then 0 else r.dest + 1
            done := if last then r.done + 1 else r.done
            census := (minOf (r.census ++ c.counts y.1)).toList
            sat := r.sat || y.2
            late := late }
          .ok (if last && final then r.closeGalleys p else (p, r))

/-- The index list of a gather (R152): entries read once, in order. -/
def readIndex (er core : Nat) (p : Pkg) (c : CopyCmd) : Except (Nat × Nat) (List Nat × Pkg) :=
  (List.range (c.field 11)).foldl (fun r n =>
    match r with
    | .error e => .error e
    | .ok (l, p) =>
      match p.engRead er core c.crew c.sup (c.field 10 + 4 * n) 4 with
      | .ok (bs, p) => .ok (l ++ [ofBytes bs], p)
      | .error e => .error e) (.ok ([], p))

/-- The head of a copy queue that may start: no command runs, and no join holds it. -/
def copyHead (s : State) (core : Nat) : Option CopyCmd :=
  let k := s.pkg.core core
  match k.copyRun, k.copyq with
  | none, c :: _ => if k.service = .inService ∧ !s.pkg.held c.strand 1 c.num then some c else none
  | _, _ => none

/-- COPY_START: the index list is read, the ranges are in force, then the transfers begin; with no room in the range
table the command waits, and its list is read when there is room (assumption 63). -/
def execCopyStart (core : Nat) (s : State) : Out :=
  match copyHead s core with
  | none => .next s
  | some c =>
    match readIndex s.er core s.pkg c with
    | .error (0x30, v) => engineUpset s core (engFval s.pkg s.er c.crew c.sup v)
    | .error _ => .next s
    | .ok (ix, p) =>
      let l := c.ranges core (p.crew c.crew).launch ix
      match (if l = [] then some p else p.inForce 1 c.num l) with
      | none => .next s
      | some p =>
        let k := p.core core
        .next (s.withPkg (p.setCore core { k with copyq := k.copyq.drop 1, copyRun := some { cmd := c, ix := ix } }))

/-- COPY_WRITE_LANDED: the next element write is performed at its destination. -/
def execCopyWriteLanded (core : Nat) (s : State) : Out :=
  match (s.pkg.core core).copyRun with
  | none => .next s
  | some r =>
    if r.cmd.total ≤ r.done then .next s
    else
      match copyStep s.er core s.pkg r with
      | .error (0x30, v) => engineUpset s core (engFval s.pkg s.er r.cmd.crew r.cmd.sup v)
      | .error _ => .next s
      | .ok (p, r') => .next (s.withPkg (p.setCore core { p.core core with copyRun := some r' }))

/-- COPY_COMPLETION (R154): census, ranges, DECDEP, flag, then out of the queue. -/
def execCopyCompletion (core : Nat) (s : State) : Out :=
  match (s.pkg.core core).copyRun with
  | none => .next s
  | some r =>
    let c := r.cmd
    let upset := (if r.merged then none else c.censusUpset s.pkg).or
      ((c.offset? 18).bind (fun off => s.pkg.counterUpset c.crew off))
    if r.done < c.total then .next s
    else match upset with
    | some q => engineUpset s core (s.pkg.fvalOf c.crew q)
    | none =>
      let p := if r.merged then s.pkg else (r.merge s.pkg).dropRanges 1 c.num
      let p := match c.offset? 18 with
        | some off => p.decrement c.crew off core 0
        | none => p
      let post := c.field 15
      let n := fieldN post 31 16
      let p := if n = 0 then p else p.postPos c.crew (fieldN post 9 5) (fieldN post 4 0) n c.crew core 0
      .next (s.withPkg (p.setCore core { p.core core with copyRun := none }))

/-- COPY_ABORT (R393): the command's next access fails; it leaves the queue with its ranges removed and nothing
merged, decremented or posted, and its strand takes an asynchronous trap. -/
def execCopyAbort (core : Nat) (s : State) : Out :=
  let fail (p : Pkg) (c : CopyCmd) (e : Nat × Nat) : Pkg :=
    (p.dropRanges 1 c.num).asyncTo c.strand e.1 (BitVec.ofNat 64 e.2)
  match (s.pkg.core core).copyRun with
  | some r =>
    if r.cmd.total ≤ r.done then .next s
    else
      match copyStep s.er core s.pkg r with
      | .error e =>
        if e.1 = 0x30 ∨ e.1 = 0 then .next s
        else .next (s.withPkg (fail (s.pkg.setCore core { s.pkg.core core with copyRun := none }) r.cmd e))
      | .ok _ => .next s
  | none =>
    match copyHead s core with
    | none => .next s
    | some c =>
      match readIndex s.er core s.pkg c with
      | .error e =>
        if e.1 = 0x30 ∨ e.1 = 0 then .next s
        else
          let k := s.pkg.core core
          .next (s.withPkg (fail (s.pkg.setCore core { k with copyq := k.copyq.drop 1 }) c e))
      | .ok _ => .next s

end Sys2Proof.Machine
end

