-- ==== Sys2Proof/Machine/Formes.lean ====
section
/-! DEFINITION. Formes (07, R141 to R149, R305, R395): their records, the forme scheduler, the SHARED engines with the
signature stage and the requantising drain, and TDEP. -/

namespace Sys2Proof.Machine

/-! ### The record (R141) -/

/-- The record's 64-bit word n. -/
def fw (r : List Byte) (n : Nat) : Nat := recN r (8 * n) 8

/-- A forme's fields. -/
structure Forme where
  kind : Nat
  atype : Nat
  btype : Nat
  s32 : Bool
  ta : Bool
  tb : Bool
  m : Nat
  n : Nat
  k : Nat
  flag : Nat
  fcore : Nat
  postn : Nat
  astride : Nat
  aoff : Nat
  bstride : Nat
  boff : Nat
  ostride : Nat
  otype : Nat
  ooff : Nat
  keybase : Nat
  shift : Nat
  stoch : Bool
  men : Bool
  moff : Nat
  bwd : Nat
  rep : Nat
  exact : Bool
  h : Nat
  coff : Nat
  cen : Bool
  mapoff : Nat
  seed : Nat
  bias : Nat
  dv1 : Bool
  dec1 : Nat
  dv0 : Bool
  dec0 : Nat
  deriving DecidableEq, Repr

def formeOf (r : List Byte) : Forme :=
  let w := fw r
  { kind := fieldN (w 0) 47 46, atype := fieldN (w 0) 45 43, btype := fieldN (w 0) 42 40, s32 := bitN (w 0) 39
    ta := bitN (w 0) 38, tb := bitN (w 0) 37
    m := 16 * (fieldN (w 0) 36 33 + 1), n := 16 * (fieldN (w 0) 32 29 + 1), k := 16 * (fieldN (w 0) 28 21 + 1)
    flag := fieldN (w 0) 20 16, fcore := fieldN (w 0) 15 11, postn := fieldN (w 0) 7 0
    astride := fieldN (w 1) 63 48, aoff := fieldN (w 1) 22 0
    bstride := fieldN (w 2) 63 48, boff := fieldN (w 2) 22 0
    ostride := fieldN (w 3) 63 48, otype := fieldN (w 3) 47 45, ooff := fieldN (w 3) 22 0
    keybase := fieldN (w 4) 63 32, shift := fieldN (w 4) 31 25, stoch := bitN (w 4) 24, men := bitN (w 4) 23, moff := fieldN (w 4) 22 0
    bwd := fieldN (w 5) 63 62, rep := fieldN (w 5) 61 61, exact := bitN (w 5) 60, h := fieldN (w 5) 59 56
    coff := fieldN (w 5) 46 24, cen := bitN (w 5) 23, mapoff := fieldN (w 5) 22 0
    seed := fieldN (w 6) 63 32, bias := fieldN (w 6) 22 0
    dv1 := bitN (w 7) 63, dec1 := fieldN (w 7) 62 40, dv0 := bitN (w 7) 31, dec0 := fieldN (w 7) 30 8 }

/-- Rows stored and bytes of each for a matrix of rows × cols elements of type t, stored transposed or not (R142). -/
def stored (tr : Bool) (rows cols t : Nat) : Nat × Nat :=
  if tr then (cols, rows * tyW t / 8) else (rows, cols * tyW t / 8)

/-- Bytes from the first to the last of a stored matrix. -/
def spanOf (q : Nat × Nat) (stride : Nat) : Nat := (q.1 - 1) * stride + q.2

/-- A forme that breaks a rule of R141 (R395). A range is the whole span from its first to its last byte, rows and the bytes between
them (assumption 83). -/
def malformed (p : Pkg) (cu : Nat) (r : List Byte) : Bool :=
  let w := fw r
  let f := formeOf r
  let l := p.launch (p.crew cu).launch
  let reserved := 2 ≤ f.kind || 5 ≤ f.atype || 5 ≤ f.btype || fieldN (w 0) 10 8 != 0 || fieldN (w 1) 47 23 != 0
    || fieldN (w 2) 47 23 != 0 || fieldN (w 3) 44 23 != 0 || f.bwd == 3 || 13 ≤ f.h || fieldN (w 5) 55 47 != 0
    || fieldN (w 6) 31 23 != 0 || fieldN (w 7) 39 32 != 0 || fieldN (w 7) 7 0 != 0
  let used (on : Bool) (off al n : Nat) : Bool := on && (off % al != 0 || !p.inOff cu off n)
  if reserved then true
  else
    256 < f.m / 16 * (f.n / 16) * 16 || l.maxSteps < f.k / 16 || l.cpc ≤ f.fcore
      || f.astride % 8 != 0 || f.bstride % 8 != 0 || f.ostride % 8 != 0
      || used true f.aoff 8 (spanOf (stored f.ta f.m f.k f.atype) f.astride)
      || used true f.boff 8 (spanOf (stored f.tb f.k f.n f.btype) f.bstride)
      || used true f.ooff 8 (spanOf (stored false f.m f.n f.otype) f.ostride)
      || used f.men f.moff 64 (4 * f.n) || used (f.kind == 1) f.bias 64 (4 * f.n)
      || used f.cen f.coff 8 8 || used (f.h != 0) f.mapoff 64 576 || used f.dv0 f.dec0 64 8 || used f.dv1 f.dec1 64 8

/-! ### Issue of the instructions (R305) -/

/-- Entries of the cluster's FORME queue. -/
def formeCount (p : Pkg) (cl : Nat) : Nat :=
  (p.cluster cl).formes.length + (p.decs.filter (fun d => (p.crew d.crew).cluster == cl)).length

/-- TTASK. -/
def execTtask (o : EAddr) (s : State) : Out :=
  onUnit (.ttask o) noFx noPv
    (fun s st => (objStop s.pkg st (eaE st o.xB o.off) 64 64 false).or
      (if (s.pkg.crew st.crew).cores.any (fun c => (s.pkg.core c).mode == .shared) then none
       else some (.trap 0x19 0x20)))
    (fun s st =>
      match orderStop s.pkg st 2 with
      | some w => .stop w
      | none =>
        let cl := (s.pkg.crew st.crew).cluster
        if 1024 ≤ formeCount s.pkg cl then .stop (.block (.queueFull 2))
        else
          let off := (eaE st o.xB o.off).toNat - windowBase
          match s.pkg.counterUpset st.crew off with
          | some q => .stop (.contain (s.pkg.fvalOf st.crew q))
          | none =>
          let q := s.pkg.fresh
          let k := q.2.cluster cl
          .done (q.2.setCluster cl { k with formes := k.formes ++
            [{ num := q.1, strand := s.focus, crew := st.crew, off := off, ready := s.pkg.num (s.pkg.offKey st.crew off + 6) 2 == 0 }] }) st) s

/-- TDEP: a release at CLUSTER scope; the decrement follows in FORME order. -/
def execTdep (o : EAddr) (s : State) : Out :=
  onUnit (.tdep o) noFx noPv (fun s st => objStop s.pkg st (eaE st o.xB o.off) 64 64 false)
    (fun s st =>
      match orderStop s.pkg st 2 with
      | some w => .stop w
      | none =>
        if 1024 ≤ formeCount s.pkg (s.pkg.crew st.crew).cluster then .stop (.block (.queueFull 2))
        else
          let q := s.pkg.fresh
          .done { q.2 with decs := q.2.decs ++
            [{ tok := q.1, strand := s.focus, crew := st.crew, off := (eaE st o.xB o.off).toNat - windowBase }] } st) s

/-- DEPENDENCE_DECREMENT of a TDEP: after the strand's earlier ones, and past every join ahead (R125). -/
def execDependenceDecrement (tok : Nat) (s : State) : Out :=
  match s.pkg.decs.find? (fun d => d.tok == tok) with
  | none => .next s
  | some d =>
    if s.pkg.held d.strand 2 tok ∨ (s.pkg.crew d.crew).isSaved ∨ s.pkg.decs.any (fun e => e.strand == d.strand && decide (e.tok < tok)) then .next s
    else
      let p := { s.pkg with decs := s.pkg.decs.filter (fun e => e.tok != tok) }
      let q := (p.strands.find? d.strand).elim (0, 0) (fun st => (st.core, st.sn))
      match s.pkg.counterUpset d.crew d.off with
      | some w => engineUpset s q.1 (s.pkg.fvalOf d.crew w)
      | none => .next (s.withPkg (p.decrement d.crew d.off q.1 q.2))

/-! ### The scheduler (R144) -/

/-- The oldest ready entry that core c may run. -/
def formePick (p : Pkg) (c : Nat) : Option FormeEnt :=
  (p.cluster (c / 24)).formes.find? (fun f =>
    f.ready && f.core.isNone && decide (c ∈ (p.crew f.crew).cores) && !(p.crew f.crew).isSaved && !p.held f.strand 2 f.num)

/-- Issue to one free SHARED engine: the record is read; a malformed one leaves the queue and traps its strand. -/
def formeTo (er : Nat) (p : Pkg) (c : Nat) : Pkg :=
  let k := p.core c
  if k.mode = .direct ∨ k.forme.isSome ∨ k.service ≠ .inService then p
  else
    match formePick p c with
    | none => p
    | some f =>
      let key := p.offKey f.crew f.off
      match p.poisoned key 64 with
      | some q => p.contain er c 0x30 0 0 (p.fvalOf f.crew q)
      | none =>
        let r := p.bytes key 64
        let cl := p.cluster (c / 24)
        if malformed p f.crew r then
          (p.setCluster (c / 24) { cl with formes := cl.formes.filter (fun g => g.num != f.num) }).asyncTo f.strand 0x21 (BitVec.ofNat 64 f.off)
        else
          (p.setCluster (c / 24) { cl with
            formes := cl.formes.map (fun g => if g.num = f.num then { g with core := some c, bytes := r } else g) }).setCore c
              { k with forme := some f.num }

/-- FORME_ISSUE: each free SHARED engine of the cluster, in ascending core number. -/
def execFormeIssue (cluster : Nat) (s : State) : Out :=
  .next (s.withPkg (((List.range 24).map (fun k => cluster * 24 + k)).foldl (formeTo s.er) s.pkg))

/-! ### Running a forme (R145 to R149) -/

/-- Element position x of a stored row at an offset, read as type t. -/
def elemAt (p : Pkg) (cu off t x : Nat) : Int :=
  let w := tyW t
  let b := p.num (p.offKey cu (off + x * w / 8)) ((w + 7) / 8)
  readFmt (tySigned t) w (b / 2 ^ (x * w % 8) % 2 ^ w)

def Forme.a (f : Forme) (p : Pkg) (cu i k : Nat) : Int :=
  if f.ta then elemAt p cu (f.aoff + k * f.astride) f.atype i else elemAt p cu (f.aoff + i * f.astride) f.atype k

def Forme.b (f : Forme) (p : Pkg) (cu k j : Nat) : Int :=
  if f.tb then elemAt p cu (f.boff + j * f.bstride) f.btype k else elemAt p cu (f.boff + k * f.bstride) f.btype j

/-- A gathering: its code, first row, members. -/
structure Gathering where
  code : Nat
  first : Nat
  members : List Nat
  deriving DecidableEq, Repr

/-- SIGNATURE (R148) over the rows of A: the gatherings in order of their first rows. -/
def signature (seed h : Nat) (exact : Bool) (rows : List (List Int)) : List Gathering :=
  rows.zipIdx.foldl (fun gs e =>
    let c := sigCode seed h e.1
    let fits (g : Gathering) : Bool := g.code == c && (!exact || rows.getD g.first [] == e.1)
    match gs.findIdx? fits with
    | some q => gs.modify q (fun g => { g with members := g.members ++ [e.2] })
    | none => gs ++ [{ code := c, first := e.2, members := [e.2] }]) []

/-- The representative of a gathering: its first row, or the rounded mean of its rows. -/
def Gathering.row (g : Gathering) (mean : Bool) (rows : List (List Int)) : List Int :=
  let first := rows.getD g.first []
  if mean then
    let n : Int := g.members.length
    first.zipIdx.map (fun e => ((g.members.map (fun i => (rows.getD i []).getD e.2 0)).sum + n / 2) / n)
  else first

/-- The imposition map (R149). -/
def mapBytes (f : Forme) (gs : List Gathering) : List Byte :=
  let rep (i : Nat) : Nat := (gs.findIdx? (fun g => i ∈ g.members)).getD 0
  toBytes 2 gs.length ++ toBytes 2 f.m ++ toBytes 1 (f.bwd * 64 + f.rep * 32 + (if f.exact then 16 else 0) + f.h)
    ++ toBytes 3 0 ++ toBytes 4 f.seed ++ toBytes 52 0
    ++ ((List.range 256).map (fun i => BitVec.ofNat 8 (if i < f.m then rep i else 0)))
    ++ ((List.range 256).map (fun q => BitVec.ofNat 8 ((gs[q]?).elim 0 (fun g => g.members.length - 1))))

/-- One accumulator after its K-steps, and whether it clamped (R79): terms are the exact sums of its steps. -/
def accumulate (s32 : Bool) (start : Int) (terms : List Int) : Int × Bool :=
  terms.foldl (fun r t => let n := clampAcc s32 (r.1 + t); (n, r.2 || n != r.1 + t)) (start, false)

/-- The exact sums of the K-steps of a row and a column. -/
def stepSums : Nat → List Int → List Int → List Int
  | 0, _, _ => []
  | n + 1, a, b => (((a.take 16).zipWith (fun x y => x * y) (b.take 16)).sum) :: stepSums n (a.drop 16) (b.drop 16)

/-- An s32 word j of an array at an offset. -/
def word32 (p : Pkg) (cu off j : Nat) : Int := readFmt true 32 (p.num (p.offKey cu (off + 4 * j)) 4)

/-- Write element j of the output row at an offset; one of 4 bits fills its half of a byte. -/
def outWrite (p : Pkg) (cu off t j : Nat) (v : Int) : Pkg :=
  let w := tyW t
  let b := off + j * w / 8
  if w = 4 then
    let old := (p.byte (p.offKey cu b)).toNat
    let new := wrapBits 4 v
    p.offWrite cu b [BitVec.ofNat 8 (if j % 2 = 0 then old / 16 * 16 + new else new * 16 + old % 16)]
  else p.offWrite cu b (toBytes (w / 8) (wrapBits w v))

/-- Errors of the whole words among n bytes at a window offset go (R366). -/
def Pkg.offClear (p : Pkg) (cu off n : Nat) : Pkg :=
  (offPieces off n).foldl (fun p q => p.clearPoison (p.offKey cu q.1) q.2) p

/-- The outputs of a row, drained from its accumulators and written in ascending column (R145, R146): the package, and each
rounded value with its saturated one. MULT is read as each element is drained. -/
def drainRow (f : Forme) (cu i : Nat) (acc : List (Int × Bool)) (p : Pkg) : Pkg × List (Int × Int) :=
  let row := f.ooff + i * f.ostride
  let r := acc.zipIdx.foldl (fun (r : Pkg × List (Int × Int)) a =>
    let mult : Int := if f.men then word32 r.1 cu f.moff a.2 else 1
    let x := drainRound (a.1.1 * mult) f.stoch f.shift ((f.keybase + i * f.n + a.2) % 2 ^ 32)
    let o := satTo (tySigned f.otype) (tyW f.otype) x
    (outWrite r.1 cu row f.otype a.2 o, r.2 ++ [(x, o)])) (p, [])
  (r.1.offClear cu row (f.n * tyW f.otype / 8), r.2)

/-- The gatherings of a forme; with no signature stage every row is one of its own. -/
def Forme.gatherings (f : Forme) (rows : List (List Int)) : List Gathering :=
  if f.h = 0 then (List.range f.m).map (fun i => { code := 0, first := i, members := [i] })
  else signature f.seed f.h f.exact rows

/-- The accumulators of each gathering after the K-steps, and whether they clamped. -/
def Forme.accs (f : Forme) (p : Pkg) (cu : Nat) (rows : List (List Int)) (gs : List Gathering) : List (List (Int × Bool)) :=
  let cols := (List.range f.n).map (fun j => (List.range f.k).map (fun k => f.b p cu k j))
  gs.map (fun g =>
    let r := g.row (f.h ≠ 0 && f.rep == 1) rows
    cols.zipIdx.map (fun c => accumulate f.s32 (if f.kind = 1 then word32 p cu f.bias c.2 else 0) (stepSums (f.k / 16) r c.1)))

/-- Run a forme (R145): the rows of A are read, the map is written, then BIAS and B are read, and the outputs drained row by row;
then the census block is merged. The rest of its completion follows. -/
def runForme (p : Pkg) (cu : Nat) (f : Forme) : Pkg :=
  let rows := (List.range f.m).map (fun i => (List.range f.k).map (fun k => f.a p cu i k))
  let gs := f.gatherings rows
  let p1 := if f.h = 0 then p else p.offWrite cu f.mapoff (mapBytes f gs)
  let accs := f.accs p1 cu rows gs
  let gOf (i : Nat) : Nat := (gs.findIdx? (fun g => i ∈ g.members)).getD 0
  let r := (List.range f.m).foldl (fun (r : Pkg × List (Int × Int)) i =>
    let q := drainRow f cu i (accs.getD (gOf i) []) r.1
    (q.1, r.2 ++ q.2)) (p1, [])
  if f.cen then
    r.1.mergeBlock cu f.coff (r.2.map (fun q => rsb (tySigned f.otype) (tyW f.otype) q.2))
      (r.2.any (fun q => q.1 != q.2)) (accs.any (fun l => l.any (fun e => e.2)))
  else r.1

/-- The uncorrectable word a forme would read, row by row. -/
def formeUpset (p : Pkg) (cu : Nat) (f : Forme) : Option Nat :=
  let at' (on : Bool) (off n : Nat) : Option Nat := if on then p.offPoison cu off n else none
  let rows (off stride : Nat) (q : Nat × Nat) : Option Nat := (List.range q.1).findSome? (fun i => p.offPoison cu (off + i * stride) q.2)
  [rows f.aoff f.astride (stored f.ta f.m f.k f.atype), rows f.boff f.bstride (stored f.tb f.k f.n f.btype),
    at' f.men f.moff (4 * f.n), at' (f.kind == 1) f.bias (4 * f.n), at' f.cen f.coff 8, at' f.dv0 f.dec0 8, at' f.dv1 f.dec1 8].findSome? id

/-- FORME_COMPLETION (R147): map and outputs, census, DEC0 then DEC1, the flag, then out of the queue. -/
def execFormeCompletion (core : Nat) (s : State) : Out :=
  let cl := core / 24
  match (s.pkg.core core).forme.bind (fun n => (s.pkg.cluster cl).formes.find? (fun f => f.num == n)) with
  | none => .next s
  | some e =>
    let f := formeOf e.bytes
    let cu := e.crew
    match formeUpset s.pkg cu f with
    | some q => engineUpset s core (s.pkg.fvalOf cu q)
    | none =>
      let p := runForme s.pkg cu f
      let p := if f.dv0 then p.decrement cu f.dec0 core 0 else p
      let p := if f.dv1 then p.decrement cu f.dec1 core 0 else p
      let p := if f.postn = 0 then p else p.postPos cu f.fcore f.flag f.postn cu core 0
      let q := p.cluster cl
      let p := p.setCluster cl { q with formes := q.formes.filter (fun g => g.num != e.num) }
      .next (s.withPkg (p.setCore core { p.core core with forme := none }))

end Sys2Proof.Machine
end

