-- ==== Sys2Proof/Machine/MemEvents.lean ====
section
/-! DEFINITION. The memory system's own events (05, 06): data arrival, store performance, atomics, page walks, tiering
and bank retention. An event that is not enabled leaves the state as it is. -/

namespace Sys2Proof.Machine

/-! ### Accesses performed -/

/-- The parts of access num performed together with part idx, when all may be performed at the scope. -/
def Pkg.ready (p : Pkg) (a : Acc) (num idx scope : Nat) : List Nat :=
  let l := a.tied idx
  if l.all (fun i => p.mayPerform num i scope) then l else []

/-- Part i is the first of its unit on its 64-byte line: the accesses that R99 counts. -/
def Acc.lines (a : Acc) (i : Nat) : Nat :=
  match a.parts[i]? with
  | none => 0
  | some q => if (a.parts.take i).any (fun r => r.unit == q.unit && r.addr / 64 == q.addr / 64) then 0 else 1

/-- The value fixed ahead for load num of a that part q reads at its first byte; none on an SO page (R119). -/
def Pkg.earlyFor (p : Pkg) (num : Nat) (a : Acc) (q : Part) : Option Early :=
  if q.kind = 1 then none
  else p.early.find? (fun e => e.strand == a.strand && decide (e.num ≤ num) && decide (e.key ≤ q.addr) && decide (q.addr < e.key + 8))

/-- The bytes that part q of load num reads now: a flag's word, or each byte's value fixed ahead (never on an SO page), else what the
strand sees. -/
def Pkg.partBytes (p : Pkg) (num : Nat) (a : Acc) (q : Part) : List Byte :=
  if 2 ^ 53 ≤ q.addr then toBytes q.len (p.flagAt q.addr)
  else (List.range q.len).map (fun j =>
    ((if q.kind = 1 then none else p.earlyByte a.strand num (q.addr + j)).getD (p.view a.strand a.core num (q.addr + j))))

/-- Load part i of access num. -/
def loadPart (er : Nat) (num : Nat) (a : Acc) (p : Pkg) (i : Nat) : Pkg :=
  match a.parts[i]? with
  | none => p
  | some q =>
    match p.consumes q.addr q.len with
    | some k => p.upsetBy er a.strand k a.pc
    | none =>
      let bs := p.partBytes num a q
      let obs := (p.earlyFor num a q).elim (p.newest a.strand a.core q.addr q.len) (fun e => e.obs)
      { (p.touch a.core q.flags q.addr (a.lines i)).dropEarlyAt a.strand q.addr q.len with
        accs := RMap.modify p.accs num (fun a => { a.gather q bs with obs := max a.obs obs }) }

/-- LOAD_DATA_ARRIVAL: one part of a load is performed and its data arrives (R272). A refusal takes the whole unit of the part, which
delivers 0 (R389). -/
def execLoadDataArrival (acc part : Nat) (s : State) : Out :=
  match s.pkg.accs.find? acc with
  | none => .next s
  | some a =>
    let l := s.pkg.ready a acc part 6
    if a.kind ≠ .load ∨ l = [] then .next s
    else
      match (a.parts[part]?).bind (refusal s.pkg s.host.pcieUp a) with
      | some (c, sc) => .next (s.withPkg (s.pkg.refuseUnit acc a part c sc))
      | none =>
        let p := l.foldl (loadPart s.er acc a) s.pkg
        .next (s.withPkg ((p.markParts acc l 7).settleAcc acc))

/-- Write part i of a store that becomes performed everywhere. -/
def storePart (er : Nat) (a : Acc) (p : Pkg) (i : Nat) : Pkg :=
  match a.parts[i]? with
  | none => p
  | some q =>
    match p.partialHit q.addr q.len with
    | some k => p.upsetBy er a.strand k a.pc
    | none => (p.writePart q).touch a.core q.flags q.addr (a.lines i)

/-- The strand's stores act at the scope: the parts that reach PACKAGE, or memory, are logged, since fetches do not see them at once
(R129), and other strands' values fixed ahead are marked (R119). -/
def Acc.logCode (a : Acc) (l : List Nat) (scope : Nat) (p : Pkg) : Pkg :=
  (l.foldl (fun p i => match a.parts[i]? with
    | some q => if q.reached ≤ 4 ∧ (4 ≤ scope ∨ q.final scope = true) then p.logCode (some a.strand) a.core q.shown q.addr q.len else p
    | none => p) p).heard (some a.strand) (common a.core)

/-- STORE_PERFORM: a store becomes visible to every agent of the scope at once (R114); at HOST scope, or at CLUSTER
scope for the window, it is in memory. -/
def execStorePerform (acc part scope : Nat) (s : State) : Out :=
  match s.pkg.accs.find? acc with
  | none => .next s
  | some a =>
    let l := s.pkg.ready a acc part scope
    if a.kind ≠ .store ∨ l = [] ∨ 6 < scope ∨ l.any (fun i => decide (scope < ((a.parts[i]?).elim 0 (fun q => q.reached)))) then .next s
    else if (a.parts[part]?).any (fun q => q.final scope) then
      match (if a.begun part then none else (a.parts[part]?).bind (refusal s.pkg s.host.pcieUp a)) with
      | some (c, sc) => .next (s.withPkg (s.pkg.refuseUnit acc a part c sc))
      | none =>
        let p := l.foldl (storePart s.er a) (a.logCode l scope s.pkg)
        .next (s.withPkg ((p.markParts acc l 7).settleAcc acc))
    else .next (s.withPkg ((a.logCode l scope s.pkg).markParts acc l (scope + 1)))

/-- REMOTE_ATOMIC: an atomic is performed in the unit that owns its word, in one step (R107, R108, R277). -/
def execRemoteAtomic (acc : Nat) (s : State) : Out :=
  match s.pkg.accs.find? acc with
  | none => .next s
  | some a =>
    match a.parts[0]? with
    | none => .next s
    | some q =>
      if a.kind ≠ .atomic ∨ !s.pkg.mayPerform acc 0 6 then .next s
      else
        let p := s.pkg
        match refusal p s.host.pcieUp a q with
        | some (c, sc) => .next (s.withPkg (p.refuseUnit acc a 0 c sc))
        | none =>
          match p.consumes q.addr q.len with
          | some k => .next (s.withPkg (p.upsetBy s.er a.strand k a.pc))
          | none =>
            let k := p.physKey q.addr
            let old := p.num k q.len
            let p := match atomNew a.op a.ty old a.opnd a.cmp with
              | some v => ((p.logCode (some a.strand) a.core [] q.addr q.len).write k (toBytes q.len v)).heard (some a.strand) (common a.core)
              | none => p
            let obs := s.pkg.newest a.strand a.core q.addr q.len
            let p := { p.touch a.core q.flags q.addr 1 with
              accs := RMap.modify p.accs acc (fun a => { a with buf := BitVec.ofNat 512 old, obs := obs }) }
            .next (s.withPkg ((p.markParts acc [0] 7).settleAcc acc))

/-! ### Translation (R92 to R94, R386, R387) -/

/-- A strand that still waits for the walk of va. -/
def waitsWalk (st : Strand) (va acc : Nat) : Bool := st.run == .blocked (.walk va acc)

/-- The walk of a die that is performed next: one of the first 96 in order of request, which run at once and may end in any order
(R94). -/
def Pkg.walkTurn (p : Pkg) (die : Nat) : Option Walk :=
  let l := p.walks.filter (fun w => w.core / 576 == die)
  if l.length ≤ 1 then l.head? else l[Config.pick p.tick (min 96 l.length) % min 96 l.length]?

/-- PAGE_WALK: a walk of the die is performed. Its leaf enters the core's cache, for the frame asked for; a failure traps the
strand at its slot or fetch; an uncorrectable table word contains the asking core. -/
def execPageWalk (die : Nat) (s : State) : Out :=
  match s.pkg.walkTurn die with
  | none => .next s
  | some w =>
    let p := { s.pkg with walks := s.pkg.walks.erase w }
    match p.strands.find? w.strand with
    | none => .next (s.withPkg p)
    | some st =>
      let ln := (p.crew st.crew).launch
      let wake (p : Pkg) (g : Option Grant) : Pkg :=
        if waitsWalk st w.va w.acc then p.modStrand w.strand (fun st => { st with run := .ready, grant := g }) else p
      match p.walk s.er (p.launch ln).root w.va w.acc st.sup with
      | none => .next (s.withPkg (p.contain s.er w.core 0x30 st.sn st.here.toNat
          (p.fvalOf st.crew (p.tableUpset s.er (p.launch ln).root w.va))))
      | some (.error 0) => .next s
      | some (.error c) => .next (s.withPkg (wake p (some (.trap c (BitVec.ofNat 64 w.va)))))
      | some (.ok (l, p)) =>
        let t : Tlb := { core := w.core, launch := ln, va := l.va, size := l.size, pa := l.pa, flags := l.e % 4096, frame := w.va / 65536 }
        let old := p.tlb.filter (fun x => !(x.core == w.core && x.launch == ln && x.frame == w.va / 65536))
        .next (s.withPkg (wake { p with tlb := t :: old } none))

/-! ### Tiering (R98 to R102) -/

/-- The frame number of pool frame n of stop c on die d (R89). -/
def ringFrame (d c n : Nat) : Nat := (0x400000000000 + d * 0x6000000 + c * 0x400000) / 65536 + n

/-- The automatic pool frames of a die, lowest stop first. -/
def poolFrames (er d : Nat) : List Nat :=
  (List.range 24).flatMap (fun c => (List.range (64 - er)).map (fun n => ringFrame d c (er + n)))

/-- The die that made most of a granule's accesses, the lowest on a tie. -/
def Granule.die (g : Granule) : Nat :=
  (List.range 8).foldl (fun b d => if g.byDie.get 0 b < g.byDie.get 0 d then d else b) 0

/-- The frame a granule holds or moves to. -/
def Granule.holds (g : Granule) (f : Nat) : Bool := g.place == some f || g.moving == some (some f)

/-- a comes before b in the order of candidates: higher count, then lower home frame. -/
def hotter (a b : Nat × Granule) : Bool :=
  b.2.count < a.2.count || (a.2.count == b.2.count && decide (a.1 ≤ b.1))

/-- The roots of the page tables in use: of the launches that run, and of the queues enabled. -/
def State.roots (s : State) : List Nat :=
  (((s.pkg.launches.vals.filter (fun l => !l.recorded)).map (fun l => l.root))
    ++ ((s.host.queues.vals.filter (fun q => q.en)).map (fun q => q.root))).dedup

/-- The granule with home frame f is fixed: some page table in use has a TIER 00 leaf over it with PIN 1 (R101). -/
def State.pinned (s : State) (f : Nat) : Bool := s.roots.any (s.pkg.pinsUnder f)

/-- The granule of lowest count that lies on a die and is not fixed or moving; of equal counts the lowest home frame (assumption 62). -/
def coldest (pin : Nat → Bool) (gs : RMap Granule) (er d : Nat) : Option (Nat × Granule) :=
  let l := gs.filter (fun e => !pin e.1 && e.2.moving.isNone && (e.2.place.any (fun f => f ∈ poolFrames er d)))
  l.foldl (fun b e => match b with
    | none => some e
    | some b => if e.2.count < b.2.count then some e else some b) none

/-- Give candidate home a frame of its die: a free one, else that of a granule at least 64 colder. moves counts the
moves of each die: a promotion and the eviction it makes are one (assumption 62). -/
def promote (pin : Nat → Bool) (er : Nat) (st : RMap Granule × RMap Nat) (home : Nat) : RMap Granule × RMap Nat :=
  let gs := st.1
  match gs.find? home with
  | none => st
  | some g =>
    let d := g.die
    if 64 ≤ st.2.get 0 d then st
    else
      let go (gs : RMap Granule) (f : Nat) : RMap Granule × RMap Nat :=
        (RMap.put gs home { g with moving := some (some f) }, RMap.put st.2 d (st.2.get 0 d + 1))
      match (poolFrames er d).find? (fun f => !gs.any (fun e => e.2.holds f)) with
      | some f => go gs f
      | none =>
        match coldest pin gs er d with
        | some (h, c) =>
          if c.count.toNat + 64 ≤ g.count.toNat then
            go (RMap.put gs h { c with moving := some none }) (c.place.getD 0)
          else st
        | none => st

/-- The tiering unit is up: READY.TIER (R183, R419). -/
def State.tierReady (s : State) : Bool := s.host.ready.getLsbD 13

/-- TIERING_EPOCH: moves are chosen, then every count is halved (R100). -/
def execTieringEpoch (s : State) : Out :=
  if !s.tierReady then .next s
  else
    let gs := s.pkg.granules
    let cand := sortBy hotter (gs.filter (fun e => !s.pinned e.1 && e.2.place.isNone && e.2.moving.isNone && decide (256 ≤ e.2.count.toNat)))
    let gs := ((cand.map (fun e => e.1)).foldl (promote s.pinned s.er) (gs, [])).1
    .next (s.withPkg { s.pkg with granules := gs.mapVals (fun g => { g with count := g.count >>> 1, byDie := [] }) })

/-- The bytes of a 64 KiB frame, as entries at another frame. -/
def moveFrame (m : RMap Byte) (src dst : Nat) : RMap Byte :=
  let bytes := m.filter (fun e => e.1 / 65536 == src)
  bytes.foldl (fun m e => RMap.put m (dst * 65536 + e.1 % 65536) e.2) (m.filter (fun e => e.1 / 65536 != dst))

/-- GRANULE_MOVE_COMPLETE: the copy is complete and the granule's place is switched (R102). A frame still held by a
granule on its way out is not entered; an uncorrectable word cancels the move (R366). -/
def execGranuleMoveComplete (frame : Nat) (s : State) : Out :=
  let gs := s.pkg.granules
  match (if s.tierReady then gs.find? frame else none) with
  | none => .next s
  | some g =>
    match g.moving with
    | none => .next s
    | some dst =>
      let src := g.place.getD frame
      let dest := dst.getD frame
      if gs.any (fun e => e.1 != frame && e.2.place == some dest) then .next s
      else if s.pkg.poison.any (fun q => decide (q < 2 ^ 60) && q / 65536 == src) then
        .next (s.withPkg (({ s.pkg with granules := RMap.put gs frame { g with moving := none } } : Pkg).clearLate s.er))
      else
        .next (s.withPkg (({ s.pkg with
          mem := moveFrame s.pkg.mem src dest
          granules := RMap.put gs frame { g with place := dst, moving := none } } : Pkg).clearLate s.er))

/-- Granules that lie in, or move to, frames that an EXPLICIT_RING of er makes explicit go home with their contents: those frames
are the TIER 01 pages' alone (R98). -/
def Pkg.recall (p : Pkg) (er : Nat) : Pkg :=
  (p.granules.foldl (fun p e =>
    let taken (o : Option Nat) : Bool := o.any (fun f => decide (f % 64 < er))
    if taken e.2.place then
      let f := e.2.place.getD 0
      { p with
        mem := moveFrame p.mem f e.1
        poison := p.poison.map (fun q => if q / 65536 = f then e.1 * 65536 + q % 65536 else q)
        granules := RMap.put p.granules e.1 { e.2 with place := none, moving := none } }
    else if taken (e.2.moving.bind id) then { p with granules := RMap.put p.granules e.1 { e.2 with moving := none } }
    else p) p).clearLate er

/-! ### Retention (R48) -/

/-- BANK_RETENTION_ENTRY: a bank inside a resident strand's window, of a launch that enables retention. -/
def execBankRetentionEntry (core bank : Nat) (s : State) : Out :=
  let k := s.pkg.core core
  let inside := k.res.any (fun e => (s.pkg.strands.find? e.2).any (fun st => st.retn && decide (bank ∈ st.banks)))
  if inside ∧ bank ∉ k.retained then
    .next (s.withPkg (s.pkg.setCore core { k with retained := bank :: k.retained }))
  else .next s

end Sys2Proof.Machine
end

