-- ==== Sys2Proof/Machine/Pools.lean ====
section
/-! DEFINITION. Spore pools (08, 15, 22: R166 to R170, R314 to R318, R399 to R401): descriptors, the operations of the E slot,
pairing in the switches, the home, and the answers. -/

namespace Sys2Proof.Machine

/-! ### Parameters of a descriptor (R166): the upper half of its first word -/

def poolKind (w : Nat) : Nat := fieldN w 31 30
def poolElog (w : Nat) : Nat := fieldN w 29 27 + 3
def poolBudget (w : Nat) : Nat := fieldN w 26 15
def poolHold (w : Nat) : Nat := fieldN w 14 9
def poolCap (w : Nat) : Nat := 2 ^ fieldN w 8 4
def poolWcap (w : Nat) : Nat := 2 ^ fieldN w 3 0

/-- Reserved KIND, ESZ, CAPLOG or WLOG. -/
def poolReserved (w : Nat) : Bool := 1 < poolKind w || 8 < poolElog w || 24 < fieldN w 8 4 || 12 < fieldN w 3 0

/-- Nonzero reserved bits of the descriptor at key k. Bits [63:48] of the STORAGE and WLIST words, of which R166 lists [47:0] alone,
are taken as reserved (assumption 66). -/
def descReserved (p : Pkg) (k : Nat) : Bool :=
  p.num (k + 14) 2 != 0 || p.num (k + 22) 2 != 0 || p.num (k + 48) 16 != 0

/-- The pages a descriptor may lie on: TIER 01, TIER 10 or the window (R166, R399). -/
def descTier (p : Pkg) (st : Strand) (va : Nat) : Bool :=
  match locOf va with
  | .window _ _ => true
  | .general => let f := (blkKey p st { va := va, n := 64, pos := 0 }).2; fieldN f 8 7 == 1 || fieldN f 8 7 == 2
  | _ => false

/-- The key of a descriptor. -/
def descKey (p : Pkg) (st : Strand) (va : Nat) : Nat := (blkKey p st { va := va, n := 64, pos := 0 }).1

/-- The parameters a core's network interface holds for a pool, or those it loads now. -/
def poolParams (p : Pkg) (st : Strand) (va : Nat) : Nat :=
  let k := descKey p st va
  match (p.core st.core).poolCache.find? (fun e => e.1 == k) with
  | some e => e.2
  | none => p.num (p.physKey k + 4) 4

/-- The descriptor is loaded into the interface's cache of 16 pools. -/
def cachePool (p : Pkg) (st : Strand) (va : Nat) : Pkg :=
  let k := descKey p st va
  let c := p.core st.core
  if c.poolCache.any (fun e => e.1 == k) then p
  else p.setCore st.core { c with poolCache := (c.poolCache ++ [(k, poolParams p st va)]).drop (c.poolCache.length - 15) }

/-- Operations outstanding at a core's interface (R299). -/
def poolUsed (p : Pkg) (core : Nat) : Nat :=
  (p.pools.filter (fun e => (p.strands.find? e.2.strand).elim false (fun st => st.core == core) && !(p.crew e.2.crew).isSaved)).length

/-- A POOLINIT of the strand on the pool that is not complete: what follows it waits (R125). -/
def initAhead (p : Pkg) (u k : Nat) : Option Nat :=
  ((p.pools.filter (fun e => e.2.kind == .init && e.2.strand == u && e.2.home == k)).map (fun e => e.1)).head?

/-- What an operation on the pool at va waits for before its descriptor is looked at: the strand's earlier accesses (R124), and a
POOLINIT ahead of it. -/
def poolWait (p : Pkg) (st : Strand) (va : Nat) : Option Stop :=
  (orderStop p st 6).or ((initAhead p st.uid (p.physKey (descKey p st va))).map (fun n => .block (.answer n)))

/-- The tests of the descriptor at its first use by a core (R399), and of the element size the operation needs, if any. -/
def descStop (p : Pkg) (st : Strand) (a : X) (need : Option Nat) : Option Stop :=
  let bad : Option Stop := some (.trap 0x22 a)
  let k := descKey p st a.toNat
  let cached := (p.core st.core).poolCache.any (fun e => e.1 == k)
  let w := poolParams p st a.toNat
  if !descTier p st a.toNat then bad
  else
    ((if cached then none else (p.poisoned (p.physKey k) 64).map (fun q => Stop.contain (p.fvalOf st.crew q))).or
      (if !cached ∧ (poolReserved w || descReserved p (p.physKey k)) then bad else none)).or
    (if need.any (fun e => poolElog w != e) then bad else none)

/-- The checks of the descriptor that an operation names, made at its slot. -/
def poolStop (p : Pkg) (st : Strand) (a : X) (need : Option Nat) : Option Stop :=
  (((alignStop a 64).or (rangeChk p st .load a.toNat 64)).or (poolWait p st a.toNat)).or (descStop p st a need)

/-! ### Paths (R13, R14, R167) -/

/-- Switch numbers: stop c of die d is 24·d + c; the base crossbar is 192. -/
def ringPath (d a b : Nat) : List Nat :=
  let up := (b + 24 - a) % 24
  let down := (a + 24 - b) % 24
  if up ≤ down then (List.range up).map (fun i => 24 * d + (a + i) % 24)
  else (List.range down).map (fun i => 24 * d + (a + 24 - i) % 24)

/-- The input port of switch b by which an operation from switch a arrives (R13). Of the switches, pool operations of this package
meet the ring stops and the crossbar; the port routers carry the collectives' data alone. -/
def inPort (a b : Nat) : Nat :=
  if b = 192 then 1 + a / 24 else if a = 192 then 3 else if a % 24 = (b % 24 + 23) % 24 then 1 else 2

/-- The pairing points between a core and a home. -/
def poolPath (core home : Nat) : List Nat :=
  let d := core / 576
  let c := core / 24 % 24
  if 2 ^ 48 ≤ home then []
  else if tierOf home = 1 then
    let r := home - 0x400000000000
    let hd := r / 0x6000000
    let hc := r % 0x6000000 / 0x400000
    if hd = d then ringPath d c hc else ringPath d c 0 ++ [24 * d, 192] ++ ringPath hd 0 hc
  else ringPath d c 0 ++ [24 * d, 192]

/-! ### Issuing -/

/-- Enter an operation, with room in the interface. f completes the operation; the status register, and the element register if
named, become pending (R298). -/
def poolEnter (s : State) (st : Strand) (a : X) (regs : List Nat) (f : PoolOp → PoolOp) (after : Nat → Pkg → Pkg) : Res :=
  if 32 ≤ poolUsed s.pkg st.core then .stop (.block (.queueFull 4))
  else
    let k := descKey s.pkg st a.toNat
    let p := cachePool s.pkg st a.toNat
    let q := p.fresh
    let w := poolParams p st a.toNat
    let op : PoolOp := f {
      num := q.1, kind := .push, strand := s.focus, crew := st.crew, core := st.core, sn := st.sn,
      desc := a.toNat, home := s.pkg.physKey k, params := w, sup := st.sup, budget := poolBudget w, path := poolPath st.core k }
    .done (after q.1 { q.2 with pools := RMap.put q.2.pools q.1 op })
      { st with xpend := st.xpend ++ (regs.filter (fun r => r != 0)).map (fun r => (r, poolAcc q.1)) }

/-- POOLPUSH of a register (R316): ELOG 3. -/
def execPoolpushReg (o : EPush) (s : State) : Out :=
  onUnit (.poolpushReg o) noFx noPv (fun s st => poolStop s.pkg st (st.getX o.xP.toNat) (some 3))
    (fun s st => poolEnter s st (st.getX o.xP.toNat) [o.xd.toNat]
      (fun op => { op with elem := toBytes 8 (st.getX o.xE.toNat).toNat, xd := o.xd.toNat }) (fun _ p => p)) s

/-- POOLPUSH of an element in memory (R316): it is read when the operation leaves the core, past every join ahead of it (R126). -/
def execPoolpushMem (o : EPush) (s : State) : Out :=
  onUnit (.poolpushMem o) noFx noPv
    (fun s st =>
      let a := st.getX o.xP.toNat
      let e := st.getX o.xE.toNat
      (poolStop s.pkg st a none).or
        ((alignStop e (2 ^ poolElog (poolParams s.pkg st a.toNat))).or
          (rangeChk s.pkg st .load e.toNat (2 ^ poolElog (poolParams s.pkg st a.toNat)))))
    (fun s st => poolEnter s st (st.getX o.xP.toNat) [o.xd.toNat]
      (fun op => { op with mem := some (st.getX o.xE.toNat).toNat, xd := o.xd.toNat }) (fun _ p => p)) s

/-- The answer tag of a pop becomes live; an earlier pop with the tag no longer wakes (R317). -/
def Pkg.liveTag (p : Pkg) (cu tag op : Nat) : Pkg :=
  let c := p.crew cu
  p.setCrew cu { c with tags := c.tags.filter (fun t => t.tag != tag) ++ [{ tag := tag, op := op, written := false }] }

/-- A pop into a register (R317): ELOG 3. -/
def popReg (i : Instr) (o : EPop) (kind : PoolKind) (s : State) : Out :=
  onUnit i noFx noPv (fun s st => poolStop s.pkg st (st.getX o.xP.toNat) (some 3))
    (fun s st => poolEnter s st (st.getX o.xP.toNat) [o.xd.toNat, o.xE.toNat]
      (fun op => { op with kind := kind, xd := o.xd.toNat, xe := some o.xE.toNat, tag := o.tag.toNat })
      (fun n p => p.liveTag st.crew o.tag.toNat n)) s

/-- A pop into memory (R317): the element's place is checked as a store. -/
def popMem (i : Instr) (o : EPop) (kind : PoolKind) (s : State) : Out :=
  onUnit i noFx noPv
    (fun s st =>
      let a := st.getX o.xP.toNat
      let e := st.getX o.xE.toNat
      let n := 2 ^ poolElog (poolParams s.pkg st a.toNat)
      (poolStop s.pkg st a none).or ((alignStop e n).or (rangeChk s.pkg st .store e.toNat n)))
    (fun s st => poolEnter s st (st.getX o.xP.toNat) [o.xd.toNat]
      (fun op => { op with kind := kind, xd := o.xd.toNat, mem := some (st.getX o.xE.toNat).toNat, tag := o.tag.toNat })
      (fun n p => p.liveTag st.crew o.tag.toNat n)) s

/-- POOLPOP into a register. -/
def execPoolpopReg (o : EPop) (s : State) : Out := popReg (.poolpopReg o) o .pop s
/-- POOLPOP into memory. -/
def execPoolpopMem (o : EPop) (s : State) : Out := popMem (.poolpopMem o) o .pop s
/-- POOLPOPW into a register. -/
def execPoolpopwReg (o : EPop) (s : State) : Out := popReg (.poolpopwReg o) o .popw s
/-- POOLPOPW into memory. -/
def execPoolpopwMem (o : EPop) (s : State) : Out := popMem (.poolpopwMem o) o .popw s

/-- POOLINIT (R315): no element size is needed of an old descriptor, which is not read. -/
def execPoolinit (o : EPoolinit) (s : State) : Out :=
  let w (st : Strand) : Nat := bits (st.getX o.xA.toNat) 31 0
  let storage (st : Strand) : Nat := bits (st.getX o.xS.toNat) 47 0
  onUnit (.poolinit o)
    (fun _ st => if poolReserved (w st) ∨ storage st % 2 ^ poolElog (w st) ≠ 0 then [(st.getX o.xA.toNat).toNat] else []) noPv
    (fun s st =>
      let a := st.getX o.xD.toNat
      (((alignStop a 64).or (rangeChk s.pkg st .store a.toNat 64)).or (poolWait s.pkg st a.toNat)).or
        (if descTier s.pkg st a.toNat then none else some (.trap 0x22 a)))
    (fun s st =>
      let a := st.getX o.xD.toNat
      if 32 ≤ poolUsed s.pkg st.core then .stop (.block (.queueFull 4))
      else
        let k := descKey s.pkg st a.toNat
        let q := s.pkg.fresh
        let op : PoolOp := {
          num := q.1, kind := .init, strand := s.focus, crew := st.crew, core := st.core, sn := st.sn,
          desc := a.toNat, home := s.pkg.physKey k, params := w st, sup := st.sup,
          elem := toBytes 8 (w st * 2 ^ 32) ++ toBytes 8 (storage st) ++ toBytes 8 (bits (st.getX o.xW.toNat) 47 0) ++ toBytes 40 0 }
        .done { q.2 with pools := RMap.put q.2.pools q.1 op } st) s

/-- The strand has an operation on the pool, entered before number n, that is not linearised, or an increment of it not applied
(R170). -/
def poolBusy (p : Pkg) (u k n : Nat) : Bool :=
  p.pools.any (fun e => e.2.strand == u && e.2.home == k && decide (e.2.num < n) && e.2.answer.isNone && !e.2.orphan)
    || p.pairs.any (fun e => e.home == k && (e.push == u || e.pop == u))

/-- The POOLFENCE of number n is complete: past its joins, and what is ahead of it on its pool is done. -/
def fenceDone (p : Pkg) (n : Nat) : Bool :=
  match p.pools.find? n with
  | some op => !p.held op.strand 4 n && !poolBusy p op.strand op.home n
  | none => true

/-- POOLFENCE (R318): an entry of the POOL queue, which the strand waits for. -/
def execPoolfence (o : EPtr) (s : State) : Out :=
  onUnit (.poolfence o) noFx noPv
    (fun s st => if st.grant.isSome then none else poolStop s.pkg st (st.getX o.xP.toNat) none)
    (fun s st =>
      if st.grant.isSome then .done s.pkg st
      else
        match poolEnter s st (st.getX o.xP.toNat) [] (fun op => { op with kind := .fence, path := [] }) (fun _ p => p) with
        | .done p st' =>
          let n := s.pkg.nextNum
          if fenceDone p n then .done { p with pools := RMap.del p.pools n } st' else .wait p (.poolfence n)
        | r => r) s

/-! ### In the switches (R167, R168) -/

/-- An operation still on its way: not at the home's list, not answered, and not behind a join; none of a saved crew leaves its core. A
fence goes nowhere. -/
def PoolOp.moving (op : PoolOp) (p : Pkg) : Bool :=
  op.kind != .fence && op.answer.isNone && !op.joined && !p.held op.strand 4 op.num && (op.sent || !(p.crew op.crew).isSaved)

/-- An operation entered, and neither performed nor waiting at the home nor on its way back. -/
def PoolOp.pending (op : PoolOp) : Bool := op.kind != .fence && op.answer.isNone && !op.joined && !op.orphan

/-- The operation may go on: a strand's operations are performed in the order they entered its queue (R125), and those of one core on
one pool leave each place of their path in issue order, but for one that is held there (R317). -/
def PoolOp.inOrder (op : PoolOp) (p : Pkg) : Bool :=
  p.pools.all (fun e =>
    !(e.2.pending && decide (e.2.num < op.num)
      && (e.2.strand == op.strand
        || (e.2.core == op.core && e.2.home == op.home && e.2.path.length == op.path.length && !e.2.held && !p.held e.2.strand 4 e.2.num))))

def Pkg.setOp (p : Pkg) (op : PoolOp) : Pkg := { p with pools := RMap.put p.pools op.num op }

/-- What the departure of an operation finds. -/
inductive Departure where
  | ok (p : Pkg) (op : PoolOp)
  /-- the bytes lie in a granule on the move (R102) -/
  | busy
  /-- the core met an uncorrectable word, or the operation is over -/
  | final (p : Pkg)

/-- The core of strand u meets an uncorrectable word at va of one of its pool operations (R366). -/
def poolUpset (p : Pkg) (er : Nat) (op : PoolOp) (va : Nat) : Pkg :=
  match p.strands.find? op.strand with
  | some st => p.contain er st.core 0x30 st.sn st.here.toNat (engFval p er op.crew op.sup va)
  | none => p

/-- The core whose interface an operation leaves and its answer comes to: that of its strand. -/
def PoolOp.at (op : PoolOp) (p : Pkg) : Nat := (p.strands.find? op.strand).elim op.core (fun st => st.core)

/-- An operation leaves its core: a push of an element in memory reads it. A read that fails since the slot's check refuses the
operation as a failing access at the home does (assumption 67). -/
def depart (er : Nat) (p : Pkg) (op : PoolOp) : Departure :=
  let op := { op with sent := true }
  match op.mem with
  | none => .ok p op
  | some va =>
    if op.kind ≠ .push ∨ op.elem ≠ [] then .ok p op
    else match p.engRead er (op.at p) op.crew op.sup va (2 ^ poolElog op.params) with
      | .ok (bs, p) => .ok p { op with elem := bs }
      | .error (0, _) => .busy
      | .error (0x30, v) => .final (poolUpset p er op v)
      | .error (c, v) => .final ((p.setOp { op with answer := some (3, []) }).asyncTo op.strand c (BitVec.ofNat 64 v))

/-- Operations held at switch sw whose hold has not ended. -/
def Pkg.heldAt (p : Pkg) (sw : Nat) : List PoolOp :=
  (p.pools.vals).filter (fun o => o.held && decide (p.swcyc < o.till) && o.path.head? == some sw)

/-- The element of a push as a pop of the given size takes it: sizes differ only where a POOLINIT came between the two; bytes the
push does not give are left open (assumption 68). -/
def fitElem (p : Pkg) (elem : List Byte) (n : Nat) : List Byte := (List.range n).map (fun i => elem.getD i (Config.openByte p.tick i))

/-- A pair: both are answered, and a PAIRS increment goes to the home. -/
def Pkg.pair (p : Pkg) (push pop : PoolOp) : Pkg :=
  let p := (p.setOp { push with held := false, answer := some (0, []) }).setOp
    { pop with held := false, answer := some (0, fitElem p push.elem (2 ^ poolElog pop.params)) }
  { p with pairs := p.pairs ++ [{ home := push.home, push := push.strand, pop := pop.strand }] }

/-- An operation goes on from its switch to the next. -/
def PoolOp.forward (op : PoolOp) : PoolOp :=
  match op.path with
  | a :: b :: rest => { op with held := false, path := b :: rest, port := inPort a b }
  | _ => { op with held := false, path := [] }

/-- ARRIVE of R167 at switch sw: the oldest held operation of the opposite sense, ties to the lower port, pairs with it; else it is
held, or goes on. -/
def arrive (p : Pkg) (sw : Nat) (op : PoolOp) : Pkg :=
  let here := p.heldAt sw
  let mates := here.filter (fun o => o.home == op.home && (o.kind == .push) != (op.kind == .push))
  let oldest := mates.foldl (fun (b : Option PoolOp) o => match b with
    | none => some o
    | some b => if o.arrival < b.arrival ∨ (o.arrival = b.arrival ∧ o.port < b.port) then some o else some b) none
  match oldest with
  | some o => if op.kind = .push then p.pair op o else p.pair o op
  | none =>
    if 0 < op.budget ∧ here.length < 32 then
      let t := min (poolHold op.params + 1) op.budget
      p.setOp { op with held := true, arrival := p.swcyc, till := p.swcyc + t, budget := op.budget - t }
    else p.setOp op.forward

/-- Within a switch cycle a switch takes arrivals in ascending port. -/
def portTurn (p : Pkg) (sw port : Nat) : Bool :=
  match p.swPorts.find? sw with
  | some (c, q) => c != p.swcyc || decide (q ≤ port)
  | none => true

/-- POOL_SWITCH_ARRIVAL: the operation arrives at the next switch of its path. -/
def execPoolSwitchArrival (n : Nat) (s : State) : Out :=
  match s.pkg.pools.find? n with
  | none => .next s
  | some op =>
    match op.path with
    | [] => .next s
    | sw :: _ =>
      if op.held ∨ op.kind = .init ∨ !op.moving s.pkg ∨ !op.inOrder s.pkg ∨ !portTurn s.pkg sw op.port then .next s
      else match depart s.er s.pkg op with
        | .busy => .next s
        | .final p => .next (s.withPkg p)
        | .ok p op => .next (s.withPkg (arrive { p with swPorts := RMap.put p.swPorts sw (p.swcyc, op.port) } sw op))

/-- POOL_HOLD_EXPIRY: the hold ends unpaired. -/
def execPoolHoldExpiry (n : Nat) (s : State) : Out :=
  match s.pkg.pools.find? n with
  | none => .next s
  | some op => if op.held ∧ op.till ≤ s.pkg.swcyc then .next (s.withPkg (s.pkg.setOp op.forward)) else .next s

/-- A 32-bit counter of a descriptor rises by 1. -/
def Pkg.bump (p : Pkg) (k : Nat) : Pkg := p.write k (toBytes 4 (p.num k 4 + 1))

/-- PAIRS_INCREMENT: the n-th increment in flight is applied. -/
def execPairsIncrement (n : Nat) (s : State) : Out :=
  match s.pkg.pairs[n]? with
  | none => .next s
  | some e => .next (s.withPkg { s.pkg.bump (e.home + 32) with pairs := s.pkg.pairs.eraseIdx n })

/-! ### At the home (R169, R400) -/

/-- What the home makes of an operation. -/
inductive HomeRes where
  | ok (p : Pkg)
  /-- refused, with the cause and TVAL of its trap; the package as walks left it -/
  | refused (cause : Nat) (tval : Nat)
  | upset (va : Nat)
  | busy

/-- The refusals of the descriptor's state. -/
def homeBad (p : Pkg) (op : PoolOp) : Bool :=
  let k := op.home
  let w := p.num (k + 4) 4
  poolKind w != poolKind op.params || poolElog w != poolElog op.params || descReserved p k || decide (poolCap w < p.num k 4)
    || decide (poolWcap w < (p.num (k + 28) 4 + 2 ^ 32 - p.num (k + 24) 4) % 2 ^ 32)

/-- The agent at the home: the core of a window, the ring of a die, or the base die. -/
def homeAgent (home : Nat) : Nat :=
  if 2 ^ 48 ≤ home then (home - 2 ^ 48) / 2 ^ 18
  else if tierOf home = 1 then ringAgent ((home - 0x400000000000) / 0x6000000) else baseAgent

/-- A failure of an access to STORAGE or the waiting list. -/
def homeFail (e : Nat × Nat) : HomeRes := if e.1 = 0 then .busy else if e.1 = 0x30 then .upset e.2 else .refused e.1 e.2

/-- A push at the home. -/
def homePush (er : Nat) (p : Pkg) (op : PoolOp) : HomeRes :=
  let k := op.home
  let w := p.num (k + 4) 4
  let head := p.num (k + 24) 4
  if p.num (k + 28) 4 ≠ head then
    match p.engRead er (homeAgent k) op.crew op.sup (p.num (k + 16) 8 + 8 * (head % poolWcap w)) 8 with
    | .error e => homeFail e
    | .ok (bs, p) =>
      let v := ofBytes bs
      let p := (p.bump (k + 24)).bump (k + 36)
      let hit := p.pools.vals.find? (fun o => o.joined && o.home == k && o.tag == fieldN v 15 0 && o.core == fieldN v 28 16 && o.sn == fieldN v 30 29)
      .ok ((match hit with
        | some o => p.setOp { o with joined := false, answer := some (0, fitElem p op.elem (2 ^ poolElog o.params)) }
        | none => p).setOp { op with answer := some (0, []) })
  else
    let n := p.num k 4
    if n < poolCap w then
      match p.engWrite er (homeAgent k) op.crew op.sup (p.num (k + 8) 8 + n * 2 ^ poolElog w) op.elem with
      | .error e => homeFail e
      | .ok p => .ok (((p.bump k).bump (k + 36)).setOp { op with answer := some (0, []) })
    else .ok (((p.bump (k + 44)).bump (k + 36)).setOp { op with answer := some (2, []) })

/-- A pop at the home. -/
def homePop (er : Nat) (p : Pkg) (op : PoolOp) : HomeRes :=
  let k := op.home
  let w := p.num (k + 4) 4
  let sz := 2 ^ poolElog w
  let n := p.num k 4
  let storage := p.num (k + 8) 8
  let head := p.num (k + 24) 4
  let tail := p.num (k + 28) 4
  if 0 < n then
    let dec (p : Pkg) : Pkg := (p.write k (toBytes 4 (n - 1))).bump (k + 36)
    let last := storage + (n - 1) * sz
    match p.engRead er (homeAgent k) op.crew op.sup last sz with
    | .error e => homeFail e
    | .ok (e1, p) =>
      if poolKind w = 0 then .ok ((dec p).setOp { op with answer := some (0, e1) })
      else
        match p.engRead er (homeAgent k) op.crew op.sup storage sz with
        | .error e => homeFail e
        | .ok (e0, p) =>
          match p.engWrite er (homeAgent k) op.crew op.sup storage e1 with
          | .error e => homeFail e
          | .ok p => .ok ((dec p).setOp { op with answer := some (0, e0) })
  else if op.kind = .popw ∧ (tail + 2 ^ 32 - head) % 2 ^ 32 < poolWcap w then
    match p.engWrite er (homeAgent k) op.crew op.sup (p.num (k + 16) 8 + 8 * (tail % poolWcap w)) (toBytes 8 (op.tag + op.core * 2 ^ 16 + op.sn * 2 ^ 29)) with
    | .error e => homeFail e
    | .ok p => .ok ((p.bump (k + 28)).setOp { op with joined := true })
  else .ok (((p.bump (k + 40)).bump (k + 36)).setOp { op with answer := some (1, []) })

/-- A POOLINIT at the home: the descriptor is written, in force at every core, and the old waiting pops are answered EMPTY. -/
def homeInit (p : Pkg) (op : PoolOp) : Pkg :=
  let p := (p.write op.home op.elem).mapCores (fun _ k => { k with
    poolCache := k.poolCache.map (fun e => if p.physKey e.1 = op.home then (e.1, op.params) else e) })
  { p with pools := (RMap.del p.pools op.num).mapVals (fun o =>
      if o.joined ∧ o.home = op.home ∧ !o.steal then { o with joined := false, answer := some (1, []) } else o) }

/-- An operation that has reached its home is performed there, or refused with status 3 and a trap; an orphan that finds no place is
dropped and counted in FULLS (R401). -/
def homeStep (er : Nat) (p : Pkg) (op : PoolOp) : Pkg :=
  match p.poisoned op.home 64 with
  | some q =>
    if op.kind = .init then homeInit (p.clearPoison op.home 64) op
    else p.upsetBy er op.strand q ((p.strands.find? op.strand).elim 0 Strand.here)
  | none =>
    if op.kind = .init then homeInit p op
    else
      let r := if homeBad p op then .refused 0x22 op.desc else if op.kind = .push then homePush er p op else homePop er p op
      let drop (p : Pkg) : Pkg := { p with pools := RMap.del p.pools op.num }
      match r with
      | .busy => p
      | .upset va => poolUpset p er op va
      | .refused c v =>
        if op.orphan then drop (p.bump (op.home + 44))
        else (p.setOp { op with answer := some (3, []) }).asyncTo op.strand c (BitVec.ofNat 64 v)
      | .ok p => if op.orphan then drop p else p

/-- POOL_HOME_ARRIVAL. -/
def execPoolHomeArrival (n : Nat) (s : State) : Out :=
  match s.pkg.pools.find? n with
  | none => .next s
  | some op =>
    if op.path ≠ [] ∨ !op.moving s.pkg ∨ !op.inOrder s.pkg then .next s
    else match depart s.er s.pkg op with
      | .busy => .next s
      | .final p => .next (s.withPkg p)
      | .ok p op => .next (s.withPkg (homeStep s.er p op))

/-! ### Answers (R317, R314, R401) -/

/-- LIVE bits set. -/
def liveCount (l : Nat) : Nat := ((List.range 32).filter (bitN l)).length

/-- A stolen record that the core refuses (R314). -/
def recordBad (r : Rec) : Bool :=
  fieldN (recN r 0 8) 63 48 != 0 || recN r 0 1 % 4 != 0 || bitN (recN r 8 4) 0 || 16 < liveCount (recN r 8 4)
    || fieldN (recN r 12 1) 7 6 != 0 || 32 < recN r 12 1 % 64 || recN r 13 1 != 0 || bitN (recN r 14 1) 0 || recN r 15 1 != 0
    || fieldN (recN r 24 4) 31 7 != 0

/-- A result register still pending on the operation takes its value. -/
def Strand.poolWrite (st : Strand) (r n : Nat) (v : X) : Strand :=
  if (r, poolAcc n) ∈ st.xpend then { st.setX r v with xpend := st.xpend.erase (r, poolAcc n) } else st

/-- An answer with this tag has been written: it wakes the first parked record that waits on it, else it stays live. -/
def Pkg.answerTag (p : Pkg) (cu tag n : Nat) : Pkg :=
  let c := p.crew cu
  if c.tags.any (fun t => t.op == n) then
    let wants (r : RqSlot) : Bool := r.crew == cu && r.st == .parked && recN r.bytes 13 1 % 4 == 3 && recN r.bytes 16 8 == tag
    match ((p.cluster c.cluster).rq.filter (fun e => wants e.2)).head? with
    | some e => (p.setCrew cu { c with tags := c.tags.filter (fun t => t.op != n) }).makeReady c.cluster e.1
    | none => p.setCrew cu { c with tags := c.tags.map (fun t => if t.op = n then { t with written := true } else t) }
  else p

/-- A record as it enters the queue from strand st: OSTRAND and OCORE are written (R31). -/
def stamp (st : Strand) (r : Rec) : Rec := r.take 24 ++ toBytes 8 (st.core % 24 + 32 * st.sn) ++ (r.drop 32).take 128

/-- A pop of strand u has returned an element: an acquire of what its push released (R127, R128). -/
def Pkg.popped (p : Pkg) (u : Nat) : Pkg := (p.forget u).modStrand u (fun st => st.acquired p.tick)

/-- The answer of a STEAL: its strand, if it still waits, learns the status; a good record waits for a slot. -/
def stealAnswer (p : Pkg) (op : PoolOp) (status : Nat) (elem : List Byte) : Pkg :=
  let gone : Pkg := { p with pools := RMap.del p.pools op.num }
  match p.strands.find? op.strand with
  | none => gone
  | some st =>
    if st.run ≠ .blocked (.answer op.num) then gone
    else if status ≠ 0 then gone.rouse op.strand (.num status)
    else if recordBad elem then (gone.asyncTo op.strand 0x22 (BitVec.ofNat 64 op.desc)).rouse op.strand (.num 3)
    else
      let cl := st.core / 24
      let w : RqWait := { strand := op.strand, crew := op.crew, depth := recN elem 12 1 % 64, bytes := stamp st elem }
      let p := (p.setOp { op with joined := true }).popped op.strand
      match p.takeSlot cl op.crew w.depth with
      | some n => p.giveSlot cl n w
      | none =>
        let k := p.cluster cl
        (p.setCluster cl { k with rqWaits := k.rqWaits ++ [w] }).modStrand op.strand (fun st => { st with run := .blocked .runq })

/-- An answer is written: the element, then the status, then the wake; none while the element's place is on the move. -/
def takeAnswer (er : Nat) (p : Pkg) (op : PoolOp) (status : Nat) (elem : List Byte) : Option Pkg :=
  if op.steal then some (stealAnswer p op status elem)
  else
    let got := if status = 0 then elem else []
    let p := match op.xe with
      | some r => p.modStrand op.strand (fun st => st.poolWrite r op.num (BitVec.ofNat 64 (ofBytes got)))
      | none => p
    let w : Except (Nat × Nat) Pkg := match op.mem with
      | some va => if status = 0 ∧ op.kind ≠ .push then p.engWrite er (op.at p) op.crew op.sup va elem else .ok p
      | none => .ok p
    match w with
    | .error (0, _) => none
    | .error (0x30, va) => some (poolUpset p er op va)
    | r =>
      let p := match r with
        | .ok p => p
        | .error (e, va) => p.asyncTo op.strand e (BitVec.ofNat 64 va)
      let p := p.modStrand op.strand (fun st => st.poolWrite op.xd op.num (BitVec.ofNat 64 status))
      let p := if status = 0 ∧ op.kind ≠ .push then p.popped op.strand else p
      let p : Pkg := { p with pools := RMap.del p.pools op.num }
      some (if op.kind = .push then p else p.answerTag op.crew op.tag op.num)

/-- POOL_ANSWER_ARRIVAL. An element whose issuer is gone goes back to the home (R401); an answer of a saved crew enters its record,
and the restore completes it (R178). -/
def execPoolAnswerArrival (n : Nat) (s : State) : Out :=
  match s.pkg.pools.find? n with
  | none => .next s
  | some op =>
    match op.answer with
    | none => .next s
    | some (status, elem) =>
      let c := s.pkg.crew op.crew
      let gone := c.st == .ended || (c.st == .lost && (s.pkg.strands.find? op.strand).elim true (fun st => st.run == .ended))
      let drop (p : Pkg) : Pkg := { p with pools := RMap.del p.pools n }
      if op.steal ∧ op.joined then .next s
      else if c.isSaved then
        .next (s.withPkg ((drop s.pkg).setCrew op.crew { c with image := { c.image with answers := c.image.answers ++ [op] } }))
      else if gone then
        if status = 0 ∧ op.kind ≠ .push then
          .next (s.withPkg ((s.pkg.setOp { op with
              kind := .push, orphan := true, answer := none, elem := elem, path := [], budget := 0, held := false, steal := false }).notify
            op.crew 4 0 op.core op.sn (BitVec.ofNat 64 op.desc)))
        else .next (s.withPkg (drop s.pkg))
      else match takeAnswer s.er s.pkg op status elem with
        | some p => .next (s.withPkg p)
        | none => .next s

end Sys2Proof.Machine
end

