-- ==== Sys2Proof/Machine/Tasks.lean ====
section
/-! DEFINITION. Tasks (02, 15: R31 to R41, R312 to R314), the instructions that build, park and steal them, and the
system instructions of the E slot (R319 to R321). -/

namespace Sys2Proof.Machine

/-! ### Continuation records (R31) -/

/-- The record of a task of strand st, which OSTRAND and OCORE name. AGE is 0 until the record enters a run queue; one that SPAWNP
sends to a pool enters none, and keeps these values there (assumption 35). -/
def recordOf (st : Strand) (pc : X) (live : BitVec 32) (depth wkind : Nat) (wait : X) : Rec :=
  let regs := (List.range 32).filter (fun n => live.getLsbD n)
  let pred := ((List.range 8).map (fun i => if 0 < i ∧ st.getP i then 2 ^ i else 0)).sum
  let slots := regs.flatMap (fun n => toBytes 8 (st.getX n).toNat)
  toBytes 8 pc.toNat ++ toBytes 4 live.toNat ++ toBytes 1 depth ++ toBytes 1 wkind ++ toBytes 1 pred ++ toBytes 1 0
    ++ toBytes 8 wait.toNat ++ toBytes 8 (st.core % 24 + 32 * st.sn) ++ (slots ++ List.replicate 128 0).take 128

/-- The home slot of a strand (R35). -/
def Strand.home (st : Strand) : Nat := 1024 + 4 * (st.core % 24) + st.sn

/-! ### SPAWN, SPAWNP, STEAL -/

/-- The checks of a child record's PC and depth (R312, R416). -/
def spawnStop (st : Strand) (xT : BitVec 5) : Option Stop :=
  let t := st.getX xT.toNat
  if t.toNat % 4 ≠ 0 ∨ 2 ^ 48 ≤ t.toNat then some (.trap 0x08 t) else none

def depth32 (st : Strand) : Option Stop := if 32 ≤ st.depth then some (.trap 0x20 32) else none

/-- SPAWN: a release at CLUSTER scope; it blocks while no slot may take the record, which enters with the slot it is given (R36, R37). -/
def execSpawn (o : ESpawn) (s : State) : Out :=
  onUnit (.spawn o) noFx noPv (fun _ st => (spawnStop st o.xT).or (depth32 st))
    (fun s st =>
      let cl := st.core / 24
      let r := recordOf st (st.getX o.xT.toNat) o.live (st.depth + 1) 0 0
      match st.grant with
      | some (.rslot _) => .done s.pkg st
      | _ =>
        match orderStop s.pkg st 2 with
        | some w => .stop w
        | none =>
          match s.pkg.takeSlot cl st.crew (st.depth + 1) with
          | some n => .done (s.pkg.enterRecord cl n st.crew r) st
          | none =>
            let k := s.pkg.cluster cl
            .wait (s.pkg.setCluster cl { k with
              rqWaits := k.rqWaits ++ [{ strand := s.focus, crew := st.crew, depth := st.depth + 1, bytes := r }] }) .runq) s

/-- SPAWNP: the record goes to a pool of ELOG 8 (R312). -/
def execSpawnp (o : ESpawnp) (s : State) : Out :=
  onUnit (.spawnp o) noFx noPv
    (fun s st => (spawnStop st o.xT).or ((poolStop s.pkg st (st.getX o.xP.toNat) (some 8)).or (depth32 st)))
    (fun s st => poolEnter s st (st.getX o.xP.toNat) [o.xd.toNat]
      (fun op => { op with
        elem := recordOf st (st.getX o.xT.toNat) o.live (st.depth + 1) 0 0 ++ List.replicate 96 0
        xd := o.xd.toNat }) (fun _ p => p)) s

/-- The answered STEAL of a strand that has been given a slot. -/
def stolen (p : Pkg) (u : Nat) : Option PoolOp := (p.pools.vals.filter (fun o => o.steal && o.strand == u && o.joined)).head?

/-- STEAL: a pop that blocks until its answer is here and its record has entered a slot (R314). -/
def execSteal (o : ESteal) (s : State) : Out :=
  onUnit (.steal o) noFx noPv
    (fun s st => if st.grant.isSome then none else poolStop s.pkg st (st.getX o.xP.toNat) (some 8))
    (fun s st =>
      match st.grant with
      | some (.rslot _) =>
        let p := (stolen s.pkg s.focus).elim s.pkg (fun op => { s.pkg with pools := RMap.del s.pkg.pools op.num })
        .done p (st.setX o.xd.toNat 0)
      | some (.num v) => .done s.pkg (st.setX o.xd.toNat (BitVec.ofNat 64 v))
      | _ =>
        match poolEnter s st (st.getX o.xP.toNat) [] (fun op => { op with kind := .pop, steal := true }) (fun _ p => p) with
        | .done p _ => .wait p (.answer s.pkg.nextNum)
        | r => r) s

/-! ### PARK (R33, R313) -/

/-- Must-be-zero bits of a WAIT operand that are set, and a count of 0. -/
def waitBad (wkind : Nat) (w : Nat) : List Nat :=
  match wkind with
  | 0 => if w = 0 then [] else [w]
  | 1 => (if fieldN w 63 32 = 0 then [0] else []) ++ (if fieldN w 31 10 = 0 then [] else [fieldN w 31 10])
  | 2 => if fieldN w 3 0 = 0 then [] else [fieldN w 3 0]
  | _ => if fieldN w 63 16 = 0 then [] else [fieldN w 63 16]

/-- The galley word of a WKIND 2 operand. -/
def waitVa (w : Nat) : Nat := fieldN w 47 4 * 16

/-- A position or galley word outside the crew. -/
def waitStop (p : Pkg) (st : Strand) (wkind w : Nat) : Option Stop :=
  if wkind = 1 ∧ (p.launchOf st).cpc ≤ fieldN w 9 5 then some (.trap 0x13 (BitVec.ofNat 64 (fieldN w 9 5)))
  else if wkind = 2 ∧ !p.inWinVa st.crew (waitVa w) 16 then some (.trap 0x13 (BitVec.ofNat 64 (waitVa w)))
  else none

/-- The key of the galley word of a WKIND 2 operand. -/
def Crew.waitKey (c : Crew) (w : Nat) : Nat := match locOf (waitVa w) with | .window j off => c.winKey j off | _ => 0

/-- PARK: decided here, performed as a transfer (R192). -/
def execPark (o : EPark) (s : State) : Out :=
  onUnit (.park o) (fun _ st => waitBad o.wkind.toNat (st.getX o.xW.toNat).toNat) noPv
    (fun s st => waitStop s.pkg st o.wkind.toNat (st.getX o.xW.toNat).toNat)
    (fun s st => .done s.pkg { st with pend := some (.park o.live o.wkind.toNat (st.getX o.xW.toNat)) }) s

/-- The wait of the record in slot n begins: ready at once when it is met (R33, R39). -/
def Pkg.armWait (p : Pkg) (cl n cu : Nat) : Pkg :=
  let r := ((p.cluster cl).rq.find? n).elim [] (fun r => r.bytes)
  let w := recN r 16 8
  match recN r 13 1 % 4 with
  | 0 => p.makeReady cl n
  | 1 =>
    let c := (p.crew cu).cores.getD (fieldN w 9 5) 0
    let k := p.core c
    (p.setCore c { k with waits := k.waits ++ [{ flag := fieldN w 4 0, count := fieldN w 63 32, who := .parked n }] }).serveFlag c (fieldN w 4 0)
  | 2 =>
    let key := (p.crew cu).waitKey w
    if p.num (key + 8) 2 ≠ fieldN w 63 48 then p.makeReady cl n
    else { p with unitWaits := p.unitWaits ++ [{ strand := cu, key := key, va := waitVa w, kind := 3, gen := fieldN w 63 48, rslot := n }] }
  | _ =>
    let c := p.crew cu
    if c.tags.any (fun t => t.tag == w && t.written) then
      (p.setCrew cu { c with tags := c.tags.filter (fun t => t.tag != w) }).makeReady cl n
    else p

/-! ### NOTE, TLBINV, CTXSAVE, CTXLOAD -/

/-- NOTE (R321): behind the strand's earlier accesses, as an ENQ would be (R358). It never blocks. -/
def execNote (o : ENote) (s : State) : Out :=
  onUnit (.note o) noFx noPv (fun s st => (orderStop s.pkg st 6).map (fun _ => .hold))
    (fun s st => .done (s.pkg.notify st.crew o.code.toNat 1 st.core st.sn (st.getX o.xa.toNat)) st) s

/-- TLBINV (R319): blocks until every core has dropped the translations. -/
def execTlbinv (o : ETlb) (s : State) : Out :=
  onUnit (.tlbinv o) noFx needSup (fun s st => if st.grant.isSome then none else orderStop s.pkg st 6)
    (fun s st =>
      if st.grant.isSome then .done s.pkg st
      else .wait s.pkg (.tlbinv (st.getX o.xA.toNat).toNat (st.getX o.xN.toNat).toNat)) s

/-- Bytes of a per-strand block of a strand's window (R179). -/
def Strand.blockSize (st : Strand) : Nat := 8192 + 4096 * st.banks.length

/-- What a CTXSAVE saves of a strand: all but its place, its task's depth and slot, what units and the dispatcher hold for it, and its
latches; those captured for the issue are saved (R376). The MFMTs in flight count from the issue in progress. -/
def Strand.image (st : Strand) : Strand :=
  { st with
    crew := 0, idx := 0, core := 0, sn := 0, banks := [], retn := false, rslot := none, depth := 0, run := .ready, grant := none
    xpend := [], vpend := [], async := [], idleHandler := false, refCount := 0, refCause := 0, refScope := 0, collq := []
    grace := none, lost := false, contained := false, latch := [], l3acc := none, l3lost := none, acqAt := 0, codeFence := none, codeSeen := {}
    fmtPipe := st.fmtPipe.map (fun e => (e.1 - st.issues, e.2)), issues := 0 }

/-- The bytes of a CTXSAVE block; the spec gives their number, not their layout. -/
def ctxBytes (st : Strand) (n : Nat) : List Byte := (List.range n).map (Config.ctxByte st)

/-- Destinations of the strand that await data (R313). -/
def Strand.awaited (st : Strand) : List Nat :=
  st.xpend.map (fun e => e.2) ++ st.vpend.map (fun e => e.2) ++ (st.q.flatMap (fun e => e.2)).filterMap (fun e => e.acc)

/-- What a CTXSAVE waits for: the destinations, and the loads into an L3 captured for an issue. -/
def Strand.unarrived (st : Strand) : List Nat := st.awaited ++ st.bun.l3acc.toList ++ st.trapSet.l3acc.toList

/-- CTXSAVE (R320): the strand as it stands, once what it awaits has come. Every window unit is read: its banks leave retention (R48). -/
def execCtxsave (o : EReg) (s : State) : Out :=
  onUnit (.ctxsave o) noFx needSup
    (fun s st => let a := st.getX o.xA.toNat; (alignStop a 64).or (rangeChk s.pkg st .store a.toNat st.blockSize))
    (fun s st =>
      let a := (st.getX o.xA.toNat).toNat
      if st.unarrived ≠ [] then .stop (.block (.pending st.unarrived))
      else
        match orderStop s.pkg st 6 with
        | some w => .stop w
        | none =>
          if st.upsetIn s.focus s.pkg.poison (fun u => st.vused (64 * u)) true then .stop (.contain 0)
          else
          let k := (blkKey s.pkg st { va := a, n := 1, pos := 0 }).1
          match s.pkg.engWrite s.er st.core st.crew st.sup a (ctxBytes st.image st.blockSize) with
          | .error (0, _) => .stop .hold
          | .error (0x30, v) => .stop (.contain (engFval s.pkg s.er st.crew st.sup v))
          | .error (c, v) => .stop (.trap c (BitVec.ofNat 64 v))
          | .ok p => .done { p.wakeBanks st.core st.usedBanks with
              ctx := p.ctx.filter (fun e => e.addr != k) ++ [{ addr := k, units := st.banks.length, strand := st.image }] } st) s

/-- The strand image that a block holds, and the package after the reading: that of the CTXSAVE that wrote it while its bytes stand,
else what its bytes make. The cause and VA of a failure. -/
def ctxAt (er : Nat) (p : Pkg) (st : Strand) (a : Nat) : Except (Nat × Nat) (Strand × Pkg) :=
  match p.engRead er st.core st.crew st.sup a st.blockSize with
  | .error e => .error e
  | .ok (bs, p1) =>
    match p.ctx.find? (fun e => e.addr == (blkKey p st { va := a, n := 1, pos := 0 }).1) with
    | some e => .ok (if e.units = st.banks.length ∧ bs = ctxBytes e.strand st.blockSize then e.strand else Config.foreignBlock bs, p1)
    | none => .ok (Config.foreignBlock bs, p1)

/-- The window units of the CTXSAVE whose block lies at a, when its first bytes stand. -/
def ctxUnits (er : Nat) (p : Pkg) (st : Strand) (a : Nat) : Option Nat :=
  match p.ctx.find? (fun e => e.addr == (blkKey p st { va := a, n := 1, pos := 0 }).1) with
  | none => none
  | some e =>
    match p.engRead er st.core st.crew st.sup a st.blockSize with
    | .ok (bs, _) => if bs.take 8192 = ctxBytes e.strand 8192 then some e.units else none
    | .error _ => none

/-- CTXLOAD (R320): decided here, performed as a transfer. -/
def execCtxload (o : EReg) (s : State) : Out :=
  onUnit (.ctxload o) noFx needSup
    (fun s st =>
      let a := st.getX o.xA.toNat
      ((alignStop a 64).or (rangeChk s.pkg st .load a.toNat st.blockSize)).or
        (match ctxUnits s.er s.pkg st a.toNat with
         | some n => if n = st.banks.length then none else some (.trap 0x02 (BitVec.ofNat 64 (n - 1)))
         | none => none))
    (fun s st => .done s.pkg { st with pend := some (.ctxload (st.getX o.xA.toNat).toNat) }) s

/-- The strand with the state of a block, in its own place; it resumes at the saved issue with its latches invalid and those captured
for the issue as they were (R376). CTXSAVE and CTXLOAD are no save or restore of R60: DIRTY is the block's (assumption 76). -/
def Strand.loadBlock (st b : Strand) : Strand :=
  { b with
    crew := st.crew, idx := st.idx, core := st.core, sn := st.sn, banks := st.banks, retn := st.retn, rslot := st.rslot
    depth := st.depth, run := .ready, grant := none, xpend := [], vpend := [], async := st.async, idleHandler := st.idleHandler
    refCount := st.refCount, refCause := st.refCause, refScope := st.refScope, collq := st.collq, grace := st.grace, lost := st.lost
    contained := st.contained, q := b.q.mapVals (fun l => l.map (fun e => { val := e.val }))
    latch := [], l3acc := none, l3lost := none, acqAt := st.acqAt, codeFence := st.codeFence, codeSeen := st.codeSeen
    fmtPipe := b.fmtPipe.map (fun e => (e.1 + st.issues, e.2)), issues := st.issues + b.issues
    bun := { b.bun with l3acc := none, l3lost := none }, trapSet := { b.trapSet with l3acc := none, l3lost := none } }

/-! ### When a blocked strand may go on (R29, R30) -/

/-- What a strand waits for has come about; units that grant by themselves answer false. -/
def Pkg.met (p : Pkg) (u : Nat) (st : Strand) : Why → Bool
  | .pending l => l.all (fun n => if 2 ^ 40 ≤ n then (p.pools.find? (n - 2 ^ 40)).isNone else (p.accs.find? n).isNone)
  | .fence l sc => p.undone l sc == []
  | .order l sc => p.undone l sc == []
  | .queueFull q =>
    let k := p.core st.core
    match q with
    | 0 => decide (k.mxq.length < 16)
    | 1 => decide (k.copyq.length + k.copyRun.toList.length < 16)
    | 2 => decide (formeCount p (st.core / 24) < 1024)
    | 3 => decide (collUsed p u st < 8)
    | 4 => decide (poolUsed p st.core < 32)
    | _ => decide (k.armed.length < 16)
  | .hold n => p.joins.all (fun j => j.num != n || p.joinDone j)
  | .range lo len => !rangeMeets p st lo len
  | .poolfence n => fenceDone p n
  | .answer n => (p.pools.find? n).isNone
  | _ => false

/-- The strand could issue: ready, or blocked on what has come about. -/
def Pkg.canGo (p : Pkg) (u : Nat) (st : Strand) : Bool :=
  match st.run with
  | .ready => true
  | .blocked w => p.met u st w
  | _ => false

/-! ### Stopping for a save (R178, R406, R407) -/

/-- The crew is leaving its cores and its launch has not failed. -/
def Pkg.leaving (p : Pkg) (cu : Nat) : Bool :=
  let c := p.crew cu
  (match c.st with | .saving _ => true | _ => false) && !(p.launch c.launch).failed

/-- The crew's record has not been read: none of its strands issues (R180). -/
def Pkg.restoring (p : Pkg) (cu : Nat) : Bool := (p.crew cu).st == .restoring

/-- The strand stands between two issues, or where a bundle begins or ends. -/
def Strand.atBoundary (st : Strand) : Bool :=
  st.run == .ready && st.grant.isNone && (st.phase != .issue || st.bun.slot == nextSlot st.bun.cur 0)

/-- A strand of a leaving crew stops here: at an issue boundary, or where it blocked. -/
def Pkg.stopped (p : Pkg) (st : Strand) : Bool := p.restoring st.crew || p.leaving st.crew && (st.run != .ready || st.atBoundary)

/-- Another strand of the core could issue. -/
def Pkg.othersReady (p : Pkg) (u : Nat) (st : Strand) : Bool :=
  (p.core st.core).res.any (fun e => e.2 != u && (p.strands.find? e.2).any (fun x => p.canGo e.2 x && !p.stopped x))

/-- The same, a YIELD's turn included: it ends when no other strand of the core could issue. -/
def Pkg.runnable (p : Pkg) (u : Nat) (st : Strand) : Bool := p.canGo u st || (st.run == .blocked .yieldTurn && !p.othersReady u st)

/-- A bundle of strand u has issued: the turns that YIELDs of the other strands of the core wait for are over (R243). -/
def Pkg.endTurns (p : Pkg) (core u : Nat) : Pkg :=
  (p.core core).res.foldl (fun p e =>
    p.modStrand e.2 (fun x => if e.2 ≠ u ∧ x.run = .blocked .yieldTurn then { x with run := .ready } else x)) p

/-- A strand chosen to issue is ready; a QFENCE hold or a POOLFENCE that has ended is granted. -/
def Strand.resume (st : Strand) : Strand :=
  match st.run with
  | .blocked (.hold _) | .blocked (.poolfence _) => { st with run := .ready, grant := some .ok }
  | .blocked _ => { st with run := .ready }
  | _ => st

/-- The POOLFENCE entry that the strand waits for leaves the POOL queue. -/
def Pkg.dropFence (p : Pkg) (st : Strand) : Pkg :=
  match st.run with
  | .blocked (.poolfence n) => { p with pools := RMap.del p.pools n }
  | _ => p

end Sys2Proof.Machine
end

