-- ==== Sys2Proof/Machine/Strands.lean ====
section
/-! DEFINITION. How a strand runs outside its slots (02, 10, 12, 20): fetch and decode of a bundle, the header sync, the
transfers made after it, asynchronous traps, the choice of the issuing strand, handouts and task starts, and the release of a
failed launch's strands. An event that is not enabled leaves the state as it is. -/

namespace Sys2Proof.Machine

/-! ### Fetch and decode (R185, R186, R205, R372, R373, R377) -/

/-- The fetches of strand st see a write: it was performed at PACKAGE scope before the FENCE, and it is the strand's own or one that an
acquire before the FENCE has observed (R129). -/
def CodeStore.observed (e : CodeStore) (st : Strand) : Bool :=
  decide (e.step < st.codeSeen.fence) && (e.strand == some st.uid || decide (e.seenAt st.core < st.codeSeen.acq))

/-- The byte that strand st fetches: that of the last write which its fetches see, so as it was before the first write after that
one (R129). -/
def codeByte (p : Pkg) (st : Strand) (k : Nat) : Byte :=
  (p.codeLog.foldl (fun (r : Option Byte) e =>
    if !within e.key e.old.length k then r
    else if e.observed st then none
    else some (r.getD (e.old.getD (k - e.key) 0))) none).getD (p.pkgByte k)

/-- The word at va, fetched by strand st. -/
def fetchWord (p : Pkg) (st : Strand) (va : Nat) : Except Stop Nat :=
  let tv := BitVec.ofNat 64 va
  match locOf va with
  | .bad => .error (.trap 0x10 tv)
  | .window _ _ => .error (.trap 0x11 tv)
  | .notice _ => .error (.trap 0x11 tv)
  | .general =>
    match p.tlbHit st.core (p.crew st.crew).launch va with
    | none => .error (.block (.walk va 3))
    | some t =>
      if !permOk st.sup t.flags 3 then .error (.trap 0x11 tv)
      else
        let k := t.pa + (va - t.va)
        if p.moving k then .error .hold
        else match p.poisoned (p.physKey k) 4 with
        | some q => .error (.contain (p.fvalOf st.crew q))
        | none => .ok (ofBytes ((List.range 4).map (fun i => codeByte p st (k + i))))

/-- The 64-byte lines of a bundle fetched are counted in their granules (R99). -/
def touchFetch (p : Pkg) (st : Strand) (va n : Nat) : Pkg :=
  (pageParts va n).foldl (fun p q =>
    match p.tlbHit st.core (p.crew st.crew).launch q.1 with
    | some t => p.touch st.core t.flags (t.pa + (q.1 - t.va)) (linesOf q.1 q.2 none)
    | none => p) p

/-- The first n words from pc, in ascending address. -/
def fetchWords (p : Pkg) (st : Strand) (pc : X) (n : Nat) : Except Stop (List Nat) :=
  (List.range n).foldl (fun r i =>
    match r with
    | .error e => .error e
    | .ok l => (fetchWord p st (pc + BitVec.ofNat 64 (4 * i)).toNat).map (fun w => l ++ [w])) (.ok [])

/-- The slot words of a bundle's words after the header, by slot number. -/
def slotWordsOf (h : Word32) (l : List Nat) : RMap Nat :=
  ((List.range 8).foldl (fun (r : RMap Nat × List Nat) k =>
    if present h k then
      if slotWords k = 1 then (r.1 ++ [(k, r.2.headD 0)], r.2.drop 1)
      else (r.1 ++ [(k, r.2.headD 0 + r.2.getD 1 0 * 2 ^ 32)], r.2.drop 2)
    else r) ([], l)).1

/-- The P word that slot k will issue: present, or sticky where STOP is 0. -/
def willIssue (h : Word32) (words sticky : RMap Nat) (k : Nat) : Option Nat :=
  (words.find? k).or (if hdrStop h then none else sticky.find? k)

/-- The tile bank a P word names (R55, R202). -/
def pBank (w : Nat) : Nat := w / 2 ^ 23 % 16 / 4

/-- CHECK (R205): a reserved opcode, sync fields without sync, or P words on one bank. -/
def illegalBundle (h : Word32) (words sticky : RMap Nat) : Bool :=
  words.any (fun e => (slotInstr e.1 e.2).isNone)
    || (hdrSync h == 0 && (hdrFlag h != 0 || hdrCount h != 0))
    || (match willIssue h words sticky 5, willIssue h words sticky 6 with
        | some a, some b => pBank a == pBank b
        | _, _ => false)

/-- Why the bundle at pc does not start, before its first issue. -/
def Pkg.fetchStop (p : Pkg) (er u : Nat) (st : Strand) : Stop → Pkg
  | .trap c v => p.takeTrap er u st c v (st.decodeTrap c v)
  | w => p.stopAt er u st w

/-- BUNDLE_DECODE: the strand in focus fetches the bundle at its pc and checks it; a bundle resumed by ERET keeps the issue,
slot and words it was left with (R377). -/
def execBundleDecode (s : State) : Out :=
  match s.pkg.strands.find? s.focus with
  | none => .next s
  | some st =>
    if st.run ≠ .ready ∨ st.phase ≠ .boundary then .next s
    else
      match st.grant with
      | some (.trap c v) => .next (s.withPkg (s.pkg.fetchStop s.er s.focus st (.trap c v)))
      | _ =>
        match fetchWords s.pkg st st.pc 1 with
        | .error w => .next (s.withPkg (s.pkg.fetchStop s.er s.focus st w))
        | .ok l =>
          let h := BitVec.ofNat 32 (l.headD 0)
          match fetchWords s.pkg st st.pc (bundleWords h) with
          | .error w => .next (s.withPkg (s.pkg.fetchStop s.er s.focus st w))
          | .ok l =>
            let words := slotWordsOf h (l.drop 1)
            let bad := hdrRepeat h < st.bun.rep || 8 < st.bun.slot || (!st.bun.granted && illegalBundle h words st.sticky)
            if bad then .next (s.withPkg (s.pkg.fetchStop s.er s.focus st (.trap 0x01 (h.setWidth 64))))
            else
              let waits := (hdrSync h == 1 || hdrSync h == 3) && !st.bun.granted
              let st := { st with
                grant := none
                bun := { st.bun with pc := st.pc, header := h, words := words, lits := l.drop (bundleWords h - hdrLit h), granted := !waits } }
              let p := touchFetch s.pkg st st.pc.toNat (4 * bundleWords h)
              .next (s.withPkg (p.setStrand s.focus (if waits then { st with phase := .wait } else st.beginIssues)))

/-! ### The header sync (R188) -/

/-- FGETs of strand u of flag f of core c that are in flight: a wait of the strand takes from the flag after them (R115). -/
def Pkg.getsOf (p : Pkg) (u c f : Nat) : List Nat :=
  (p.accs.filter (fun e => e.2.strand == u && e.2.parts.any (fun q => q.addr == flagKey c f))).map (fun e => e.1)

/-- HEADER_SYNC_WAIT: COUNT on FLAG, before the first issue; granted at once for 0, which acquires as a grant does, else in the order of
R34. -/
def execHeaderSyncWait (s : State) : Out :=
  match s.pkg.strands.find? s.focus with
  | none => .next s
  | some st =>
    if st.run ≠ .ready ∨ st.phase ≠ .wait then .next s
    else
      let n := hdrCount st.bun.header
      let go (st : Strand) : Strand := { st with grant := none, bun := { st.bun with granted := true } }.beginIssues
      if st.grant = some .ok then .next (s.withPkg (s.pkg.setStrand s.focus (go st)))
      else if n = 0 then .next (s.withPkg ((s.pkg.forget s.focus).setStrand s.focus (go (st.acquired s.pkg.tick))))
      else match waitFor s.pkg st (s.pkg.getsOf s.focus st.core (hdrFlag st.bun.header)) with
      | some w => .next (s.withPkg (s.pkg.stopAt s.er s.focus st w))
      | none =>
        let p := s.pkg.setStrand s.focus { st with run := .blocked .flag }
        let k := p.core st.core
        let f := hdrFlag st.bun.header
        .next (s.withPkg ((p.setCore st.core { k with waits := k.waits ++ [{ flag := f, count := n, who := .header s.focus }] }).serveFlag st.core f))

/-- HEADER_SYNC_POST: COUNT to FLAG, a release at CLUSTER scope, then the bundle ends. -/
def execHeaderSyncPost (s : State) : Out :=
  match s.pkg.strands.find? s.focus with
  | none => .next s
  | some st =>
    if st.run ≠ .ready ∨ st.phase ≠ .post then .next s
    else
      match orderStop s.pkg st 2 with
      | some w => .next (s.withPkg (s.pkg.stopAt s.er s.focus st w))
      | none =>
        let n := hdrCount st.bun.header
        let p := s.pkg.setStrand s.focus st.endBundle
        .next (s.withPkg (if n = 0 then p else p.post st.core (hdrFlag st.bun.header) n st.crew st.core st.sn))

/-! ### Transfers (R192, R243, R313, R320) -/

/-- The strand is idle: its task has ended or is parked. -/
def Strand.rest (st : Strand) : Strand :=
  { st with
    run := .idle, rslot := none, sticky := [], pend := none, bun := {}, phase := .boundary, pc := 0, depth := 0, idleHandler := false
    grant := none }

/-- The strand goes on after its bundle. -/
def Strand.goOn (st : Strand) : Strand := { st with pc := st.bun.next, phase := .boundary, pend := none, bun := {} }

/-- END (R40, R127, R390, R415): an implicit FENCE, what the strand has observed, the barriers, the slot, and the strand's part in the crew. -/
def endStrand (s : State) (st : Strand) : Pkg :=
  let u := s.focus
  let p := s.pkg
  let l := fenceOwed p u 2 6
  if l ≠ [] then p.setStrand u { st with run := .blocked (.fence l 6) }
  else if (orderStop p st 2).isSome then p
  else
    let ln := (p.crew st.crew).launch
    let p := if st.refCount = 0 then p else p.countFault ln st.refCause st.core st.sn st.bun.pc.toNat st.fenceStatus
    let q := p.launch ln
    let p := p.setLaunch ln { q with esats := q.esats || st.e.any (fun e => e.2.getLsbD 15) }
    let p := p.setStrand u { st with run := .ended, sticky := [], pend := none, bun := {}, phase := .boundary, async := [], grant := none }
    let bs := ((p.crew st.crew).barriers.filter (fun e => decide (st.idx ∈ e.2.mem))).map (fun e => e.1)
    let p := bs.foldl (fun p b => p.barrierArrive st.crew b st.idx true) p
    let p := match st.rslot with | some n => p.freeSlot (st.core / 24) n | none => p
    let p := st.async.foldl (fun p t => p.asyncTo u t.cause t.tval) p
    p.crewOver st.crew

/-- The uncorrectable word that the test of a WKIND 2 wait would consume (R366). -/
def Pkg.parkUpset (p : Pkg) (st : Strand) (wkind : Nat) (w : X) : Option Nat :=
  if wkind = 2 then p.poisoned ((p.crew st.crew).waitKey w.toNat + 8) 2 else none

/-- PARK (R39, R313): once every pending destination has come, the record is written to the task's slot. The handler that an idle strand
runs has neither task nor slot: its PARK writes the home slot, as one of the first task does (assumption 75). -/
def parkStrand (s : State) (st : Strand) (live : BitVec 32) (wkind : Nat) (wait : X) : Pkg :=
  let u := s.focus
  if st.awaited ≠ [] then s.pkg.setStrand u { st with run := .blocked (.pending st.awaited) }
  else
    match orderStop s.pkg st 2 with
    | some w => s.pkg.stopAt s.er u st w
    | none =>
      match s.pkg.parkUpset st wkind wait with
      | some k => s.pkg.stopAt s.er u st (.contain (s.pkg.fvalOf st.crew k))
      | none =>
      let cl := st.core / 24
      let n := st.rslot.getD st.home
      let r := recordOf st st.bun.next live st.depth wkind wait
      let k := s.pkg.cluster cl
      let p := s.pkg.setCluster cl { k with rq := RMap.put k.rq n { crew := st.crew, st := .parked, bytes := r } }
      (p.setStrand u st.rest).armWait cl n st.crew

/-- YIELD (R178, R243): with REQ, the crew is saved, FORCED when DEADLINE had passed by its issue. Its own bundle has issued by now, so a
strand whose turn waits for that is ready. -/
def yieldStrand (s : State) (st : Strand) (req late : Bool) : Pkg :=
  let u := s.focus
  let p := s.pkg.setStrand u st.goOn
  let c := p.crew st.crew
  if req then
    if c.st = .resident ∨ c.st = .retry false ∨ c.st = .retry true then p.setCrew st.crew { c with st := .saving late, sealed := [] } else p
  else
    let p := p.endTurns st.core u
    if p.othersReady u st then p.setStrand u { st.goOn with run := .blocked .yieldTurn } else p

/-- The vector registers of strand u are all written: its banks leave retention (R48), and they hold no error (R366). -/
def Pkg.mendRegs (p : Pkg) (u : Nat) (st : Strand) : Pkg :=  (p.wakeBanks st.core st.banks).mendFile [u]

/-- The transfer that the strand in focus has pending after its header post. -/
def performTransfer (s : State) : Out :=
  match s.pkg.strands.find? s.focus with
  | none => .next s
  | some st =>
    if st.run ≠ .ready ∨ st.phase ≠ .transfer then .next s
    else
      match st.pend with
      | some .endTask => .next (s.withPkg (endStrand s st))
      | some .idle =>
        let p := s.pkg.setStrand s.focus st.rest
        .next (s.withPkg (match st.rslot with | some n => p.freeSlot (st.core / 24) n | none => p))
      | some (.park live wkind wait) => .next (s.withPkg (parkStrand s st live wkind wait))
      | some (.yield req late) => .next (s.withPkg (yieldStrand s st req late))
      | some (.ctxload va) =>
        if st.awaited ≠ [] then .next (s.withPkg (s.pkg.setStrand s.focus { st with run := .blocked (.pending st.awaited) }))
        else
          match orderStop s.pkg st 6 with
          | some w => .next (s.withPkg (s.pkg.stopAt s.er s.focus st w))
          | none =>
            match ctxAt s.er s.pkg st va with
            | .ok (b, p) => .next (s.withPkg ((p.mendRegs s.focus st).setStrand s.focus (st.loadBlock b)))
            | .error (0, _) => .next s
            | .error (0x30, v) => .next (s.withPkg (s.pkg.stopAt s.er s.focus st (.contain (engFval s.pkg s.er st.crew st.sup v))))
            -- the mapping has changed since the issue: no transfer is made (assumption 36)
            | .error (c, v) => .next (s.withPkg (s.pkg.setStrand s.focus { st.goOn with
                async := st.async ++ [{ cause := c, tval := BitVec.ofNat 64 v }] }))
      | _ => .next (s.withPkg (s.pkg.setStrand s.focus st.endBundle))

/-! ### Waits withdrawn -/

/-- Every request of strand u at a unit is withdrawn. -/
def Pkg.withdraw (p : Pkg) (u : Nat) (st : Strand) : Pkg :=
  let k := p.core st.core
  let p := p.setCore st.core { k with waits := k.waits.filter (fun w => w.who != .header u) }
  let c := p.cluster (st.core / 24)
  let p := p.setCluster (st.core / 24) { c with rqWaits := c.rqWaits.filter (fun w => w.strand != u) }
  { p with
    unitWaits := p.unitWaits.filter (fun w => !(w.strand == u && w.kind != 3))
    walks := p.walks.filter (fun w => w.strand != u)
    pools := p.pools.filter (fun e => !(e.2.strand == u && (e.2.kind == .fence || (e.2.steal && e.2.joined)))) }

/-! ### Asynchronous traps (R356) -/

/-- The strand is at a point where a pending asynchronous trap is taken: idle, at a bundle boundary, or before the first issue
of its bundle. A crew on its way out keeps its traps for after the restore (R406). -/
def asyncReady (p : Pkg) (st : Strand) : Bool :=
  st.async != [] && !st.inh && !(p.crew st.crew).isSaved && !p.leaving st.crew
    && (match st.run with
        | .idle => true
        | .ready | .blocked .flag | .blocked (.walk _ _) => (st.phase == .boundary && !st.bun.started) || st.phase == .wait
        | _ => false)

/-- A header wait granted to a bundle that has not issued is undone: the bundle waits again after its handler, so COUNT goes back to
the flag (assumption 69). -/
def Pkg.ungrant (p : Pkg) (st : Strand) : Pkg :=
  if st.phase = .wait ∧ st.grant = some .ok then
    let f := hdrFlag st.bun.header
    p.flagSet st.core f (min (((p.core st.core).flags.get 0 f).toNat + hdrCount st.bun.header) (2 ^ 32 - 1))
  else p

/-- ASYNC_TRAP_DELIVERY: the oldest pending trap is taken. -/
def execAsyncTrapDelivery (strand : Nat) (s : State) : Out :=
  match s.pkg.strands.find? strand with
  | none => .next s
  | some st =>
    match st.async with
    | [] => .next s
    | t :: rest =>
      if !asyncReady s.pkg st then .next s
      else
        let idle := st.run == .idle
        let p := (s.pkg.withdraw strand st).ungrant st
        let st := { st with async := rest }
        let tpc : X := if idle then 0 else if st.phase = .wait then st.bun.pc else st.pc
        let e := st.asyncTrap t.cause t.tval tpc
        let e := if idle then { e with idleHandler := true, depth := 0, rslot := none } else e
        .next (s.withPkg (p.takeTrap s.er strand st t.cause t.tval e))

/-! ### The issuing strand (R29, R30, R50) -/

/-- STRAND_SWITCH: a core with no strand able to issue takes the next, from the one after the last issuer, in ascending
order. -/
def execStrandSwitch (core : Nat) (s : State) : Out :=
  let k := s.pkg.core core
  let start := match k.lastIssuer with | some n => n + 1 | none => 0
  let able (n : Nat) : Option (Nat × Nat × Strand) :=
    (k.res.find? n).bind (fun u => (s.pkg.strands.find? u).bind (fun st =>
      if s.pkg.runnable u st ∧ !s.pkg.stopped st then some (n, u, st) else none))
  if k.cur.isSome ∨ k.service ≠ .inService then .next s
  else
    match (List.range 4).findSome? (fun i => able ((start + i) % 4)) with
    | none => .next s
    | some (n, u, st) =>
      let p := s.pkg.dropFence st
      let st := st.resume
      let st := if k.lastIssuer = some n then st else st.dropLatches
      .next (s.withPkg ((p.setCore core { k with cur := some n }).setStrand u st))

/-- After an action of the issuing strand of a core: one that cannot go on is no longer the issuing strand, and the issue of a
bundle ends the turn that a YIELD of another strand waits for. -/
def Pkg.settleCore (p : Pkg) (core : Nat) (issued : Bool) : Pkg :=
  let k := p.core core
  match k.cur with
  | none => p
  | some n =>
    let u := (k.res.find? n).getD 0
    let p := if issued then p.endTurns core u else p
    let goes := (k.res.find? n).isSome && (p.strands.find? u).any (fun st => st.run == .ready && !p.stopped st)
    if goes then p else p.setCore core { k with cur := none, lastIssuer := some n }

/-! ### Handouts and task starts (R32, R38) -/

/-- a is the older of two AGEs (R37). -/
def olderAge (a b : Word32) : Bool := decide ((b - a).toNat < 2 ^ 31)

/-- The oldest ready record of a crew not handed out. -/
def oldestReady (k : Cluster) (cu : Nat) : Option Nat :=
  ((k.rq.filter (fun e => e.2.crew == cu && e.2.st == .ready none)).foldl (fun (b : Option (Nat × RqSlot)) e => match b with
    | none => some e
    | some b => if olderAge b.2.age e.2.age then some b else some e) none).map (fun e => e.1)

/-- A strand that may be handed a task. -/
def wantsTask (p : Pkg) (st : Strand) : Bool := st.run == .idle && !(st.async != [] && !st.inh) && !p.leaving st.crew

/-- Hand the crew's oldest ready record to strand u. -/
def handout (cl cu : Nat) (r : Pkg × Nat) (u : Nat) : Pkg × Nat :=
  if 4 ≤ r.2 then r
  else
    let p := r.1
    let k := p.cluster cl
    match oldestReady k cu with
    | none => r
    | some n =>
      ((p.setCluster cl { k with rq := k.rq.modify n (fun x => { x with st := .ready (some u) }) }).modStrand u
        (fun st => { st with run := .starting n }), r.2 + 1)

/-- Crew a is served before crew b: by crew index, then by placement in the cluster (R38). -/
def servedBefore (a b : Nat × Crew) : Bool :=
  decide (a.2.index < b.2.index) || (a.2.index == b.2.index && (decide (a.2.placed < b.2.placed) || (a.2.placed == b.2.placed && decide (a.1 ≤ b.1))))

/-- Crews resident in a cluster, in the order of service. -/
def crewsIn (p : Pkg) (cl : Nat) : List (Nat × Crew) :=
  sortBy servedBefore (p.crews.filter (fun e => e.2.cluster == cl && (match e.2.st with | .resident | .retry _ => true | _ => false)))

/-- TASK_SCHEDULER_ROUND: at most four handouts; crews in order, their idle strands in ascending number. -/
def execTaskSchedulerRound (cluster : Nat) (s : State) : Out :=
  let r := (crewsIn s.pkg cluster).foldl (fun r c =>
    ((s.pkg.strands.filter (fun e => e.2.crew == c.1 && wantsTask s.pkg e.2)).map (fun e => e.1)).foldl (handout cluster c.1) r) (s.pkg, 0)
  .next (s.withPkg r.1)

/-- The strand at the start of a task from a record (R32, R43, R151, R196): every register is carried or cleared. -/
def Strand.begin (st : Strand) (n : Nat) (r : Rec) : Strand :=
  let live := BitVec.ofNat 32 (recN r 8 4)
  let regs := (List.range 32).filter (fun i => live.getLsbD i && i != 0)
  { st with
    x := regs.zipIdx.foldl (fun m e => RMap.set m 0 e.1 (BitVec.ofNat 64 (recN r (32 + 8 * e.2) 8))) []
    p := (List.range 8).foldl (fun m i => RMap.set m false i (i != 0 && bitN (recN r 14 1) i)) []
    m := [], q := [], e := [], v := [], fmt := 0b0100100#7, fmtPipe := [], dirty := 0, shadow := []
    pc := BitVec.ofNat 64 (fieldN (recN r 0 8) 47 0)
    depth := recN r 12 1 % 64
    latch := [], l3acc := none, sticky := [], pend := none, bun := {}, phase := .boundary, xpend := [], vpend := []
    rslot := some n, run := .ready, grant := none }

/-- TASK_START. -/
def execTaskStart (strand : Nat) (s : State) : Out :=
  match s.pkg.strands.find? strand with
  | none => .next s
  | some st =>
    match st.run with
    | .starting n =>
      let cl := st.core / 24
      let k := s.pkg.cluster cl
      match k.rq.find? n with
      | none => .next s
      | some r =>
        let p := s.pkg.setCluster cl { k with rq := RMap.put k.rq n { r with st := .running strand } }
        -- the start is an acquire (R127), and it clears the window
        .next (s.withPkg (((p.forget strand).mendRegs strand st).setStrand strand ((st.begin n r.bytes).acquired s.pkg.tick)))
    | _ => .next s

/-- TLBINV_COMPLETION: every core has dropped the translations named (R94, R319). -/
def execTlbinvCompletion (strand : Nat) (s : State) : Out :=
  match s.pkg.strands.find? strand with
  | none => .next s
  | some st =>
    match st.run with
    | .blocked (.tlbinv va n) =>
      let hit (t : Tlb) : Bool := n == 0 || (decide (t.va < va + n) && decide (va < t.va + t.size))
      .next (s.withPkg ({ s.pkg with tlb := s.pkg.tlb.filter (fun t => !hit t) }.rouse strand .ok))
    | _ => .next s

/-! ### Strands of a failed launch (R363) -/

/-- The lost strands' barrier that a strand waits on: its number, when the member set held a strand lost by containment (R415). -/
def lostBarrier (p : Pkg) (st : Strand) : Option Nat :=
  match st.run with
  | .blocked (.barrier b) =>
    if ((p.crew st.crew).barrier b).mem.any (fun i => (p.strands.find? (96 * st.crew + i)).any (fun x => x.contained)) then some b else none
  | _ => none

/-- FAILED_LAUNCH_RELEASE. -/
def execFailedLaunchRelease (strand : Nat) (s : State) : Out :=
  match s.pkg.strands.find? strand with
  | none => .next s
  | some st =>
    let l := s.pkg.launchOf st
    if !l.failed ∨ st.run = .ended ∨ st.grace.isSome then .next s
    else
      let st := { st with grace := some (l.failTime + s.host.ygrace.toNat) }
      let lost : X := BitVec.ofNat 64 l.failCore
      let p := s.pkg.withdraw strand st
      let asyncOf (st : Strand) : Strand := { st with async := st.async ++ [{ cause := 0x28, tval := lost }] }
      if st.inh then .next (s.withPkg (((p.setStrand strand st).discard strand).crewOver st.crew))
      else
        match st.run with
        | .blocked w =>
          match st.phase with
          | .issue =>
            match lostBarrier s.pkg st with
            | some b =>
              let v : X := BitVec.ofNat 64 (l.failCore + 2 ^ 16 * b)
              .next (s.withPkg (p.takeTrap s.er strand st 0x29 v (st.syncTrap 0x29 v st.bun.slot)))
            | none => .next (s.withPkg (p.takeTrap s.er strand st 0x28 lost (st.syncTrap 0x28 lost st.bun.slot)))
          | .wait => .next (s.withPkg (p.takeTrap s.er strand st 0x28 lost (st.asyncTrap 0x28 lost st.bun.pc)))
          | .boundary => .next (s.withPkg (p.takeTrap s.er strand st 0x28 lost (st.asyncTrap 0x28 lost st.pc)))
          | _ =>
            match w, st.pend with
            | .pending _, some (.park _ _ _) =>
              let st := { st with pend := none }
              .next (s.withPkg (p.takeTrap s.er strand st 0x28 lost (st.asyncTrap 0x28 lost st.bun.next)))
            | _, _ => .next (s.withPkg (s.pkg.setStrand strand (asyncOf st)))
        | .starting _ => .next (s.withPkg (p.setStrand strand (asyncOf { st with run := .idle })))
        | _ => .next (s.withPkg (s.pkg.setStrand strand (asyncOf st)))

/-- ABORT_GRACE_EXPIRY: a strand of a failed launch still there after YGRACE is stopped and discarded. -/
def execAbortGraceExpiry (strand : Nat) (s : State) : Out :=
  match s.pkg.strands.find? strand with
  | none => .next s
  | some st =>
    let l := s.pkg.launchOf st
    if l.failed ∧ st.run ≠ .ended ∧ l.failTime + s.host.ygrace.toNat ≤ s.pkg.time then
      .next (s.withPkg (((s.pkg.withdraw strand st).discard strand).crewOver st.crew))
    else .next s

end Sys2Proof.Machine
end

