-- ==== Sys2Proof/Machine/Sched.lean ====
section
/-! DEFINITION. The host's registers, launch packets, dispatch and the completion record (02, 09, 23: R22 to R28, R171 to R177,
R410, R417, R418). An event that is not enabled leaves the state as it is. -/

namespace Sys2Proof.Machine

/-! ### BAR 0 (R171, R172) -/

def HostRegs.queue (h : HostRegs) (q : Nat) : HQueue := (h.queues.find? q).getD {}
def HostRegs.setQueue (h : HostRegs) (q : Nat) (k : HQueue) : HostRegs := { h with queues := RMap.put h.queues q k }

/-- Set a bit of CFGERR: 0 CFGRUN, 1 QBUSY, 2 QBAD, 3 QFETCH. -/
def HostRegs.err (h : HostRegs) (b : Nat) : HostRegs := { h with cfgerr := h.cfgerr ||| BitVec.ofNat 4 (2 ^ b) }

/-- The state with other host registers. -/
def State.withHost (s : State) (h : HostRegs) : State := { s with host := h }

/-- A launch runs from the fetch of its packet until its completion record is written. -/
def Pkg.runs (p : Pkg) : Bool := p.launches.any (fun e => !e.2.recorded)

/-- PODPOS, EXPLICIT_RING and the communicators: written while no launch runs. -/
def HostRegs.config (h : HostRegs) (off : Nat) (v : X) : HostRegs :=
  if off = 0x8 then { h with podpos := v.setWidth 24 }
  else if off = 0x100 then { h with explicitRing := v.setWidth 7 }
  else { h with comm := RMap.set h.comm 0 ((off - 0x1000) / 16) (v.setWidth 32 &&& 0x8FFFFFFF#32) }

/-- The offset of a register that is written only while no launch runs. -/
def configOff (off : Nat) : Bool := off == 0x8 || off == 0x100 || (decide (0x1000 ≤ off) && decide (off < 0x2000) && off % 16 == 0)

/-- The queue of a QBASE offset. -/
def qbaseOff (off : Nat) : Option Nat := if 0x100000 ≤ off ∧ off < 0x140000 ∧ off % 32 = 0 then some ((off - 0x100000) / 32) else none

/-- The registers after a host write of v at an offset without a row of its own. -/
def hostWrite (running : Bool) (h : HostRegs) (off : Nat) (v : X) : HostRegs :=
  if off = 0x108 then { h with ygrace := v.setWidth 32 }
  else if configOff off then if running then h.err 0 else h.config off v
  else
    match qbaseOff off with
    | some q => if (h.queue q).en then h.err 1 else h.setQueue q { h.queue q with base := v }
    | none => h

/-- HOST_REGISTER_WRITE. A write needs the PCIe link (R182). Frames that a new EXPLICIT_RING takes from the automatic pool hold no
granule from then on (R98). -/
def execHostRegisterWrite (off : Nat) (v : BitVec 64) (s : State) : Out :=
  if !s.host.pcieUp then .next s
  else
    let h := hostWrite s.pkg.runs s.host off v
    .next { s with host := h, pkg := if h.explicitRing = s.host.explicitRing then s.pkg else s.pkg.recall h.explicitRing.toNat }

/-- What a host read of BAR 0 answers (R171): a write-only register and a reserved offset read 0; MEMCAP before READY.MEM is open. -/
def State.hostReg (s : State) (off : Nat) : X :=
  let h := s.host
  if off = 0 then h.ready.setWidth 64
  else if off = 0x8 then h.podpos.setWidth 64
  else if off = 0x10 then h.cfgerr.setWidth 64
  else if off = 0x18 then (if h.ready.getLsbD 11 then Config.memcap else Config.earlyMemcap s.pkg.tick).setWidth 64
  else if off = 0x100 then h.explicitRing.setWidth 64
  else if off = 0x108 then h.ygrace.setWidth 64
  else if 0x1000 ≤ off ∧ off < 0x2000 ∧ off % 16 = 0 then (h.comm.get 0 ((off - 0x1000) / 16)).setWidth 64
  else if 0x100000 ≤ off ∧ off < 0x140000 then
    let k := h.queue ((off - 0x100000) / 32)
    if off % 32 = 0 then k.base
    else if off % 32 = 8 then BitVec.ofNat 64 (k.root * 2 ^ 16 + (if k.en then 16 else 0) + k.qlog)
    else if off % 32 = 16 then k.head.setWidth 64
    else 0
  else 0

/-- The host reads a register of BAR 0 over the link. -/
def State.hostRead (s : State) (off : Nat) : State :=
  if s.host.pcieUp then s.withHost { s.host with readData := s.hostReg off } else s

/-! ### MSI-X (R171): the table of 2,048 vectors in BAR 2 -/

/-- A 64-bit word of the table; after reset every vector is masked, by bit 0 of its vector control word (assumption 47). -/
def HostRegs.msixWord (h : HostRegs) (word : Nat) : X := RMap.get h.msix (if word % 2 = 1 then 0x100000000#64 else 0) word

/-- A vector is masked. -/
def HostRegs.masked (h : HostRegs) (v : Nat) : Bool := (h.msixWord (2 * v + 1)).getLsbD 32

/-- What a host read of word of BAR 2 answers: the table's 4,096 words, then the 32 words of pending bits (assumption 47). -/
def HostRegs.bar2 (h : HostRegs) (word : Nat) : X :=
  if word < 4096 then h.msixWord word
  else if word < 4128 then
    BitVec.ofNat 64 ((((List.range 64).filter (fun i => decide (64 * (word - 4096) + i ∈ h.msixPending))).map (fun i => 2 ^ i)).sum)
  else 0

/-- The host reads a word of BAR 2 over the link. -/
def State.msixRead (s : State) (word : Nat) : State :=
  if s.host.pcieUp then s.withHost { s.host with readData := s.host.bar2 word } else s

/-- Signal a vector: its message is sent, or it is pending while masked. -/
def HostRegs.signal (h : HostRegs) (v : Nat) : HostRegs :=
  if h.masked v then { h with msixPending := if v ∈ h.msixPending then h.msixPending else h.msixPending ++ [v] }
  else { h with signals := v :: h.signals }

/-- The host writes a 64-bit word of the table; a pending vector that is unmasked sends its message. -/
def HostRegs.msixWrite (h : HostRegs) (word : Nat) (v : X) : HostRegs :=
  if 4096 ≤ word then h
  else
    let h := { h with msix := RMap.put h.msix word v }
    let n := word / 2
    if n ∈ h.msixPending ∧ !h.masked n then { h with msixPending := h.msixPending.filter (fun m => m != n), signals := n :: h.signals } else h

/-- CFGERR_CLEAR. -/
def execCfgerrClear (v : BitVec 64) (s : State) : Out :=
  .next (if s.host.pcieUp then s.withHost { s.host with cfgerr := s.host.cfgerr &&& ~~~(v.setWidth 4) } else s)

/-- A queue's QCTL fields from a written value. -/
def HQueue.ctl (k : HQueue) (v : X) (en : Bool) : HQueue := { k with root := bits v 47 16, qlog := bits v 3 0, en := en }

/-- QCTL_ENABLE: a write with EN 1 (R172, R418). -/
def execQctlEnable (q : Nat) (v : BitVec 64) (s : State) : Out :=
  let k := s.host.queue q
  if !s.host.pcieUp ∨ 8192 ≤ q ∨ !bit v 4 then .next s
  else if k.en then .next (s.withHost (s.host.err 1))
  else if bits v 3 0 = 0 ∨ 12 < bits v 3 0 ∨ k.base.toNat % 64 ≠ 0 then .next (s.withHost (s.host.err 2))
  else .next (s.withHost (s.host.setQueue q (k.ctl v true)))

/-- QCTL_DISABLE: a write with EN 0; while the queue is enabled it clears EN alone. -/
def execQctlDisable (q : Nat) (v : BitVec 64) (s : State) : Out :=
  let k := s.host.queue q
  if !s.host.pcieUp ∨ 8192 ≤ q ∨ bit v 4 then .next s
  else .next (s.withHost (s.host.setQueue q (if k.en then { k with en := false } else k.ctl v false)))

/-- QTAIL_DOORBELL. The host's earlier writes are in memory already (R127). -/
def execQtailDoorbell (q : Nat) (v : BitVec 32) (s : State) : Out :=
  .next (if s.host.pcieUp ∧ q < 8192 then s.withHost (s.host.setQueue q { s.host.queue q with tail := v }) else s)

/-! ### The packet (R174, R417) -/

/-- The byte of the lowest set bit of a reserved field of a packet. -/
def reservedAt (w hi lo : Nat) : Option Nat := (((List.range (hi + 1 - lo)).map (fun i => lo + i)).find? (bitN w)).map (fun i => i / 8)

/-- The byte offset of the first failing field; complOk and sigOk say that COMPL and SIGVA are aligned and have a leaf. -/
def Launch.bad (l : Launch) (complOk sigOk : Bool) : Option Nat :=
  let w := ofBytes l.packet
  let f (b : Bool) (off : Nat) : Option Nat := if b then some off else none
  [f (fieldN w 1 0 != 0) 0, reservedAt w 63 48, reservedAt w 127 112, f (l.ncrew == 0) 16, reservedAt w 195 192,
   f (l.emask / 2 ^ l.cpc != 0) 24, f (decide (32 < l.barr)) 28, f (decide (2 ^ 18 < l.spad)) 29,
   f (decide (12 < l.units) || decide (16 < l.spc * l.units)) 30, f (decide (24 < l.cpc)) 31, reservedAt w 296 288,
   f (l.sigm && !sigOk) 40, reservedAt w 383 368, f (!complOk) 48, reservedAt w 447 432, reservedAt w 463 448,
   f (l.savesz != 0 && decide (2 ^ 48 < l.save + l.savesz * 65536)) 58].findSome? id

/-- The physical address of a store by the device at va, held from the fetch: none where there is no leaf with W. The error says
whether it is a table word on the move, or else an uncorrectable one. -/
def Pkg.holdPa (p : Pkg) (er root va align : Nat) : Except Bool (Option Nat × Pkg) :=
  if va % align ≠ 0 ∨ locOf va ≠ .general then .ok (none, p)
  else
    match p.walk er root va 1 true with
    | none => .error false
    | some (.error c) => if c = 0 then .error true else .ok (none, p)
    | some (.ok (l, p)) => .ok (some (l.pa + (va - l.va)), p)

/-! ### Records and signals (R175) -/

/-- The completion record. -/
def Launch.record (l : Launch) : List Byte :=
  let b (x : Bool) (n : Nat) : Nat := if x then n else 0
  let f : FirstFault := l.first.getD { time := 0, cause := 0, core := 0, sn := 0, pc := 0, val := 0 }
  toBytes 4 (b l.failed 1) ++ toBytes 4 l.faults ++ toBytes 4 l.lid ++ toBytes 4 l.done ++ toBytes 8 (l.tstart.getD 0) ++ toBytes 8 l.tend
    ++ toBytes 4 (b l.csat 4 + b l.tsats 2 + b l.esats 1) ++ toBytes 1 f.cause ++ toBytes 1 0 ++ toBytes 2 (f.core * 4 + f.sn)
    ++ toBytes 8 f.pc ++ toBytes 8 f.val.toNat ++ toBytes 8 0

/-- The record of a malformed packet (R417). -/
def malformedRecord (time off : Nat) : List Byte :=
  toBytes 4 2 ++ toBytes 4 1 ++ toBytes 8 0 ++ toBytes 8 time ++ toBytes 8 time ++ toBytes 4 0 ++ toBytes 1 2 ++ toBytes 3 0 ++ toBytes 8 0
    ++ toBytes 8 off ++ toBytes 8 0

/-- The base die writes bytes at a physical address, performed at HOST scope at once. -/
def Pkg.writePhys (p : Pkg) (pa : Nat) (bs : List Byte) : Pkg := p.agentWrite baseAgent (fun _ q => 4 < q.reached) pa bs

/-- Write a record and signal it: the memory flag at sig, or the MSI-X vector. -/
def State.report (s : State) (l : Launch) (compl sig : Option Nat) (rec : List Byte) (state : Nat) : State :=
  let p := match compl with | some a => s.pkg.writePhys a rec | none => s.pkg
  let p := match sig with
    | some a => if l.sigm then p.writePhys a (toBytes 8 (2 ^ 63 + 2 ^ 32 * state + l.lid)) else p
    | none => p
  { s with pkg := p, host := if l.sigm then s.host else s.host.signal l.vec }

/-- The record or the signal of a launch crosses the PCIe link. -/
def Launch.overLink (l : Launch) (compl sig : Option Nat) : Bool :=
  !l.sigm || compl.any (fun a => tierOf a == 3) || sig.any (fun a => tierOf a == 3)

/-- The record or the signal of a launch must wait: for the PCIe link that it crosses, or for a granule on the move (R102). -/
def State.reportWaits (s : State) (l : Launch) (compl sig : Option Nat) : Bool :=
  (l.overLink compl sig && !s.host.pcieUp) || compl.any s.pkg.moving || (l.sigm && sig.any s.pkg.moving)

/-- QHEAD passes the packets whose launch has ended its placement. -/
def State.advanceHeads (s : State) : State :=
  s.pkg.launches.foldl (fun s e =>
    if e.2.placing ∨ e.2.headed then s
    else
      let k := s.host.queue e.2.queue
      { s with pkg := s.pkg.setLaunch e.1 { e.2 with headed := true }, host := s.host.setQueue e.2.queue { k with head := k.head + 1 } }) s

/-! ### Fetching (R173, R417, R418) -/

/-- The packet fetch fails: EN clears and QFETCH is set. -/
def State.fetchFailed (s : State) (q : Nat) : State := s.withHost ((s.host.setQueue q { s.host.queue q with en := false }).err 3)

/-- A launch enters, its packet checked. -/
def Pkg.enterLaunch (p : Pkg) (l : Launch) : Pkg := { p.setLaunch p.nextLaunch l with nextLaunch := p.nextLaunch + 1 }

/-- PACKET_FETCH. -/
def execPacketFetch (q : Nat) (s : State) : Out :=
  let s := s.advanceHeads
  let k := s.host.queue q
  let busy := s.pkg.launches.any (fun e => e.2.queue == q && e.2.placing)
  if !k.en ∨ k.tail = k.head ∨ !s.host.ready.getLsbD 10 ∨ !s.host.ready.getLsbD 11 ∨ busy then .next s
  else
    let pa := k.base.toNat + 64 * (k.head.toNat % 2 ^ k.qlog)
    let key := s.pkg.physKey pa
    if (tierOf pa = 3 ∧ !s.host.pcieUp) ∨ s.pkg.moving pa then .next s
    else if tierOf pa = 0 ∨ (tierOf pa = 3 ∧ Config.hostRefuses s.pkg.tick = true) ∨ (s.pkg.poisoned key 64).isSome then .next (s.fetchFailed q)
    else
      let l : Launch := { queue := q, packet := s.pkg.bytes key 64, fetched := s.pkg.time, root := k.root }
      match s.pkg.holdPa s.er k.root l.compl 64 with
      | .error busy => .next (if busy then s else s.fetchFailed q)
      | .ok (compl, p1) =>
        match (if l.sigm then p1.holdPa s.er k.root l.sigva 8 else .ok (none, p1)) with
        | .error busy => .next (if busy then s else s.fetchFailed q)
        | .ok (sig, p2) =>
          match l.bad compl.isSome sig.isSome with
          | none => .next (s.withPkg (p2.enterLaunch { l with complPa := compl, sigPa := sig }))
          | some off =>
            if s.reportWaits l compl sig then .next s
            else
              let t := (s.withPkg p2).report l compl sig (malformedRecord s.pkg.time off) 2
              .next (t.withHost (t.host.setQueue q { k with head := k.head + 1 }))

/-! ### Placement (R27) -/

/-- A core chosen for a crew position: its strand numbers, its window units and the scratchpad offset. -/
structure Seat where
  core : Nat
  sn : List Nat
  banks : List Nat
  spad : Nat
  deriving DecidableEq, Repr

/-- Crews that hold places in a cluster. -/
def Pkg.crewsAt (p : Pkg) (cl : Nat) : List (Nat × Crew) := p.crews.filter (fun e => e.2.cluster == cl && e.2.st != .ended)

/-- The scratchpad intervals taken on a core. -/
def Pkg.spadTaken (p : Pkg) (c : Nat) : List (Nat × Nat) :=
  (p.crewsAt (c / 24)).flatMap (fun e =>
    ((e.2.cores.zip e.2.spad).filter (fun x => x.1 == c)).map (fun x => (x.2, x.2 + (p.launch e.2.launch).spad)))

/-- The lowest free offset with n bytes. -/
def freeOffset (taken : List (Nat × Nat)) (n : Nat) : Option Nat :=
  minOf ((0 :: taken.map (fun t => t.2)).filter (fun o => decide (o + n ≤ 2 ^ 18) && taken.all (fun t => decide (o + n ≤ t.1) || decide (t.2 ≤ o))))

/-- The engine mode a launch gives a position (R25). -/
def Launch.modeAt (l : Launch) (j : Nat) : EngMode := if bitN l.emask j then .shared else .direct

/-- Core c qualifies for position j of a crew; alone: only a core that holds no strand will do (R176). -/
def Pkg.seat (p : Pkg) (l : Launch) (alone : Bool) (j c : Nat) : Option Seat :=
  let k := p.core c
  let sns := (List.range 4).filter (fun n => (k.res.find? n).isNone)
  let used := k.res.vals.flatMap (fun u => (p.strands.find? u).elim [] (fun st => st.banks))
  let banks := (List.range 16).filter (fun b => b ∉ used)
  let free := k.res == []
  if k.service = .inService ∧ l.spc ≤ sns.length ∧ l.spc * l.units ≤ banks.length ∧ (free ∨ (!alone ∧ k.res ≠ [] ∧ k.mode = l.modeAt j)) then
    (freeOffset (p.spadTaken c) l.spad).map (fun o => { core := c, sn := sns.take l.spc, banks := banks.take (l.spc * l.units), spad := o })
  else none

/-- The places a crew takes in a cluster, by position: cores in ascending order, each tested once. -/
def Pkg.seats (p : Pkg) (l : Launch) (alone : Bool) (cl : Nat) : List Seat :=
  (List.range 24).foldl (fun acc i =>
    if l.cpc ≤ acc.length then acc
    else match p.seat l alone acc.length (24 * cl + i) with
      | some x => acc ++ [x]
      | none => acc) []

/-- The reserved depth slots that a saved crew needs back (R176). -/
def Crew.reserved (c : Crew) : List Nat := c.image.rq.keys.filter (fun n => decide (512 ≤ n) && decide (n < 1024))

/-- The cluster fits the crew: its places. -/
def Pkg.fits (p : Pkg) (l : Launch) (saved : Option Crew) (cl : Nat) : Option (List Seat) :=
  let k := p.cluster cl
  let held := (p.crewsAt cl).foldl (fun n e => n + (p.launch e.2.launch).barr) 0
  let general := (k.rq.filter (fun e => decide (e.1 < 512))).length
  let slots : Bool := match saved with | some c => c.reserved.all (fun n => (k.rq.find? n).isNone) | none => true
  let seats := p.seats l saved.isSome cl
  if held + l.barr ≤ 32 ∧ general + l.gcap ≤ 512 ∧ slots = true ∧ seats.length = l.cpc then some seats else none

/-- The uncorrectable words of a core's tiles and operand slots are rewritten. -/
def Pkg.clearTiles (p : Pkg) (c : Nat) : Pkg :=
  let own (b q : Nat) : Bool := decide (2 ^ b + c * 2 ^ 16 ≤ q) && decide (q < 2 ^ b + (c + 1) * 2 ^ 16)
  { p with poison := p.poison.filter (fun q => !own 61 q && !own 62 q) }

/-- A core takes strands; one that held none starts with its flags, tiles and slots 0 and its mode set (R54, R55). What an ended crew
has left in its matrix queue goes unperformed (assumption 41). -/
def Pkg.openCore (p : Pkg) (l : Launch) (j c : Nat) : Pkg :=
  let k := p.core c
  if k.res ≠ [] then p
  else (p.setCore c { k with
      mode := l.modeAt j, flags := [], acc := [], tsat := [], ksteps := [], issued := [], opnd := [], claim := [], releasing := []
      waits := [], cur := none, lastIssuer := none, mxq := [] }).clearTiles c

/-- Seat a crew's strands: each takes its place on its core. -/
def Pkg.sitDown (p : Pkg) (cu : Nat) (l : Launch) (seats : List Seat) (mk : Nat → Nat → Nat → List Nat → Strand) : Pkg :=
  seats.zipIdx.foldl (fun p (x, j) =>
    let p := (p.openCore l j x.core).wakeBanks x.core x.banks
    (List.range l.spc).foldl (fun p m =>
      let idx := j * l.spc + m
      let sn := x.sn.getD m 0
      let k := p.core x.core
      (p.setCore x.core { k with res := RMap.put k.res sn (96 * cu + idx) }).setStrand (96 * cu + idx)
        (mk idx x.core sn ((x.banks.drop (m * l.units)).take l.units))) p) p

/-- A strand at its start (R28). -/
def startStrand (l : Launch) (cu crewIndex idx core sn : Nat) (banks : List Nat) : Strand :=
  { crew := cu, idx := idx, core := core, sn := sn, banks := banks, retn := l.retn, pc := BitVec.ofNat 64 l.entry
    x := [(1, l.args), (2, crewIndex), (3, idx), (4, l.spc * l.cpc)].foldl (fun m e => RMap.set m 0 e.1 (BitVec.ofNat 64 e.2)) [] }

/-- Place the next crew of launch ln on its seats in cluster cl (R26 to R28, R358). -/
def Pkg.placeCrew (p : Pkg) (ln cl : Nat) (seats : List Seat) : Pkg :=
  let l := p.launch ln
  let cu := p.nextCrew
  let c : Crew := { launch := ln, index := l.nextCrew, cluster := cl, placed := p.tick, cores := seats.map (fun x => x.core), spad := seats.map (fun x => x.spad) }
  let p := p.setLaunch ln { l with
    nextCrew := l.nextCrew + 1, placing := decide (l.nextCrew + 1 < l.ncrew), tstart := some (l.tstart.getD p.time) }
  let p : Pkg := { p.setCrew cu c with nextCrew := cu + 1 }
  let start (idx core sn : Nat) (banks : List Nat) : Strand :=
    { startStrand l cu l.nextCrew idx core sn banks with acqAt := p.tick, codeSeen := { acq := p.tick, fence := p.tick } }
  (p.sitDown cu l seats start).write (noticeKey cu 0) (noticeInit ++ List.replicate 0x236 0)

/-! ### Windows that move (R178 to R181) -/

/-- k, moved when it lies in the n bytes from a. -/
def relocate (a b n k : Nat) : Nat := if a ≤ k ∧ k < a + n then b + (k - a) else k

/-- The bytes of a window move, with the accesses still to come, the pool homes and the uncorrectable words in it; the old place is left
empty when gone is set. No interface keeps a pool of the old place (R166). -/
def Pkg.moveWindow (p : Pkg) (n : Nat) (gone : Bool) (m : Nat × Nat) : Pkg :=
  let p1 := ((p.write m.2 (p.bytes m.1 n)).clearPoison m.2 n).uncache m.1 n
  { p1 with
    mem := if gone then p1.mem.filter (fun e => !(decide (m.1 ≤ e.1) && decide (e.1 < m.1 + n))) else p1.mem
    poison := p1.poison.map (relocate m.1 m.2 n)
    accs := p1.accs.mapVals (fun a => { a with parts := a.parts.map (fun q => { q with addr := relocate m.1 m.2 n q.addr }) })
    pools := p1.pools.mapVals (fun o => { o with home := relocate m.1 m.2 n o.home }) }

/-- The FGETs of crew cu still to come at core a go to core b (R181). -/
def Pkg.moveFlags (p : Pkg) (cu : Nat) (m : Nat × Nat) : Pkg :=
  { p with accs := p.accs.mapVals (fun x =>
      if x.strand / 96 = cu then
        { x with parts := x.parts.map (fun q => { q with addr := relocate (flagKey m.1 0) (flagKey m.2 0) 128 q.addr }) }
      else x) }

/-- The crew's windows move to other cores and offsets, and the FGETs of its strands with them. -/
def Pkg.moveCrew (p : Pkg) (cu cl : Nat) (cores spad : List Nat) (gone : Bool) : Pkg :=
  let c := p.crew cu
  let n := (p.launch c.launch).spad
  let d : Crew := { c with cluster := cl, cores := cores, spad := spad }
  let moves := (List.range cores.length).map (fun j => (c.winKey j 0, d.winKey j 0))
  ((c.cores.zip cores).foldl (Pkg.moveFlags · cu ·) (moves.foldl (fun p m => p.moveWindow n gone m) p)).setCrew cu d

/-- The slots that the saved records take, by the key of the record: general slots the lowest free, reserved slots the same, home
slots those of their strands. -/
def Pkg.slotPlan (p : Pkg) (cu : Nat) : List (Nat × Nat) :=
  let c := p.crew cu
  let q := p.cluster c.cluster
  c.image.rq.keys.foldl (fun l n =>
    if n < 512 then
      l ++ [(n, ((List.range 512).find? (fun m => (q.rq.find? m).isNone && !l.any (fun e => e.2 == m))).getD 511)]
    else if n < 1024 then l ++ [(n, n)]
    else l ++ [(n, ((p.strands.find? (96 * cu + (n - 2048))).elim 1024 Strand.home))]) []

/-- Where a record's slot has gone. -/
def planned (l : List (Nat × Nat)) (n : Nat) : Nat := ((l.find? (fun e => e.1 == n)).map (fun e => e.2)).getD n

/-- The slots of the saved records are taken at the placement (R176); the records become ready, or wait, once the record is read. -/
def Pkg.holdSlots (p : Pkg) (cu : Nat) : Pkg :=
  let c := p.crew cu
  let plan := p.slotPlan cu
  let held := c.image.rq.map (fun e => (planned plan e.1, e.2))
  let put (m : RMap RqSlot) (e : Nat × RqSlot) : RMap RqSlot :=
    RMap.put m e.1 { e.2 with st := match e.2.st with | .running u => .running u | _ => .parked }
  let q := p.cluster c.cluster
  let p := p.setCluster c.cluster { q with rq := held.foldl put q.rq }
  { p.setCrew cu { c with image := { c.image with rq := held.foldl (fun m e => RMap.put m e.1 e.2) [] } } with
    strands := p.strands.mapVals (fun st => if st.crew = cu then { st with rslot := st.rslot.map (planned plan) } else st) }

/-- What the crew still has in flight follows its strands to their cores; pool operations that have not left start from there. -/
def Pkg.followCores (p : Pkg) (cu : Nat) : Pkg :=
  let here (u c : Nat) : Nat := (p.strands.find? u).elim c (fun st => st.core)
  let start (o : PoolOp) : PoolOp :=
    let c := here o.strand o.core
    { o with
      core := c, sn := (p.strands.find? o.strand).elim o.sn (fun st => st.sn)
      path := if o.kind = .init ∨ o.kind = .fence then [] else poolPath c o.home }
  { p with
    accs := p.accs.mapVals (fun a => if a.strand / 96 = cu then { a with core := here a.strand a.core } else a)
    pools := p.pools.mapVals (fun o => if o.crew = cu ∧ !o.sent then start o else o) }

/-- The part of a gathered table that belongs to position j. -/
def cutAt {α : Type} (m : RMap α) (n j : Nat) : RMap α := (m.filter (fun e => e.1 / n == j)).map (fun e => (e.1 - n * j, e.2))

/-- The cores, which held no strand, take the flags, tiles and slots of the record (R181). -/
def Pkg.loadCores (p : Pkg) (cu : Nat) : Pkg :=
  let c := p.crew cu
  let i := c.image
  let mine (l : List Nat) (j : Nat) : List Nat := (l.filter (fun o => o / 64 == j)).map (fun o => o % 64)
  c.cores.zipIdx.foldl (fun p (n, j) =>
    p.setCore n { p.core n with
      flags := cutAt i.flags 32 j, acc := cutAt i.acc 4096 j, tsat := cutAt i.tsat 16 j, ksteps := cutAt i.ksteps 16 j
      issued := cutAt i.issued 16 j, opnd := cutAt i.opnd 16384 j, releasing := mine i.releasing j
      claim := (mine i.claims j).foldl (fun m o => RMap.put m o cu) [] }) p

/-- Place a saved crew: its strands sit down, its cores hold what its record has for them, and its records' slots are taken, but none of
its strands issues before its record is read (assumption 41). -/
def Pkg.placeSaved (p : Pkg) (cu cl : Nat) (seats : List Seat) : Pkg :=
  let l := p.launch (p.crew cu).launch
  let p := p.moveCrew cu cl (seats.map (fun x => x.core)) (seats.map (fun x => x.spad)) true
  let p := p.setCrew cu { p.crew cu with st := .restoring, placed := p.tick }
  (p.sitDown cu l seats (fun idx core sn banks =>
    { (p.strands.find? (96 * cu + idx)).getD {} with core := core, sn := sn, banks := banks })).followCores cu |>.loadCores cu |>.holdSlots cu

/-! ### Offers (R173, R176) -/

/-- A queue's offer: the launch, and the saved crew or none for its next unplaced crew. -/
def Pkg.offer (p : Pkg) (q : Nat) : Option (Nat × Option Nat) :=
  let ls := p.launches.filter (fun e => e.2.queue == q && !e.2.recorded && !e.2.failed)
  let saved (ln : Nat) : Option Nat :=
    ((p.crews.filter (fun e => e.2.launch == ln && e.2.away)).foldl
      (fun (b : Option (Nat × Crew)) e => match b with
        | none => some e
        | some b => if e.2.index < b.2.index then some e else some b) none).map (fun e => e.1)
  (ls.findSome? (fun e => (saved e.1).map (fun cu => (e.1, some cu)))).or ((ls.find? (fun e => e.2.placing)).map (fun e => (e.1, none)))

/-- The crew index of an offer. -/
def Pkg.offerIndex (p : Pkg) (o : Nat × Option Nat) : Nat := match o.2 with | some cu => (p.crew cu).index | none => (p.launch o.1).nextCrew

/-- A crew is still to be placed. -/
def Pkg.unplaced (p : Pkg) (w : Nat × Nat) : Bool :=
  let l := p.launch w.1
  !l.failed && ((l.placing && l.nextCrew == w.2)
    || p.crews.any (fun e => e.2.launch == w.1 && e.2.index == w.2 && e.2.away))

/-- The queue that the dispatcher picks: the lowest class, then the first at or after the pointer. A crew that has made a yield
request holds back those of higher class numbers. -/
def State.pickQueue (s : State) : Option (Nat × Nat × Option Nat) :=
  let p := s.pkg
  let held := (s.host.waiting.filter p.unplaced).map (fun w => (p.launch w.1).cls)
  let qs := ((p.launches.filter (fun e => !e.2.recorded)).map (fun e => e.2.queue)).dedup
  let cand := (qs.filterMap (fun q => (p.offer q).map (fun o => (q, o)))).filter (fun x => held.all (fun c => decide ((p.launch x.2.1).cls ≤ c)))
  let dist (q : Nat) : Nat := (q + 8192 - s.host.queuePtr % 8192) % 8192
  cand.foldl (fun b x => match b with
    | none => some x
    | some b =>
      let cx := (p.launch x.2.1).cls
      let cb := (p.launch b.2.1).cls
      if cx < cb ∨ (cx = cb ∧ dist x.1 < dist b.1) then some x else some b) none

/-- Clusters in the order of the rotating pointer. -/
def State.clusterOrder (s : State) : List Nat := (List.range 192).map (fun i => (s.host.clusterPtr + i) % 192)

/-- The cluster's die is ready (R183). -/
def State.dieReady (s : State) (cl : Nat) : Bool := s.host.ready.getLsbD (2 + cl / 24)

/-! ### Victims (R177, R410) -/

/-- The package as if the crews of a set had left. -/
def Pkg.without (p : Pkg) (vs : List Nat) : Pkg :=
  let gone (u : Nat) : Bool := decide (u / 96 ∈ vs)
  { p with
    crews := p.crews.map (fun e => if e.1 ∈ vs then (e.1, { e.2 with st := .ended }) else e)
    cores := p.cores.mapVals (fun k => { k with res := k.res.filter (fun e => !gone e.2) })
    clusters := p.clusters.mapVals (fun k => { k with rq := k.rq.filter (fun e => decide (e.2.crew ∉ vs)) }) }

/-- The sets of n members of a list, those with earlier members first. -/
def combos {α : Type} : Nat → List α → List (List α)
  | 0, _ => [[]]
  | _ + 1, [] => []
  | n + 1, x :: xs => (combos n xs).map (x :: ·) ++ combos (n + 1) xs

/-- The address of a crew's save slot. -/
def Pkg.slotOf (p : Pkg) (cu : Nat) : Nat := (p.launch (p.crew cu).launch).saveAddr (p.crew cu).index

/-- Where a crew's save slot lies, for telling whether two crews have the same. -/
def Pkg.slotPlace (p : Pkg) (er cu : Nat) : Nat :=
  match p.engKey er baseAgent cu true (p.slotOf cu) 1 0 with
  | .ok (k, _) => k
  | .error _ => 2 ^ 64 + p.slotOf cu

/-- VALID of a crew's save slot. -/
def Pkg.slotValid (p : Pkg) (er cu : Nat) : Bool :=
  match p.engRead er baseAgent cu true (p.slotOf cu + 7) 1 with
  | .ok (bs, _) => bitN (ofBytes bs) 7
  | .error _ => false

/-- A page among the first n of a crew's save slot, or a table entry on the way to it, lies in a granule on the move (R102); acc is the
kind of access. -/
def Pkg.slotBusy (p : Pkg) (er cu n acc : Nat) : Bool :=
  (List.range n).any (fun i => match p.engKey er baseAgent cu true (p.slotOf cu + 65536 * i) 1 acc with
    | .error 0 => true
    | _ => false)

/-- A resident crew that may be chosen for the waiting crew w of a class, but for what its save slot holds. -/
def Pkg.mayYield (p : Pkg) (cls : Nat) (w : Nat × Nat) (c : Crew) : Bool :=
  let l := p.launch c.launch
  (match c.st with | .resident | .retry _ | .saving _ => true | _ => false)
    && decide (cls < l.cls) && !l.failed && l.savesz != 0 && l.nslot != 0 && decide (w ∉ c.excl)

/-- A resident crew that may be chosen for the waiting crew w of a class. -/
def Pkg.victim (p : Pkg) (er cls : Nat) (w : Nat × Nat) (cu : Nat) (c : Crew) : Bool := p.mayYield cls w c && !p.slotValid er cu

/-- a before b in the rank of R177; of two that are equal in all of it the later placed comes first (assumption 70). -/
def rankBefore (p : Pkg) (a b : Nat × Crew) : Bool :=
  let x := p.launch a.2.launch
  let y := p.launch b.2.launch
  decide (y.cls < x.cls) || (x.cls == y.cls && (decide (y.lid < x.lid) || (x.lid == y.lid && (decide (b.2.index < a.2.index)
    || (b.2.index == a.2.index && decide (b.1 ≤ a.1))))))

/-- The smallest set of victims in a cluster, the earliest in rank among those of its size. -/
def Pkg.victims (p : Pkg) (er : Nat) (w : Nat × Nat) (l : Launch) (saved : Option Crew) (cl : Nat) : Option (List Nat) :=
  let cands := (sortBy (rankBefore p) ((p.crewsAt cl).filter (fun e => p.victim er l.cls w e.1 e.2))).map (fun e => e.1)
  (List.range (cands.length + 1)).findSome? (fun n =>
    (combos n cands).find? (fun vs =>
      decide ((vs.map (p.slotPlace er)).Nodup) && ((p.without vs).fits l saved cl).isSome))

def Crew.isSaving (c : Crew) : Bool := match c.st with | .saving _ => true | _ => false

/-- A crew whose request is withdrawn. -/
def Crew.unask (c : Crew) : Crew :=
  { c with req := false, waiter := none, fails := 0, st := match c.st with | .retry _ => .resident | st => st }

/-- Requests made for the waiting crew w are withdrawn, but for the crews of keep and those already leaving. -/
def Pkg.unaskFor (p : Pkg) (w : Nat × Nat) (keep : List Nat) : Pkg :=
  { p with crews := p.crews.map (fun e =>
      if e.2.waiter = some w ∧ e.1 ∉ keep ∧ !e.2.isSaving then (e.1, e.2.unask) else e) }

/-- The deadline of a request made for a crew of launch l. -/
def State.yieldDeadline (s : State) (l : Launch) : Nat :=
  let d := s.pkg.time + s.host.ygrace.toNat
  if l.deadline ≠ 0 ∧ l.fetched + l.deadline * 1000 < d then l.fetched + l.deadline * 1000 else d

/-- The search of R177 for the waiting crew w of offer o: victims are asked to yield. One asked already for w keeps its DEADLINE and
its count of abandoned saves (assumption 71). While the header of a save slot lies in a granule on the move the search waits for a later
round (R102). -/
def State.search (s : State) (o : Nat × Option Nat) : State :=
  let p := s.pkg
  let l := p.launch o.1
  let w := (o.1, p.offerIndex o)
  let busy := p.crews.any (fun e => p.mayYield l.cls w e.2 && p.slotBusy s.er e.1 1 0)
  match (if busy then none else (s.clusterOrder.filter s.dieReady).findSome? (p.victims s.er w l (o.2.map p.crew))) with
  | none => s
  | some vs =>
    let p := p.unaskFor w vs
    s.withPkg (vs.foldl (fun p cu =>
      let c := p.crew cu
      match c.st with
      | .saving _ => p
      | _ => if c.req ∧ c.waiter = some w then p
        else p.setCrew cu { c with req := true, waiter := some w, deadline := s.yieldDeadline l, fails := 0 }) p)

/-- DISPATCH_ROUND (R176). -/
def execDispatchRound (s : State) : Out :=
  if !s.host.ready.getLsbD 10 then .next s
  else
    match s.pickQueue with
    | none => .next s
    | some (q, o) =>
      let p := s.pkg
      let w := (o.1, p.offerIndex o)
      let s := s.withHost { s.host with queuePtr := (q + 1) % 8192 }
      match (s.clusterOrder.filter s.dieReady).findSome? (fun cl => (p.fits (p.launch o.1) (o.2.map p.crew) cl).map (fun x => (cl, x))) with
      | some (cl, seats) =>
        let p := match o.2 with
          | some cu => p.placeSaved cu cl seats
          | none => p.placeCrew o.1 cl seats
        .next { s with
          pkg := p.unaskFor w []
          host := { s.host with clusterPtr := (cl + 1) % 192, waiting := s.host.waiting.filter (fun x => x != w && p.unplaced x) } }
      | none =>
        let asked := p.crews.any (fun e => e.2.waiter == some w && e.2.st != .ended && e.2.st != .lost)
        let s := s.withHost { s.host with waiting := if w ∈ s.host.waiting then s.host.waiting else s.host.waiting ++ [w] }
        .next (if asked then s else s.search o)

/-! ### The end of a launch (R40, R175, R364) -/

/-- Nothing of the launch is left on the package: crews, accesses and commands. -/
def Pkg.launchQuiet (p : Pkg) (ln : Nat) : Bool :=
  let mine (cu : Nat) : Bool := (p.crew cu).launch == ln
  p.crews.all (fun e => e.2.launch != ln || ((e.2.st == .ended || e.2.st == .lost) && !e.2.unclear))
    && p.strands.all (fun e => !mine e.2.crew || (e.2.run == .ended && e.2.collq == []))
    && p.accs.all (fun e => !mine (e.2.strand / 96))
    && p.cores.all (fun e => e.2.mxq.all (fun m => !mine (m.strand / 96)) && e.2.copyq.all (fun c => !mine c.crew)
        && !e.2.copyRun.any (fun r => mine r.cmd.crew))
    && p.clusters.all (fun e => e.2.formes.all (fun f => !mine f.crew))
    && p.decs.all (fun d => !mine d.crew) && p.colls.all (fun c => c.launch != ln)
    && p.pools.all (fun e => !mine e.2.crew || e.2.joined)

/-- LAUNCH_COMPLETION_RECORD. -/
def execLaunchCompletionRecord (launch : Nat) (s : State) : Out :=
  match s.pkg.launches.find? launch with
  | none => .next s
  | some l =>
    if l.placing ∨ l.recorded ∨ !s.pkg.launchQuiet launch ∨ s.reportWaits l l.complPa l.sigPa then .next s
    else
      let t := s.report l l.complPa l.sigPa l.record (if l.failed then 1 else 0)
      .next (t.withPkg (t.pkg.setLaunch launch { l with recorded := true }))

end Sys2Proof.Machine
end

