-- ==== Sys2Proof/Machine/Save.lean ====
section
/-! DEFINITION. Pre-emption: saves and restores of crews (09, 23: R178 to R181, R406 to R413) and the scrub of a contained core
(R367). An event that is not enabled leaves the state as it is. -/

namespace Sys2Proof.Machine

/-! ### The deadline (R178, R420) -/

/-- The island of a cluster (R20). -/
def islandOf (cluster : Nat) : Nat := cluster / 12

def HostRegs.stopped (h : HostRegs) (island : Nat) : Bool := RMap.get h.islands .running island == .stopped

/-- A resident crew whose requested yield is overdue; a YIELD that a strand issued before DEADLINE wins (R178, R243). -/
def Pkg.due (p : Pkg) (cu : Nat) : Bool :=
  let c := p.crew cu
  c.st == .resident && c.req && decide (c.deadline ≤ p.time) && !(p.launch c.launch).failed
    && !p.strands.any (fun e => e.2.crew == cu && e.2.pend == some (.yield true false))

/-- Forced pre-emption of a crew begins. -/
def Crew.force (c : Crew) : Crew := { c with st := .saving true, sealed := [] }

/-- DEADLINE_EXPIRY. -/
def execDeadlineExpiry (crew : Nat) (s : State) : Out :=
  let c := s.pkg.crew crew
  if s.pkg.due crew ∧ !s.host.stopped (islandOf c.cluster) then .next (s.withPkg (s.pkg.setCrew crew c.force)) else .next s

/-! ### When the drains have ended (R178) -/

/-- An access held back by a pop that cannot run while the strands stand still (R127): no agent has seen it, and it stays in flight over
the save, as the pop does. -/
def Pkg.heldByPop (p : Pkg) (a : Acc) : Bool :=
  match p.popAhead a.strand a.after with
  | some n => p.stuck a.strand 4 n && a.parts.all (fun q => q.reached == 0)
  | none => false

/-- What a strand's save, a release at POD scope (R127), awaits: its accesses to scratchpads and flags, its stores and those it has
observed. -/
def Pkg.saveOwed (p : Pkg) (st : Strand) : Bool :=
  p.accs.any (fun e => e.2.strand == st.uid && !p.heldByPop e.2
      && e.2.parts.any (fun q => decide (2 ^ 48 ≤ q.addr) && !(decide (2 ^ 52 ≤ q.addr) && decide (q.addr < 2 ^ 53))))
    || (p.owed st 5).any (fun n => (p.accs.find? n).any (fun a => a.kind == .store && !p.heldByPop a))

/-- Every strand of the crew has stopped, what its save awaits is performed, and no entry that can run is left in the queues
that drain: none that is not ready, in a waiting list, or behind such a one. -/
def Pkg.drained (p : Pkg) (cu : Nat) : Bool :=
  let c := p.crew cu
  p.strands.all (fun e => e.2.crew != cu || (p.stopped e.2 && !p.saveOwed e.2))
    && c.cores.all (fun n =>
        let k := p.core n
        k.copyq.all (fun x => x.crew != cu || p.stuck x.strand 1 x.num) && !k.copyRun.any (fun r => r.cmd.crew == cu)
          && (k.mxq.all (fun e => e.strand / 96 != cu || p.stuck e.strand 0 e.num) || (c.st == .saving true && decide (n ∈ c.sealed))))
    && (p.cluster c.cluster).formes.all (fun f => f.crew != cu || !f.ready || p.stuck f.strand 2 f.num)
    && p.decs.all (fun d => d.crew != cu || p.stuck d.strand 2 d.tok)
    && p.pools.all (fun e => e.2.crew != cu || e.2.kind == .fence || (e.2.joined && (e.2.answer.isNone || e.2.steal)) || p.stuck e.2.strand 4 e.2.num)

/-! ### What is saved (R179) -/

/-- The key under which a record's slot is kept: a home slot by its strand's index. -/
def Pkg.slotKey (p : Pkg) (cu n : Nat) : Nat :=
  if n < 1024 then n
  else 2048 + ((p.strands.vals.find? (fun st => st.crew == cu && st.home == n)).elim 0 (fun st => st.idx))

/-- A table of each position of the crew in one, position j from key n·j. -/
def Crew.gather {α : Type} (c : Crew) (n : Nat) (f : Nat → RMap α) : RMap α :=
  c.cores.zipIdx.flatMap (fun (k, j) => (f k).map (fun e => (n * j + e.1, e.2)))

/-- Slots of core k that the crew claims. -/
def Pkg.claimsOf (p : Pkg) (cu k : Nat) : List Nat := ((p.core k).claim.filter (fun e => e.2 == cu)).map (fun e => e.1)

def Pkg.imageOf (p : Pkg) (cu : Nat) : SaveImage :=
  let c := p.crew cu
  let q := p.cluster c.cluster
  let each (f : Nat → List Nat) : List Nat := c.cores.zipIdx.flatMap (fun (k, j) => (f k).map (fun o => 64 * j + o))
  { flags := c.gather 32 (fun k => (p.core k).flags)
    acc := c.gather 4096 (fun k => (p.core k).acc)
    tsat := c.gather 16 (fun k => (p.core k).tsat)
    ksteps := c.gather 16 (fun k => (p.core k).ksteps)
    issued := c.gather 16 (fun k => (p.core k).issued)
    opnd := c.gather 16384 (fun k => (p.core k).opnd.filter (fun e => decide (e.1 / 256 ∈ p.claimsOf cu k)))
    claims := each (p.claimsOf cu)
    releasing := each (fun k => (p.core k).releasing.filter (fun o => decide (o ∈ p.claimsOf cu k)))
    armed := c.cores.zipIdx.map (fun (k, j) => (j, (p.core k).armed.filter (fun a => a.cmd.crew == cu)))
    mxq := c.cores.zipIdx.map (fun (k, j) => (j, (p.core k).mxq.filter (fun e => e.strand / 96 == cu)))
    copyq := c.cores.zipIdx.map (fun (k, j) => (j, (p.core k).copyq.filter (fun e => e.crew == cu)))
    rq := (q.rq.filter (fun e => e.2.crew == cu)).map (fun e =>
      (p.slotKey cu e.1, { e.2 with st := match e.2.st with | .ready _ => .ready none | x => x }))
    formes := q.formes.filter (fun f => f.crew == cu) }

/-- The strand's latches are invalid (R50, R180). What an issue in progress has captured stays (R376); a strand between two issues has
captured nothing yet. -/
def Strand.noLatches (st : Strand) : Strand :=
  let st := st.dropLatches
  if st.atBoundary then { st with bun := { st.bun with latch := [], l3lost := st.bun.l3acc.or st.bun.l3lost } } else st

/-- A YIELD that the save of its crew meets (R243, R406): at its transfer it has been performed, before it the crew has left already. -/
def Strand.metYield (st : Strand) : Strand :=
  match st.pend with
  | some (.yield req _) => if st.phase = .transfer then st.goOn else if req then { st with pend := some (.yield false false) } else st
  | _ => st

/-- A strand as it waits in its record: a wait at a unit of the cluster is made again, a task handed out and not begun returns to
the queue. -/
def Pkg.stow (p : Pkg) (st : Strand) : Strand :=
  let clean := st.q.mapVals (fun l => l.map (fun e => { e with bad := false }))
  let st := { st.noLatches.metYield with dirty := st.dirty &&& 0x3FFC0000#30, rslot := st.rslot.map (p.slotKey st.crew), q := clean }
  match st.run with
  | .blocked .flag | .blocked .ring | .blocked .galley | .blocked (.walk _ _) | .blocked .yieldTurn | .blocked (.poolfence _) =>
    { st with run := .ready, grant := none }
  | .blocked .runq => if (stolen p st.uid).isSome then st else { st with run := .ready, grant := none }
  | .starting _ => { st with run := .idle }
  | _ => st

/-- The crew leaves its cores: what it holds there goes into its record. REQ is 0 from then on, and DEADLINE as it was (assumption 79).
An uncorrectable word of a window unit that the save did not read (R61) stays behind. -/
def Pkg.vacate (p : Pkg) (cu : Nat) (forced : Bool) : Pkg :=
  let c := p.crew cu
  let p0 := p
  let image := p.imageOf cu
  let us := (p.strands.filter (fun e => e.2.crew == cu)).map (fun e => e.1)
  let parked (n : Nat) : Bool := ((p.cluster c.cluster).rq.find? n).elim false (fun r => r.crew == cu)
  let p : Pkg := { p with strands := p.strands.mapVals (fun st => if st.crew = cu then p.stow st else st) }
  let p := us.foldl (fun p u => match p.strands.find? u with | some st => p.leaveCore st | none => p) p
  let p := p.mapCores (fun n k =>
    if n ∈ c.cores then
      { (k.releaseCrew cu).dropParked parked with
        armed := k.armed.filter (fun a => a.cmd.crew != cu), mxq := k.mxq.filter (fun e => e.strand / 96 != cu)
        copyq := k.copyq.filter (fun x => x.crew != cu) }
    else k.dropParked (fun m => decide (n / 24 = c.cluster) && parked m))
  let p := (p.mendFreed p0).mendFile us
  let q := p.cluster c.cluster
  let p := p.setCluster c.cluster { q with
    rqWaits := q.rqWaits.filter (fun w => w.crew != cu), formes := q.formes.filter (fun f => f.crew != cu) }
  let p := p.freeSlots c.cluster (fun r => r.crew == cu)
  let p : Pkg := { p with
    unitWaits := p.unitWaits.filter (fun w => !((w.kind ≤ 2 && w.strand / 96 == cu) || (w.kind == 3 && w.strand == cu)))
    walks := p.walks.filter (fun w => w.strand / 96 != cu)
    pools := p.pools.filter (fun e => !(e.2.crew == cu && e.2.kind == .fence)) }
  let p := p.setCrew cu { p.crew cu with
    st := .saved forced, image := image, req := false, waiter := none, fails := 0, sealed := [] }
  p.moveCrew cu 192 ((List.range c.cores.length).map (fun j => 2 ^ 20 + 32 * cu + j)) (c.cores.map (fun _ => 0)) false

/-- Communicators on which the crew has a COLL in progress or queued. -/
def Pkg.commsOf (p : Pkg) (cu : Nat) : List Nat :=
  ((p.colls.filter (fun c => c.crew == cu)).map (fun c => c.comm)
    ++ p.strands.flatMap (fun e => if e.2.crew = cu then e.2.collq.filterMap (fun q => q.2.comm) else [])).dedup

/-- Send holds for crew cu on the communicators listed (R405, R420). -/
def Pkg.sendHolds (p : Pkg) (cu : Nat) (l : List Nat) : Pkg :=
  { p with outbox := p.outbox ++ l.map OutMsg.hold, holdsOut := p.holdsOut ++ l.map (fun n => (cu, n)) }

/-- Release every hold sent for crew cu. -/
def Pkg.sendReleases (p : Pkg) (cu : Nat) : Pkg :=
  { p with
    outbox := p.outbox ++ (p.holdsOut.filter (fun h => h.1 == cu)).map (fun h => OutMsg.release h.2)
    holdsOut := p.holdsOut.filter (fun h => h.1 != cu) }

/-! ### Writing the record (R179, R180, R411) -/

/-- Bytes of the record that the engine writes, by offset (R61, R179): the parts in the order of R179's table, of a strand the classes
and window units that its DIRTY marks; the header comes last. -/
def Launch.saveWrites (l : Launch) (dirty : Nat → BitVec 30) (off : Nat) : Bool :=
  let s0 := 64 + l.cpc * (128 + 4096 + 28672 + 32768 + l.spad)
  let per := 8192 + 4096 * l.units
  let s1 := s0 + l.spc * l.cpc * per
  if off < s0 then decide (64 ≤ off)
  else if off < s1 then
    let r := (off - s0) % per
    let d := dirty ((off - s0) / per)
    if r < 8192 then decide (Config.classByte r % 7 = 6) || d.getLsbD (12 + Config.classByte r % 7) else d.getLsbD ((r - 8192) / 4096)
  else decide (off < s1 + 160 * (l.gcap + 32 + l.spc * l.cpc) + 8 + 8 * 1024)

/-- The cluster's context save engine writes n bytes at va within a page, those for which new has a value; the others keep what they held.
None when it cannot. -/
def savePage (er : Nat) (pcie : Bool) (cu : Nat) (p : Pkg) (va n : Nat) (new : Nat → Option Byte) : Option Pkg :=
  let agent := saveAgent (p.crew cu).cluster
  match p.engKey er agent cu true va n 1 with
  | .error _ => none
  | .ok (k, _) =>
    if k < 2 ^ 48 ∧ tierOf k = 3 ∧ !pcie then none
    else
      let at' := p.physKey k
      let whole (q : Nat) : Bool := decide (at' ≤ q) && decide (q + 8 ≤ at' + n) && (List.range 8).all (fun i => (new (q - at' + i)).isSome)
      match p.engWrite er agent cu true va ((List.range n).map (fun i => (new i).getD (p.engByte agent (k + i)))) with
      | .ok q => some { q with poison := p.poison.filter (fun w => !whole w) }
      | .error _ => none

/-- The body of the record, page by page: what was written, and whether all was. The spec gives its parts' sizes, not the layout
within them; the bytes are open (assumption 7). -/
def saveBody (er : Nat) (pcie : Bool) (cu va size : Nat) (p : Pkg) : Pkg × Bool :=
  let l := p.launch (p.crew cu).launch
  let image := p.imageOf cu
  let sts := (p.strands.filter (fun e => e.2.crew == cu)).map (fun e => e.2)
  let dirty (k : Nat) : BitVec 30 := (p.strands.find? (96 * cu + k)).elim 0 (fun st => st.dirty)
  let new (off : Nat) : Option Byte := if l.saveWrites dirty off then some (Config.saveByte image (sts.map Strand.image) off) else none
  (List.range (size / 65536)).foldl (fun r i =>
    if !r.2 then r
    else
      let off := if i = 0 then 64 else 0
      match savePage er pcie cu r.1 (va + 65536 * i + off) (65536 - off) (fun b => new (65536 * i + off + b)) with
      | some q => (q, true)
      | none => (r.1, false)) (p, true)

/-- The save header (R180). -/
def saveHeader (forced : Bool) (lid crew time : Nat) : List Byte :=
  toBytes 8 (2 ^ 63 + (if forced then 1 else 0)) ++ toBytes 4 crew ++ toBytes 4 lid ++ toBytes 8 time ++ toBytes 40 0

/-- An uncorrectable word of the crew's state: the core that holds it, and its address. -/
def Pkg.crewUpset (p : Pkg) (cu : Nat) : Option (Nat × X) :=
  let c := p.crew cu
  let n := (p.launch c.launch).spad
  let inside (q a b : Nat) : Bool := decide (a ≤ q) && decide (q < b)
  let spad := c.cores.zipIdx.findSome? (fun (k, j) =>
    (p.poison.find? (fun q => inside q (c.winKey j 0) (c.winKey j n))).map (fun q => (k, p.fvalOf cu q)))
  let tiles := c.cores.findSome? (fun k =>
    (p.poison.find? (fun q => inside q (2 ^ 61 + k * 2 ^ 16) (2 ^ 61 + (k + 1) * 2 ^ 16)
      || (p.claimsOf cu k).any (fun o => inside q (2 ^ 62 + k * 2 ^ 16 + o * 16) (2 ^ 62 + k * 2 ^ 16 + o * 16 + 16)))).map (fun _ => (k, (0 : X))))
  -- of a strand the engine reads what DIRTY marks (R61)
  let regs := p.strands.findSome? (fun e =>
    if e.2.crew = cu ∧ e.2.upsetIn e.1 p.poison e.2.dirty.getLsbD (e.2.dirty.getLsbD 14) = true then some (e.2.core, (0 : X)) else none)
  (spad.or tiles).or regs

/-- The offer of a waiting crew. -/
def Pkg.offerOf (p : Pkg) (w : Nat × Nat) : Nat × Option Nat :=
  (w.1, (p.crews.filter (fun e => e.2.launch == w.1 && e.2.index == w.2 && e.2.isSaved)).head?.map (fun e => e.1))

/-- The save is abandoned: notice 0x0003, and the crew runs on; after the fourth in a row it is asked no more (R411, R412). -/
def State.abandonSave (s : State) (cu : Nat) (forced : Bool) : State :=
  let c := s.pkg.crew cu
  let p := s.pkg.notify cu 3 0 (c.cores.headD 0) 0 (BitVec.ofNat 64 (s.pkg.slotOf cu))
  let c : Crew := { p.crew cu with fails := c.fails + 1, sealed := [], resumed := p.cycs.get 0 (islandOf c.cluster) }
  if c.fails < 4 then s.withPkg (p.setCrew cu { c with st := .retry forced })
  else
    let t := s.withPkg (p.setCrew cu { c.unask with st := .resident, excl := c.waiter.toList ++ c.excl })
    match c.waiter with
    | some w => if t.pkg.unplaced w then t.search (t.pkg.offerOf w) else t
    | none => t

/-- The engine reads the window units that DIRTY marks: their banks leave retention (R48). -/
def Pkg.wakeDirty (p : Pkg) (cu : Nat) : Pkg :=
  p.strands.foldl (fun p e =>
    if e.2.crew = cu then p.wakeBanks e.2.core ((e.2.banks.zipIdx.filter (fun b => e.2.dirty.getLsbD b.2)).map (fun b => b.1)) else p) p

/-- The record of a drained crew is written and the crew leaves, or the save is abandoned. -/
def State.saveCrew (s : State) (crew : Nat) (forced : Bool) : State :=
  let c := s.pkg.crew crew
  let l := s.pkg.launch c.launch
  let va := s.pkg.slotOf crew
  let r := saveBody s.er s.host.pcieUp crew va l.recSize (s.pkg.wakeDirty crew)
  let head := saveHeader forced l.lid c.index s.pkg.time
  let done := if r.2 ∧ l.savesz ≠ 0 ∧ l.nslot ≠ 0 then savePage s.er s.host.pcieUp crew r.1 va 64 (fun i => head[i]?) else none
  match done with
  | none => (s.withPkg r.1).abandonSave crew forced
  | some p => s.withPkg ((p.sendHolds crew (p.commsOf crew)).vacate crew forced)

/-- CREW_SAVE. A save onto a record that is VALID is denied (R179): the crew stays, asked no more. While a page of the record lies in a
granule on the move the save waits (R102). -/
def execCrewSave (crew : Nat) (s : State) : Out :=
  let c := s.pkg.crew crew
  match c.st with
  | .saving forced =>
    let l := s.pkg.launch c.launch
    if l.failed ∨ s.host.stopped (islandOf c.cluster) ∨ !s.pkg.drained crew then .next s
    else
      match s.pkg.crewUpset crew with
      | some (k, v) => .next (s.withPkg (s.pkg.contain s.er k 0x30 0 0 v))
      | none =>
        if s.pkg.slotBusy s.er crew (l.recSize / 65536) 1 then .next s
        else if s.pkg.slotValid s.er crew then .next (s.withPkg (s.pkg.setCrew crew { c.unask with st := .resident, sealed := [] }))
        else .next (s.saveCrew crew forced)
  | _ => .next s

/-- SAVE_RETRY: at the crew's next retirement point, or 65,536 cycles after it resumed. -/
def execSaveRetry (crew : Nat) (s : State) : Out :=
  let c := s.pkg.crew crew
  match c.st with
  | .retry forced =>
    if (c.sealed ≠ [] ∨ c.resumed + 65536 ≤ s.pkg.cycs.get 0 (islandOf c.cluster)) ∧ !s.host.stopped (islandOf c.cluster) then
      .next (s.withPkg (s.pkg.setCrew crew { c with st := .saving (forced || decide (c.deadline ≤ s.pkg.time)), sealed := [] }))
    else .next s
  | _ => .next s

/-! ### Restoring (R176, R180, R181, R413) -/

/-- Cores take back the commands that the record holds for them. -/
def Pkg.refillCores (p : Pkg) (cu : Nat) : Pkg :=
  let c := p.crew cu
  let i := c.image
  c.cores.zipIdx.foldl (fun p (n, j) =>
    let k := p.core n
    p.setCore n { k with armed := k.armed ++ i.armed.get [] j, mxq := k.mxq ++ i.mxq.get [] j, copyq := k.copyq ++ i.copyq.get [] j }) p

/-- The saved records, in the slots they hold since the placement: ready ones with new AGEs in the order of the old (R42), parked ones
with their waits. -/
def Pkg.refillQueue (p : Pkg) (cu : Nat) : Pkg :=
  let c := p.crew cu
  let ready := sortBy (fun a b => olderAge a.2.age b.2.age) (c.image.rq.filter (fun e => e.2.st == .ready none))
  let p := ready.foldl (fun p e => p.makeReady c.cluster e.1) p
  (c.image.rq.filter (fun e => e.2.st == .parked)).foldl (fun p e => p.armWait c.cluster e.1 cu) p

/-- An answered STEAL whose record waited for a slot asks again (R36). -/
def Pkg.reaskSlot (p : Pkg) (cl u : Nat) (st : Strand) : Pkg :=
  match st.run, stolen p u with
  | .blocked .runq, some op =>
    let r := stamp st ((op.answer.getD (0, [])).2)
    let w : RqWait := { strand := u, crew := st.crew, depth := recN r 12 1 % 64, bytes := r }
    match p.takeSlot cl st.crew w.depth with
    | some n => p.giveSlot cl n w
    | none => let k := p.cluster cl; p.setCluster cl { k with rqWaits := k.rqWaits ++ [w] }
  | _, _ => p

/-- The pool answers in the record complete their pops (R178); one whose element cannot be written yet is left to arrive. -/
def Pkg.giveAnswers (p : Pkg) (er cu : Nat) : Pkg :=
  (p.crew cu).image.answers.foldl (fun p op =>
    let a := op.answer.getD (0, [])
    (takeAnswer er p op a.1 a.2).getD { p with pools := RMap.put p.pools op.num op }) p

/-- A strand as its record gives it back: nothing of it is dirty (R60), and the restore is an acquire (R127). A pool answer that completes
its pop after that marks DX (assumption 78). -/
def Strand.restored (st : Strand) (tick : Nat) : Strand := { st.acquired tick with dirty := st.dirty &&& 0x3FFC0000#30 }

/-- The crew stands on its cores as it was saved. -/
def Pkg.reinstate (p : Pkg) (er cu : Nat) : Pkg :=
  let c := p.crew cu
  let p : Pkg := { p.refillCores cu with early := p.early.filter (fun e => e.strand / 96 != cu) }
  let p : Pkg := { p with strands := p.strands.mapVals (fun st => if st.crew = cu then st.restored p.tick else st) }
  let q := p.cluster c.cluster
  let p := p.setCluster c.cluster { q with formes := q.formes ++ c.image.formes }
  let p := p.setCrew cu { c with st := .resident }
  let p := p.refillQueue cu
  let p := p.strands.foldl (fun p e => if e.2.crew = cu then p.reaskSlot c.cluster e.1 e.2 else p) p
  let p := p.giveAnswers er cu
  let p := c.cores.foldl (fun p n => p.retestCore cu n) p
  (p.setCrew cu { p.crew cu with image := {} }).sendReleases cu

/-- The engine reads the record: the header, then page by page; the cause that keeps it from being restored. -/
def Pkg.readRecord (p : Pkg) (er cu : Nat) : Except Nat Pkg :=
  let c := p.crew cu
  let l := p.launch c.launch
  let va := p.slotOf cu
  let agent := saveAgent c.cluster
  match p.engRead er agent cu true va 64 with
  | .error e => .error e.1
  | .ok (h, _) =>
    if recN h 0 8 / 2 ^ 63 = 0 ∨ recN h 12 4 ≠ l.lid ∨ recN h 8 4 ≠ c.index then .error 0x02
    else if p.poison.any (fun q => (List.range c.cores.length).any (fun j => decide (c.winKey j 0 ≤ q) && decide (q < c.winKey j l.spad))) then
      .error 0x30
    else
      (List.range (l.recSize / 65536)).foldl (fun r i =>
        match r with
        | .error e => .error e
        | .ok p => match p.engRead er agent cu true (va + 65536 * i) 65536 with
          | .error e => .error e.1
          | .ok (_, p) => .ok p) (.ok p)

/-- CREW_RESTORE: the record is read and VALID cleared; a record that cannot be restored fails the launch, and the chosen cores
are scrubbed. While a page of the record lies in a granule on the move the restore waits (R102). -/
def execCrewRestore (crew : Nat) (s : State) : Out :=
  let c := s.pkg.crew crew
  let p := s.pkg
  if c.st ≠ .restoring ∨ s.host.stopped (islandOf c.cluster) ∨ p.slotBusy s.er crew ((p.launch c.launch).recSize / 65536) 0 then .next s
  else
    match p.readRecord s.er crew with
    | .ok p => .next (s.withPkg ((p.clearValid s.er crew).reinstate s.er crew))
    | .error cause =>
      let first := c.cores.headD 0
      let p := p.countFault c.launch cause first 0 0 (BitVec.ofNat 64 (p.slotOf crew))
      let p := c.cores.foldl (fun p n => p.setCore n { p.core n with service := .contained }) p
      .next (s.withPkg (p.failLaunch s.er c.launch first))

/-! ### Return to service (R367) -/

/-- A scrubbed core's scratchpad is zero. -/
def Pkg.zeroSpad (p : Pkg) (c : Nat) : Pkg :=
  let own (k : Nat) : Bool := decide (spadKey c 0 ≤ k) && decide (k < spadKey (c + 1) 0)
  { p with mem := p.mem.filter (fun e => !own e.1), poison := p.poison.filter (fun q => !own q) }

/-- CORE_SCRUB: scratchpad, vector file, tiles, slots and flags become 0; a fault that does not clear retires the core. -/
def execCoreScrub (core : Nat) (s : State) : Out :=
  let k := s.pkg.core core
  if k.service ≠ .contained then .next s
  else
    let retire := Config.scrubFails s.pkg.tick core
    let p := (s.pkg.zeroSpad core).clearTiles core
    .next (s.withPkg (p.setCore core { res := k.res, service := if retire then .retired else .inService }))

end Sys2Proof.Machine
end

