-- ==== Sys2Proof/Machine/Power.lean ====
section
/-! DEFINITION. Bring-up, function loss, reset, islands and links (09, 20, 23: R182 to R184, R368, R389, R403, R419 to R422). An event
that is not enabled leaves the state as it is. -/

namespace Sys2Proof.Machine

/-! ### READY (R183, R419) -/

/-- A bit of READY that is a function's: 2 to 9 the dies, 10 DISP, 11 MEM, 12 COLL, 13 TIER, 14 to 19 the ports. -/
def isFunction (b : Nat) : Bool := decide (2 ≤ b) && decide (b ≤ 19)

def HostRegs.setReady (h : HostRegs) (b : Nat) : HostRegs := { h with ready := h.ready ||| BitVec.ofNat 20 (2 ^ b) }
def HostRegs.clearReady (h : HostRegs) (b : Nat) : HostRegs := { h with ready := h.ready &&& ~~~(BitVec.ofNat 20 (2 ^ b)) }

/-- The cores of a die. -/
def dieCores (d : Nat) : List Nat := (List.range 576).map (fun i => 576 * d + i)

/-- Cores of a die that fail their self-test are retired. -/
def Pkg.retireFailed (p : Pkg) (d : Nat) : Pkg :=
  (dieCores d).foldl (fun p c => if Config.scrubFails p.tick c then p.setCore c { p.core c with service := .retired } else p) p

/-- A port of READY is trained (R422). -/
def State.portUp (s : State) (port : Nat) : State :=
  s.withHost { s.host.setReady (14 + port) with retraining := s.host.retraining.filter (fun x => x.1 != port) }

/-- FUNCTION_READY: the bit is set after training and self-test; the cores of a die that fail are retired first. -/
def execFunctionReady (bit : Nat) (s : State) : Out :=
  if !isFunction bit ∨ s.host.ready.getLsbD bit then .next s
  else if 14 ≤ bit then .next (s.portUp (bit - 14))
  else
    let p := if bit ≤ 9 then s.pkg.retireFailed (bit - 2) else s.pkg
    .next { s with pkg := p, host := s.host.setReady bit }

/-! ### Loss of a function (R368, R403) -/

/-- Collectives whose paths use a port are abandoned with 0x31 (R403). -/
def State.linkLost (s : State) (port : Nat) : Pkg :=
  (s.pkg.colls.filter (fun c => (s.box c.comm).ports.any (fun b => b == 14 + port))).foldl
    (fun p c => p.abandonColl c 0x31 (BitVec.ofNat 64 (port + 2 ^ 16 * c.comm)) true) s.pkg

/-- A port loses its PORT bit. -/
def State.portDown (s : State) (port : Nat) : State :=
  { s with pkg := s.linkLost port, host := { s.host.clearReady (14 + port) with retraining := s.host.retraining.filter (fun x => x.1 != port) } }

/-- The cores of a lost die count as contained; cause, strand, PC and value of the fault they record are left open. -/
def Pkg.loseDie (p : Pkg) (er d : Nat) : Pkg :=
  let v := Config.lossTval p.tick
  (dieCores d).foldl (fun p c =>
    if (p.core c).service = .inService then
      p.contain er c (Config.openByte p.tick d).toNat (Config.pick p.tick 4) (v.toNat % 2 ^ 48) v
    else p) p

/-- Launches that fail with a function; the core that their releases name is left open. -/
def Pkg.failAll (p : Pkg) (er : Nat) (sel : Nat → Bool) : Pkg :=
  ((p.launches.filter (fun e => !e.2.recorded)).map (fun e => e.1)).foldl
    (fun p ln => if sel ln then p.failLaunch er ln (Config.pick p.tick 4608) else p) p

/-- The launch has a collective in progress or queued. -/
def Pkg.usesColl (p : Pkg) (ln : Nat) : Bool :=
  p.colls.any (fun c => c.launch == ln)
    || p.strands.any (fun e => (p.crew e.2.crew).launch == ln && e.2.collq.any (fun q => match q.2 with | .coll _ _ _ => true | _ => false))

/-- FUNCTION_LOSS. -/
def execFunctionLoss (bit : Nat) (s : State) : Out :=
  if !isFunction bit ∨ !s.host.ready.getLsbD bit then .next s
  else if 14 ≤ bit then .next (s.portDown (bit - 14))
  else
    let p := s.pkg
    let p := if bit ≤ 9 then p.loseDie s.er (bit - 2)
      else if bit = 11 then p.failAll s.er (fun _ => true)
      else if bit = 12 then p.failAll s.er p.usesColl
      else p
    .next { s with pkg := p, host := s.host.clearReady bit }

/-! ### Reset (R182, R421) -/

/-- The machine after a package reset: State.reset, but for the bytes of memory and scratchpads, which no rule clears, the words
among them that are uncorrectable, and the step counter. -/
def State.packageReset (s : State) : State :=
  let kept (k : Nat) : Bool := decide (k < spadKey 4608 0)
  { State.reset with
    pkg := { State.reset.pkg with
      mem := s.pkg.mem.filter (fun e => kept e.1), poison := s.pkg.poison.filter kept, tick := s.pkg.tick }
    agenda := s.agenda }

/-- PACKAGE_RESET. -/
def execPackageReset (s : State) : Out := .next s.packageReset

/-- CRITICAL_TEMPERATURE_RESET: no completion record is written. -/
def execCriticalTemperatureReset (s : State) : Out := .next s.packageReset

/-! ### Islands (R420) -/

def HostRegs.setIsland (h : HostRegs) (i : Nat) (x : Island) : HostRegs := { h with islands := RMap.set h.islands .running i x }

/-- Crews resident in a compute island. One that is being restored keeps the holds of its save. -/
def Pkg.crewsOn (p : Pkg) (i : Nat) : List Nat :=
  (p.crews.filter (fun e => e.2.st != .ended && !e.2.isSaved && decide (e.2.cluster < 192) && islandOf e.2.cluster == i)).map (fun e => e.1)

/-- ISLAND_THROTTLE: timing only (R21). -/
def execIslandThrottle (island : Nat) (s : State) : Out :=
  .next (if island < 18 ∧ !s.host.stopped island then s.withHost (s.host.setIsland island .throttled) else s)

/-- ISLAND_STOP: islands 16 and 17 never stop. -/
def execIslandStop (island : Nat) (s : State) : Out :=
  if 16 ≤ island ∨ s.host.stopped island then .next s
  else
    let p := (s.pkg.crewsOn island).foldl (fun p cu => p.sendHolds cu (p.commsOf cu)) s.pkg
    .next { s with pkg := p, host := s.host.setIsland island .stopped }

/-- ISLAND_RESUME: releases, and the deadlines that fell during the stop. -/
def execIslandResume (island : Nat) (s : State) : Out :=
  if !s.host.stopped island then .next (s.withHost (s.host.setIsland island .running))
  else
    let l := s.pkg.crewsOn island
    let p := l.foldl (fun p cu =>
      let p := p.sendReleases cu
      if p.due cu then p.setCrew cu (p.crew cu).force else p) s.pkg
    .next { s with pkg := p, host := s.host.setIsland island .running }

/-! ### Links (R184, R389, R422) -/

/-- LINK_FLIT_ERROR: the flit is replayed; no state of the machine changes (R184). -/
def execLinkFlitError (_link : Nat) (s : State) : Out := .next s

/-- The TIME at which a port's retraining began. -/
def HostRegs.retrainStart (h : HostRegs) (port : Nat) : Option Nat := (h.retraining.find? (fun x => x.1 == port)).map (fun x => x.2)

/-- PORT_RETRAINING: the port keeps its PORT bit. -/
def execPortRetraining (port : Nat) (s : State) : Out :=
  .next (if port < 6 ∧ s.host.ready.getLsbD (14 + port) ∧ (s.host.retrainStart port).isNone then
    s.withHost { s.host with retraining := s.host.retraining ++ [(port, s.pkg.time)] } else s)

/-- The port's retraining has lasted longer than n ns. -/
def State.retrainsFor (s : State) (port n : Nat) : Bool := (s.host.retrainStart port).any (fun t => decide (t + n < s.pkg.time))

/-- PORT_RETRAIN_TIMEOUT: the retraining has lasted longer than 20 µs, and link loss follows. -/
def execPortRetrainTimeout (port : Nat) (s : State) : Out := .next (if s.retrainsFor port 20000 then s.portDown port else s)

/-- PORT_TRAINED: a retraining that took longer than 20 µs has cost the port its PORT bit first. -/
def execPortTrained (port : Nat) (s : State) : Out :=
  .next (if port < 6 then (if s.retrainsFor port 20000 then s.portDown port else s).portUp port else s)

/-- The parts of an access on their way to the host tier. -/
def Acc.toHost (a : Acc) : List Nat :=
  (a.parts.zipIdx.filter (fun e => e.1.reached != 7 && decide (e.1.addr < 2 ^ 48) && tierOf e.1.addr == 3
    && (a.kind != .store || e.1.reached != 0))).map (fun e => e.2)

/-- The accesses listed part by part in l, of access num, are refused, each once (R389). -/
def Pkg.loseParts (p : Pkg) (num : Nat) (l : List Nat) : Pkg :=
  l.foldl (fun p i =>
    match p.accs.find? num with
    | some a => if (a.parts[i]?).any (fun q => q.reached != 7) && !a.begun i then p.refuseUnit num a i 0x31 6 else p
    | none => p) p

/-- PCIE_LINK_LOSS: host-tier accesses that have left their core are refused; later ones as they are performed. -/
def execPcieLinkLoss (s : State) : Out :=
  let p := s.pkg.accs.foldl (fun p e => p.loseParts e.1 e.2.toHost) s.pkg
  .next { s with pkg := p, host := { s.host with pcieUp := false } }

/-- PCIE_LINK_UP. -/
def execPcieLinkUp (s : State) : Out := .next (s.withHost { s.host with pcieUp := true })

end Sys2Proof.Machine
end

