-- ==== Sys2Proof/Machine/Scalar.lean ====
section
/-! DEFINITION. The S slot (12, R224 to R236): one meaning per instruction, over the frame of Ops.lean. -/

namespace Sys2Proof.Machine

/-- An S instruction that computes one result from the strand (R224): the result goes to L0, and to x[d] unless nw. -/
def sOp (i : Instr) (d : BitVec 5) (nw : BitVec 1) (f : Strand → X) (s : State) : Out :=
  onSlot i (fun _ => []) noPv (fun st => st.result d nw (f st)) s

/-- A register-form instruction of two sources. -/
def sReg2 (i : Instr) (o : SReg) (f : X → X → X) (s : State) : Out :=
  sOp i o.d o.nw (fun st => f (st.src o.a o.la) (st.src o.b o.lb)) s

/-- A register-form instruction of one source. -/
def sReg1 (i : Instr) (o : SReg) (f : X → X) (s : State) : Out :=
  sOp i o.d o.nw (fun st => f (st.src o.a o.la)) s

/-- An immediate-form instruction. -/
def sImm1 (i : Instr) (o : SImm) (f : X → X) (s : State) : Out :=
  sOp i o.d o.nw (fun st => f (st.src o.a o.la)) s

/-- imm12 sign-extended. -/
def immX (o : SImm) : X := o.imm.signExtend 64

/-- Shifts of R229 with a count of any size. -/
def shlX (a : X) (n : Nat) : X := if 64 ≤ n then 0 else a <<< n
def shrX (a : X) (n : Nat) : X := if 64 ≤ n then 0 else a >>> n
def shaX (a : X) (n : Nat) : X := a.sshiftRight (min n 64)
def rolX (a : X) (n : Nat) : X := a.rotateLeft (n % 64)

def minS (a b : X) : X := if a.toInt ≤ b.toInt then a else b
def maxS (a b : X) : X := if a.toInt ≤ b.toInt then b else a

/-- DIV and DIVZ (R228): the quotient of R70. -/
def divX (sg : Bool) (a b : X) : X :=
  if sg then wrapX (divQuot true 64 a.toInt b.toInt).1 else wrapX (divQuot false 64 a.toNat b.toNat).1

/-- REM and REMZ (R228). -/
def remX (sg : Bool) (a b : X) : X := if sg then wrapX (divRem a.toInt b.toInt) else wrapX (divRem a.toNat b.toNat)

/-- Trailing zero bits, 64 for 0. -/
def ctzX (a : X) : Nat := ((List.range 64).find? (fun i => a.getLsbD i)).getD 64

/-- Number of 1 bits. -/
def popX (a : X) : Nat := ((List.range 64).filter (fun i => a.getLsbD i)).length

/-- Bits [lo+len-1:lo]. -/
def bfieldX (a : X) (lo len : Nat) : Nat := a.toNat / 2 ^ lo % 2 ^ len

/-- x[d] with bits [lo+len-1:lo] replaced by the low bits of a (BFI). -/
def bfiX (old a : X) (lo len : Nat) : X :=
  BitVec.ofNat 64 (old.toNat - bfieldX old lo len * 2 ^ lo + a.toNat % 2 ^ len * 2 ^ lo)

/-- Literal word n, 32 bits (R204). -/
def Strand.lit (st : Strand) (n : Nat) : Nat := st.bun.lits.getD n 0

/-- ADD (R227). -/
def execAdd (o : SReg) (s : State) : Out := sReg2 (.add o) o (fun a b => a + b) s

/-- SUB (R227). -/
def execSub (o : SReg) (s : State) : Out := sReg2 (.sub o) o (fun a b => a - b) s

/-- AND (R227). -/
def execAnd (o : SReg) (s : State) : Out := sReg2 (.and o) o (fun a b => a &&& b) s

/-- OR (R227). -/
def execOr (o : SReg) (s : State) : Out := sReg2 (.or o) o (fun a b => a ||| b) s

/-- XOR (R227). -/
def execXor (o : SReg) (s : State) : Out := sReg2 (.xor o) o (fun a b => a ^^^ b) s

/-- ANDN (R227). -/
def execAndn (o : SReg) (s : State) : Out := sReg2 (.andn o) o (fun a b => a &&& ~~~ b) s

/-- SHL (R229). -/
def execShl (o : SReg) (s : State) : Out := sReg2 (.shl o) o (fun a b => shlX a b.toNat) s

/-- SHR (R229). -/
def execShr (o : SReg) (s : State) : Out := sReg2 (.shr o) o (fun a b => shrX a b.toNat) s

/-- SHA (R229). -/
def execSha (o : SReg) (s : State) : Out := sReg2 (.sha o) o (fun a b => shaX a b.toNat) s

/-- ROL (R229). -/
def execRol (o : SReg) (s : State) : Out := sReg2 (.rol o) o (fun a b => rolX a b.toNat) s

/-- MUL (R227). -/
def execMul (o : SReg) (s : State) : Out := sReg2 (.mul o) o (fun a b => a * b) s

/-- MULH (R227). -/
def execMulh (o : SReg) (s : State) : Out := sReg2 (.mulh o) o (fun a b => wrapX (asr (a.toInt * b.toInt) 64)) s

/-- MULHZ (R227). -/
def execMulhz (o : SReg) (s : State) : Out := sReg2 (.mulhz o) o (fun a b => BitVec.ofNat 64 (a.toNat * b.toNat / 2 ^ 64)) s

/-- DIV (R228). -/
def execDiv (o : SReg) (s : State) : Out := sReg2 (.div o) o (fun a b => divX true a b) s

/-- DIVZ (R228). -/
def execDivz (o : SReg) (s : State) : Out := sReg2 (.divz o) o (fun a b => divX false a b) s

/-- REM (R228). -/
def execRem (o : SReg) (s : State) : Out := sReg2 (.rem o) o (fun a b => remX true a b) s

/-- REMZ (R228). -/
def execRemz (o : SReg) (s : State) : Out := sReg2 (.remz o) o (fun a b => remX false a b) s

/-- MIN (R227). -/
def execMin (o : SReg) (s : State) : Out := sReg2 (.min o) o (fun a b => minS a b) s

/-- MAX (R227). -/
def execMax (o : SReg) (s : State) : Out := sReg2 (.max o) o (fun a b => maxS a b) s

/-- MINZ (R227). -/
def execMinz (o : SReg) (s : State) : Out := sReg2 (.minz o) o (fun a b => if a ≤ b then a else b) s

/-- MAXZ (R227). -/
def execMaxz (o : SReg) (s : State) : Out := sReg2 (.maxz o) o (fun a b => if a ≤ b then b else a) s

/-- ADDS (R227). -/
def execAdds (o : SReg) (s : State) : Out := sReg2 (.adds o) o (fun a b => wrapX (satTo true 64 (a.toInt + b.toInt))) s

/-- SUBS (R227). -/
def execSubs (o : SReg) (s : State) : Out := sReg2 (.subs o) o (fun a b => wrapX (satTo true 64 (a.toInt - b.toInt))) s

/-- CLZ (R230). -/
def execClz (o : SReg) (s : State) : Out := sReg1 (.clz o) o (fun a => BitVec.ofNat 64 (clzW 64 a.toNat)) s

/-- CTZ (R230). -/
def execCtz (o : SReg) (s : State) : Out := sReg1 (.ctz o) o (fun a => BitVec.ofNat 64 (ctzX a)) s

/-- POPC (R230). -/
def execPopc (o : SReg) (s : State) : Out := sReg1 (.popc o) o (fun a => BitVec.ofNat 64 (popX a)) s

/-- MOV (R230). -/
def execMov (o : SReg) (s : State) : Out := sReg1 (.mov o) o (fun a => a) s

/-- SEXT (R231). -/
def execSext (o : SReg) (s : State) : Out := sReg1 (.sext o) o (fun a => wrapX (readFmt true (o.sub.toNat + 1) (bfieldX a 0 (o.sub.toNat + 1)))) s

/-- ZEXT (R231). -/
def execZext (o : SReg) (s : State) : Out := sReg1 (.zext o) o (fun a => BitVec.ofNat 64 (bfieldX a 0 (o.sub.toNat + 1))) s

/-- BFX (R231). -/
def execBfx (o : SReg) (s : State) : Out := sReg1 (.bfx o) o (fun a => wrapX (readFmt true (o.b.toNat + 1) (bfieldX a o.sub.toNat (o.b.toNat + 1)))) s

/-- BFXZ (R231). -/
def execBfxz (o : SReg) (s : State) : Out := sReg1 (.bfxz o) o (fun a => BitVec.ofNat 64 (bfieldX a o.sub.toNat (o.b.toNat + 1))) s

/-- BFI (R231): reads x[d] as a third source, before its write. -/
def execBfi (o : SReg) (s : State) : Out :=
  sOp (.bfi o) o.d o.nw (fun st => bfiX (st.getX o.d.toNat) (st.src o.a o.la) o.sub.toNat (o.b.toNat + 1)) s

/-- ADDI (R232). -/
def execAddi (o : SImm) (s : State) : Out := sImm1 (.addi o) o (fun a => a + immX o) s

/-- ANDI (R232). -/
def execAndi (o : SImm) (s : State) : Out := sImm1 (.andi o) o (fun a => a &&& immX o) s

/-- ORI (R232). -/
def execOri (o : SImm) (s : State) : Out := sImm1 (.ori o) o (fun a => a ||| immX o) s

/-- XORI (R232). -/
def execXori (o : SImm) (s : State) : Out := sImm1 (.xori o) o (fun a => a ^^^ immX o) s

/-- SHLI (R229). -/
def execShli (o : SImm) (s : State) : Out := sImm1 (.shli o) o (fun a => shlX a o.imm.toNat) s

/-- SHRI (R229). -/
def execShri (o : SImm) (s : State) : Out := sImm1 (.shri o) o (fun a => shrX a o.imm.toNat) s

/-- SHAI (R229). -/
def execShai (o : SImm) (s : State) : Out := sImm1 (.shai o) o (fun a => shaX a o.imm.toNat) s

/-- ROLI (R229). -/
def execRoli (o : SImm) (s : State) : Out := sImm1 (.roli o) o (fun a => rolX a o.imm.toNat) s

/-- MULI (R232). -/
def execMuli (o : SImm) (s : State) : Out := sImm1 (.muli o) o (fun a => a * immX o) s

/-- MINI (R232). -/
def execMini (o : SImm) (s : State) : Out := sImm1 (.mini o) o (fun a => minS a (immX o)) s

/-- MAXI (R232). -/
def execMaxi (o : SImm) (s : State) : Out := sImm1 (.maxi o) o (fun a => maxS a (immX o)) s

/-- MOVI (R232). -/
def execMovi (o : SImm) (s : State) : Out := sImm1 (.movi o) o (fun _ => immX o) s

/-- LIH (R232). -/
def execLih (o : SImm) (s : State) : Out := sImm1 (.lih o) o (fun a => (a <<< 12) ||| o.imm.setWidth 64) s

/-- MOVW (R233): a literal word, sign-extended. -/
def execMovw (o : SImm) (s : State) : Out :=
  sOp (.movw o) o.d o.nw (fun st => wrapX (sextN 32 (st.lit (o.imm.toNat % 4)))) s

/-- MOVD (R233): two literal words. -/
def execMovd (o : SImm) (s : State) : Out :=
  sOp (.movd o) o.d o.nw (fun st => BitVec.ofNat 64 (st.lit (o.imm.toNat % 4) + 2 ^ 32 * st.lit (o.imm.toNat % 4 + 1))) s

/-- ADDW (R233): add a literal word, sign-extended. -/
def execAddw (o : SImm) (s : State) : Out :=
  sOp (.addw o) o.d o.nw (fun st => st.src o.a o.la + wrapX (sextN 32 (st.lit (o.imm.toNat % 4)))) s

/-! ### Control registers (R62 to R65, R234) -/

/-- STATUS (R63). -/
def Strand.status (st : Strand) : X :=
  BitVec.ofNat 64 (128 * st.sup.toNat + 64 * st.inh.toNat + 32 * st.retn.toNat)

/-- VWIN (R45). -/
def Strand.vwin (st : Strand) : X :=
  BitVec.ofNat 64 (st.banks.length * 2 ^ 48 + (st.banks.zipIdx.map (fun e => e.1 % 16 * 16 ^ e.2)).sum)

/-- QSTAT (R52). -/
def Strand.qstat (st : Strand) : X :=
  BitVec.ofNat 64 ((List.range 8).map (fun n => (st.getQ n).length * 16 ^ n)).sum

/-- The value of control register n at the S slot (R62, R235). -/
def csrRead (p : Pkg) (st : Strand) (n : Nat) : X :=
  let c := p.crew st.crew
  let l := p.launch c.launch
  match n with
  | 0x000 => st.status
  | 0x001 => st.tcause.setWidth 64
  | 0x002 => st.tpc.setWidth 64
  | 0x003 => st.tval
  | 0x004 => st.tstat.setWidth 64
  | 0x005 => st.tvec.setWidth 64
  | 0x006 => st.tscr
  | 0x007 => st.vwin
  | 0x008 => st.dirty.setWidth 64
  | 0x009 => st.qstat
  | 0x00A => BitVec.ofNat 64 (c.deadline % 2 ^ 56 * 256 + c.req.toNat)
  | 0x010 => BitVec.ofNat 64 (p.cycs.get 0 (st.core / 288))
  | 0x011 => BitVec.ofNat 64 p.time
  | 0x018 => BitVec.ofNat 64 (st.idx * 2 ^ 15 + st.core / 576 * 2 ^ 12 + st.core / 24 % 24 * 2 ^ 7 + st.core % 24 * 4 + st.sn)
  | 0x019 => BitVec.ofNat 64 (c.index % 2 ^ 32 + st.core / 24 * 2 ^ 32)
  | 0x01A => BitVec.ofNat 64 (l.lid + l.queue * 2 ^ 32)
  | _ => 0

/-- Write the writable bits of control register n (R62, R234); DCSR is set. In STATUS, RETN is read-only; SUP can only
be cleared, and only while it is 1. -/
def csrWrite (st : Strand) (n : Nat) (v : X) : Strand :=
  let st := st.mark 16
  match n with
  | 0x000 => { st with sup := st.sup && v.getLsbD 7, inh := v.getLsbD 6 }
  | 0x001 => { st with tcause := v.setWidth 8 }
  | 0x002 => { st with tpc := (v.setWidth 48) &&& ~~~ 3#48 }
  | 0x003 => { st with tval := v }
  | 0x004 => { st with tstat := v.setWidth 10 }
  | 0x005 => { st with tvec := (v.setWidth 48) &&& ~~~ 3#48 }
  | 0x006 => { st with tscr := v }
  | _ => st

/-- The privilege check of a write of v to control register n (R234, R382). -/
def csrPriv (st : Strand) (n : Nat) (v : X) : Option Stop :=
  let ro := 0x007 ≤ n
  let tvec := n == 5 && !st.sup
  let sup := n == 0 && !st.sup && v.getLsbD 7
  if ro || tvec || sup then some (.trap 0x07 (BitVec.ofNat 64 n)) else none

/-- A control register instruction (R234): the old value is the result; wr answers the value written, none for no write. -/
def csrOp (i : Instr) (o : SImm) (wr : X → X → Option X) (s : State) : Out :=
  let n := o.imm.toNat
  onSlot i (fun _ => [])
    (fun st => match wr (csrRead s.pkg st n) (st.src o.a o.la) with
      | some v => csrPriv st n v
      | none => none)
    (fun st =>
      let old := csrRead s.pkg st n
      match wr old (st.src o.a o.la) with
      | some v => (csrWrite st n v).result o.d o.nw old
      | none => st.result o.d o.nw old) s

/-- CSRR (R234). -/
def execCsrr (o : SImm) (s : State) : Out := csrOp (.csrr o) o (fun _ _ => none) s

/-- CSRW (R234): always writes. -/
def execCsrw (o : SImm) (s : State) : Out := csrOp (.csrw o) o (fun _ a => some a) s

/-- CSRS (R234): no write when xa is 0. -/
def execCsrs (o : SImm) (s : State) : Out := csrOp (.csrs o) o (fun old a => if a = 0 then none else some (old ||| a)) s

/-- CSRC (R234): no write when xa is 0. -/
def execCsrc (o : SImm) (s : State) : Out := csrOp (.csrc o) o (fun old a => if a = 0 then none else some (old &&& ~~~ a)) s

/-! ### Scale registers (R53, R236) -/

def eSats (e : BitVec 16) : Bool := e.getLsbD 15
def eCv (e : BitVec 16) : Bool := e.getLsbD 14
def eCensus (e : BitVec 16) : Nat := bits e 13 8
def eExp (e : BitVec 16) : Int := sextN 8 e.toNat

/-- An instruction that writes e[d]: its new value, zero-extended, goes to L0. -/
def eOp (i : Instr) (o : SReg) (f : Strand → BitVec 16) (s : State) : Out :=
  onSlot i (fun _ => []) noPv (fun st => (st.setE o.d.toNat (f st)).setL 0 ((f st).setWidth 512)) s

/-- ESET (R236). -/
def execEset (o : SReg) (s : State) : Out := eOp (.eset o) o (fun st => (st.src o.a o.la).setWidth 16) s

/-- EGET (R236). -/
def execEget (o : SReg) (s : State) : Out := sOp (.eget o) o.d o.nw (fun st => (st.getE o.a.toNat).setWidth 64) s

/-- The shift count of ECENS: the census, or 0 without one, less the margin, not below 0. -/
def ecensCount (e : BitVec 16) (margin : Nat) : Nat := (if eCv e then eCensus e else 0) - margin

/-- ECENS (R236): the count, and without keep a fresh census. -/
def execEcens (o : SReg) (s : State) : Out :=
  onSlot (.ecens o) (fun _ => []) noPv (fun st =>
    let e := st.getE o.a.toNat
    let r := BitVec.ofNat 64 (ecensCount e (o.sub.toNat % 32))
    let st := if o.sub.getLsbD 5 then st else st.setE o.a.toNat (setBits e 14 8 0)
    st.result o.d o.nw r) s

/-- EADD (R236): the exponent saturates at s8, and a clamp sets SATS of e[d]. -/
def eaddVal (ed ea : BitVec 16) (b : X) : BitVec 16 :=
  let t := eExp ea + b.toInt
  let n := satTo true 8 t
  let e := setBits ed 7 0 (wrapBits 8 n)
  if n = t then e else setBits e 15 15 1

def execEadd (o : SReg) (s : State) : Out :=
  eOp (.eadd o) o (fun st => eaddVal (st.getE o.d.toNat) (st.getE o.a.toNat) (st.src o.b o.lb)) s

/-- ECOPY (R236): all 16 bits, SATS among them; R72's one way to clear SATS is not read as shielding it here (assumption 80). -/
def execEcopy (o : SReg) (s : State) : Out := eOp (.ecopy o) o (fun st => st.getE o.a.toNat) s

end Sys2Proof.Machine
end

