-- ==== Sys2Proof/Machine/Vector.lean ====
section
/-! DEFINITION. The V slots (13, R245 to R268): one meaning per instruction over a few shared forms of lane loop. -/

namespace Sys2Proof.Machine

/-- Source k of a slot, in the field order of the fields it reads. -/
def srcAt (l : List Src) (k : Nat) : Src := l.getD k { l0 := false, val := 0 }

/-- Lane i of width w is active under mask bits m (R44). -/
def laneOn (m : X) (w i : Nat) : Bool := if w = 4 then m.getLsbD (i / 2) else m.getLsbD i

/-- A result of n lanes of w bits: active lanes take f, the others their old value (R246). -/
def lanesOut (m : X) (w n : Nat) (old : V) (f : Nat → Nat) : V :=
  ofLanes w n (fun i => if laneOn m w i then f i else laneOf old w i)

/-- A V slot: its sources are read when it executes (R247). -/
def vSlot (i : Instr) (eff : Strand → List Src → Strand) (s : State) : Out :=
  onSlot i (fun _ => []) noPv (fun st => eff st (st.srcs (foot i).vr)) s

/-- The rec role (R249): lane values v and saturation marks over lanes stored in the format (sg, w). -/
def recEff (o : VOps) (sg : Bool) (w : Nat) (f : List Src → Nat → Int × Bool) (st : Strand) (l : List Src) : Strand :=
  let m := st.getM o.mask.toNat
  let n := 512 / w
  let on := (List.range n).filter (laneOn m w)
  let v := lanesOut m w n (st.old o.d) (fun i => wrapBits w (f l i).1)
  let st := st.satsIf o.e.toNat (on.any (fun i => (f l i).2))
  let st := st.census o.e.toNat (on.map (fun i => rsb sg w (f l i).1))
  st.vresult o.d o.nw v

/-- A rec instruction on lanes of its type. -/
def recOp (i : Instr) (o : VOps) (f : List Src → Nat → Int × Bool) (s : State) : Out :=
  vSlot i (recEff o (tySigned o.ty.toNat) (tyW o.ty.toNat) f) s

/-- SAT(v, type) with its saturation mark. -/
def satP (t : Nat) (v : Int) : Int × Bool :=
  let n := satTo (tySigned t) (tyW t) v
  (n, n != v)

/-- WRAP(v, type), read in the type; never marked. -/
def wrapP (t : Nat) (v : Int) : Int × Bool := (readFmt (tySigned t) (tyW t) (wrapBits (tyW t) v), false)

/-- An instruction that moves or computes bits in each active lane, with no record. -/
def bitOp (i : Instr) (o : VOps) (f : List Src → Nat → Nat) (s : State) : Out :=
  vSlot i (fun st l =>
    let w := tyW o.ty.toNat
    st.vresult o.d o.nw (lanesOut (st.getM o.mask.toNat) w (512 / w) (st.old o.d) (f l))) s

/-- An instruction whose mask selects inputs and which writes its whole result. -/
def wholeOp (i : Instr) (o : VOps) (f : Strand → X → List Src → V) (s : State) : Out :=
  vSlot i (fun st l => st.vresult o.d o.nw (f st (st.getM o.mask.toNat) l)) s

/-- KEY(i) of R254 from the keys in source k. -/
def keyOf (s : Src) (i : Nat) : Nat := (s.lane 32 (i % 16) + 16 * (i / 16)) % 2 ^ 32

/-- A 64-bit result in bits [63:0], 0 above (R259, R260). -/
def low64 (v : Int) : V := (wrapX v).setWidth 512

/-- VNOP (R251): issues nothing; NOP is left in its sticky word when the issue ends. -/
def execVnop (o : VOps) (s : State) : Out := onSlot (.vnop o) (fun _ => []) noPv (fun st => st) s

/-- VMOV (R251). -/
def execVmov (o : VOps) (s : State) : Out := bitOp (.vmov o) o (fun l i => (srcAt l 0).lane (tyW o.ty.toNat) i) s

/-- VADD (R252). -/
def execVadd (o : VOps) (s : State) : Out :=
  let t := o.ty.toNat
  recOp (.vadd o) o (fun l i =>
    let a := (srcAt l 0).elt t i
    let b := (srcAt l 1).elt t i
    wrapP t (a + b)) s

/-- VSUB (R252). -/
def execVsub (o : VOps) (s : State) : Out :=
  let t := o.ty.toNat
  recOp (.vsub o) o (fun l i =>
    let a := (srcAt l 0).elt t i
    let b := (srcAt l 1).elt t i
    wrapP t (a - b)) s

/-- VADDS (R252). -/
def execVadds (o : VOps) (s : State) : Out :=
  let t := o.ty.toNat
  recOp (.vadds o) o (fun l i =>
    let a := (srcAt l 0).elt t i
    let b := (srcAt l 1).elt t i
    satP t (a + b)) s

/-- VSUBS (R252). -/
def execVsubs (o : VOps) (s : State) : Out :=
  let t := o.ty.toNat
  recOp (.vsubs o) o (fun l i =>
    let a := (srcAt l 0).elt t i
    let b := (srcAt l 1).elt t i
    satP t (a - b)) s

/-- VNEG (R252). -/
def execVneg (o : VOps) (s : State) : Out :=
  let t := o.ty.toNat
  recOp (.vneg o) o (fun l i =>
    let a := (srcAt l 0).elt t i
    satP t (-a)) s

/-- VABS (R252). -/
def execVabs (o : VOps) (s : State) : Out :=
  let t := o.ty.toNat
  recOp (.vabs o) o (fun l i =>
    let a := (srcAt l 0).elt t i
    satP t |a|) s

/-- VMUL (R252). -/
def execVmul (o : VOps) (s : State) : Out :=
  let t := o.ty.toNat
  recOp (.vmul o) o (fun l i =>
    let a := (srcAt l 0).elt t i
    let b := (srcAt l 1).elt t i
    wrapP t (a * b)) s

/-- VMULH (R252). -/
def execVmulh (o : VOps) (s : State) : Out :=
  let t := o.ty.toNat
  recOp (.vmulh o) o (fun l i =>
    let a := (srcAt l 0).elt t i
    let b := (srcAt l 1).elt t i
    (asr (a * b) (tyW t), false)) s

/-- VMULQ (R252). -/
def execVmulq (o : VOps) (s : State) : Out :=
  let t := o.ty.toNat
  recOp (.vmulq o) o (fun l i =>
    let a := (srcAt l 0).elt t i
    let b := (srcAt l 1).elt t i
    satP t (rne (a * b) (if tySigned t then (tyW t : Int) - 1 else tyW t))) s

/-- VMAC (R252). -/
def execVmac (o : VOps) (s : State) : Out :=
  let t := o.ty.toNat
  recOp (.vmac o) o (fun l i =>
    let a := (srcAt l 0).elt t i
    let b := (srcAt l 1).elt t i
    let c := (srcAt l 2).elt t i
    wrapP t (a * b + c)) s

/-- VMACS (R252). -/
def execVmacs (o : VOps) (s : State) : Out :=
  let t := o.ty.toNat
  recOp (.vmacs o) o (fun l i =>
    let a := (srcAt l 0).elt t i
    let b := (srcAt l 1).elt t i
    let c := (srcAt l 2).elt t i
    satP t (a * b + c)) s

/-- VMIN (R252). -/
def execVmin (o : VOps) (s : State) : Out :=
  let t := o.ty.toNat
  recOp (.vmin o) o (fun l i =>
    let a := (srcAt l 0).elt t i
    let b := (srcAt l 1).elt t i
    (min a b, false)) s

/-- VMAX (R252). -/
def execVmax (o : VOps) (s : State) : Out :=
  let t := o.ty.toNat
  recOp (.vmax o) o (fun l i =>
    let a := (srcAt l 0).elt t i
    let b := (srcAt l 1).elt t i
    (max a b, false)) s

/-- VAVG (R252). -/
def execVavg (o : VOps) (s : State) : Out :=
  let t := o.ty.toNat
  recOp (.vavg o) o (fun l i =>
    let a := (srcAt l 0).elt t i
    let b := (srcAt l 1).elt t i
    (asr (a + b + 1) 1, false)) s

/-- VABSD (R252). -/
def execVabsd (o : VOps) (s : State) : Out :=
  let t := o.ty.toNat
  recOp (.vabsd o) o (fun l i =>
    let a := (srcAt l 0).elt t i
    let b := (srcAt l 1).elt t i
    satP t |a - b|) s

/-- VDIV (R252). -/
def execVdiv (o : VOps) (s : State) : Out :=
  let t := o.ty.toNat
  recOp (.vdiv o) o (fun l i =>
    let a := (srcAt l 0).elt t i
    let b := (srcAt l 1).elt t i
    divQuot (tySigned t) (tyW t) a b) s

/-- VSHL (R253). -/
def execVshl (o : VOps) (s : State) : Out :=
  let t := o.ty.toNat
  recOp (.vshl o) o (fun l i =>
    let a := (srcAt l 0).elt t i
    let n := (srcAt l 1).lane (tyW t) i
    wrapP t (if tyW t ≤ n then 0 else shlI a n)) s

/-- VSHR (R253). -/
def execVshr (o : VOps) (s : State) : Out :=
  let t := o.ty.toNat
  recOp (.vshr o) o (fun l i =>
    let a := (srcAt l 0).elt t i
    let n := (srcAt l 1).lane (tyW t) i
    wrapP t (if tyW t ≤ n then 0 else ((wrapBits (tyW t) a / 2 ^ n : Nat) : Int))) s

/-- VSHA (R253). -/
def execVsha (o : VOps) (s : State) : Out :=
  let t := o.ty.toNat
  recOp (.vsha o) o (fun l i =>
    let a := (srcAt l 0).elt t i
    let n := (srcAt l 1).lane (tyW t) i
    (trunc a n, false)) s

/-- VSHRR (R253). -/
def execVshrr (o : VOps) (s : State) : Out :=
  let t := o.ty.toNat
  recOp (.vshrr o) o (fun l i =>
    let a := (srcAt l 0).elt t i
    let n := (srcAt l 1).lane (tyW t) i
    satP t (rne a n)) s

/-- VSHRS (R253). -/
def execVshrs (o : VOps) (s : State) : Out :=
  let t := o.ty.toNat
  recOp (.vshrs o) o (fun l i =>
    let a := (srcAt l 0).elt t i
    let n := (srcAt l 1).lane (tyW t) i
    satP t (stoch a n (keyOf (srcAt l 2) i))) s

/-- VSHLS (R253). -/
def execVshls (o : VOps) (s : State) : Out :=
  let t := o.ty.toNat
  recOp (.vshls o) o (fun l i =>
    let a := (srcAt l 0).elt t i
    let n := (srcAt l 1).lane (tyW t) i
    satP t (shlI a n)) s

/-- VNORM (R253). -/
def execVnorm (o : VOps) (s : State) : Out :=
  let t := o.ty.toNat
  recOp (.vnorm o) o (fun l i =>
    let a := (srcAt l 0).elt t i
    let n := (srcAt l 1).lane (tyW t) i
    let c := readFmt true (tyW t) n
    if 0 < c then satP t (shlI a c.toNat) else if c < 0 then satP t (rne a (-c)) else (a, false)) s

/-- VCENS (R255): a census of the active lanes; no register, no latch, no SATS. -/
def execVcens (o : VOps) (s : State) : Out :=
  vSlot (.vcens o) (fun st l =>
    let t := o.ty.toNat
    let on := (List.range (tyN t)).filter (laneOn (st.getM o.mask.toNat) (tyW t))
    st.census o.e.toNat (on.map (fun i => rsb (tySigned t) (tyW t) ((srcAt l 0).elt t i)))) s

/-! ### Logic, compares and selection (R256, R257) -/

/-- VAND (R256). -/
def execVand (o : VOps) (s : State) : Out :=
  let w := tyW o.ty.toNat
  bitOp (.vand o) o (fun l i =>
    let a := (srcAt l 0).lane w i
    let b := (srcAt l 1).lane w i
    a &&& b) s

/-- VOR (R256). -/
def execVor (o : VOps) (s : State) : Out :=
  let w := tyW o.ty.toNat
  bitOp (.vor o) o (fun l i =>
    let a := (srcAt l 0).lane w i
    let b := (srcAt l 1).lane w i
    a ||| b) s

/-- VXOR (R256). -/
def execVxor (o : VOps) (s : State) : Out :=
  let w := tyW o.ty.toNat
  bitOp (.vxor o) o (fun l i =>
    let a := (srcAt l 0).lane w i
    let b := (srcAt l 1).lane w i
    a ^^^ b) s

/-- VANDN (R256). -/
def execVandn (o : VOps) (s : State) : Out :=
  let w := tyW o.ty.toNat
  bitOp (.vandn o) o (fun l i =>
    let a := (srcAt l 0).lane w i
    let b := (srcAt l 1).lane w i
    a &&& (2 ^ w - 1 - b)) s

/-- VNOT (R256). -/
def execVnot (o : VOps) (s : State) : Out :=
  let w := tyW o.ty.toNat
  bitOp (.vnot o) o (fun l i =>
    let a := (srcAt l 0).lane w i
    2 ^ w - 1 - a) s

/-- VSEL (R256). -/
def execVsel (o : VOps) (s : State) : Out :=
  let w := tyW o.ty.toNat
  bitOp (.vsel o) o (fun l i =>
    let a := (srcAt l 0).lane w i
    let b := (srcAt l 1).lane w i
    let c := (srcAt l 2).lane w i
    if c = 0 then b else a) s

/-- VPOPC (R256). -/
def execVpopc (o : VOps) (s : State) : Out :=
  let w := tyW o.ty.toNat
  bitOp (.vpopc o) o (fun l i =>
    let a := (srcAt l 0).lane w i
    ((List.range w).filter (fun j => a.testBit j)).length) s

/-- VCLZ (R256). -/
def execVclz (o : VOps) (s : State) : Out :=
  let w := tyW o.ty.toNat
  bitOp (.vclz o) o (fun l i =>
    let a := (srcAt l 0).lane w i
    clzW w a) s

/-- VCLAMP (R256). -/
def execVclamp (o : VOps) (s : State) : Out :=
  let t := o.ty.toNat
  recOp (.vclamp o) o (fun l i =>
    let a := (srcAt l 0).elt t i
    let b := (srcAt l 1).elt t i
    let c := (srcAt l 2).elt t i
    (min (max a b) c, false)) s

/-- The mask word of a compare (R257): bit i is the result of the lane it governs, for s4 and z4 the AND of both;
inactive bits keep their old value, bits beyond the lanes are 0. -/
def cmpMask (old m : X) (w : Nat) (r : Nat → Bool) : X :=
  let nb := if w = 4 then 64 else 512 / w
  BitVec.ofNat 64 ((List.range nb).foldl (fun acc i =>
    let b := if m.getLsbD i then (if w = 4 then r (2 * i) && r (2 * i + 1) else r i) else old.getLsbD i
    if b then acc + 2 ^ i else acc) 0)

/-- A lane compare: all ones or 0 in each active lane, and with e[3] a mask register too. -/
def vcmpOp (i : Instr) (o : VOps) (r : Int → Int → Bool) (s : State) : Out :=
  vSlot i (fun st l =>
    let t := o.ty.toNat
    let w := tyW t
    let m := st.getM o.mask.toNat
    let rel (j : Nat) : Bool := r ((srcAt l 0).elt t j) ((srcAt l 1).elt t j)
    let v := lanesOut m w (512 / w) (st.old o.d) (fun j => if rel j then 2 ^ w - 1 else 0)
    let k := o.e.toNat % 8
    let st := if o.e.getLsbD 3 then st.setM k (cmpMask (st.getM k) m w rel) else st
    st.vresult o.d o.nw v) s

/-- VCMPEQ (R257). -/
def execVcmpeq (o : VOps) (s : State) : Out := vcmpOp (.vcmpeq o) o (fun a b => a == b) s
/-- VCMPNE (R257). -/
def execVcmpne (o : VOps) (s : State) : Out := vcmpOp (.vcmpne o) o (fun a b => a != b) s
/-- VCMPLT (R257). -/
def execVcmplt (o : VOps) (s : State) : Out := vcmpOp (.vcmplt o) o (fun a b => decide (a < b)) s
/-- VCMPLE (R257). -/
def execVcmple (o : VOps) (s : State) : Out := vcmpOp (.vcmple o) o (fun a b => decide (a ≤ b)) s

/-! ### Permutes (R258, R259) -/

/-- VSPLAT (R258). -/
def execVsplat (o : VOps) (s : State) : Out :=
  let w := tyW o.ty.toNat
  bitOp (.vsplat o) o (fun l _ => (srcAt l 0).lane w ((srcAt l 1).lane w 0 % (512 / w))) s

/-- VIOTA (R258): stride e + 1. -/
def execViota (o : VOps) (s : State) : Out :=
  let w := tyW o.ty.toNat
  bitOp (.viota o) o (fun l i => ((srcAt l 0).lane w 0 + i * (o.e.toNat + 1)) % 2 ^ w) s

/-- VINS (R258). -/
def execVins (o : VOps) (s : State) : Out :=
  let w := tyW o.ty.toNat
  bitOp (.vins o) o (fun l i =>
    if i = (srcAt l 1).lane w 0 % (512 / w) then (srcAt l 0).lane w 0 else (srcAt l 2).lane w i) s

/-- VPERM (R258). -/
def execVperm (o : VOps) (s : State) : Out :=
  let w := tyW o.ty.toNat
  let n := 512 / w
  bitOp (.vperm o) o (fun l i =>
    let j := (srcAt l 1).lane w i % (2 * n)
    if j < n then (srcAt l 0).lane w j else (srcAt l 2).lane w (j - n)) s

/-- VSLIDE (R258). -/
def execVslide (o : VOps) (s : State) : Out :=
  let w := tyW o.ty.toNat
  let n := 512 / w
  bitOp (.vslide o) o (fun l i =>
    let d := (srcAt l 2).lane w 0 % (2 * n)
    if i + d < n then (srcAt l 0).lane w (i + d)
    else if i + d < 2 * n then (srcAt l 1).lane w (i + d - n) else 0) s

/-- VZIP (R258): half in e[0]. -/
def execVzip (o : VOps) (s : State) : Out :=
  let w := tyW o.ty.toNat
  let n := 512 / w
  bitOp (.vzip o) o (fun l i =>
    let j := i / 2 + o.e.toNat % 2 * (n / 2)
    if i % 2 = 0 then (srcAt l 0).lane w j else (srcAt l 1).lane w j) s

/-- VUNZIP (R258): odd in e[0]. -/
def execVunzip (o : VOps) (s : State) : Out :=
  let w := tyW o.ty.toNat
  let n := 512 / w
  bitOp (.vunzip o) o (fun l i =>
    let j := 2 * i + o.e.toNat % 2
    if j < n then (srcAt l 0).lane w j else (srcAt l 1).lane w (j - n)) s

/-- VEXT (R259): one element, extended to 64 bits; the whole register is written. -/
def execVext (o : VOps) (s : State) : Out :=
  let t := o.ty.toNat
  wholeOp (.vext o) o (fun _ _ l => low64 ((srcAt l 0).elt t ((srcAt l 1).lane (tyW t) 0 % tyN t))) s

/-! ### Reductions and scans (R260, R261) -/

/-- The active elements of source 0. -/
def activeElts (t : Nat) (m : X) (s : Src) : List Int :=
  ((List.range (tyN t)).filter (laneOn m (tyW t))).map (fun i => s.elt t i)

/-- VREDADD (R260): exact sum and the carried total, saturated once at s64; SATS only. -/
def execVredadd (o : VOps) (s : State) : Out :=
  vSlot (.vredadd o) (fun st l =>
    let sum := readFmt true 64 ((srcAt l 1).lane 64 0) + (activeElts o.ty.toNat (st.getM o.mask.toNat) (srcAt l 0)).sum
    let n := satTo true 64 sum
    (st.satsIf o.e.toNat (n != sum)).vresult o.d o.nw (low64 n)) s

/-- VREDMAX (R260). -/
def execVredmax (o : VOps) (s : State) : Out :=
  let t := o.ty.toNat
  wholeOp (.vredmax o) o (fun _ m l =>
    low64 ((activeElts t m (srcAt l 0)).foldl max (fmtMin (tySigned t) (tyW t)))) s

/-- VREDMIN (R260). -/
def execVredmin (o : VOps) (s : State) : Out :=
  let t := o.ty.toNat
  wholeOp (.vredmin o) o (fun _ m l =>
    low64 ((activeElts t m (srcAt l 0)).foldl min (fmtMax (tySigned t) (tyW t)))) s

/-- VMCOUNT (R260): active lanes. -/
def execVmcount (o : VOps) (s : State) : Out :=
  let t := o.ty.toNat
  wholeOp (.vmcount o) o (fun _ m _ => low64 ((List.range (tyN t)).filter (laneOn m (tyW t))).length) s

/-- VSCAN (R261): each exact partial sum saturated on its own. -/
def execVscan (o : VOps) (s : State) : Out :=
  let t := o.ty.toNat
  vSlot (.vscan o) (fun st l =>
    let m := st.getM o.mask.toNat
    let base := (srcAt l 1).elt t 0
    let part (i : Nat) : Int :=
      base + (((List.range (i + 1)).filter (laneOn m (tyW t))).map (fun j => (srcAt l 0).elt t j)).sum
    recEff o (tySigned t) (tyW t) (fun _ i => satP t (part i)) st l) s

/-! ### Function routines (R262): results and census in s32 -/

/-- The shift operand: lane i as s32, clamped to -64 to 127. -/
def clampShift (s : Src) (i : Nat) : Int := max (-64) (min 127 (s.elt 6 i))

/-- VEXP2Q (R83, R262). -/
def execVexp2q (o : VOps) (s : State) : Out :=
  vSlot (.vexp2q o) (recEff o true 32 (fun l i => exp2Q16 ((srcAt l 0).elt 6 i))) s

/-- VLOG2Q (R84, R262): stored as s32. -/
def execVlog2q (o : VOps) (s : State) : Out :=
  vSlot (.vlog2q o) (recEff o true 32 (fun l i => log2Q16 ((srcAt l 0).elt 7 i))) s

/-- VRCPQ (R85, R262). -/
def execVrcpq (o : VOps) (s : State) : Out :=
  vSlot (.vrcpq o) (recEff o true 32 (fun l i => rcp ((srcAt l 0).elt 6 i) (clampShift (srcAt l 1) i))) s

/-- VRSQQ (R86, R262). -/
def execVrsqq (o : VOps) (s : State) : Out :=
  vSlot (.vrsqq o) (recEff o true 32 (fun l i => rsq ((srcAt l 0).elt 6 i) (clampShift (srcAt l 1) i))) s

/-- VDIVQ (R85, R262). -/
def execVdivq (o : VOps) (s : State) : Out :=
  vSlot (.vdivq o) (recEff o true 32 (fun l i =>
    divq ((srcAt l 0).elt 6 i) ((srcAt l 1).elt 6 i) (clampShift (srcAt l 2) i))) s

/-! ### Signature hash, mixing, imposition maps (R263 to R265) -/

/-- The running sum j of VHASH before its saturation (R263). -/
def hashSum (t : Nat) (m : X) (a b c : Src) (j : Nat) : Int :=
  let k0 := b.lane 32 0
  let seed := b.lane 32 1
  (List.range (tyN t)).foldl (fun s k =>
    if laneOn m (tyW t) k then s + sigTerm seed (k0 + k) j (a.elt t k) else s) (c.elt 6 j)

/-- VHASH (R263). -/
def execVhash (o : VOps) (s : State) : Out :=
  let t := o.ty.toNat
  let h := o.e.toNat % 16
  wholeOp (.vhash o) o (fun _ m l =>
    let r (j : Nat) : Int := if j < h then satTo true 32 (hashSum t m (srcAt l 0) (srcAt l 1) (srcAt l 2) j) else 0
    let code := ((List.range h).map (fun j => if r j < 0 then 2 ^ j else 0)).sum
    ofLanes 32 16 (fun j => if j = 15 ∧ o.e.getLsbD 4 then code else wrapBits 32 (r j))) s

/-- VMIX (R264). -/
def execVmix (o : VOps) (s : State) : Out := bitOp (.vmix o) o (fun l i => mix32 ((srcAt l 0).lane 32 i)) s

/-- IDX(i): byte i of the index source (R265). -/
def idxOf (b : Src) (i : Nat) : Nat := b.lane 8 i

/-- Lane i belongs to representative q of window W: it is active and IDX(i) = W·n + q. -/
def belongs (t : Nat) (m : X) (b : Src) (win i q : Nat) : Bool := laneOn m (tyW t) i && idxOf b i == win * tyN t + q

/-- VSEGSUM (R265). -/
def execVsegsum (o : VOps) (s : State) : Out :=
  let t := o.ty.toNat
  wholeOp (.vsegsum o) o (fun _ m l =>
    ofLanes (tyW t) (tyN t) (fun q =>
      let mem := (List.range (tyN t)).filter (fun i => belongs t m (srcAt l 1) (o.e.toNat % 16) i q)
      wrapBits (tyW t) (satTo (tySigned t) (tyW t)
        ((srcAt l 2).elt t q + (mem.map (fun i => (srcAt l 0).elt t i)).sum)))) s

/-- VMAPSCAT (R265): a[q], or a[q] shared over c[q] members. -/
def execVmapscat (o : VOps) (s : State) : Out :=
  let t := o.ty.toNat
  let w := tyW t
  let n := tyN t
  let win := o.e.toNat % 16
  vSlot (.vmapscat o) (fun st l =>
    let m := st.getM o.mask.toNat
    let old := st.old o.d
    let val (q : Nat) : Int :=
      if o.e.getLsbD 4 then
        let a := (srcAt l 0).elt t q
        let c := (srcAt l 2).elt t q
        if c ≤ 0 then 0 else (a + c / 2) / c
      else (srcAt l 0).elt t q
    st.vresult o.d o.nw (ofLanes w n (fun i =>
      let x := idxOf (srcAt l 1) i
      if laneOn m w i ∧ win * n ≤ x ∧ x < win * n + n then wrapBits w (val (x - win * n)) else laneOf old w i))) s

/-- VMAPCNT (R265): member counts. -/
def execVmapcnt (o : VOps) (s : State) : Out :=
  let t := o.ty.toNat
  wholeOp (.vmapcnt o) o (fun _ m l =>
    ofLanes (tyW t) (tyN t) (fun q =>
      let k := ((List.range (tyN t)).filter (fun i => belongs t m (srcAt l 0) (o.e.toNat % 16) i q)).length
      wrapBits (tyW t) (satTo (tySigned t) (tyW t) ((srcAt l 1).elt t q + k)))) s

/-- VMAPCNT, first-row form (R265): flags the lanes whose index exceeds every earlier active one and the carry. -/
def execVmapcntFirst (o : VOps) (s : State) : Out :=
  let t := o.ty.toNat
  let w := tyW t
  vSlot (.vmapcntFirst o) (fun st l =>
    let m := st.getM o.mask.toNat
    let carry (i : Nat) : Int :=
      ((List.range i).filter (laneOn m w)).foldl (fun c j => max c (idxOf (srcAt l 0) j)) ((srcAt l 1).elt 6 0)
    st.vresult o.d o.nw (lanesOut m w (512 / w) (st.old o.d) (fun i =>
      if (idxOf (srcAt l 0) i : Int) > carry i then 2 ^ w - 1 else 0))) s

/-! ### Conversions (R267, R268) -/

/-- VCVT (R267): a read in the other signedness. -/
def execVcvt (o : VOps) (s : State) : Out :=
  let t := o.ty.toNat
  recOp (.vcvt o) o (fun l i => satP t (readFmt (!tySigned t) (tyW t) ((srcAt l 0).lane (tyW t) i))) s

/-- VPACK (R267): a and b read as s of twice the width. -/
def execVpack (o : VOps) (s : State) : Out :=
  let t := o.ty.toNat
  let w2 := 2 * tyW t
  let h := tyN t / 2
  recOp (.vpack o) o (fun l i =>
    satP t (if i < h then readFmt true w2 ((srcAt l 0).lane w2 i) else readFmt true w2 ((srcAt l 1).lane w2 (i - h)))) s

/-- VUNPK (R267): half a register, widened to s of twice the width; the mask governs the wide lanes. -/
def execVunpk (o : VOps) (s : State) : Out :=
  let t := o.ty.toNat
  let w2 := 2 * tyW t
  let h := tyN t / 2
  vSlot (.vunpk o) (fun st l =>
    st.vresult o.d o.nw (lanesOut (st.getM o.mask.toNat) w2 h (st.old o.d) (fun i =>
      wrapBits w2 ((srcAt l 0).elt t (o.e.toNat % 2 * h + i))))) s

/-- VQUANT (R268): STOCH, then SAT to the range of t, stored as s32 lanes. -/
def execVquant (o : VOps) (s : State) : Out :=
  let t := o.ty.toNat
  vSlot (.vquant o) (recEff o true 32 (fun l i =>
    satP t (stoch ((srcAt l 0).elt 6 i) ((srcAt l 1).lane 32 i) (keyOf (srcAt l 2) i)))) s

end Sys2Proof.Machine
end

