-- ==== Sys2Proof/Machine/Dispatch.lean ====
section
/-! DEFINITION. The meaning of each instruction and event, one arm for each. -/

namespace Sys2Proof.Machine

/-- Run one slot instruction, or let one event happen. -/
def exec (i : Instr) (s : State) : Host.Outcome State Fault Refusal :=
  match i with
  | .add o => Sys2Proof.Machine.execAdd o s
  | .sub o => Sys2Proof.Machine.execSub o s
  | .and o => Sys2Proof.Machine.execAnd o s
  | .or o => Sys2Proof.Machine.execOr o s
  | .xor o => Sys2Proof.Machine.execXor o s
  | .andn o => Sys2Proof.Machine.execAndn o s
  | .shl o => Sys2Proof.Machine.execShl o s
  | .shr o => Sys2Proof.Machine.execShr o s
  | .sha o => Sys2Proof.Machine.execSha o s
  | .rol o => Sys2Proof.Machine.execRol o s
  | .mul o => Sys2Proof.Machine.execMul o s
  | .mulh o => Sys2Proof.Machine.execMulh o s
  | .mulhz o => Sys2Proof.Machine.execMulhz o s
  | .div o => Sys2Proof.Machine.execDiv o s
  | .divz o => Sys2Proof.Machine.execDivz o s
  | .rem o => Sys2Proof.Machine.execRem o s
  | .remz o => Sys2Proof.Machine.execRemz o s
  | .min o => Sys2Proof.Machine.execMin o s
  | .max o => Sys2Proof.Machine.execMax o s
  | .minz o => Sys2Proof.Machine.execMinz o s
  | .maxz o => Sys2Proof.Machine.execMaxz o s
  | .adds o => Sys2Proof.Machine.execAdds o s
  | .subs o => Sys2Proof.Machine.execSubs o s
  | .clz o => Sys2Proof.Machine.execClz o s
  | .ctz o => Sys2Proof.Machine.execCtz o s
  | .popc o => Sys2Proof.Machine.execPopc o s
  | .sext o => Sys2Proof.Machine.execSext o s
  | .zext o => Sys2Proof.Machine.execZext o s
  | .bfx o => Sys2Proof.Machine.execBfx o s
  | .bfxz o => Sys2Proof.Machine.execBfxz o s
  | .bfi o => Sys2Proof.Machine.execBfi o s
  | .mov o => Sys2Proof.Machine.execMov o s
  | .addi o => Sys2Proof.Machine.execAddi o s
  | .andi o => Sys2Proof.Machine.execAndi o s
  | .ori o => Sys2Proof.Machine.execOri o s
  | .xori o => Sys2Proof.Machine.execXori o s
  | .shli o => Sys2Proof.Machine.execShli o s
  | .shri o => Sys2Proof.Machine.execShri o s
  | .shai o => Sys2Proof.Machine.execShai o s
  | .roli o => Sys2Proof.Machine.execRoli o s
  | .muli o => Sys2Proof.Machine.execMuli o s
  | .mini o => Sys2Proof.Machine.execMini o s
  | .maxi o => Sys2Proof.Machine.execMaxi o s
  | .movi o => Sys2Proof.Machine.execMovi o s
  | .lih o => Sys2Proof.Machine.execLih o s
  | .movw o => Sys2Proof.Machine.execMovw o s
  | .movd o => Sys2Proof.Machine.execMovd o s
  | .addw o => Sys2Proof.Machine.execAddw o s
  | .csrr o => Sys2Proof.Machine.execCsrr o s
  | .csrw o => Sys2Proof.Machine.execCsrw o s
  | .csrs o => Sys2Proof.Machine.execCsrs o s
  | .csrc o => Sys2Proof.Machine.execCsrc o s
  | .eset o => Sys2Proof.Machine.execEset o s
  | .eget o => Sys2Proof.Machine.execEget o s
  | .ecens o => Sys2Proof.Machine.execEcens o s
  | .eadd o => Sys2Proof.Machine.execEadd o s
  | .ecopy o => Sys2Proof.Machine.execEcopy o s
  | .br o => Sys2Proof.Machine.execBr o s
  | .brl o => Sys2Proof.Machine.execBrl o s
  | .jr o => Sys2Proof.Machine.execJr o s
  | .jrl o => Sys2Proof.Machine.execJrl o s
  | .loop o => Sys2Proof.Machine.execLoop o s
  | .cmpeq o => Sys2Proof.Machine.execCmpeq o s
  | .cmpne o => Sys2Proof.Machine.execCmpne o s
  | .cmplt o => Sys2Proof.Machine.execCmplt o s
  | .cmple o => Sys2Proof.Machine.execCmple o s
  | .cmpltz o => Sys2Proof.Machine.execCmpltz o s
  | .cmplez o => Sys2Proof.Machine.execCmplez o s
  | .cmpeqi o => Sys2Proof.Machine.execCmpeqi o s
  | .cmpnei o => Sys2Proof.Machine.execCmpnei o s
  | .cmplti o => Sys2Proof.Machine.execCmplti o s
  | .cmplei o => Sys2Proof.Machine.execCmplei o s
  | .pand o => Sys2Proof.Machine.execPand o s
  | .por o => Sys2Proof.Machine.execPor o s
  | .pxor o => Sys2Proof.Machine.execPxor o s
  | .pandn o => Sys2Proof.Machine.execPandn o s
  | .pmov o => Sys2Proof.Machine.execPmov o s
  | .trap o => Sys2Proof.Machine.execTrap o s
  | .svc o => Sys2Proof.Machine.execSvc o s
  | .brk o => Sys2Proof.Machine.execBrk o s
  | .eret o => Sys2Proof.Machine.execEret o s
  | .endTask o => Sys2Proof.Machine.execEndTask o s
  | .yield o => Sys2Proof.Machine.execYield o s
  | .idle o => Sys2Proof.Machine.execIdle o s
  | .vnop o => Sys2Proof.Machine.execVnop o s
  | .vmov o => Sys2Proof.Machine.execVmov o s
  | .vadd o => Sys2Proof.Machine.execVadd o s
  | .vsub o => Sys2Proof.Machine.execVsub o s
  | .vadds o => Sys2Proof.Machine.execVadds o s
  | .vsubs o => Sys2Proof.Machine.execVsubs o s
  | .vneg o => Sys2Proof.Machine.execVneg o s
  | .vabs o => Sys2Proof.Machine.execVabs o s
  | .vmul o => Sys2Proof.Machine.execVmul o s
  | .vmulh o => Sys2Proof.Machine.execVmulh o s
  | .vmulq o => Sys2Proof.Machine.execVmulq o s
  | .vmac o => Sys2Proof.Machine.execVmac o s
  | .vmacs o => Sys2Proof.Machine.execVmacs o s
  | .vmin o => Sys2Proof.Machine.execVmin o s
  | .vmax o => Sys2Proof.Machine.execVmax o s
  | .vavg o => Sys2Proof.Machine.execVavg o s
  | .vabsd o => Sys2Proof.Machine.execVabsd o s
  | .vdiv o => Sys2Proof.Machine.execVdiv o s
  | .vshl o => Sys2Proof.Machine.execVshl o s
  | .vshr o => Sys2Proof.Machine.execVshr o s
  | .vsha o => Sys2Proof.Machine.execVsha o s
  | .vshrr o => Sys2Proof.Machine.execVshrr o s
  | .vshrs o => Sys2Proof.Machine.execVshrs o s
  | .vshls o => Sys2Proof.Machine.execVshls o s
  | .vnorm o => Sys2Proof.Machine.execVnorm o s
  | .vcens o => Sys2Proof.Machine.execVcens o s
  | .vand o => Sys2Proof.Machine.execVand o s
  | .vor o => Sys2Proof.Machine.execVor o s
  | .vxor o => Sys2Proof.Machine.execVxor o s
  | .vandn o => Sys2Proof.Machine.execVandn o s
  | .vnot o => Sys2Proof.Machine.execVnot o s
  | .vcmpeq o => Sys2Proof.Machine.execVcmpeq o s
  | .vcmpne o => Sys2Proof.Machine.execVcmpne o s
  | .vcmplt o => Sys2Proof.Machine.execVcmplt o s
  | .vcmple o => Sys2Proof.Machine.execVcmple o s
  | .vsel o => Sys2Proof.Machine.execVsel o s
  | .vclamp o => Sys2Proof.Machine.execVclamp o s
  | .vpopc o => Sys2Proof.Machine.execVpopc o s
  | .vclz o => Sys2Proof.Machine.execVclz o s
  | .vsplat o => Sys2Proof.Machine.execVsplat o s
  | .viota o => Sys2Proof.Machine.execViota o s
  | .vins o => Sys2Proof.Machine.execVins o s
  | .vext o => Sys2Proof.Machine.execVext o s
  | .vperm o => Sys2Proof.Machine.execVperm o s
  | .vslide o => Sys2Proof.Machine.execVslide o s
  | .vzip o => Sys2Proof.Machine.execVzip o s
  | .vunzip o => Sys2Proof.Machine.execVunzip o s
  | .vredadd o => Sys2Proof.Machine.execVredadd o s
  | .vredmax o => Sys2Proof.Machine.execVredmax o s
  | .vredmin o => Sys2Proof.Machine.execVredmin o s
  | .vscan o => Sys2Proof.Machine.execVscan o s
  | .vmcount o => Sys2Proof.Machine.execVmcount o s
  | .vexp2q o => Sys2Proof.Machine.execVexp2q o s
  | .vlog2q o => Sys2Proof.Machine.execVlog2q o s
  | .vrcpq o => Sys2Proof.Machine.execVrcpq o s
  | .vrsqq o => Sys2Proof.Machine.execVrsqq o s
  | .vdivq o => Sys2Proof.Machine.execVdivq o s
  | .vhash o => Sys2Proof.Machine.execVhash o s
  | .vmix o => Sys2Proof.Machine.execVmix o s
  | .vsegsum o => Sys2Proof.Machine.execVsegsum o s
  | .vmapscat o => Sys2Proof.Machine.execVmapscat o s
  | .vmapcnt o => Sys2Proof.Machine.execVmapcnt o s
  | .vmapcntFirst o => Sys2Proof.Machine.execVmapcntFirst o s
  | .vcvt o => Sys2Proof.Machine.execVcvt o s
  | .vpack o => Sys2Proof.Machine.execVpack o s
  | .vunpk o => Sys2Proof.Machine.execVunpk o s
  | .vquant o => Sys2Proof.Machine.execVquant o s
  | .ldx o => Sys2Proof.Machine.execLdx o s
  | .ldv o => Sys2Proof.Machine.execLdv o s
  | .ldvs o => Sys2Proof.Machine.execLdvs o s
  | .ldvb o => Sys2Proof.Machine.execLdvb o s
  | .stx o => Sys2Proof.Machine.execStx o s
  | .stv o => Sys2Proof.Machine.execStv o s
  | .stvs o => Sys2Proof.Machine.execStvs o s
  | .stvm o => Sys2Proof.Machine.execStvm o s
  | .aadd o => Sys2Proof.Machine.execAadd o s
  | .aadds o => Sys2Proof.Machine.execAadds o s
  | .amin o => Sys2Proof.Machine.execAmin o s
  | .amax o => Sys2Proof.Machine.execAmax o s
  | .aand o => Sys2Proof.Machine.execAand o s
  | .aor o => Sys2Proof.Machine.execAor o s
  | .axor o => Sys2Proof.Machine.execAxor o s
  | .aswp o => Sys2Proof.Machine.execAswp o s
  | .acas o => Sys2Proof.Machine.execAcas o s
  | .fence o => Sys2Proof.Machine.execFence o s
  | .qfence o => Sys2Proof.Machine.execQfence o s
  | .rwait o => Sys2Proof.Machine.execRwait o s
  | .gwinit o => Sys2Proof.Machine.execGwinit o s
  | .gwwait o => Sys2Proof.Machine.execGwwait o s
  | .fset o => Sys2Proof.Machine.execFset o s
  | .fget o => Sys2Proof.Machine.execFget o s
  | .fadd o => Sys2Proof.Machine.execFadd o s
  | .enqV o => Sys2Proof.Machine.execEnqV o s
  | .enqX o => Sys2Proof.Machine.execEnqX o s
  | .deqV o => Sys2Proof.Machine.execDeqV o s
  | .deqX o => Sys2Proof.Machine.execDeqX o s
  | .rinit o => Sys2Proof.Machine.execRinit o s
  | .rclose o => Sys2Proof.Machine.execRclose o s
  | .bjoin o => Sys2Proof.Machine.execBjoin o s
  | .barr o => Sys2Proof.Machine.execBarr o s
  | .bwait o => Sys2Proof.Machine.execBwait o s
  | .bdrop o => Sys2Proof.Machine.execBdrop o s
  | .ard o => Sys2Proof.Machine.execArd o s
  | .ardw o => Sys2Proof.Machine.execArdw o s
  | .ardh o => Sys2Proof.Machine.execArdh o s
  | .awr o => Sys2Proof.Machine.execAwr o s
  | .aaddv o => Sys2Proof.Machine.execAaddv o s
  | .azero o => Sys2Proof.Machine.execAzero o s
  | .arq o => Sys2Proof.Machine.execArq o s
  | .acens o => Sys2Proof.Machine.execAcens o s
  | .mfmt o => Sys2Proof.Machine.execMfmt o s
  | .mma o => Sys2Proof.Machine.execMma o s
  | .mchain o => Sys2Proof.Machine.execMchain o s
  | .mseal o => Sys2Proof.Machine.execMseal o s
  | .mzero o => Sys2Proof.Machine.execMzero o s
  | .oclaim o => Sys2Proof.Machine.execOclaim o s
  | .orelease o => Sys2Proof.Machine.execOrelease o s
  | .ofill o => Sys2Proof.Machine.execOfill o s
  | .ofillv o => Sys2Proof.Machine.execOfillv o s
  | .ttask o => Sys2Proof.Machine.execTtask o s
  | .tdep o => Sys2Proof.Machine.execTdep o s
  | .cset o => Sys2Proof.Machine.execCset o s
  | .cgo => Sys2Proof.Machine.execCgo s
  | .cpy o => Sys2Proof.Machine.execCpy o s
  | .carm => Sys2Proof.Machine.execCarm s
  | .ccancel o => Sys2Proof.Machine.execCcancel o s
  | .coll o => Sys2Proof.Machine.execColl o s
  | .collq o => Sys2Proof.Machine.execCollq o s
  | .rtadd o => Sys2Proof.Machine.execRtadd o s
  | .rtdel o => Sys2Proof.Machine.execRtdel o s
  | .spawn o => Sys2Proof.Machine.execSpawn o s
  | .spawnp o => Sys2Proof.Machine.execSpawnp o s
  | .park o => Sys2Proof.Machine.execPark o s
  | .steal o => Sys2Proof.Machine.execSteal o s
  | .poolinit o => Sys2Proof.Machine.execPoolinit o s
  | .poolpushReg o => Sys2Proof.Machine.execPoolpushReg o s
  | .poolpushMem o => Sys2Proof.Machine.execPoolpushMem o s
  | .poolpopReg o => Sys2Proof.Machine.execPoolpopReg o s
  | .poolpopMem o => Sys2Proof.Machine.execPoolpopMem o s
  | .poolpopwReg o => Sys2Proof.Machine.execPoolpopwReg o s
  | .poolpopwMem o => Sys2Proof.Machine.execPoolpopwMem o s
  | .poolfence o => Sys2Proof.Machine.execPoolfence o s
  | .tlbinv o => Sys2Proof.Machine.execTlbinv o s
  | .ctxsave o => Sys2Proof.Machine.execCtxsave o s
  | .ctxload o => Sys2Proof.Machine.execCtxload o s
  | .note o => Sys2Proof.Machine.execNote o s
  | .hostRegisterWrite off v => Sys2Proof.Machine.execHostRegisterWrite off v s
  | .cfgerrClear v => Sys2Proof.Machine.execCfgerrClear v s
  | .qctlEnable q v => Sys2Proof.Machine.execQctlEnable q v s
  | .qctlDisable q v => Sys2Proof.Machine.execQctlDisable q v s
  | .qtailDoorbell q v => Sys2Proof.Machine.execQtailDoorbell q v s
  | .packetFetch q => Sys2Proof.Machine.execPacketFetch q s
  | .dispatchRound => Sys2Proof.Machine.execDispatchRound s
  | .deadlineExpiry crew => Sys2Proof.Machine.execDeadlineExpiry crew s
  | .crewSave crew => Sys2Proof.Machine.execCrewSave crew s
  | .saveRetry crew => Sys2Proof.Machine.execSaveRetry crew s
  | .crewRestore crew => Sys2Proof.Machine.execCrewRestore crew s
  | .taskSchedulerRound cluster => Sys2Proof.Machine.execTaskSchedulerRound cluster s
  | .taskStart strand => Sys2Proof.Machine.execTaskStart strand s
  | .strandSwitch core => Sys2Proof.Machine.execStrandSwitch core s
  | .bundleDecode => Sys2Proof.Machine.execBundleDecode s
  | .headerSyncWait => Sys2Proof.Machine.execHeaderSyncWait s
  | .headerSyncPost => Sys2Proof.Machine.execHeaderSyncPost s
  | .asyncTrapDelivery strand => Sys2Proof.Machine.execAsyncTrapDelivery strand s
  | .loadDataArrival acc part => Sys2Proof.Machine.execLoadDataArrival acc part s
  | .failedLaunchRelease strand => Sys2Proof.Machine.execFailedLaunchRelease strand s
  | .abortGraceExpiry strand => Sys2Proof.Machine.execAbortGraceExpiry strand s
  | .coreScrub core => Sys2Proof.Machine.execCoreScrub core s
  | .storePerform acc part scope => Sys2Proof.Machine.execStorePerform acc part scope s
  | .pageWalk die => Sys2Proof.Machine.execPageWalk die s
  | .remoteAtomic acc => Sys2Proof.Machine.execRemoteAtomic acc s
  | .bankRetentionEntry core bank => Sys2Proof.Machine.execBankRetentionEntry core bank s
  | .tieringEpoch => Sys2Proof.Machine.execTieringEpoch s
  | .granuleMoveComplete frame => Sys2Proof.Machine.execGranuleMoveComplete frame s
  | .kStepExecute core => Sys2Proof.Machine.execKStepExecute core s
  | .ofillExecute core => Sys2Proof.Machine.execOfillExecute core s
  | .msealRetirement core => Sys2Proof.Machine.execMsealRetirement core s
  | .mzeroExecute core => Sys2Proof.Machine.execMzeroExecute core s
  | .oreleaseExecute core => Sys2Proof.Machine.execOreleaseExecute core s
  | .formeIssue cluster => Sys2Proof.Machine.execFormeIssue cluster s
  | .formeCompletion core => Sys2Proof.Machine.execFormeCompletion core s
  | .dependenceDecrement tok => Sys2Proof.Machine.execDependenceDecrement tok s
  | .copyStart core => Sys2Proof.Machine.execCopyStart core s
  | .copyWriteLanded core => Sys2Proof.Machine.execCopyWriteLanded core s
  | .copyCompletion core => Sys2Proof.Machine.execCopyCompletion core s
  | .copyAbort core => Sys2Proof.Machine.execCopyAbort core s
  | .collAccept strand => Sys2Proof.Machine.execCollAccept strand s
  | .collCheckStep comm => Sys2Proof.Machine.execCollCheckStep comm s
  | .collChunkStep => Sys2Proof.Machine.execCollChunkStep s
  | .collCompletion comm => Sys2Proof.Machine.execCollCompletion comm s
  | .collAbandonMessage comm rank => Sys2Proof.Machine.execCollAbandonMessage comm rank s
  | .collHoldMessage comm rank => Sys2Proof.Machine.execCollHoldMessage comm rank s
  | .collReleaseMessage comm rank => Sys2Proof.Machine.execCollReleaseMessage comm rank s
  | .collTimerExpiry comm => Sys2Proof.Machine.execCollTimerExpiry comm s
  | .poolSwitchArrival op => Sys2Proof.Machine.execPoolSwitchArrival op s
  | .poolHoldExpiry op => Sys2Proof.Machine.execPoolHoldExpiry op s
  | .pairsIncrement n => Sys2Proof.Machine.execPairsIncrement n s
  | .poolHomeArrival op => Sys2Proof.Machine.execPoolHomeArrival op s
  | .poolAnswerArrival op => Sys2Proof.Machine.execPoolAnswerArrival op s
  | .launchCompletionRecord launch => Sys2Proof.Machine.execLaunchCompletionRecord launch s
  | .functionReady bit => Sys2Proof.Machine.execFunctionReady bit s
  | .functionLoss bit => Sys2Proof.Machine.execFunctionLoss bit s
  | .packageReset => Sys2Proof.Machine.execPackageReset s
  | .criticalTemperatureReset => Sys2Proof.Machine.execCriticalTemperatureReset s
  | .islandThrottle island => Sys2Proof.Machine.execIslandThrottle island s
  | .islandStop island => Sys2Proof.Machine.execIslandStop island s
  | .islandResume island => Sys2Proof.Machine.execIslandResume island s
  | .linkFlitError link => Sys2Proof.Machine.execLinkFlitError link s
  | .portRetrainTimeout port => Sys2Proof.Machine.execPortRetrainTimeout port s
  | .portTrained port => Sys2Proof.Machine.execPortTrained port s
  | .pcieLinkLoss => Sys2Proof.Machine.execPcieLinkLoss s
  | .portRetraining port => Sys2Proof.Machine.execPortRetraining port s
  | .pcieLinkUp => Sys2Proof.Machine.execPcieLinkUp s
  | .tlbinvCompletion strand => Sys2Proof.Machine.execTlbinvCompletion strand s

end Sys2Proof.Machine
end

