-- ==== Sys2Proof/Machine/Run.lean ====
section
/-! DEFINITION. One step of the machine: time passes, then the next action of the agenda is taken. A core's action is its issuing
strand's next, by where the strand stands in its bundle; every other action is an event or an input. -/

namespace Sys2Proof.Machine

/-! ### Time -/

/-- The CYCLE counters after a step that began at tick t: a stopped island's stands still (R420). -/
def advanceCycles (h : HostRegs) (t : Nat) (cycs : RMap Nat) : RMap Nat :=
  (List.range 18).foldl (fun m i => if h.stopped i then m else RMap.put m i (RMap.get m 0 i + Config.cycleStep t i)) cycs

/-- Time passes. -/
def State.advance (s : State) : State :=
  let p := s.pkg
  { s with pkg := { p with
      tick := p.tick + 1, time := p.time + Config.timeStep p.tick, cycs := advanceCycles s.host p.tick p.cycs
      swcyc := p.swcyc + Config.switchStep p.tick }.tickTimers (Config.switchStep p.tick) }

/-! ### Which events happen of themselves -/

/-- Fetch, decode and header sync are made by the issuing strand alone, at its turn; the other events happen when they are enabled. -/
def isEvent : Instr → Bool
  | .bundleDecode => false
  | .headerSyncWait => false
  | .headerSyncPost => false
  | i => i.view == .event

/-- A core in the island of the ring stop that pool operation n is at (R20). -/
def switchCore (p : Pkg) (n : Nat) : Option Nat :=
  ((p.pools.find? n).bind (fun o => o.path.head?)).bind (fun sw => if sw < 192 then some (24 * sw) else none)

/-- The core whose clock an event needs. -/
def clockOf (p : Pkg) : Instr → Option Nat
  | .strandSwitch c => some c
  | .kStepExecute c => some c
  | .ofillExecute c => some c
  | .msealRetirement c => some c
  | .mzeroExecute c => some c
  | .oreleaseExecute c => some c
  | .formeCompletion c => some c
  | .copyStart c => some c
  | .copyWriteLanded c => some c
  | .copyCompletion c => some c
  | .copyAbort c => some c
  | .coreScrub c => some c
  | .bankRetentionEntry c _ => some c
  | .formeIssue cl => some (24 * cl)
  | .taskSchedulerRound cl => some (24 * cl)
  | .taskStart u => (p.strands.find? u).map (fun st => st.core)
  | .asyncTrapDelivery u => (p.strands.find? u).map (fun st => st.core)
  | .failedLaunchRelease u => (p.strands.find? u).map (fun st => st.core)
  | .abortGraceExpiry u => (p.strands.find? u).map (fun st => st.core)
  | .poolAnswerArrival n => (p.pools.find? n).map (fun o => o.core)
  -- the ring stop at which the operation arrives or is held; the base crossbar lies in no compute island
  | .poolSwitchArrival n => switchCore p n
  | .poolHoldExpiry n => switchCore p n
  | .dependenceDecrement t => ((p.decs.find? (fun d => d.tok == t)).bind (fun d => p.strands.find? d.strand)).map (fun st => st.core)
  | _ => none

/-- The clock of a core is stopped (R420). -/
def State.frozen (s : State) (c : Nat) : Bool := s.host.stopped (islandOf (c / 24))

/-- An agent has acted: values fixed ahead for strands, but for who, are marked with the scope that holds each and the agent (R119). -/
def heardOut (who : Option Nat) (agent : Nat) : Out → Out
  | .next t => .next (t.withPkg (t.pkg.heard who (common agent)))
  | .fault f => .fault f
  | .refused r => .refused r

/-- The agent that acts in an event: the core of an engine or of a decrementing strand, a pool's home, else the base die. -/
def actorOf (p : Pkg) : Instr → Nat
  | .formeCompletion c => c
  | .copyWriteLanded c => c
  | .copyCompletion c => c
  | .dependenceDecrement t => (((p.decs.find? (fun d => d.tok == t)).bind (fun d => p.strands.find? d.strand)).map (fun st => st.core)).getD baseAgent
  | .poolHomeArrival n => ((p.pools.find? n).map (fun o => homeAgent o.home)).getD baseAgent
  | .pairsIncrement n => (p.pairs[n]?.map (fun e => homeAgent e.home)).getD baseAgent
  | _ => baseAgent

/-- An event happens, unless it needs a stopped clock. -/
def State.event (s : State) (i : Instr) : Out :=
  if !isEvent i || (clockOf s.pkg i).any s.frozen then .next s else heardOut none (actorOf s.pkg i) (exec i s)

/-! ### A core's action -/

/-- The strand in focus runs its next slot. -/
def slotAct (s : State) (st : Strand) : Out :=
  match (st.bun.cur.find? st.bun.slot).bind (slotInstr st.bun.slot) with
  | some i => exec i s
  | none => .next (s.withPkg (s.pkg.stopAt s.er s.focus st (.trap 0x01 (st.bun.header.setWidth 64))))

/-- The next action of strand st, which is in focus: a pending asynchronous trap, else what its place in the bundle says. -/
def strandAct (s : State) (st : Strand) : Out :=
  if asyncReady s.pkg st then execAsyncTrapDelivery s.focus s
  else
    match st.phase with
    | .boundary => execBundleDecode s
    | .wait => execHeaderSyncWait s
    | .issue => slotAct s st
    | .post => execHeaderSyncPost s
    | .transfer => performTransfer s

/-- Strand u, which was st, has issued a bundle: an issue has begun, or the bundle has ended. -/
def bundleIssued (p : Pkg) (u : Nat) (st : Strand) : Bool :=
  (p.strands.find? u).elim true (fun x => decide (st.issues < x.issues) || (st.phase != .boundary && x.phase == .boundary))

/-- After the action of strand st of a core. -/
def afterAct (c u : Nat) (st : Strand) : Out → Out
  | .next t => .next (t.withPkg (t.pkg.settleCore c (bundleIssued t.pkg u st)))
  | .fault f => .fault f
  | .refused r => .refused r

/-- The issuing strand of a core, when it can act. -/
def Pkg.issuing (p : Pkg) (c : Nat) : Option (Nat × Strand) :=
  let k := p.core c
  (k.cur.bind (fun n => k.res.find? n)).bind (fun u => (p.strands.find? u).bind (fun st =>
    if st.run = .ready ∧ !p.stopped st then some (u, st) else none))

/-- Core c acts: its issuing strand, or the choice of one. -/
def coreAct (c : Nat) (s : State) : Out :=
  if s.frozen c ∨ (s.pkg.core c).service ≠ .inService then .next s
  else
    match s.pkg.issuing c with
    | some (u, st) => afterAct c u st (heardOut (some u) c (strandAct { s with focus := u } st))
    | none =>
      if (s.pkg.core c).cur.isSome then .next (s.withPkg (s.pkg.settleCore c false))
      else execStrandSwitch c s

/-! ### Inputs -/

/-- The host or a peer writes memory at physical addresses, frame by frame, over the stores performed at PACKAGE scope. -/
def Pkg.inputWrite (p : Pkg) (addr : Nat) (bs : List Byte) : Pkg :=
  (pageParts addr bs.length).foldl (fun p q =>
    p.agentWrite outerAgent (fun _ x => 4 < x.reached) q.1 ((bs.drop (q.1 - addr)).take q.2)) p

/-- What a peer has sent arrives; data resets the progress timer of its collective (R404). -/
def Pkg.inputPeer (p : Pkg) (m : PeerMsg) : Pkg :=
  { p with
    inbox := p.inbox ++ [m]
    colls := p.colls.map (fun c => if c.comm = m.comm ∧ c.m = m.num ∧ !m.abandon then { c with timer := 0 } else c) }

/-- Entry i of q[n] becomes uncorrectable. -/
def Strand.upsetEnt (st : Strand) (n i : Nat) : Strand :=
  { st with q := RMap.set st.q [] n ((st.getQ n).zipIdx.map (fun e => if e.2 = i then { e.1 with bad := true } else e.1)) }

/-- A soft error leaves the aligned word at a memory key, a word of an engine's or a strand's storage, or a queue entry uncorrectable
(R366). -/
def Pkg.inputUpset (p : Pkg) (key : Nat) : Pkg :=
  let r := (key - 2 ^ 60) % 2 ^ 14
  if 2 ^ 60 ≤ key ∧ key < 2 ^ 61 ∧ 8192 ≤ r then
    p.modStrand ((key - 2 ^ 60) / 2 ^ 14) (fun st => st.upsetEnt ((r - 8192) / 8) (r % 8))
  else { p with poison := (if key < 2 ^ 60 then key / 8 * 8 else key) :: p.poison }

/-! ### Values of loads still to come (R114, R119) -/

/-- The key of the aligned word at va for a load by the strand, where nothing stands in its way: a translation that the core holds, its
own window, the notice area, no refusing range, no granule on the move, no uncorrectable word. -/
def Pkg.earlyKey (p : Pkg) (st : Strand) (va : Nat) : Option Nat :=
  let b : Blk := { va := va, n := 8, pos := 0 }
  let k := (blkKey p st b).1
  if va % 8 = 0 ∧ partStop p st .load [b] = none ∧ !p.moving k ∧ p.consumes k 8 = none then some k else none

/-- The value of the aligned word at va, as strand u sees it now, is fixed for a load of it that it has still to issue. -/
def Pkg.fixEarly (p : Pkg) (u va : Nat) : Pkg :=
  match p.strands.find? u with
  | none => p
  | some st =>
    match p.earlyKey st va with
    | none => p
    | some k =>
      if p.early.any (fun e => e.strand == u && e.key == k) then p
      else { p with early := p.early ++ [{
        strand := u, num := p.nextAcc, va := va, key := k, bytes := (List.range 8).map (fun i => p.view u st.core p.nextAcc (k + i))
        obs := p.newest u st.core k 8 }] }

/-! ### The step -/

/-- Take an action. -/
def State.act (s : State) : Action → Out
  | .core c => coreAct c s
  | .event i => s.event i
  | .write addr bs => .next (s.withPkg (s.pkg.inputWrite addr bs))
  | .upset key => .next (s.withPkg (s.pkg.inputUpset key))
  | .peer m => .next (s.withPkg (s.pkg.inputPeer m))
  | .evict core va => .next (s.withPkg { s.pkg with tlb := s.pkg.tlb.filter (fun t => !(t.core == core && t.frame == va / 65536)) })
  | .early strand va => .next (s.withPkg (s.pkg.fixEarly strand va))
  | .hostRead off => .next (s.hostRead off)
  | .msixRead word => .next (s.msixRead word)
  | .msix word v => .next (if s.host.pcieUp then s.withHost (s.host.msixWrite word v) else s)

/-- The next action: the head of the agenda, else the open choice. -/
def State.nextAction (s : State) : Action := s.agenda.headD (Config.schedule s.pkg.tick)

/-- The state in which the next action is taken. -/
def State.begin (s : State) : State := { s.advance with agenda := s.agenda.tail }

/-- Galley words waited on are tested, and QHEAD registers follow (R173). -/
def State.settle (s : State) : State := (s.withPkg s.pkg.retestGalleys).advanceHeads

/-- What follows every action. -/
def finishStep : Out → Out
  | .next t => .next t.settle
  | .fault f => .fault f
  | .refused r => .refused r

/-- One step. -/
def runStep (s : State) : Out := finishStep (s.begin.act s.nextAction)

/-! ### A word placed where the next step runs it -/

/-- The slot in which a word of nbits bits is tried, as decodeTableWord tries them. -/
def wordSlot (nbits w : Nat) : Nat :=
  let some? (k : Nat) : Bool := (slotInstr k w).isSome
  if nbits = 32 then if some? 0 then 0 else if some? 1 then 1 else 5
  else if some? 2 then 2 else if some? 4 then 4 else 7

/-- A strand in the issue of a bundle that holds the word alone in slot k, with three literal words of 0. -/
def fetchStrand (k w : Nat) : Strand :=
  { phase := .issue
    bun := {
      header := BitVec.ofNat 32 (2 ^ k + 3 * 2 ^ 14), words := [(k, w)], lits := [0, 0, 0], slot := k, cur := [(k, w)], granted := true
      started := true } }

/-- The state with a launch of one crew, its strand on core 0 issuing the word. -/
def State.placeWord (s : State) (nbits w : Nat) : State :=
  let crew : Crew := { launch := 0, index := 0, cluster := 0, cores := [0], spad := [0] }
  { s with
    focus := 0
    agenda := [.core 0]
    pkg := { s.pkg with
      strands := RMap.put s.pkg.strands 0 (fetchStrand (wordSlot nbits w) w)
      cores := RMap.put s.pkg.cores 0 { res := [(0, 0)], cur := some 0 }
      crews := RMap.put s.pkg.crews 0 crew
      launches := RMap.put s.pkg.launches 0 { queue := 0, packet := [], placing := false, headed := true, nextCrew := 1 } } }

end Sys2Proof.Machine
end

