-- ==== Sys2Proof/Machine/Step.lean ====
section
/-! DEFINITION. The step, and the placement of a word where the next step runs it. -/

namespace Sys2Proof.Machine

/-- One step of the machine. -/
def step (s : State) : Host.Outcome State Fault Refusal := runStep s

/-- The state in which the next step runs the instruction of a word; assumption 11. -/
def State.withFetchWord (s : State) (nbits w : Nat) : State := s.placeWord nbits w

end Sys2Proof.Machine
end

