-- ==== Sys2Proof/Safety.lean ====
section
/-! DEFINITION. The terms in which statements speak of a run: a safe step, the canonical form of memory, a slot with
nothing against its commit, and the states after a slot. -/

namespace Sys2Proof.Machine

/-- A step is safe when it answers a next state: the machine neither stops nor lacks a meaning. -/
def Safe (s : State) : Prop := ∃ t, step s = .next t

/-- Memory is in canonical form. -/
abbrev State.canonical (s : State) : Prop := Memory.wf s.pkg.mem

/-- Strand st is in focus. -/
abbrev State.focused (s : State) (st : Strand) : Prop := s.pkg.strands.find? s.focus = some st

/-- No unit has answered the slot with a trap. -/
abbrev Strand.untrapped (st : Strand) : Prop := grantStop st = none

/-- The slot's word has no bit set outside the fields of instruction i (R371). -/
abbrev Strand.wordClean (st : Strand) (i : Instr) : Prop :=
  ∀ w ∈ st.bun.cur.find? st.bun.slot, unusedBits (slotCls st.bun.slot) w i = 0

/-- The vector codes that instruction i reads and writes. -/
def vCodes (i : Instr) : List (BitVec 10) := (foot i).vw.toList ++ (foot i).vr

/-- Nothing stands against the commit of instruction i, in strand st of state s, but what its own checks of privilege,
memory, engine and depth may find (R370): no trap delivered, legal fields, vector registers in the window, valid
latches, queue entries there, nothing pending, no uncorrectable word, and room for a push. -/
abbrev SlotReady (i : Instr) (s : State) (st : Strand) : Prop :=
  s.focused st
  ∧ st.untrapped
  ∧ st.wordClean i
  ∧ WellFormed st.bun.lits i
  ∧ (∀ c ∈ vCodes i, isV c = true → c.toNat / 64 < st.banks.length)
  ∧ (∀ n ∈ latchesRead (foot i) (sLatches i), (st.bun.latch.find? n).isSome = true)
  ∧ (∀ c ∈ st.slotCapt st.bun.slot, c.ent.isSome = true)
  ∧ st.waits (foot i) (sLatches i) = []
  ∧ st.spoiled s.focus s.pkg.poison i = false
  ∧ (∀ d ∈ (foot i).vw, isQ d = true → (foot i).nw = false → (st.getQ (d.toNat - 1008)).length < 8)

/-- The state after a slot of instruction i has committed and left its strand as st. -/
def State.slotDone (s : State) (i : Instr) (st : Strand) : State := { s with pkg := s.pkg.commit s.focus i st.finish }

/-- The same for a slot of strand old that has left the package as p and its strand as st. Commands of a failed launch
are discarded (R363). -/
def State.unitDone (s : State) (i : Instr) (old : Strand) (p : Pkg) (st : Strand) : State :=
  { s with pkg := (p.commit s.focus i st.finish).dropFailed old }

/-- The state after a B slot, which names no vector register. -/
def State.bDone (s : State) (st : Strand) : State := { s with pkg := s.pkg.setStrand s.focus st.finish }

end Sys2Proof.Machine
end

