-- ==== Sys2Proof/Certificates/Slice0/Obligations.lean ====
section
/-! DEFINITION. The statements about the machine, family by family. The namespace Sys2Proof.Spec holds the tables and formulas of
the spec that they speak of, written from the rules and not from the meanings. -/

open Sys2Proof Sys2Proof.Machine

/-! ### Encoding -/

/-- R185, R197 to R203, R206 to R212, R297: decoding the word of an instruction gives the instruction back, with every operand at
every value that its field admits, in every slot that takes its class. -/
def Obligations.DecodeOfEncode : Prop :=
  ∀ (i : Instr) (c : SlotClass), slotClass i = some c → formOk i = true →
    encode i < 2 ^ c.size ∧ decodeWord c (encode i) = .ok i
      ∧ (c = .V0 → decodeWord .V1 (encode i) = .ok i) ∧ (c = .P0 → decodeWord .P1 (encode i) = .ok i)

/-- The other direction: the instruction read from a word encodes to that word, so that no bit is dropped. An E word may hold bits
outside the fields of its instruction (R297, R371): those that the instruction encodes to are the word's own. -/
def Obligations.EncodeOfDecode : Prop :=
  ∀ (c : SlotClass) (w : Nat) (i : Instr), w < 2 ^ c.size → decodeWord c w = .ok i →
    formOk i = true ∧ (c ≠ .E → encode i = w) ∧ (c = .E → encode i &&& w = encode i ∧ (unusedBits c w i = 0 → encode i = w))

/-- Words that the spec writes out decode to the instructions it gives them for: MOVI x6, 0x7F0 (R232); CMPLTI p1, x4, 100 (R237); the
VADDS and LDV of the worked bundle of R212's chapter; AADD.s32 x5, [x6+8], rel=cluster (R277); ARQ v40, a3 (R295); MCHAIN a3, o0, o16, 4
(R301). A reserved opcode is refused by name (R205). -/
def Obligations.WordsOfTheSpecDecode : Prop :=
  decodeWord .S 0x4B3007F0 = .ok (.movi { d := 6, nw := 0, a := 0, la := 0, imm := 0x7F0 })
  ∧ decodeWord .B 0x34090064 = .ok (.cmplti { g := 0, gn := 0, pd := 1, a := 4, b := 0, imm := 100 })
  ∧ decodeWord .V0 0x0440647E06400143 =
      .ok (.vadds { ty := 2, mask := 0, d := 100, nw := 0, a := 1008, b := 200, c := 0, step := 5, k := 0, e := 3 })
  ∧ decodeWord .M 0x0143F01400400040 =
      .ok (.ldv { ty := 2, mask := 0, data := 1008, nw := 0, base := 5, ix := 0, order := 0, scope := 0, update := 1, offset := 64 })
  ∧ decodeWord .M 0x40A0051812000008 =
      .ok (.aadd { ty := 5, mask := 0, data := 5, nw := 0, base := 6, ix := 0, order := 2, scope := 2, update := 0, offset := 8 })
  ∧ decodeWord .P0 0x31805058 = .ok (.arq { tile := 3, row := 0, vec := 40, nw := 0, dm := 5, step := 1, sub := 0 })
  ∧ decodeWord .E 0x0200000000330100 = .ok (.mchain { n := 3, tile := 3, oA := 0, oB := 16, tA := 0, tB := 0 })
  ∧ decodeWord .S 0xFF000000 = .error (.reservedOpcode .S 0xFF)

/-! ### Steps, fetch and issue -/

/-- A step in which a core acts and its issuing strand stands at a slot whose word decodes runs exactly that instruction, with time
advanced before it, and after it the marking of values fixed ahead for other strands (log entry 37), the core's settling and what follows
every action. A strand at a bundle boundary, at its header wait,
at its header post or at its transfer does that; one that can take a pending asynchronous trap takes it. -/
def Obligations.StepRunsTheDecodedSlot : Prop :=
  ∀ (s : State) (c u : Nat) (st : Strand),
    s.nextAction = .core c → s.begin.frozen c = false → (s.begin.pkg.core c).service = .inService →
    s.begin.pkg.issuing c = some (u, st) →
    let b : State := { s.begin with focus := u }
    let runs (o : Host.Outcome State Fault Refusal) : Prop := step s = finishStep (afterAct c u st (heardOut (some u) c o))
    (asyncReady s.begin.pkg st = true → runs (exec (.asyncTrapDelivery u) b))
    ∧ (asyncReady s.begin.pkg st = false →
      (∀ w i, st.phase = .issue → st.bun.cur.find? st.bun.slot = some w → decodeWord (slotCls st.bun.slot) w = .ok i → runs (exec i b))
      ∧ (st.phase = .boundary → runs (exec .bundleDecode b)) ∧ (st.phase = .wait → runs (exec .headerSyncWait b))
      ∧ (st.phase = .post → runs (exec .headerSyncPost b)) ∧ (st.phase = .transfer → runs (performTransfer b)))

namespace Sys2Proof.Spec

/-- The word w lies at va for fetches of strand st: the core holds a translation of va with X for the strand's mode, and the word's
bytes are in memory with no error, no move of their granule, no store in flight, and every write to code performed before the FENCE, and
seen before the acquire, that the strand's fetches follow (R91, R92, R102, R129, R185). -/
def wordAt (s : State) (st : Strand) (va w : Nat) : Prop :=
  va < 0x7F0000000000 ∧ s.pkg.accs = [] ∧ (∀ e ∈ s.pkg.codeLog, e.step < st.codeSeen.fence ∧ e.seenAt st.core < st.codeSeen.acq) ∧
  ∃ t, s.pkg.tlbHit st.core (s.pkg.crew st.crew).launch va = some t
    ∧ t.flags.testBit 3 = true ∧ (t.flags.testBit 11 = true → st.sup = true)
    ∧ s.pkg.moving (t.pa + (va - t.va)) = false ∧ s.pkg.poisoned (s.pkg.physKey (t.pa + (va - t.va))) 4 = none
    ∧ w = ofBytes ((List.range 4).map (fun i => s.pkg.byte (s.pkg.physKey (t.pa + (va - t.va) + i))))

/-- Where slot class k, numbered 0 to 7 in the order of R185, starts in a bundle with presence mask m: word 1 plus the sizes of the
present slots before it (R186). -/
def slotStart (m k : Nat) : Nat :=
  1 + ((List.range k).filter (fun j => m.testBit j)).foldl (fun n j => n + (if j ∈ [2, 3, 4, 7] then 2 else 1)) 0

/-- The word of a present slot in the words l of a bundle: the low word first for a 64-bit slot (R185). -/
def slotWord (l : List Nat) (m k : Nat) : Nat :=
  l.getD (slotStart m k) 0 + (if k ∈ [2, 3, 4, 7] then 2 ^ 32 * l.getD (slotStart m k + 1) 0 else 0)

/-- The length of a bundle in words (R186): 1 + POPC(mask) + POPC(mask and 0x9C) + literals. -/
def words (h : Nat) : Nat :=
  let popc (n : Nat) : Nat := (List.range 8).countP (fun j => n.testBit j)
  1 + popc (h % 256) + popc (h % 256 &&& 0x9C) + h / 2 ^ 14 % 4

end Sys2Proof.Spec

/-- R185, R186, R189: a strand at a bundle boundary whose bundle's words l lie at its pc, in a legal bundle, takes that bundle: header,
slot words in the order of the classes and literal words; with SYNC 1 or 3 it comes to its wait next, else to its first issue. Of the
package only the counts of the granules fetched from change, each by the 64-byte lines fetched (R99). What a fetch sees of stores to code
is log entry 37. -/
def Obligations.DecodeTakesTheBundleAtThePc : Prop :=
  ∀ (s : State) (st : Strand) (l : List Nat) (h : Nat),
    s.focused st → st.run = .ready → st.phase = .boundary → st.grant = none → st.bun = {} →
    l.head? = some h → h < 2 ^ 32 → l.length = Spec.words h →
    (∀ i < l.length, Spec.wordAt s st (st.pc + BitVec.ofNat 64 (4 * i)).toNat (l.getD i 0)) →
    illegalBundle (BitVec.ofNat 32 h) (slotWordsOf (BitVec.ofNat 32 h) (l.drop 1)) st.sticky = false →
    let p := touchFetch s.pkg st st.pc.toNat (4 * l.length)
    (∃ gs, p = { s.pkg with granules := gs } ∧ ∀ f,
      ((gs.find? f).getD {}).place = ((s.pkg.granules.find? f).getD {}).place ∧ ((gs.find? f).getD {}).moving = ((s.pkg.granules.find? f).getD {}).moving)
    ∧ ∃ ws : RMap Nat,
      (∀ k < 8, ws.find? k = if h.testBit k then some (Spec.slotWord l (h % 256) k) else none)
      ∧ (let waits := h / 2 ^ 16 % 4 = 1 ∨ h / 2 ^ 16 % 4 = 3
         let b : Bundle := { pc := st.pc, header := BitVec.ofNat 32 h, words := ws, lits := l.drop (l.length - h / 2 ^ 14 % 4), granted := decide (¬waits) }
         exec .bundleDecode s = .next (s.withPkg (p.setStrand s.focus
           (if waits then { st with bun := b, phase := .wait } else ({ st with bun := b } : Strand).beginIssues))))

namespace Sys2Proof.Spec

/-- STEP of R194 on the word of slot class k. -/
def step (k w : Nat) : Nat :=
  let f (lo : Nat) : Nat := if w / 2 ^ lo % 1024 < 768 then 2 ^ lo else 0
  let on (l : List Nat) (lo : Nat) : Nat := if w / 2 ^ 6 % 8 ∈ l then f lo else 0
  if k = 2 ∨ k = 3 then w + on [1, 2, 3, 5, 7] 40 + on [2, 3, 4, 6, 7] 29 + on [3, 5, 6, 7] 19 + on [7] 9
  else if (k = 5 ∨ k = 6) ∧ w.testBit 3 then
    w - w / 2 ^ 19 % 16 * 2 ^ 19 + (w / 2 ^ 19 % 16 + 1) % 16 * 2 ^ 19 + f 9
  else w

end Sys2Proof.Spec

/-- R189, R190, R194: a slot that commits hands the issue to the next slot of its class order that holds a word, and to nothing else. After the
last slot of an issue of a repeated bundle the next issue holds, for each sticky class present, its word as last issued, stepped; for
each sticky class absent, with STOP 0, its sticky word, stepped; and no word of S, B or E. A V word that is a VNOP leaves NOP.
R51: the queue reads of an issue are made at its start, in slot order and in field order; a read finds the entry that the pops before
it leave at the head, a pop takes it, and a read with the peek bit leaves it. -/
def Obligations.IssuesGoInClassOrderAndStep : Prop :=
  (∀ (st : Strand) (j : Nat), j < 8 → st.bun.cur.sorted → st.bun.slot < j → (st.bun.cur.find? j).isSome = true →
     (∀ m, st.bun.slot < m → m < j → st.bun.cur.find? m = none) →
     st.finish = { st with grant := none, bun := { st.bun with slot := j } })
  ∧ (∀ (st : Strand) (k : Nat), k < 8 → st.bun.cur.sorted →
     (∀ m, st.bun.slot < m → st.bun.cur.find? m = none) →
     st.bun.rep < hdrRepeat st.bun.header →
     (let kept (j : Nat) : Option Nat := match st.bun.cur.find? j with
         | some w => if (j = 2 ∨ j = 3) ∧ w / 2 ^ 56 = 0 then none else some w
         | none => st.sticky.find? j
      let next (j : Nat) : Option Nat :=
         if j < 2 ∨ j = 7 then none
         else if (st.bun.words.find? j).isSome then (st.bun.cur.find? j).map (Spec.step j)
         else if hdrStop st.bun.header then none
         else (kept j).map (Spec.step j)
      (∃ j < 8, (next j).isSome = true) → (∀ j < 8, ∀ w ∈ st.bun.cur.find? j, w < 2 ^ 64) →
        st.finish.bun.rep = st.bun.rep + 1 ∧ st.finish.bun.cur.find? k = next k))
  ∧ (∀ (st : Strand) (fresh : Bool) (r : Nat),
     let t := st.startIssue fresh r
     let reads : List (Nat × Nat × Bool) := t.bun.cur.flatMap (fun e => match slotInstr e.1 e.2 with
       | some i => ((foot i).vr.filter (fun c => decide (1008 ≤ c.toNat) && decide (c.toNat < 1016))).map
           (fun c => (e.1, c.toNat - 1008, match i.view with | .v _ o => o.k == 1 | _ => false))
       | none => [])
     let pops (q : Nat) (l : List (Nat × Nat × Bool)) : Nat := l.countP (fun x => x.2.1 == q && !x.2.2)
     t.bun.capt = reads.zipIdx.map (fun x =>
       { slot := x.1.1, q := x.1.2.1, pop := !x.1.2.2, ent := (st.getQ x.1.2.1)[pops x.1.2.1 (reads.take x.2)]? })
     ∧ ∀ q, t.getQ q = (st.getQ q).drop (pops q reads))

/-! ### The S slot -/

namespace Sys2Proof.Spec

/-- The least and the greatest s64 as registers. -/
def minX : X := BitVec.ofInt 64 (-2 ^ 63)
def maxX : X := BitVec.ofInt 64 (2 ^ 63 - 1)

/-- SAT(v, s64) as a register. -/
def sat64 (v : Int) : X := BitVec.ofInt 64 (max (-2 ^ 63) (min (2 ^ 63 - 1) v))

/-- A literal word as 32 bits. -/
def litW (st : Strand) (o : SImm) (k : Nat) : BitVec 32 := BitVec.ofNat 32 (st.bun.lits.getD (o.imm.toNat % 4 + k) 0)

/-- The results of R227 to R233: destination, nw and value, from the tables of those rules. A source is x[a], or latch a[2:0] (R224). -/
def scalar (st : Strand) : Instr → Option (BitVec 5 × BitVec 1 × X) :=
  let two (o : SReg) (f : X → X → X) : Option (BitVec 5 × BitVec 1 × X) := some (o.d, o.nw, f (st.src o.a o.la) (st.src o.b o.lb))
  let one (o : SReg) (f : X → X) : Option (BitVec 5 × BitVec 1 × X) := some (o.d, o.nw, f (st.src o.a o.la))
  let imm (o : SImm) (f : X → X → X) : Option (BitVec 5 × BitVec 1 × X) := some (o.d, o.nw, f (st.src o.a o.la) (o.imm.signExtend 64))
  let cnt (o : SImm) (f : X → Nat → X) : Option (BitVec 5 × BitVec 1 × X) := some (o.d, o.nw, f (st.src o.a o.la) o.imm.toNat)
  let rol (a : X) (n : Nat) : X := a <<< (n % 64) ||| a >>> (64 - n % 64)
  fun i => match i with
  | .add o => two o (fun a b => a + b)
  | .sub o => two o (fun a b => a - b)
  | .and o => two o (fun a b => a &&& b)
  | .or o => two o (fun a b => a ||| b)
  | .xor o => two o (fun a b => a ^^^ b)
  | .andn o => two o (fun a b => a &&& ~~~b)
  | .shl o => two o (fun a b => a <<< b.toNat)
  | .shr o => two o (fun a b => a >>> b.toNat)
  | .sha o => two o (fun a b => a.sshiftRight b.toNat)
  | .rol o => two o (fun a b => rol a b.toNat)
  | .mul o => two o (fun a b => a * b)
  | .mulh o => two o (fun a b => ((a.signExtend 128 * b.signExtend 128) >>> 64).setWidth 64)
  | .mulhz o => two o (fun a b => ((a.setWidth 128 * b.setWidth 128) >>> 64).setWidth 64)
  | .div o => two o (fun a b =>
      if b = 0 then (if a = 0 then 0 else if a.slt 0 then minX else maxX) else if a = minX ∧ b = -1 then maxX else a.sdiv b)
  | .divz o => two o (fun a b => if b = 0 then (if a = 0 then 0 else BitVec.allOnes 64) else a / b)
  | .rem o => two o (fun a b => if b = 0 then a else a.srem b)
  | .remz o => two o (fun a b => if b = 0 then a else a % b)
  | .min o => two o (fun a b => if a.slt b then a else b)
  | .max o => two o (fun a b => if a.slt b then b else a)
  | .minz o => two o (fun a b => if a.ult b then a else b)
  | .maxz o => two o (fun a b => if a.ult b then b else a)
  | .adds o => two o (fun a b => sat64 (a.toInt + b.toInt))
  | .subs o => two o (fun a b => sat64 (a.toInt - b.toInt))
  | .clz o => one o (fun a => BitVec.ofNat 64 (64 - Nat.size a.toNat))
  | .ctz o => one o (fun a => BitVec.ofNat 64 ((List.range 64).takeWhile (fun k => !a.getLsbD k)).length)
  | .popc o => one o (fun a => BitVec.ofNat 64 ((List.range 64).countP (fun k => a.getLsbD k)))
  | .mov o => one o (fun a => a)
  | .sext o => one o (fun a => (a.setWidth (o.sub.toNat + 1)).signExtend 64)
  | .zext o => one o (fun a => (a.setWidth (o.sub.toNat + 1)).setWidth 64)
  | .bfx o => one o (fun a => ((a >>> o.sub.toNat).setWidth (o.b.toNat + 1)).signExtend 64)
  | .bfxz o => one o (fun a => ((a >>> o.sub.toNat).setWidth (o.b.toNat + 1)).setWidth 64)
  | .bfi o =>
    let m : X := (BitVec.allOnes 64 >>> (63 - o.b.toNat)) <<< o.sub.toNat
    one o (fun a => (st.getX o.d.toNat &&& ~~~m) ||| ((a <<< o.sub.toNat) &&& m))
  | .addi o => imm o (fun a n => a + n)
  | .andi o => imm o (fun a n => a &&& n)
  | .ori o => imm o (fun a n => a ||| n)
  | .xori o => imm o (fun a n => a ^^^ n)
  | .shli o => cnt o (fun a n => a <<< n)
  | .shri o => cnt o (fun a n => a >>> n)
  | .shai o => cnt o (fun a n => a.sshiftRight n)
  | .roli o => cnt o rol
  | .muli o => imm o (fun a n => a * n)
  | .mini o => imm o (fun a n => if a.slt n then a else n)
  | .maxi o => imm o (fun a n => if a.slt n then n else a)
  | .movi o => imm o (fun _ n => n)
  | .lih o => cnt o (fun a n => (a <<< 12) ||| BitVec.ofNat 64 n)
  | .movw o => imm o (fun _ _ => (litW st o 0).signExtend 64)
  | .movd o => some (o.d, o.nw, BitVec.ofNat 64 (st.bun.lits.getD (o.imm.toNat % 4) 0) + BitVec.ofNat 64 (st.bun.lits.getD (o.imm.toNat % 4 + 1) 0) <<< 32)
  | .addw o => imm o (fun a _ => a + (litW st o 0).signExtend 64)
  | _ => none

/-- What an S slot leaves alone in its strand: every x register but those of xs, every scale register but those of es, every predicate,
mask and vector register, the queue registers but for the pops that the start of a next issue makes (R51), the latches but L0, the
format latch, the trap registers and the mode. -/
def ScalarFrame (xs es : List Nat) (a b : Strand) : Prop :=
  (∀ r, r ∉ xs → b.getX r = a.getX r) ∧ (∀ n, n ∉ es → b.getE n = a.getE n)
  ∧ (∀ n, b.getP n = a.getP n) ∧ (∀ n, b.getM n = a.getM n) ∧ (∀ n, b.getV n = a.getV n)
  ∧ (b.issues = a.issues → ∀ n, b.getQ n = a.getQ n)
  ∧ (∀ n, n ≠ 0 → b.latch.find? n = a.latch.find? n) ∧ b.fmt = a.fmt ∧ b.fmtPipe = a.fmtPipe
  ∧ b.tcause = a.tcause ∧ b.tpc = a.tpc ∧ b.tval = a.tval ∧ b.tstat = a.tstat ∧ b.tvec = a.tvec ∧ b.tscr = a.tscr
  ∧ b.trapSet = a.trapSet ∧ b.sup = a.sup ∧ b.inh = a.inh ∧ b.retn = a.retn ∧ b.banks = a.banks ∧ b.shadow = a.shadow
  ∧ b.xpend = a.xpend ∧ b.vpend = a.vpend ∧ b.async = a.async ∧ b.collq = a.collq

/-- Everything outside the strand in focus is as it was: the host's registers, every other strand, every byte of memory, and the
package's cores, clusters, crews, launches, accesses and units. -/
def RestAlone (s t : State) : Prop :=
  t.host = s.host ∧ t.focus = s.focus ∧ t.agenda = s.agenda
  ∧ (∀ u, u ≠ s.focus → t.pkg.strands.find? u = s.pkg.strands.find? u) ∧ (∀ k, t.pkg.byte k = s.pkg.byte k)
  ∧ t.pkg.cores = s.pkg.cores ∧ t.pkg.clusters = s.pkg.clusters ∧ t.pkg.crews = s.pkg.crews ∧ t.pkg.launches = s.pkg.launches
  ∧ t.pkg.accs = s.pkg.accs ∧ t.pkg.tlb = s.pkg.tlb ∧ t.pkg.ranges = s.pkg.ranges ∧ t.pkg.unitWaits = s.pkg.unitWaits
  ∧ t.pkg.pools = s.pkg.pools ∧ t.pkg.colls = s.pkg.colls ∧ t.pkg.granules = s.pkg.granules ∧ t.pkg.time = s.pkg.time

end Sys2Proof.Spec

/-- R60, R224, R227 to R233: a ready S slot of these instructions commits with the value of the tables as its result; and what a result leaves: L0 holds
it and is valid; x[d] holds it unless nw is 1 or d is 0; DIRTY.DX is set with the write of an x register other than x0 alone. -/
def Obligations.ScalarResults : Prop :=
  (∀ (i : Instr) (s : State) (st : Strand) (d : BitVec 5) (nw : BitVec 1) (v : X),
     Spec.scalar st i = some (d, nw, v) → SlotReady i s st → exec i s = .next (s.slotDone i (st.result d nw v)))
  ∧ (∀ (st : Strand) (d : BitVec 5) (nw : BitVec 1) (v : X),
     ((st.result d nw v).latch.find? 0 = some (v.setWidth 512))
     ∧ (nw = 0 → d ≠ 0 → (st.result d nw v).getX d.toNat = v ∧ (st.result d nw v).dirty.getLsbD 12 = true)
     ∧ ((nw = 1 ∨ d = 0) → (∀ r, (st.result d nw v).getX r = st.getX r) ∧ (st.result d nw v).dirty = st.dirty)
     ∧ (∀ r, r ≠ d.toNat → (st.result d nw v).getX r = st.getX r) ∧ (st.result d nw v).getX 0 = 0)


/-- The frame of the S slot, for every S instruction but the control register ones, of a slot with no pending ERET: outside the strand
nothing changes; inside it x[d] (unless nw is 1) and, for the scale register instructions, e[d] or, for ECENS, e[a]. -/
def Obligations.ScalarFrame : Prop :=
  ∀ (i : Instr) (s t : State) (st : Strand) (op : Nat) (o : SReg) (oi : SImm),
    SlotReady i s st → st.pend ≠ some .eret → exec i s = .next t →
    (i.view = .sReg op o ∨ (i.view = .sImm op oi ∧ op < 0xA0)) →
    ∃ st', t.focused st' ∧ Spec.RestAlone s t
      ∧ Spec.ScalarFrame (if i.view = .sReg op o then (if o.nw = 1 ∨ op = 0xB0 ∨ op ≥ 0xB3 then [] else [o.d.toNat])
            else if oi.nw = 1 then [] else [oi.d.toNat])
          (if i.view = .sReg op o then (if op = 0xB0 ∨ op ≥ 0xB3 then [o.d.toNat] else if op = 0xB2 then [o.a.toNat] else []) else []) st st'

namespace Sys2Proof.Spec

/-- The value of a control register (R45, R52, R62 to R65); none for a number that is reserved, or for VWIN of a window that no
placement makes. -/
def csr (p : Pkg) (st : Strand) : Nat → Option X
  | 0x000 => some (BitVec.ofNat 64 (2 ^ 7 * st.sup.toNat + 2 ^ 6 * st.inh.toNat + 2 ^ 5 * st.retn.toNat))
  | 0x001 => some (st.tcause.setWidth 64)
  | 0x002 => some (st.tpc.setWidth 64)
  | 0x003 => some st.tval
  | 0x004 => some (st.tstat.setWidth 64)
  | 0x005 => some (st.tvec.setWidth 64)
  | 0x006 => some st.tscr
  | 0x007 =>
    if st.banks.length ≤ 12 ∧ ∀ b ∈ st.banks, b < 16 then
      some (BitVec.ofNat 64 (2 ^ 48 * st.banks.length + ((List.range st.banks.length).map (fun u => 2 ^ (4 * u) * st.banks.getD u 0)).sum))
    else none
  | 0x008 => some (st.dirty.setWidth 64)
  | 0x009 => some (BitVec.ofNat 64 ((List.range 8).map (fun n => 2 ^ (4 * n) * (st.getQ n).length)).sum)
  | 0x00A => some (BitVec.ofNat 64 ((p.crew st.crew).deadline % 2 ^ 56) <<< 8 ||| BitVec.ofNat 64 (p.crew st.crew).req.toNat)
  | 0x010 => some (BitVec.ofNat 64 (p.cycs.get 0 (st.core / 24 / 12)))
  | 0x011 => some (BitVec.ofNat 64 p.time)
  | 0x018 => some (BitVec.ofNat 64 (2 ^ 15 * st.idx + 2 ^ 12 * (st.core / 576) + 2 ^ 7 * (st.core / 24 % 24) + 2 ^ 2 * (st.core % 24) + st.sn))
  | 0x019 => some (BitVec.ofNat 64 (2 ^ 32 * (st.core / 24) + (p.crew st.crew).index % 2 ^ 32))
  | 0x01A =>
    let l := p.launch (p.crew st.crew).launch
    some (BitVec.ofNat 64 (2 ^ 32 * l.queue + l.lid))
  | _ => none

/-- The strand after its control register n is written with v: only the writable bits change (R62 to R64, R234). -/
def csrSet (st : Strand) (n : Nat) (v : X) : Strand :=
  let st := { st with dirty := st.dirty ||| 0x10000#30 }
  match n with
  | 0x000 => { st with sup := st.sup && v.getLsbD 7, inh := v.getLsbD 6 }
  | 0x001 => { st with tcause := v.setWidth 8 }
  | 0x002 => { st with tpc := v.setWidth 48 &&& 0xFFFFFFFFFFFC#48 }
  | 0x003 => { st with tval := v }
  | 0x004 => { st with tstat := v.setWidth 10 }
  | 0x005 => { st with tvec := v.setWidth 48 &&& 0xFFFFFFFFFFFC#48 }
  | 0x006 => { st with tscr := v }
  | _ => st

/-- The write v of a control register n is allowed in the strand's mode (R234): the register is not read-only, TVEC is written in
supervisor mode alone, and user mode does not set STATUS.SUP. -/
abbrev csrAllowed (st : Strand) (n : Nat) (v : X) : Prop :=
  n < 7 ∧ (n = 5 → st.sup = true) ∧ (n = 0 → st.sup = true ∨ v.getLsbD 7 = false)

/-- What CSRW, CSRS and CSRC write, for the old value and x[a] (R234). -/
def csrNew (i : Instr) (old a : X) : Option X :=
  match i with
  | .csrw _ => some a
  | .csrs _ => if a = 0 then none else some (old ||| a)
  | .csrc _ => if a = 0 then none else some (old &&& ~~~a)
  | _ => none

end Sys2Proof.Spec

/-- R62, R234, R235: a ready CSRR, CSRW, CSRS or CSRC of an allowed write commits: the register's old value is the result, and the
register takes the new value's writable bits, or keeps its own where nothing is written (that STATUS.INH is among them is the model's reading, log entry 32). A write that is not allowed takes the
fault privilege, with cause 0x07 and the register's number as TVAL, and has no other effect: the strand enters its handler, in the
state of the trap statement. -/
def Obligations.ControlRegisterAccess : Prop :=
  ∀ (i : Instr) (o : SImm) (s : State) (st : Strand),
    i = .csrr o ∨ i = .csrw o ∨ i = .csrs o ∨ i = .csrc o → SlotReady i s st →
    let old := csrRead s.pkg st o.imm.toNat
    (∀ v, Spec.csr s.pkg st o.imm.toNat = some v → old = v)
    ∧ (Spec.csrNew i old (st.src o.a o.la) = none → exec i s = .next (s.slotDone i (st.result o.d o.nw old)))
    ∧ (∀ v, Spec.csrNew i old (st.src o.a o.la) = some v → Spec.csrAllowed st o.imm.toNat v →
        exec i s = .next (s.slotDone i ((Spec.csrSet st o.imm.toNat v).result o.d o.nw old)))
    ∧ (∀ v, Spec.csrNew i old (st.src o.a o.la) = some v → ¬ Spec.csrAllowed st o.imm.toNat v →
        let tv : X := o.imm.setWidth 64
        exec i s = .next (s.withPkg (s.pkg.takeTrap s.er s.focus st 0x07 tv (st.syncTrap 0x07 tv st.bun.slot))))

namespace Sys2Proof.Spec

/-- e with its EXP replaced by SAT(EXP + b, s8), SATS set when that clamps (R236). -/
def eadd (d a : BitVec 16) (b : X) : BitVec 16 :=
  let t := (a.setWidth 8).toInt + b.toInt
  let n := max (-128) (min 127 t)
  (d &&& 0xFF00#16) ||| (BitVec.ofInt 8 n).setWidth 16 ||| (if n = t then 0#16 else 0x8000#16)

/-- The shift count of ECENS (R236). -/
def ecens (e : BitVec 16) (margin : Nat) : X :=
  BitVec.ofNat 64 ((if e.getLsbD 14 then (e >>> 8).toNat % 64 else 0) - margin)

end Sys2Proof.Spec

/-- R53, R236: the five scale register instructions. ECOPY copies SATS too, as R236's table says (80, the model's reading of R72). -/
def Obligations.ScaleRegisterResults : Prop :=
  ∀ (o : SReg) (s : State) (st : Strand),
    let done (i : Instr) (st' : Strand) : Prop := SlotReady i s st → exec i s = .next (s.slotDone i st')
    let put (v : BitVec 16) : Strand := (st.setE o.d.toNat v).setL 0 (v.setWidth 512)
    done (.eset o) (put ((st.src o.a o.la).setWidth 16))
    ∧ done (.ecopy o) (put (st.getE o.a.toNat))
    ∧ done (.eadd o) (put (Spec.eadd (st.getE o.d.toNat) (st.getE o.a.toNat) (st.src o.b o.lb)))
    ∧ done (.eget o) (st.result o.d o.nw ((st.getE o.a.toNat).setWidth 64))
    ∧ done (.ecens o)
        ((if o.sub.getLsbD 5 then st else st.setE o.a.toNat (st.getE o.a.toNat &&& 0x80FF#16)).result o.d o.nw
          (Spec.ecens (st.getE o.a.toNat) (o.sub.toNat % 32)))

/-! ### The B slot -/

namespace Sys2Proof.Spec

/-- The predicates that the compares and the predicate logic write (R237, R238). -/
def predicate (st : Strand) : Instr → Option (BPred × Bool) :=
  let x (o : BPred) : X := st.getX o.a.toNat
  let y (o : BPred) : X := st.getX o.b.toNat
  let n (o : BPred) : X := o.imm.signExtend 64
  let p (o : BPred) : Bool := st.getP (o.a.toNat % 8)
  let q (o : BPred) : Bool := st.getP (o.b.toNat % 8)
  fun i => match i with
  | .cmpeq o => some (o, x o == y o)
  | .cmpne o => some (o, !(x o == y o))
  | .cmplt o => some (o, (x o).slt (y o))
  | .cmple o => some (o, (x o).sle (y o))
  | .cmpltz o => some (o, (x o).ult (y o))
  | .cmplez o => some (o, (x o).ule (y o))
  | .cmpeqi o => some (o, x o == n o)
  | .cmpnei o => some (o, !(x o == n o))
  | .cmplti o => some (o, (x o).slt (n o))
  | .cmplei o => some (o, (x o).sle (n o))
  | .pand o => some (o, p o && q o)
  | .por o => some (o, p o || q o)
  | .pxor o => some (o, p o ^^ q o)
  | .pandn o => some (o, p o && !q o)
  | .pmov o => some (o, p o)
  | _ => none

/-- The guard of a B slot holds: pg xor gn = 1 (R198). -/
abbrev guarded (st : Strand) (g : BitVec 3) (gn : BitVec 1) : Prop := (st.getP g.toNat = true ∧ gn = 0) ∨ (st.getP g.toNat = false ∧ gn = 1)

end Sys2Proof.Spec

/-- R225, R237, R238: a ready, guarded compare or predicate instruction writes p[pd] and commits; a write to p0 is discarded. A
guarded-off B slot of any instruction, with legal fields, commits and does nothing, whatever its registers hold. -/
def Obligations.PredicateResults : Prop :=
  (∀ (i : Instr) (o : BPred) (b : Bool) (s : State) (st : Strand),
    Spec.predicate st i = some (o, b) → SlotReady i s st → Spec.guarded st o.g o.gn →
    exec i s = .next (s.bDone (st.setP o.pd.toNat b))
    ∧ (o.pd ≠ 0 → (st.setP o.pd.toNat b).getP o.pd.toNat = b) ∧ (o.pd = 0 → st.setP o.pd.toNat b = st)
    ∧ (∀ n, n ≠ o.pd.toNat → (st.setP o.pd.toNat b).getP n = st.getP n))
  ∧ (∀ (i : Instr) (s : State) (st : Strand) (g : BitVec 3) (gn : BitVec 1),
    ((∃ op o, i.view = .bOff op o ∧ o.g = g ∧ o.gn = gn) ∨ (∃ op o, i.view = .bPred op o ∧ o.g = g ∧ o.gn = gn)) →
    s.focused st → WellFormed st.bun.lits i → ¬ Spec.guarded st g gn → exec i s = .next (s.bDone st))

/-- R192, R239, R240, R242, R243: the transfer that a ready, guarded B slot decides, with the link of BRL and JRL and the count of LOOP. A
JR or JRL of a misaligned register traps with 0x08 and the register as TVAL; ERET outside a handler traps with 0x07, TVAL 0. YIELD
takes with it the crew's REQ and whether its deadline has passed (R178). -/
def Obligations.TransfersDecided : Prop :=
  ∀ (s : State) (st : Strand),
    let target (o : BOff) : X := st.bun.pc + 4 * o.off.signExtend 64
    let link : X := st.bun.pc + BitVec.ofNat 64 (4 * bundleWords st.bun.header)
    let off (i : Instr) (o : BOff) (st' : Strand) : Prop := SlotReady i s st → Spec.guarded st o.g o.gn → exec i s = .next (s.bDone st')
    (∀ o, off (.br o) o { st with pend := some (.jump (target o)) })
    ∧ (∀ o, off (.brl o) o { st.setX 31 link with pend := some (.jump (target o)) })
    ∧ (∀ o, off (.loop o) o (if 1 < (st.getX 30).toNat then { st.setX 30 (st.getX 30 - 1) with pend := some (.jump (target o)) }
          else st.setX 30 0))
    ∧ (∀ o, st.inh = true → off (.eret o) o { st with pend := some .eret })
    ∧ (∀ o, off (.endTask o) o { st with pend := some .endTask })
    ∧ (∀ o, off (.idle o) o { st with pend := some .idle })
    ∧ (∀ o, off (.yield o) o { st with pend := some (.yield (s.pkg.crew st.crew).req (decide ((s.pkg.crew st.crew).deadline < s.pkg.time))) })
    ∧ (∀ o : BPred, (st.getX o.a.toNat).getLsbD 0 = false → (st.getX o.a.toNat).getLsbD 1 = false → Spec.guarded st o.g o.gn →
        (SlotReady (.jr o) s st → exec (.jr o) s = .next (s.bDone { st with pend := some (.jump (st.getX o.a.toNat)) }))
        ∧ (SlotReady (.jrl o) s st →
            exec (.jrl o) s = .next (s.bDone { st.setX 31 link with pend := some (.jump (st.getX o.a.toNat)) })))
    ∧ (∀ (i : Instr) (o : BPred), i = .jr o ∨ i = .jrl o → (st.getX o.a.toNat).toNat % 4 ≠ 0 → Spec.guarded st o.g o.gn → SlotReady i s st →
        exec i s = .next (s.withPkg (s.pkg.takeTrap s.er s.focus st 0x08 (st.getX o.a.toNat)
          (st.syncTrap 0x08 (st.getX o.a.toNat) st.bun.slot))))
    ∧ (∀ o : BOff, st.inh = false → Spec.guarded st o.g o.gn → SlotReady (.eret o) s st →
        exec (.eret o) s = .next (s.withPkg (s.pkg.takeTrap s.er s.focus st 0x07 0 (st.syncTrap 0x07 0 st.bun.slot))))

namespace Sys2Proof.Spec

/-- n bytes at a window offset lie in the allocation of crew cu, and where they lie (R96). -/
abbrev Inside (p : Pkg) (cu off n : Nat) : Prop :=
  off / 2 ^ 18 < (p.launch (p.crew cu).launch).cpc ∧ off % 2 ^ 18 + n ≤ (p.launch (p.crew cu).launch).spad
def offAt (p : Pkg) (cu off : Nat) : Nat :=
  2 ^ 48 + (p.crew cu).cores.getD (off / 2 ^ 18) 0 * 2 ^ 18 + ((p.crew cu).spad.getD (off / 2 ^ 18) 0 + off % 2 ^ 18)

/-- No store is in flight, so that every agent sees memory itself, and granules have their homes in LPDDR-6 (R99, R114). -/
abbrev Settled (p : Pkg) : Prop := (∀ e ∈ p.accs, e.2.kind ≠ .store) ∧ ∀ e ∈ p.granules, e.1 < 2 ^ 32

/-- n bytes at window address va lie in the allocation of crew cu and in one 64 KiB unit, with no uncorrectable word and no store in
flight. -/
abbrev Clean (p : Pkg) (cu va n : Nat) : Prop :=
  0x7F0000000000 ≤ va ∧ va < 0x7F0000600000 ∧ Inside p cu (va - 0x7F0000000000) n ∧ va % 2 ^ 16 + n ≤ 2 ^ 16
  ∧ p.poisoned (offAt p cu (va - 0x7F0000000000)) n = none ∧ Settled p

end Sys2Proof.Spec

/-- R192, R242: what a bundle's end does with the pending transfer, once its last slot has committed and it has no header post: a jump goes
to its target, no transfer to the next address, and ERET returns, to the trapped bundle at the issue and slot of TSTAT when TV is 1, with
the words and the transfer of the trap sticky set, else to TPC afresh with no sticky word and no transfer. R39, R40, R243, R313, R320,
R415: END, IDLE, YIELD, PARK and CTXLOAD are made after that, by their own action. END of a strand whose accesses are performed ends
it, with its SATS marked in the launch, and the crew when it was the last. IDLE frees the run-queue slot and leaves the strand idle.
PARK writes the record into the slot; with no wait it is ready. YIELD with REQ 1 starts the save, forced if the deadline had passed;
else, once the turns that wait for this bundle are over, it gives the turn to the others, if any could issue. END of a strand that has
joined barriers arrives and drops on each: the phase completes when it was the last, else the barrier keeps it as arrived and to be
dropped. CTXLOAD of a block that CTXSAVE wrote leaves the strand as saved, with the latches captured for its issue; that it keeps its
depth, run-queue slot and banks, takes DIRTY from the block and waits for its accesses at HOST scope is log entries 7, 36 and 76. -/
def Obligations.BundleEndPerformsTheTransfer : Prop :=
  (∀ st : Strand,
    (st.pend = none → st.endBundle = { st with pc := st.bun.pc + BitVec.ofNat 64 (4 * bundleWords st.bun.header), phase := .boundary, bun := {} })
    ∧ (∀ a, st.pend = some (.jump a) → st.endBundle = { st with
        pc := a, phase := .boundary, pend := none, bun := {}, codeSeen := st.codeFence.getD st.codeSeen, codeFence := none })
    ∧ (st.pend = some .eret →
        let t := st.endBundle
        t.inh = false ∧ t.sup = st.trapSet.sup ∧ t.latch = [] ∧ t.pc = st.tpc.setWidth 64 ∧ t.phase = .boundary
        ∧ (st.tstat.getLsbD 9 = true → t.pend = st.trapSet.pend ∧ t.bun.rep = st.tstat.toNat / 16 % 32 ∧ t.bun.slot = st.tstat.toNat % 16
            ∧ t.bun.cur = st.trapSet.cur ∧ t.bun.granted = st.trapSet.granted ∧ t.bun.latch = st.trapSet.latch)
        ∧ (st.tstat.getLsbD 9 = false → t.pend = none ∧ t.sticky = [] ∧ t.bun = {}))
    ∧ (st.pend ∈ [some .endTask, some .idle] ∨ (∃ r l, st.pend = some (.yield r l)) ∨ (∃ l k w, st.pend = some (.park l k w))
        ∨ (∃ a, st.pend = some (.ctxload a)) → st.endBundle = { st with phase := .transfer }))
  ∧ (∀ (s : State) (st : Strand), s.focused st → st.run = .ready → st.phase = .transfer →
    let cl := st.core / 24
    let free (p : Pkg) : Pkg := match st.rslot with | some n => p.freeSlot cl n | none => p
    let idle : Strand := { st with
      run := .idle, rslot := none, sticky := [], pend := none, bun := {}, phase := .boundary, pc := 0, depth := 0, idleHandler := false, grant := none }
    let on : Strand := { st with pc := st.bun.pc + BitVec.ofNat 64 (4 * bundleWords st.bun.header), phase := .boundary, pend := none, bun := {} }
    let does (p : Pkg) : Prop := performTransfer s = .next (s.withPkg p)
    (st.pend = some .endTask → st.uid = s.focus → s.pkg.owed st 2 = [] → (∀ e ∈ s.pkg.accs, e.2.strand ≠ s.focus) →
      (s.pkg.launch (s.pkg.crew st.crew).launch).failed = false → (s.pkg.crew st.crew).st = .resident → st.async = [] →
      (s.pkg.cluster cl).rqWaits = [] → (∀ e ∈ (s.pkg.crew st.crew).barriers, st.idx ∉ e.2.mem) →
      let ln := (s.pkg.crew st.crew).launch
      ∃ p, does p ∧ p.mem = s.pkg.mem ∧ (∃ st', p.strands.find? s.focus = some st' ∧ st'.run = .ended ∧ st'.e = st.e)
        ∧ (p.launch ln).esats = ((s.pkg.launch ln).esats || st.e.any (fun r => r.2.getLsbD 15))
        ∧ ((∃ e ∈ s.pkg.strands, e.1 ≠ s.focus ∧ e.2.crew = st.crew ∧ e.2.run ≠ .ended) →
            (p.launch ln).done = (s.pkg.launch ln).done ∧ (p.crew st.crew).st = .resident)
        ∧ ((∀ e ∈ s.pkg.strands, e.1 ≠ s.focus → e.2.crew = st.crew → e.2.run = .ended) →
            (p.launch ln).done = (s.pkg.launch ln).done + 1 ∧ (p.crew st.crew).st = .ended ∧ (p.launch ln).tend = s.pkg.time))
    ∧ (∀ b k, st.pend = some .endTask → st.uid = s.focus → s.pkg.owed st 2 = [] → (∀ e ∈ s.pkg.accs, e.2.strand ≠ s.focus) →
      (∃ e ∈ s.pkg.strands, e.1 ≠ s.focus ∧ e.2.crew = st.crew ∧ e.2.run ≠ .ended) → st.async = [] →
      (s.pkg.cluster cl).rqWaits = [] → (s.pkg.crew st.crew).barriers.sorted →
      (s.pkg.crew st.crew).barriers.find? b = some k → st.idx ∈ k.mem → (∀ w ∈ s.pkg.unitWaits, w.kind ≠ 6) →
      let arrived := if st.idx ∈ k.arrived then k.arrived else k.arrived ++ [st.idx]
      let drops := if st.idx ∈ k.drops then k.drops else k.drops ++ [st.idx]
      let all : Prop := ∀ i ∈ k.mem, i ∈ arrived
      ∃ p, does p
        ∧ (all → (p.crew st.crew).barriers.find? b = some { mem := k.mem.filter (fun i => i ∉ drops), arrived := [], drops := [], phase := k.phase + 1 }
            ∧ ∀ w ∈ p.unitWaits, w.key ≠ barKey st.crew b)
        ∧ (¬ all → (p.crew st.crew).barriers.find? b = some { k with arrived := arrived, drops := drops }))
    ∧ (st.pend = some .idle → does (free (s.pkg.setStrand s.focus idle)))
    ∧ (∀ live k w, st.pend = some (.park live k w) → k < 4 → st.awaited = [] → s.pkg.owed st 2 = [] → s.pkg.parkUpset st k w = none →
        let n := st.rslot.getD (1024 + 4 * (st.core % 24) + st.sn)
        ∃ r p, does p ∧ (p.strands.find? s.focus).isSome ∧ (k = 0 → p.strands.find? s.focus = some idle)
          ∧ recN r 0 8 = on.pc.toNat ∧ recN r 8 4 = live.toNat ∧ recN r 12 1 = st.depth % 256 ∧ recN r 13 1 = k ∧ recN r 16 8 = w.toNat
          ∧ (∀ m, m < 16 →
              (((List.range 32).filter (fun j => live.getLsbD j))[m]?).all (fun j => recN r (32 + 8 * m) 8 == (st.getX j).toNat) = true)
          ∧ (k = 0 → p = ((s.pkg.setCluster cl { s.pkg.cluster cl with
              rq := RMap.put (s.pkg.cluster cl).rq n { crew := st.crew, st := .parked, bytes := r } }).setStrand s.focus idle).makeReady cl n)
          ∧ (k ≠ 0 → ((p.cluster cl).rq.find? n).any (fun x => x.crew == st.crew && x.bytes == r) = true))
    ∧ (∀ late, st.pend = some (.yield true late) → (s.pkg.crew st.crew).st = .resident →
        does ((s.pkg.setStrand s.focus on).setCrew st.crew { s.pkg.crew st.crew with st := .saving late, sealed := [] }))
    ∧ (∀ late, st.pend = some (.yield false late) →
        let p := (s.pkg.setStrand s.focus on).endTurns st.core s.focus
        (p.othersReady s.focus st = true → does (p.setStrand s.focus { on with run := .blocked .yieldTurn }))
        ∧ (p.othersReady s.focus st = false → does p))
    ∧ (∀ a e, st.pend = some (.ctxload a) → st.awaited = [] → s.pkg.owed st 6 = [] → a % 64 = 0 →
        Spec.Clean s.pkg st.crew a (8192 + 4096 * st.banks.length) →
        (s.pkg.ctx.find? (fun x => x.addr == Spec.offAt s.pkg st.crew (a - 0x7F0000000000)) = some e) → e.units = st.banks.length →
        s.pkg.bytes (Spec.offAt s.pkg st.crew (a - 0x7F0000000000)) (8192 + 4096 * st.banks.length)
          = (List.range (8192 + 4096 * st.banks.length)).map (Config.ctxByte e.strand) →
        ∃ b, does ((s.pkg.mendRegs s.focus st).setStrand s.focus b) ∧ b.x = e.strand.x ∧ b.p = e.strand.p ∧ b.m = e.strand.m ∧ b.e = e.strand.e
          ∧ b.q = e.strand.q.mapVals (fun l => l.map (fun x => { val := x.val })) ∧ b.dirty = e.strand.dirty ∧ b.bun.latch = e.strand.bun.latch
          ∧ b.v = e.strand.v ∧ b.fmt = e.strand.fmt ∧ b.sup = e.strand.sup ∧ b.inh = e.strand.inh ∧ b.pc = e.strand.pc
          ∧ b.tcause = e.strand.tcause ∧ b.tpc = e.strand.tpc ∧ b.tval = e.strand.tval ∧ b.tstat = e.strand.tstat ∧ b.tvec = e.strand.tvec
          ∧ b.tscr = e.strand.tscr ∧ b.trapSet = { e.strand.trapSet with l3acc := none, l3lost := none } ∧ b.sticky = e.strand.sticky ∧ b.latch = [] ∧ b.run = .ready
          ∧ b.crew = st.crew ∧ b.core = st.core ∧ b.banks = st.banks ∧ b.rslot = st.rslot ∧ b.depth = st.depth))

/-- The frame of the B slot for the instructions that do not trap, with no ERET pending: no register of any kind but p[pd] of a compare or
a predicate instruction, x31 of BRL and JRL and x30 of LOOP; nothing outside the strand. -/
def Obligations.ControlFrame : Prop :=
  ∀ (i : Instr) (s t : State) (st : Strand),
    SlotReady i s st → st.pend ≠ some .eret → exec i s = .next t →
    (match i with
      | .br o | .brl o | .loop o | .endTask o | .idle o | .yield o => Spec.guarded st o.g o.gn
      | .jr o | .jrl o => Spec.guarded st o.g o.gn ∧ (st.getX o.a.toNat).toNat % 4 = 0
      | _ => ∃ o b, Spec.predicate st i = some (o, b) ∧ Spec.guarded st o.g o.gn) →
    ∃ st', t.focused st' ∧ Spec.RestAlone s t
      ∧ (∀ r, r ≠ (match i with | .brl _ | .jrl _ => 31 | .loop _ => 30 | _ => 32) → st'.getX r = st.getX r)
      ∧ (∀ n, (∀ o b, Spec.predicate st i = some (o, b) → n ≠ o.pd.toNat) → st'.getP n = st.getP n)
      ∧ (∀ n, st'.getM n = st.getM n) ∧ (∀ n, st'.getE n = st.getE n) ∧ (∀ n, st'.getV n = st.getV n) ∧ st'.latch = st.latch
      ∧ (st'.issues = st.issues → ∀ n, st'.getQ n = st.getQ n)
      ∧ st'.fmt = st.fmt ∧ st'.tcause = st.tcause ∧ st'.tpc = st.tpc ∧ st'.tval = st.tval ∧ st'.tstat = st.tstat ∧ st'.tvec = st.tvec
      ∧ st'.tscr = st.tscr ∧ st'.trapSet = st.trapSet ∧ st'.sup = st.sup ∧ st'.inh = st.inh

/-! ### Traps -/

namespace Sys2Proof.Spec

/-- Strand st can be given to its handler: no handler runs, and it has one (R355, R360). Its launch has not failed (R363). -/
abbrev Deliverable (s : State) (st : Strand) : Prop :=
  st.inh = false ∧ st.tvec ≠ 0 ∧ (s.pkg.launch (s.pkg.crew st.crew).launch).failed = false

/-- The entry writes of R241 and R355 with the given cause, value, address and TSTAT: TPC, TCAUSE, TVAL and TSTAT; INH 1, the mode kept
with the trap sticky set; the live sticky words NOP and no transfer pending; the latches invalid; execution goes on at TVEC. -/
def Entered (old new : Strand) (cause : Nat) (tval pc : X) (tv : Bool) (rep slot : Nat) : Prop :=
  new.tpc = pc.setWidth 48 &&& 0xFFFFFFFFFFFC#48 ∧ new.tcause = BitVec.ofNat 8 cause ∧ new.tval = tval
  ∧ new.tstat = BitVec.ofNat 10 (512 * tv.toNat + 16 * rep + slot)
  ∧ new.inh = true ∧ new.trapSet.sup = old.sup ∧ new.trapSet.pend = old.pend
  ∧ new.sticky = [] ∧ new.pend = none ∧ new.latch = [] ∧ new.pc = old.tvec.setWidth 64 ∧ new.phase = .boundary ∧ new.run = .ready

/-- A slot of instruction i passes every register check but that of room for its push (R370 steps 1 to 5). -/
abbrev Passes (i : Instr) (s : State) (st : Strand) : Prop :=
  WellFormed st.bun.lits i ∧ (∀ c ∈ vCodes i, isV c = true → c.toNat / 64 < st.banks.length)
  ∧ (∀ n ∈ latchesRead (foot i) (sLatches i), (st.bun.latch.find? n).isSome = true)
  ∧ (∀ c ∈ st.slotCapt st.bun.slot, c.ent.isSome = true) ∧ st.waits (foot i) (sLatches i) = []
  ∧ st.spoiled s.focus s.pkg.poison i = false

/-- What no trap entry touches: x, p, m, e and v registers, the format latch, TVEC, TSCR and the window. -/
abbrev EntryFrame (old new : Strand) : Prop :=
  new.x = old.x ∧ new.p = old.p ∧ new.m = old.m ∧ new.e = old.e ∧ new.v = old.v ∧ new.fmt = old.fmt ∧ new.tvec = old.tvec
  ∧ new.tscr = old.tscr ∧ new.banks = old.banks ∧ new.shadow = old.shadow

end Sys2Proof.Spec

/-- R193, R355, R64: a synchronous trap at slot k of issue r enters the handler with TV 1, REP r and SLOT k; the words of the issue go to
the trap sticky set, and the registers stand as the slots before it left them. The pops made for the slots that have not committed are
put back at the head of their queues, in their original order; peeks, and pops of slots that have committed, put nothing back. -/
def Obligations.SynchronousTrapEntry : Prop :=
  (∀ (st : Strand) (cause : Nat) (tval : X) (k : Nat), k < 16 → st.bun.rep < 32 →
    Spec.Entered st (st.syncTrap cause tval k) cause tval st.bun.pc true st.bun.rep k
    ∧ (st.syncTrap cause tval k).trapSet.cur = st.bun.cur ∧ Spec.EntryFrame st (st.syncTrap cause tval k))
  ∧ (∀ (st : Strand) (q k : Nat),
    (st.putBack k).getQ q = (st.bun.capt.filter (fun c => c.pop && decide (k ≤ c.slot) && c.q == q)).filterMap (fun c => c.ent) ++ st.getQ q)

/-- R355, R364: a deliverable trap goes to the strand's handler; it is counted in its launch, but for SVC and BRK, and nothing of the
package but that strand and the launches changes. -/
def Obligations.DeliverableTrapIsTaken : Prop :=
  ∀ (s : State) (st e : Strand) (cause : Nat) (tval : X),
    Spec.Deliverable s st →
    let t := s.pkg.takeTrap s.er s.focus st cause tval e
    t = { s.pkg with strands := RMap.put s.pkg.strands s.focus e, launches := t.launches }
    ∧ t.strands.find? s.focus = some e ∧ (∀ u, u ≠ s.focus → t.strands.find? u = s.pkg.strands.find? u)
    ∧ (let ln := (s.pkg.crew st.crew).launch
       (cause = 0x38 ∨ cause = 0x39 → t.launches = s.pkg.launches)
       ∧ (cause ≠ 0x38 → cause ≠ 0x39 →
          (t.launch ln).faults = min ((s.pkg.launch ln).faults + 1) (2 ^ 32 - 1)
          ∧ ((s.pkg.launch ln).first = none → (t.launch ln).first = some
              { time := s.pkg.time, cause := cause, core := st.core, sn := st.sn, pc := e.tpc.toNat, val := tval })
          ∧ ∀ n, n ≠ ln → t.launch n = s.pkg.launch n))

/-- R241: TRAP, SVC and BRK, ready and guarded, trap at the B slot: causes 0x3A, 0x38 and 0x39, TVAL the code, TSTAT TV 1, REP 0, SLOT 2;
SVC enters supervisor mode, the others keep the mode. Guarded off, they do nothing. -/
def Obligations.DeliberateTraps : Prop :=
  ∀ (i : Instr) (o : BPred) (cause : Nat) (s : State) (st : Strand),
    (i = .trap o ∧ cause = 0x3A) ∨ (i = .svc o ∧ cause = 0x38) ∨ (i = .brk o ∧ cause = 0x39) → SlotReady i s st →
    (Spec.guarded st o.g o.gn →
      ∃ e, exec i s = .next (s.withPkg (s.pkg.takeTrap s.er s.focus st cause (o.imm.setWidth 64) e))
        ∧ Spec.Entered st e cause (o.imm.setWidth 64) st.bun.pc true 0 2 ∧ Spec.EntryFrame st e
        ∧ e.sup = (if cause = 0x38 then true else st.sup))
    ∧ (¬ Spec.guarded st o.g o.gn → exec i s = .next (s.bDone st))

/-- R370 steps 1, 3, 4, 5 and 9, R379 to R381: a slot that names an illegal field, a vector register outside the window, an invalid
latch or an empty queue traps with 0x02, 0x03, 0x06 or 0x05, in that order of precedence, and commits nothing; TVAL is the value of an
offending field, the code, the latch number or the queue number. A slot that passes every other check and pushes to a queue of 8 entries
takes 0x04 with the queue number. The instruction is any whose slot has no check of its own before these; what chk and eff add comes
after the first four. -/
def Obligations.RegisterChecksTrap : Prop :=
  ∀ (i : Instr) (s : State) (st : Strand) (eff : Strand → Strand) (chk : State → Strand → Option Stop) (effU : State → Strand → Res)
    (out : Host.Outcome State Fault Refusal),
    s.focused st → st.untrapped → st.wordClean i →
    out = onSlot i (fun _ => []) noPv eff s ∨ out = onUnit i noFx noPv chk effU s →
    let traps (cause : Nat) (is : Nat → Prop) : Prop := ∃ v, is v ∧ out = .next { s with
      pkg := s.pkg.takeTrap s.er s.focus st cause (BitVec.ofNat 64 v) (st.syncTrap cause (BitVec.ofNat 64 v) st.bun.slot) }
    let outside (v : Nat) : Prop := ∃ c ∈ vCodes i, isV c = true ∧ st.banks.length ≤ c.toNat / 64 ∧ c.toNat = v
    (badFields st.bun.lits i ≠ [] → traps 0x02 (fun v => v ∈ badFields st.bun.lits i))
    ∧ (badFields st.bun.lits i = [] → (∃ c ∈ vCodes i, isV c = true ∧ st.banks.length ≤ c.toNat / 64) → traps 0x03 outside)
    ∧ (badFields st.bun.lits i = [] → (∀ c ∈ vCodes i, isV c = true → c.toNat / 64 < st.banks.length) →
        (∃ n ∈ latchesRead (foot i) (sLatches i), st.bun.latch.find? n = none ∧ (n = 3 → st.bun.l3acc = none)) →
          traps 0x06 (fun v => v ∈ latchesRead (foot i) (sLatches i) ∧ st.bun.latch.find? v = none))
    ∧ (badFields st.bun.lits i = [] → (∀ c ∈ vCodes i, isV c = true → c.toNat / 64 < st.banks.length) →
        (∀ n ∈ latchesRead (foot i) (sLatches i), (st.bun.latch.find? n).isSome = true) →
        ∀ c l l', st.slotCapt st.bun.slot = l ++ c :: l' → c.ent = none → (∀ d ∈ l, d.ent ≠ none) → traps 0x05 (fun v => v = c.q))
    ∧ (∀ d, (foot i).vw = some d → isQ d = true → (foot i).nw = false → (st.getQ (d.toNat - 1008)).length = 8 →
        (out = onSlot i (fun _ => []) noPv eff s ∨ chk s st = none) → Spec.Passes i s st → traps 0x04 (fun v => v + 1008 = d.toNat))

/-! ### The V slots -/

namespace Sys2Proof.Spec

/-- The operands of R252, R253, R256, R261, R267 and R268: the codes read, in field order; whether the exact value is saturated (else it wraps);
and the exact value of a lane, from the mask and the operands. A value that no lane of the type can exceed is marked as saturated: it
never is. A quotient by 0 is a value beyond the bound that R70 gives. -/
def vrec : Instr → Option (VOps × List (BitVec 10) × Bool × (X → List Src → Nat → Int)) :=
  let t (o : VOps) : Nat := o.ty.toNat
  let one (o : VOps) (sat : Bool) (f : Int → Int) := some (o, [o.a], sat, fun (_ : X) (l : List Src) i => f ((srcAt l 0).elt (t o) i))
  let two (o : VOps) (sat : Bool) (f : Int → Int → Int) :=
    some (o, [o.a, o.b], sat, fun (_ : X) (l : List Src) i => f ((srcAt l 0).elt (t o) i) ((srcAt l 1).elt (t o) i))
  let three (o : VOps) (sat : Bool) (f : Int → Int → Int → Int) :=
    some (o, [o.a, o.b, o.c], sat,
      fun (_ : X) (l : List Src) i => f ((srcAt l 0).elt (t o) i) ((srcAt l 1).elt (t o) i) ((srcAt l 2).elt (t o) i))
  let sh (o : VOps) (sat : Bool) (f : Int → Nat → Int) :=
    some (o, [o.a, o.b], sat, fun (_ : X) (l : List Src) i => f ((srcAt l 0).elt (t o) i) ((srcAt l 1).lane (tyW (t o)) i))
  fun i => match i with
  | .vadd o => two o false (fun a b => a + b)
  | .vsub o => two o false (fun a b => a - b)
  | .vadds o => two o true (fun a b => a + b)
  | .vsubs o => two o true (fun a b => a - b)
  | .vneg o => one o true (fun a => -a)
  | .vabs o => one o true (fun a => |a|)
  | .vmul o => two o false (fun a b => a * b)
  | .vmulh o => two o true (fun a b => a * b / 2 ^ tyW (t o))
  | .vmulq o => two o true (fun a b => rne (a * b) (tyW (t o) - (if tySigned (t o) then 1 else 0)))
  | .vmac o => three o false (fun a b c => a * b + c)
  | .vmacs o => three o true (fun a b c => a * b + c)
  | .vmin o => two o true min
  | .vmax o => two o true max
  | .vavg o => two o true (fun a b => (a + b + 1) / 2)
  | .vabsd o => two o true (fun a b => |a - b|)
  | .vdiv o =>
    let hi := fmtMax (tySigned (t o)) (tyW (t o))
    let lo := fmtMin (tySigned (t o)) (tyW (t o))
    two o true (fun a b => if b = 0 then (if a = 0 then 0 else if 0 < a then hi + 1 else lo - 1) else a.tdiv b)
  | .vshl o => sh o false (fun a n => a * 2 ^ n)
  | .vshr o => sh o false (fun a n => a % 2 ^ tyW (t o) / 2 ^ n)
  | .vsha o => sh o true (fun a n => a / 2 ^ n)
  | .vshrr o => sh o true (fun a n => rne a n)
  | .vshrs o =>
    some (o, [o.a, o.b, o.c], true,
      fun _ l i => stoch ((srcAt l 0).elt (t o) i) ((srcAt l 1).lane (tyW (t o)) i) (keyOf (srcAt l 2) i))
  | .vshls o => sh o true (fun a n => a * 2 ^ n)
  | .vnorm o => sh o true (fun a n =>
      let c : Int := (BitVec.ofNat (tyW (t o)) n).toInt
      if 0 < c then a * 2 ^ c.toNat else rne a (-c))
  | .vclamp o => three o true (fun a b c => min (max a b) c)
  | .vscan o =>
    some (o, [o.a, o.b], true, fun m l i => (srcAt l 1).elt (t o) 0
      + ((List.range (i + 1)).map (fun j => if laneOn m (tyW (t o)) j then (srcAt l 0).elt (t o) j else 0)).sum)
  | .vcvt o => some (o, [o.a], true, fun _ l i => (srcAt l 0).elt (if t o % 2 = 0 then t o + 1 else t o - 1) i)
  | .vpack o =>
    let n := 512 / tyW (t o)
    let t2 := t o - t o % 2 + 2
    some (o, [o.a, o.b], true, fun _ l i => if i < n / 2 then (srcAt l 0).elt t2 i else (srcAt l 1).elt t2 (i - n / 2))
  | .vquant o =>
    some (o, [o.a, o.b, o.c], true, fun _ l i => stoch ((srcAt l 0).elt 6 i) ((srcAt l 1).lane 32 i) (keyOf (srcAt l 2) i))
  | _ => none

/-- What a recording instruction leaves (R72, R77, R246, R249): the exact lane values f, saturated in type tc or wrapped, stored in the active
lanes of type ts; SATS of e set when an active lane was clamped; the census of the active lanes as stored. -/
def recorded (st : Strand) (o : VOps) (tc ts : Nat) (sat : Bool) (f : Nat → Int) : Strand :=
  let m := st.getM o.mask.toNat
  let w := tyW ts
  let on := (List.range (512 / w)).filter (laneOn m w)
  let v (i : Nat) : Int := if sat then satTo (tySigned tc) (tyW tc) (f i) else readFmt (tySigned ts) w (wrapBits w (f i))
  let st := st.satsIf o.e.toNat (on.any (fun i => sat && decide (v i ≠ f i)))
  let st := st.census o.e.toNat (on.map (fun i => rsb (tySigned ts) w (v i)))
  st.vresult o.d o.nw (ofLanes w (512 / w) (fun i => if laneOn m w i then wrapBits w (v i) else laneOf (st.old o.d) w i))

end Sys2Proof.Spec

namespace Sys2Proof.Spec

/-- MIX32 (R74), on 32-bit values. -/
def mix (x : BitVec 32) : BitVec 32 :=
  let x := x ^^^ (x >>> 16)
  let x := x * 0x7FEB352D#32
  let x := x ^^^ (x >>> 15)
  let x := x * 0x846CA68B#32
  x ^^^ (x >>> 16)

/-- RNE(v, s) (R73). -/
def rnd (v s : Int) : Int :=
  if s ≤ 0 then v * 2 ^ (-s).toNat
  else
    let d := v / 2 ^ s.toNat
    let r := v % 2 ^ s.toNat
    if 2 * r > 2 ^ s.toNat ∨ (2 * r = 2 ^ s.toNat ∧ d % 2 = 1) then d + 1 else d

/-- EXP2_Q16 (R83), with the constants of R82. -/
def exp2 (x : Int) : Int × Bool :=
  let f15 := x % 2 ^ 16 / 2
  let t := f15 * 2562 / 2 ^ 15
  let t := f15 * (7406 + t) / 2 ^ 15
  let t := f15 * (22800 + t) / 2 ^ 15
  let y := rnd (0x8000 + t) (-(x / 2 ^ 16 + 1))
  if y > 2 ^ 31 - 1 then (2 ^ 31 - 1, true) else (y, false)

/-- CLZ32 of a nonzero value (R81). -/
def clz (x : Int) : Nat := 32 - Nat.size x.toNat

/-- f applied three times. -/
def thrice (f : Int → Int) (x : Int) : Int := f (f (f x))

/-- LOG2_Q16 (R84). -/
def log2 (x : Int) : Int × Bool :=
  if x = 0 then (-2 ^ 31, true)
  else
    let m := x * 2 ^ clz x / 2
    let y := thrice (fun y => y + (m * (exp2 (-(y / 2 ^ 14))).1 / 2 ^ 16 - 2 ^ 30) * 0x5C551D95 / 2 ^ 30) (m - 2 ^ 30)
    (rnd ((15 - (clz x : Int)) * 2 ^ 30 + y) 14, false)

/-- DIVQ (R85): a * 2^s / b. -/
def quot (a b s : Int) : Int × Bool :=
  if b = 0 then (if a > 0 then (2 ^ 31 - 1, true) else if a < 0 then (-2 ^ 31, true) else (0, false))
  else
    let c := clz |b|
    let m := |b| * 2 ^ c / 2 ^ 2
    let z := thrice (fun z => z + z * (2 ^ 30 - m * z / 2 ^ 30) / 2 ^ 30) (0xB4B4B4B5 - 0x78787878 * m / 2 ^ 30)
    let g := rnd (|a| * z) (62 - (c : Int) - s)
    let g := if (a < 0) ≠ (b < 0) then -g else g
    let y := max (-2 ^ 31) (min (2 ^ 31 - 1) g)
    (y, decide (y ≠ g))

/-- RSQ (R86): 2^s / sqrt(x). -/
def root (x s : Int) : Int × Bool :=
  if x = 0 then (2 ^ 31 - 1, true)
  else if x < 0 then (0, true)
  else
    let e := clz x / 2
    let m := x * 2 ^ (2 * e) / 2 ^ 2
    let z := thrice (fun z => z * (3 * 2 ^ 30 - m * (z * z / 2 ^ 30) / 2 ^ 30) / 2 ^ 31) (0x8D400000 - 0x55555555 * m / 2 ^ 30)
    let g := rnd z (46 - s - (e : Int))
    let y := max (-2 ^ 31) (min (2 ^ 31 - 1) g)
    (y, decide (y ≠ g))

end Sys2Proof.Spec

/-- R67 to R76, R81 to R86: the arithmetic that the vector, matrix and copy rules are written in. SAT clamps to the bounds of the type; WRAP is the
representative of the value in the type; RNE rounds half to even; STOCH rounds up when MIX32 of the key is below the 32 bits of the
fraction; the census counts the redundant sign bits, those k for which the value fits in w - 1 - k bits (signed), at most w - 1. MIX32 and
the routines EXP2_Q16, LOG2_Q16, RCP, DIVQ and RSQ give what their pseudocode gives, on 32-bit inputs and a shift of -64 to 127. -/
def Obligations.ArithmeticPrimitives : Prop :=
  (∀ sg w v, 0 < w → satTo sg w v = max (fmtMin sg w) (min (fmtMax sg w) v))
  ∧ (∀ sg w v, 0 < w → fmtMin sg w ≤ readFmt sg w (wrapBits w v) ∧ readFmt sg w (wrapBits w v) ≤ fmtMax sg w
      ∧ (readFmt sg w (wrapBits w v) - v) % 2 ^ w = 0)
  ∧ (∀ (v s : Int), |v| < 2 ^ 200 →
      (s ≤ 0 → s > -256 → rne v s = v * 2 ^ (-s).toNat)
      ∧ (0 < s → let d := v / 2 ^ s.toNat
          let r := v % 2 ^ s.toNat
          rne v s = if 2 * r > 2 ^ s.toNat ∨ (2 * r = 2 ^ s.toNat ∧ d % 2 = 1) then d + 1 else d))
  ∧ (∀ (v : Int) (s : Nat) (key : Nat), |v| < 2 ^ 200 → 0 < s →
      stoch v s key = v / 2 ^ s + if (mix32 key : Int) < v % 2 ^ s * 2 ^ 32 / 2 ^ s then 1 else 0)
  ∧ (∀ w v, 1 < w → fmtMin true w ≤ v → v ≤ fmtMax true w →
      rsb true w v = (List.range (w - 1)).countP (fun k => decide (-(2 ^ (w - 2 - k)) ≤ v ∧ v < 2 ^ (w - 2 - k))))
  ∧ (∀ w v, 1 < w → 0 ≤ v → v ≤ fmtMax false w →
      rsb false w v = (List.range (w - 1)).countP (fun k => decide (v < 2 ^ (w - 1 - k))))
  ∧ (∀ k, mix32 k = (Spec.mix (BitVec.ofNat 32 k)).toNat)
  ∧ (∀ x : Int, -2 ^ 31 ≤ x → x < 2 ^ 31 → exp2Q16 x = Spec.exp2 x)
  ∧ (∀ x : Int, 0 ≤ x → x < 2 ^ 32 → log2Q16 x = Spec.log2 x)
  ∧ (∀ a b s : Int, -2 ^ 31 ≤ a → a < 2 ^ 31 → -2 ^ 31 ≤ b → b < 2 ^ 31 → -64 ≤ s → s ≤ 127 →
      divq a b s = Spec.quot a b s ∧ rcp b s = Spec.quot 1 b s ∧ rsq b s = Spec.root b s)

/-- R252, R253, R256, R261, R267, R268: a ready slot of one of the recording instructions commits with the lanes, the SATS and the census
that the tables give. VQUANT clamps to its type and stores s32 lanes. -/
def Obligations.VectorRecordResults : Prop :=
  ∀ (i : Instr) (s : State) (st : Strand) (o : VOps) (codes : List (BitVec 10)) (sat : Bool) (f : X → List Src → Nat → Int),
    Spec.vrec i = some (o, codes, sat, f) → SlotReady i s st →
    exec i s = .next (s.slotDone i (Spec.recorded st o o.ty.toNat (if i = .vquant o then 6 else o.ty.toNat) sat
      (f (st.getM o.mask.toNat) (st.srcs codes))))

/-- R262: a ready slot of a routine instruction commits with the routine's value and its bit sat in each active lane, its census in s32. The
shift of VRCPQ, VRSQQ and VDIVQ is clamped to -64 to 127. -/
def Obligations.VectorRoutineResults : Prop :=
  ∀ (o : VOps) (s : State) (st : Strand),
    let m := st.getM o.mask.toNat
    let on := (List.range 16).filter (fun i => m.getLsbD i)
    let lane (l : List Src) (k i : Nat) : Int := (srcAt l k).elt 6 i
    let shift (l : List Src) (k i : Nat) : Int := max (-64) (min 127 (lane l k i))
    let done (i : Instr) (f : Nat → Int × Bool) : Prop := SlotReady i s st →
      exec i s = .next (s.slotDone i (((st.satsIf o.e.toNat (on.any (fun i => (f i).2))).census o.e.toNat
        (on.map (fun i => rsb true 32 (f i).1))).vresult o.d o.nw
          (ofLanes 32 16 (fun i => if m.getLsbD i then wrapBits 32 (f i).1 else laneOf (st.old o.d) 32 i))))
    (let l := st.srcs [o.a]
     done (.vexp2q o) (fun i => exp2Q16 (lane l 0 i)) ∧ done (.vlog2q o) (fun i => log2Q16 ((srcAt l 0).lane 32 i)))
    ∧ (let l := st.srcs [o.a, o.b]
       done (.vrcpq o) (fun i => rcp (lane l 0 i) (shift l 1 i)) ∧ done (.vrsqq o) (fun i => rsq (lane l 0 i) (shift l 1 i)))
    ∧ (let l := st.srcs [o.a, o.b, o.c]
       done (.vdivq o) (fun i => divq (lane l 0 i) (lane l 1 i) (shift l 2 i)))

namespace Sys2Proof.Spec

/-- The instructions of R251, R256, R258 and R264, which put bits in each active lane and record nothing: the codes read and the bits of a
lane of the type. n is the number of lanes. -/
def vbits : Instr → Option (VOps × List (BitVec 10) × (List Src → Nat → Nat)) :=
  let a (o : VOps) (l : List Src) (i : Nat) : Nat := (srcAt l 0).lane (tyW o.ty.toNat) i
  let b (o : VOps) (l : List Src) (i : Nat) : Nat := (srcAt l 1).lane (tyW o.ty.toNat) i
  let c (o : VOps) (l : List Src) (i : Nat) : Nat := (srcAt l 2).lane (tyW o.ty.toNat) i
  let n (o : VOps) : Nat := 512 / tyW o.ty.toNat
  let ones (o : VOps) : Nat := 2 ^ tyW o.ty.toNat - 1
  -- element j of the 2n lanes f and then g
  let pair (o : VOps) (f g : Nat → Nat) (j : Nat) : Nat := if j < n o then f j else if j < 2 * n o then g (j - n o) else 0
  fun i => match i with
  | .vmov o => some (o, [o.a], a o)
  | .vand o => some (o, [o.a, o.b], fun l i => a o l i &&& b o l i)
  | .vor o => some (o, [o.a, o.b], fun l i => a o l i ||| b o l i)
  | .vxor o => some (o, [o.a, o.b], fun l i => a o l i ^^^ b o l i)
  | .vandn o => some (o, [o.a, o.b], fun l i => a o l i &&& (b o l i ^^^ ones o))
  | .vnot o => some (o, [o.a], fun l i => a o l i ^^^ ones o)
  | .vsel o => some (o, [o.a, o.b, o.c], fun l i => if c o l i ≠ 0 then a o l i else b o l i)
  | .vpopc o => some (o, [o.a], fun l i => (List.range (tyW o.ty.toNat)).countP (fun j => (a o l i).testBit j))
  | .vclz o => some (o, [o.a], fun l i => tyW o.ty.toNat - Nat.size (a o l i))
  | .vsplat o => some (o, [o.a, o.b], fun l _ => a o l (b o l 0 % n o))
  | .viota o => some (o, [o.a], fun l i => a o l 0 + i * (o.e.toNat + 1))
  | .vins o => some (o, [o.a, o.b, o.c], fun l i => if i = b o l 0 % n o then a o l 0 else c o l i)
  | .vperm o => some (o, [o.a, o.b, o.c], fun l i => pair o (a o l) (c o l) (b o l i % (2 * n o)))
  | .vslide o => some (o, [o.a, o.b, o.c], fun l i => pair o (a o l) (b o l) (i + c o l 0 % (2 * n o)))
  | .vzip o => some (o, [o.a, o.b], fun l i =>
      let j := i / 2 + (if o.e.getLsbD 0 then n o / 2 else 0)
      if i % 2 = 0 then a o l j else b o l j)
  | .vunzip o => some (o, [o.a, o.b], fun l i => pair o (a o l) (b o l) (2 * i + (if o.e.getLsbD 0 then 1 else 0)))
  | .vmix o => some (o, [o.a], fun l i => mix32 ((srcAt l 0).lane 32 i))
  | _ => none

end Sys2Proof.Spec

/-- R251, R256, R258, R264: a ready slot of one of these commits; an active lane takes the bits that the tables give, an inactive lane its
old value, and nothing is recorded. -/
def Obligations.VectorBitResults : Prop :=
  ∀ (i : Instr) (s : State) (st : Strand) (o : VOps) (codes : List (BitVec 10)) (f : List Src → Nat → Nat),
    Spec.vbits i = some (o, codes, f) → SlotReady i s st →
    exec i s = .next (s.slotDone i (st.vresult o.d o.nw
      (ofLanes (tyW o.ty.toNat) (512 / tyW o.ty.toNat) (fun i =>
        if laneOn (st.getM o.mask.toNat) (tyW o.ty.toNat) i then f (st.srcs codes) i else laneOf (st.old o.d) (tyW o.ty.toNat) i))))

/-- R257: a ready compare commits: all ones or 0 in each active lane; with e[3], bit k of the mask register e[2:0] is the result of the
lane it governs, for 4-bit types the AND of two, its old value where k is inactive, and 0 beyond the lanes. -/
def Obligations.VectorCompareResults : Prop :=
  ∀ (o : VOps) (s : State) (st : Strand),
    let t := o.ty.toNat
    let w := tyW t
    let m := st.getM o.mask.toNat
    let l := st.srcs [o.a, o.b]
    let n := if w = 4 then 64 else 512 / w
    let done (i : Instr) (r : Int → Int → Bool) : Prop := SlotReady i s st →
      let rel (j : Nat) : Bool := r ((srcAt l 0).elt t j) ((srcAt l 1).elt t j)
      let v := ofLanes w (512 / w) (fun j => if laneOn m w j then (if rel j then 2 ^ w - 1 else 0) else laneOf (st.old o.d) w j)
      ∃ mask : X,
        (∀ k < 64, mask.getLsbD k = (decide (k < n) &&
          (if m.getLsbD k then (if w = 4 then rel (2 * k) && rel (2 * k + 1) else rel k) else (st.getM (o.e.toNat % 8)).getLsbD k)))
        ∧ exec i s = .next (s.slotDone i ((if o.e.getLsbD 3 then st.setM (o.e.toNat % 8) mask else st).vresult o.d o.nw v))
    done (.vcmpeq o) (fun a b => decide (a = b)) ∧ done (.vcmpne o) (fun a b => decide (a ≠ b))
    ∧ done (.vcmplt o) (fun a b => decide (a < b)) ∧ done (.vcmple o) (fun a b => decide (a ≤ b))

namespace Sys2Proof.Spec

/-- A 64-bit result in bits [63:0] of a vector, 0 above (R259, R260). -/
def low (v : Int) : V := (BitVec.ofInt 64 v).setWidth 512

/-- The sum of f over the lanes i that belong to representative q in window W (R265). -/
def members (t : Nat) (m : X) (ix : Src) (win q : Nat) (f : Nat → Int) : Int :=
  ((List.range (512 / tyW t)).map (fun i =>
    if laneOn m (tyW t) i ∧ ix.lane 8 i = win * (512 / tyW t) + q then f i else 0)).sum

/-- The running maximum of the first-row form of VMAPCNT before lane i (R265). -/
def firstCarry (m : X) (w : Nat) (ix : Src) (c0 : Int) : Nat → Int
  | 0 => c0
  | i + 1 => if laneOn m w i then max (firstCarry m w ix c0 i) (ix.lane 8 i) else firstCarry m w ix c0 i

end Sys2Proof.Spec

/-- R259, R260, R263, R265, R267: a ready slot of an instruction that writes its whole register, or lanes of another width, commits with
this result. VREDADD alone marks a scale register: SATS when the total is clamped. R251, R255: a
ready VNOP commits with no effect; a ready VCENS writes the census of the active lanes into its scale register and nothing else, no
latch and no SATS. -/
def Obligations.VectorWholeResults : Prop :=
  (∀ (o : VOps) (s : State) (st : Strand),
     let t := o.ty.toNat
     let w := tyW t
     let sg := tySigned t
     let n := 512 / w
     let m := st.getM o.mask.toNat
     let active := (List.range n).filter (laneOn m w)
     let win := o.e.toNat % 16
     let old := st.old o.d
     let done (i : Instr) (st' : Strand) (v : V) : Prop := SlotReady i s st → exec i s = .next (s.slotDone i (st'.vresult o.d o.nw v))
     let l1 := st.srcs [o.a]
     let lab := st.srcs [o.a, o.b]
     let lac := st.srcs [o.a, o.c]
     let lbc := st.srcs [o.b, o.c]
     let l3 := st.srcs [o.a, o.b, o.c]
     let total := ((srcAt lac 1).lane 64 0 : Int) - (if (srcAt lac 1).lane 64 0 < 2 ^ 63 then 0 else 2 ^ 64)
       + (active.map (fun i => (srcAt lac 0).elt t i)).sum
     let kept := max (-2 ^ 63) (min (2 ^ 63 - 1) total)
     done (.vext o) st (Spec.low ((srcAt lab 0).elt t ((srcAt lab 1).lane w 0 % n)))
     ∧ done (.vredadd o) (if kept = total then st else st.sats o.e.toNat) (Spec.low kept)
     ∧ done (.vredmax o) st (Spec.low ((active.map (fun i => (srcAt l1 0).elt t i)).foldr max (fmtMin sg w)))
     ∧ done (.vredmin o) st (Spec.low ((active.map (fun i => (srcAt l1 0).elt t i)).foldr min (fmtMax sg w)))
     ∧ done (.vmcount o) st (Spec.low active.length)
     ∧ done (.vhash o) st (
         let r (j : Nat) : Int := if j < o.e.toNat % 16 then
             satTo true 32 ((srcAt l3 2).elt 6 j + (active.map (fun k =>
               if (mix32 ((srcAt l3 1).lane 32 0 + k + (srcAt l3 1).lane 32 1 * 0x9E3779B9)).testBit j then -(srcAt l3 0).elt t k
               else (srcAt l3 0).elt t k)).sum)
           else 0
         let code : Int := ((List.range (o.e.toNat % 16)).map (fun j => if r j < 0 then (2 : Int) ^ j else 0)).sum
         ofLanes 32 16 (fun j => wrapBits 32 (if j = 15 ∧ o.e.getLsbD 4 = true then code else r j)))
     ∧ done (.vsegsum o) st (ofLanes w n (fun q => wrapBits w (satTo sg w
         ((srcAt l3 2).elt t q + Spec.members t m (srcAt l3 1) win q (fun i => (srcAt l3 0).elt t i)))))
     ∧ done (.vmapcnt o) st (ofLanes w n (fun q => wrapBits w (satTo sg w
         ((srcAt lbc 1).elt t q + Spec.members t m (srcAt lbc 0) win q (fun _ => 1)))))
     ∧ done (.vmapcntFirst o) st (ofLanes w n (fun i => if laneOn m w i then
         (if ((srcAt lbc 0).lane 8 i : Int) > Spec.firstCarry m w (srcAt lbc 0) ((srcAt lbc 1).elt 6 0) i then 2 ^ w - 1 else 0)
         else laneOf old w i))
     ∧ (let l := if o.e.getLsbD 4 then l3 else lab
        done (.vmapscat o) st (ofLanes w n (fun i =>
         let q := (srcAt l 1).lane 8 i - win * n
         if laneOn m w i ∧ win * n ≤ (srcAt l 1).lane 8 i ∧ q < n then
           wrapBits w (if o.e.getLsbD 4 then
               (if (srcAt l 2).elt t q ≤ 0 then 0 else ((srcAt l 0).elt t q + (srcAt l 2).elt t q / 2) / (srcAt l 2).elt t q)
             else (srcAt l 0).elt t q)
         else laneOf old w i)))
     ∧ done (.vunpk o) st (ofLanes (2 * w) (n / 2) (fun i => if laneOn m (2 * w) i then
         wrapBits (2 * w) ((srcAt l1 0).elt t (o.e.toNat % 2 * (n / 2) + i)) else laneOf old (2 * w) i)))
  ∧ (∀ (o : VOps) (s : State) (st : Strand),
     (SlotReady (.vnop o) s st → exec (.vnop o) s = .next (s.slotDone (.vnop o) st))
     ∧ (SlotReady (.vcens o) s st →
         let t := o.ty.toNat
         let on := (List.range (512 / tyW t)).filter (laneOn (st.getM o.mask.toNat) (tyW t))
         let c := on.map (fun i => rsb (tySigned t) (tyW t) ((srcAt (st.srcs [o.a]) 0).elt t i))
         exec (.vcens o) s = .next (s.slotDone (.vcens o) (st.census o.e.toNat c))
         ∧ (∀ k, c.min? = some k → k < 64 →
             (st.census o.e.toNat c).getE o.e.toNat = (st.getE o.e.toNat &&& 0x80FF#16) ||| BitVec.ofNat 16 (2 ^ 14 + 2 ^ 8 *
               (if (st.getE o.e.toNat).getLsbD 14 then min k ((st.getE o.e.toNat).toNat / 2 ^ 8 % 64) else k)))
         ∧ (c = [] → st.census o.e.toNat c = st)))

/-- The frame of the V slots for every V instruction, of a slot with no ERET pending: the destination v register unless nw is 1, the scale
register e of an instruction that records, the mask register of a compare with e[3], the slot's own latch; outside the strand, errors
and retained banks of the registers it names. A queue register changes by a push alone: an element written to q[d] enters at its tail
(R51); the pops that the start of a next issue makes are apart. -/
def Obligations.VectorFrame : Prop :=
  ∀ (i : Instr) (s t : State) (st : Strand) (op : Nat) (o : VOps),
    SlotReady i s st → st.pend ≠ some .eret → i.view = .v op o → exec i s = .next t →
    ∃ st', t.focused st'
      ∧ (∀ r, st'.getX r = st.getX r) ∧ (∀ n, st'.getP n = st.getP n)
      ∧ (∀ n, ¬(0x65 ≤ op ∧ op ≤ 0x68 ∧ o.e.getLsbD 3 = true ∧ n = o.e.toNat % 8) → st'.getM n = st.getM n)
      ∧ (∀ n, n ≠ o.e.toNat → st'.getE n = st.getE n)
      ∧ ((vShape op).role ≠ .record → (vShape op).role ≠ .satOnly → ∀ n, st'.getE n = st.getE n)
      ∧ (∀ n, (o.nw = 1 ∨ n ≠ o.d.toNat) → st'.getV n = st.getV n)
      ∧ (st'.issues = st.issues → ∀ n < 8, if o.nw = 0 ∧ o.d.toNat = 1008 + n ∧ op ≠ 0 ∧ op ≠ 0x47 then
          ∃ e : QEnt, st'.getQ n = st.getQ n ++ [e] ∧ st'.latch.find? (latchOf st.bun.slot) = some e.val ∧ e.acc = none ∧ e.bad = false
        else st'.getQ n = st.getQ n)
      ∧ (∀ n, n ≠ latchOf st.bun.slot → st'.latch.find? n = st.latch.find? n) ∧ st'.fmt = st.fmt ∧ st'.fmtPipe = st.fmtPipe
      ∧ st'.tcause = st.tcause ∧ st'.tpc = st.tpc ∧ st'.tval = st.tval ∧ st'.tstat = st.tstat ∧ st'.tvec = st.tvec ∧ st'.tscr = st.tscr
      ∧ st'.trapSet = st.trapSet ∧ st'.sup = st.sup ∧ st'.inh = st.inh ∧ st'.banks = st.banks ∧ st'.shadow = st.shadow
      ∧ t.host = s.host ∧ t.focus = s.focus ∧ (∀ u, u ≠ s.focus → t.pkg.strands.find? u = s.pkg.strands.find? u)
      ∧ t.pkg.mem = s.pkg.mem ∧ (∀ q ∈ t.pkg.poison, q ∈ s.pkg.poison)
      ∧ t.pkg.cores.mapVals (fun k => { k with retained := [] }) = s.pkg.cores.mapVals (fun k => { k with retained := [] })
      ∧ t.pkg.clusters = s.pkg.clusters ∧ t.pkg.crews = s.pkg.crews ∧ t.pkg.launches = s.pkg.launches ∧ t.pkg.accs = s.pkg.accs
      ∧ t.pkg.tlb = s.pkg.tlb ∧ t.pkg.unitWaits = s.pkg.unitWaits ∧ t.pkg.pools = s.pkg.pools ∧ t.pkg.colls = s.pkg.colls

/-! ### The M slot: accesses -/

namespace Sys2Proof.Spec

/-- EA and the base after commit by the table of R270, for an instruction whose ix enters EA under update 0. -/
def ea (st : Strand) (o : MOps) : X :=
  st.getX o.base.toNat + o.offset.signExtend 64 + (if o.update = 0 then st.getX o.ix.toNat else 0)

/-- EA of an instruction that reads ix as a stride, comparand, length or predicate. -/
def eaNoIx (st : Strand) (o : MOps) : X := st.getX o.base.toNat + o.offset.signExtend 64

/-- The base register after the slot: st' is the strand with it updated, for an access of size sz. -/
def updated (st st' : Strand) (o : MOps) (sz : Nat) : Strand :=
  if o.update = 0 then st'
  else st'.setX o.base.toNat (
    if o.update = 1 then st.getX o.base.toNat + o.offset.signExtend 64
    else if o.update = 2 then st.getX o.base.toNat + st.getX o.ix.toNat
    else st.getX o.base.toNat + st.getX o.ix.toNat * BitVec.ofNat 64 sz)

/-- Bytes va to va + n can be accessed now, without fault and without a walk (R271 steps 3 to 6): each lies in the crew's window allocation,
for a load in the notice area, or in a page whose translation the core holds with the permissions of R92 and, for a write, the D bit;
and no range entry of the launch, in the table or waiting for room in it, refuses any. -/
def Accessible (p : Pkg) (st : Strand) (k : AccKind) (va n : Nat) : Prop :=
  let ln := (p.crew st.crew).launch
  (∀ a, va ≤ a → a < va + n →
    (a < 0x7F0000000000 ∧ ∃ t, p.tlbHit st.core ln a = some t
        ∧ (t.flags.testBit 11 = true → st.sup = true)
        ∧ (k ≠ .store → t.flags.testBit 1 = true) ∧ (k ≠ .load → t.flags.testBit 2 = true ∧ t.flags.testBit 10 = true)
        ∧ (k = .atomic → t.flags / 2 ^ 7 % 4 ≠ 3))
    ∨ (0x7F0000000000 ≤ a ∧ a < 0x7F0000600000 ∧ (a - 0x7F0000000000) / 2 ^ 18 < (p.launch ln).cpc
        ∧ (a - 0x7F0000000000) % 2 ^ 18 < (p.launch ln).spad)
    ∨ (k = .load ∧ 0x7F0000600000 ≤ a ∧ a < 0x7F0000600248))
  ∧ (∀ r ∈ p.ranges ++ p.wanted, r.launch = ln → (r.mode = 2 ∨ k ≠ .load) → va + n ≤ r.base * 64 ∨ (r.base + max r.units 1) * 64 ≤ va)

/-- The canonical address of a virtual address of the strand: its place in the scratchpad of the core at its position, in the notice area
of its crew, or in the page that the core's translation gives. -/
def place (p : Pkg) (st : Strand) (va : Nat) : Nat :=
  if 0x7F0000600000 ≤ va then 2 ^ 52 + st.crew * 4096 + (va - 0x7F0000600000)
  else if 0x7F0000000000 ≤ va then
    let j := (va - 0x7F0000000000) / 2 ^ 18
    2 ^ 48 + (p.crew st.crew).cores.getD j 0 * 2 ^ 18 + ((p.crew st.crew).spad.getD j 0 + (va - 0x7F0000000000) % 2 ^ 18)
  else match p.tlbHit st.core (p.crew st.crew).launch va with
    | some t => t.pa + (va - t.va)
    | none => 0

/-- Bits [11:0] of the leaf of the page that holds va; 0 in the window and the notice area. -/
def leafBits (p : Pkg) (st : Strand) (va : Nat) : Nat :=
  if 0x7F0000000000 ≤ va then 0 else (p.tlbHit st.core (p.crew st.crew).launch va).elim 0 (fun t => t.flags % 2 ^ 12)

/-- A piece of an access: its first address, its bytes (zeros for a load) and where they go in the register. -/
structure Unit where
  va : Nat
  pos : Nat
  bytes : List Byte
  deriving DecidableEq, Repr

/-- Access a carries the pieces l, byte for byte in their order, in parts that lie where their addresses lead and that cross no aligned
8-byte word (R118), each with the kind of its page. It comes after the unit operations entered so far, is of the bundle in execution, and
no part of it has been performed or has read anything. -/
def Carries (s : State) (st : Strand) (o : MOps) (k : AccKind) (l : List Unit) (a : Acc) : Prop :=
  a.kind = k ∧ a.strand = s.focus ∧ a.core = st.core ∧ a.after = s.pkg.nextNum ∧ a.pc = st.bun.pc ∧ a.order = o.order.toNat ∧ a.scope = o.scope.toNat
  ∧ a.obs = 0
  ∧ (a.parts.flatMap (fun q => q.data.zipIdx.map (fun b => (q.va + b.2, q.pos + b.2, b.1)))
      = l.flatMap (fun u => u.bytes.zipIdx.map (fun b => (u.va + b.2, u.pos + b.2, b.1))))
  ∧ (∀ q ∈ a.parts, q.addr = place s.pkg st q.va ∧ q.va % 8 + q.data.length ≤ 8 ∧ q.reached = 0 ∧ q.shown = []
      ∧ q.flags = leafBits s.pkg st q.va)

/-- Element size in bytes of a vector access (R275), and its active units: lanes, or pairs of 4-bit lanes. -/
def es (o : MOps) : Nat := if o.ty.toNat < 4 then 1 else if o.ty.toNat < 6 then 2 else 4
def units (st : Strand) (o : MOps) : List Nat := (List.range (64 / es o)).filter (fun u => (st.getM o.mask.toNat).getLsbD u)

/-- Size of a scalar access in bytes (R201). -/
def size (o : MOps) : Nat := if o.ty.toNat < 2 then 1 else if o.ty.toNat < 4 then 2 else if o.ty.toNat < 6 then 4 else 8

/-- The n low bytes of v, lowest first. -/
def bytes (n v : Nat) : List Byte := (List.range n).map (fun j => BitVec.ofNat 8 (v / 2 ^ (8 * j)))

/-- The loads: operands, EA, alignment, stride, access size and pieces (R274, R275). LDVS with a stride of 0 reads one element. -/
def load (st : Strand) : Instr → Option (MOps × X × Nat × X × Nat × List Unit)
  | .ldx o => some (o, ea st o, size o, 0, size o, [⟨(ea st o).toNat, 0, List.replicate (size o) 0⟩])
  | .ldv o => some (o, ea st o, es o, 0, 64, (units st o).map (fun u => ⟨(ea st o).toNat + u * es o, u * es o, List.replicate (es o) 0⟩))
  | .ldvs o => some (o, eaNoIx st o, es o, st.getX o.ix.toNat, es o,
      (if st.getX o.ix.toNat = 0 then (units st o).take 1 else units st o).map (fun u =>
      ⟨(eaNoIx st o + st.getX o.ix.toNat * BitVec.ofNat 64 u).toNat, u * es o, List.replicate (es o) 0⟩))
  | .ldvb o => some (o, ea st o, es o, 0, es o, if units st o = [] then [] else [⟨(ea st o).toNat, 0, List.replicate (es o) 0⟩])
  | _ => none

/-- The stores, with the register value each piece carries (R274, R275). A source of code 1016 is L0 wrapped into each lane. -/
def store (st : Strand) : Instr → Option (MOps × X × Nat × X × Nat × List Unit) :=
  let lane (o : MOps) (u : Nat) : List Byte :=
    let v := ((st.srcs [o.data]).headD ⟨false, 0⟩)
    let w := tyW o.ty.toNat
    bytes (es o) (if w = 4 then v.lane 4 (2 * u) + 16 * v.lane 4 (2 * u + 1) else v.lane w u)
  fun i => match i with
  | .stx o => some (o, ea st o, size o, 0, size o, [⟨(ea st o).toNat, 0, bytes (size o) (st.getX o.data.toNat).toNat⟩])
  | .stv o => some (o, ea st o, es o, 0, 64, (units st o).map (fun u => ⟨(ea st o).toNat + u * es o, u * es o, lane o u⟩))
  | .stvs o => some (o, eaNoIx st o, es o, st.getX o.ix.toNat, es o, (units st o).map (fun u =>
      ⟨(eaNoIx st o + st.getX o.ix.toNat * BitVec.ofNat 64 u).toNat, u * es o, lane o u⟩))
  | .stvm o => some (o, ea st o, es o, 0, es o * (units st o).length, (units st o).zipIdx.map (fun u =>
      ⟨(ea st o).toNat + u.2 * es o, u.2 * es o, lane o u.1⟩))
  | _ => none

end Sys2Proof.Spec

/-- R270 to R276: a ready load whose address is aligned and accessible commits: it enters an access that carries exactly its bytes to the
destination that the instruction names, which is reserved, L3 awaits it, and the base is updated; nothing else of the package changes. A
load of no lane enters none and arrives at once: every v register keeps its value, and L3 takes the destination's. -/
def Obligations.LoadsIssue : Prop :=
  ∀ (i : Instr) (s : State) (st : Strand) (o : MOps) (ea stride : X) (al sz : Nat) (l : List Spec.Unit),
    Spec.load st i = some (o, ea, al, stride, sz, l) → SlotReady i s st →
    (l ≠ [] → ea.toNat % al = 0 ∧ stride.toNat % al = 0) →
    (∀ u ∈ l, Spec.Accessible s.pkg st .load u.va u.bytes.length) →
    let num := s.pkg.nextAcc
    let vec := i ≠ .ldx o
    let res : Strand :=
      if o.nw = 1 ∨ o.data = 1023 then { st with l3acc := some num }
      else if vec ∧ o.data.toNat < 768 then { st with l3acc := some num, vpend := st.vpend ++ [(o.data.toNat, num)] }
      else if vec then ({ st with l3acc := some num }).push (o.data.toNat - 1008) { val := 0, acc := some num }
      else if o.data = 0 then { st with l3acc := some num }
      else { st with l3acc := some num, xpend := st.xpend ++ [(o.data.toNat, num)] }
    let dest : Dest :=
      if vec then (if o.nw = 1 ∨ o.data = 1023 then .none else if o.data.toNat < 768 then .v o.data.toNat else .q (o.data.toNat - 1008))
      else if o.nw = 1 then .l3 o.ty.toNat else .x o.data.toNat o.ty.toNat
    (l ≠ [] → ∃ a, Spec.Carries s st o .load l a
        ∧ a.spread = (if i = .ldvb o ∨ (i = .ldvs o ∧ stride = 0) then (Spec.units st o).map (fun u => u * Spec.es o) else [])
        ∧ (a.elems = true ↔ i = .ldvs o) ∧ a.buf = (if vec then st.old o.data else 0) ∧ a.dest = dest
        ∧ exec i s = .next (s.unitDone i st (s.pkg.addAcc a) (Spec.updated st res o sz)))
    ∧ (l = [] → ∀ b : Acc, b.dest = dest → b.buf = st.old o.data →
        exec i s = .next (s.unitDone i st s.pkg (Spec.updated st (res.arrive num b) o sz))
        ∧ (∀ n, (res.arrive num b).getV n = st.getV n)
        ∧ (st.l3lost ≠ some num → (res.arrive num b).latch.find? 3 = some (st.old o.data)))

/-- R270 to R276: a ready store whose address is aligned and accessible commits: it enters an access that carries exactly its bytes, and the
base is updated; memory does not change until the store is performed. -/
def Obligations.StoresIssue : Prop :=
  ∀ (i : Instr) (s : State) (st : Strand) (o : MOps) (ea stride : X) (al sz : Nat) (l : List Spec.Unit),
    Spec.store st i = some (o, ea, al, stride, sz, l) → SlotReady i s st →
    (l ≠ [] → ea.toNat % al = 0 ∧ stride.toNat % al = 0) →
    (∀ u ∈ l, Spec.Accessible s.pkg st .store u.va u.bytes.length) →
    (l ≠ [] → ∃ a, Spec.Carries s st o .store l a ∧ (a.elems = true ↔ i = .stvs o)
        ∧ exec i s = .next (s.unitDone i st (s.pkg.addAcc a) (Spec.updated st st o sz)))
    ∧ (l = [] → exec i s = .next (s.unitDone i st s.pkg (Spec.updated st st o sz)))

namespace Sys2Proof.Spec

/-- The atomics with their opcodes and effective addresses (R277). -/
def atomic (st : Strand) : Instr → Option (MOps × Nat × X)
  | .aadd o => some (o, 0x40, ea st o)
  | .aadds o => some (o, 0x41, ea st o)
  | .amin o => some (o, 0x42, ea st o)
  | .amax o => some (o, 0x43, ea st o)
  | .aand o => some (o, 0x44, ea st o)
  | .aor o => some (o, 0x45, ea st o)
  | .axor o => some (o, 0x46, ea st o)
  | .aswp o => some (o, 0x47, ea st o)
  | .acas o => some (o, 0x48, eaNoIx st o)
  | _ => none

end Sys2Proof.Spec

/-- R272, R277: a ready atomic of an aligned, accessible scalar commits: it enters one access with its operand and comparand, which delivers
to x[d] by its type (or L3 with nw 1), the register is pending, and the base is updated. -/
def Obligations.AtomicsIssue : Prop :=
  ∀ (i : Instr) (s : State) (st : Strand) (o : MOps) (op : Nat) (ea : X),
    Spec.atomic st i = some (o, op, ea) → SlotReady i s st → ea.toNat % Spec.size o = 0 →
    Spec.Accessible s.pkg st .atomic ea.toNat (Spec.size o) →
    let num := s.pkg.nextAcc
    let res : Strand :=
      if o.nw = 1 then { st with l3acc := some num } else if o.data = 0 then st
      else { st with xpend := st.xpend ++ [(o.data.toNat, num)] }
    ∃ a, Spec.Carries s st o .atomic [⟨ea.toNat, 0, List.replicate (Spec.size o) 0⟩] a
      ∧ a.op = op ∧ a.ty = o.ty.toNat ∧ a.opnd = (st.getX o.data.toNat).toNat ∧ a.cmp = (st.getX o.ix.toNat).toNat
      ∧ a.dest = (if o.nw = 1 then .l3 o.ty.toNat else .x o.data.toNat o.ty.toNat)
      ∧ exec i s = .next (s.unitDone i st (s.pkg.addAcc a) (Spec.updated st res o (Spec.size o)))

/-- R92, R94, R271, R275, R276, R383, R386, R391: where a ready access does not commit, scalar or vector. A misaligned EA or stride takes
0x08 with EA. An access of one piece, as every scalar one is and a vector one of one lane, takes in the order of the checks: at an address
outside every region 0x10; at a window address outside the allocation, or for a write in the notice area, 0x13; on a page without
permission 0x11; for an overlap with a range entry that refuses it 0x12 at the lowest byte inside. TVAL is the address. A page whose
translation the core does not hold makes the strand wait for a walk. -/
def Obligations.ScalarAccessChecks : Prop :=
  ∀ (i : Instr) (k : AccKind) (s : State) (st : Strand) (o : MOps) (ea stride : X) (al sz : Nat) (l : List Spec.Unit),
    (k = .load ∧ Spec.load st i = some (o, ea, al, stride, sz, l)) ∨ (k = .store ∧ Spec.store st i = some (o, ea, al, stride, sz, l))
      ∨ (k = .atomic ∧ (∃ op, Spec.atomic st i = some (o, op, ea)) ∧ al = Spec.size o ∧ stride = 0
          ∧ l = [⟨ea.toNat, 0, List.replicate (Spec.size o) 0⟩]) →
    SlotReady i s st → l ≠ [] →
    let aligned : Prop := ea.toNat % al = 0 ∧ stride.toNat % al = 0
    (¬ aligned → exec i s = .next (s.withPkg (s.pkg.takeTrap s.er s.focus st 0x08 ea (st.syncTrap 0x08 ea st.bun.slot))))
    ∧ ∀ u, l = [u] →
    let n := u.bytes.length
    let a := u.va
    let ln := (s.pkg.crew st.crew).launch
    let traps (c : Nat) (tv : Nat) : Prop := exec i s = .next
      (s.withPkg (s.pkg.takeTrap s.er s.focus st c (BitVec.ofNat 64 tv) (st.syncTrap c (BitVec.ofNat 64 tv) st.bun.slot)))
    aligned →
    (0x7F0000601000 ≤ a → traps 0x10 a)
    ∧ (0x7F0000600000 ≤ a → a < 0x7F0000601000 → (k ≠ .load ∨ 0x7F0000600248 < a + n) → traps 0x13 a)
    ∧ (0x7F0000000000 ≤ a → a < 0x7F0000600000 →
        (s.pkg.launch ln).cpc ≤ (a - 0x7F0000000000) / 2 ^ 18 ∨ (s.pkg.launch ln).spad < (a - 0x7F0000000000) % 2 ^ 18 + n → traps 0x13 a)
    ∧ (∀ t, a < 0x7F0000000000 → s.pkg.tlbHit st.core ln a = some t →
        (t.flags.testBit 11 = true ∧ st.sup = false) ∨ (k ≠ .store ∧ t.flags.testBit 1 = false) ∨ (k ≠ .load ∧ t.flags.testBit 2 = false)
          ∨ (k = .atomic ∧ t.flags / 2 ^ 7 % 4 = 3) → traps 0x11 a)
    ∧ (∀ r ∈ s.pkg.ranges ++ s.pkg.wanted, Spec.Accessible { s.pkg with ranges := [], wanted := [] } st k a n → r.launch = ln → (r.mode = 2 ∨ k ≠ .load) →
        r.base * 64 ≤ a → a < (r.base + r.units) * 64 → traps 0x12 a)
    ∧ (a < 0x7F0000000000 → s.pkg.tlbHit st.core ln a = none →
        exec i s = .next (s.withPkg { s.pkg.setStrand s.focus { st with run := .blocked (.walk a k.code), grant := none } with
          walks := s.pkg.walks ++ [{ strand := s.focus, core := st.core, va := a, acc := k.code }] }))

/-! ### Accesses performed -/

namespace Sys2Proof.Spec

/-- The code of the smallest scope that holds two agents: 1 CORE, 2 CLUSTER, 3 DIE, 4 PACKAGE, 5 HOST (R5). An agent is a core with its
engines, 0 to 4607; the ring of a die, from 4608; the base die, 4616; the host or another package, 4617; the context save engine of a
cluster, from 4618. -/
def shared (c d : Nat) : Nat :=
  let clustered (a : Nat) : Prop := a < 4608 ∨ 4618 ≤ a
  let cluster (a : Nat) : Nat := if a < 4608 then a / 24 else a - 4618
  let die (a : Nat) : Nat := if a < 4608 then a / 576 else if 4618 ≤ a then (a - 4618) / 24 else a - 4608
  if c = d then 1 else if clustered c ∧ clustered d ∧ cluster c = cluster d then 2 else if c = 4617 ∨ d = 4617 then 5
  else if die c = die d then 3 else 4

/-- Strand u on core c sees part q of store a, numbered n, when it makes its access num: its own store of before it, or one performed at
the scope that holds both (R114, R115). -/
abbrev sees (u c num n : Nat) (a : Acc) (q : Part) : Prop :=
  a.kind = .store ∧ q.reached < 7 ∧ ((a.strand = u ∧ n < num) ∨ (a.strand ≠ u ∧ shared a.core c < q.reached))

/-- The step at which a part was performed at a scope, if it has been. -/
def shownAt (q : Part) (scope : Nat) : Option Nat := (q.shown.find? (fun e => decide (scope < e.1))).map (fun e => e.2)

/-- Part q of store (n, a) comes later in coherence order than part r of store (m, b): in program order for one strand, else as they were
performed at the smallest scope that holds both strands, one that has not been the later (R114, R115). -/
abbrev later (n i : Nat) (a : Acc) (q : Part) (m j : Nat) (b : Acc) (r : Part) : Prop :=
  if a.strand = b.strand then m < n ∨ (m = n ∧ j < i)
  else ∃ t, shownAt r (shared a.core b.core) = some t ∧ ∀ u, shownAt q (shared a.core b.core) = some u → t < u

/-- The values fixed ahead for other strands after strand u of core c has acted: marked with the smallest scope that holds both (R119). -/
def heard (p : Pkg) (u c : Nat) : List Early :=
  p.early.map (fun e => if e.strand = u then e
    else { e with near := min e.near ((p.strands.find? e.strand).elim 7 (fun st => shared c st.core)) })

/-- A part of an access of kind k has been performed at the scope (R114). -/
abbrev performed (k : AccKind) (q : Part) (scope : Nat) : Prop := q.reached = 7 ∨ (k = .store ∧ scope < q.reached)

/-- What R116, R117 and R120 keep between a strand's earlier access x, by its part xp, and its later one y: x acquires; or neither page is
UO and both are SO or y is a store or an atomic; or they share a byte, unless x is a store and y a load. -/
abbrev keeps (x : Acc) (xp : Part) (y : Acc) (yp : Part) : Prop :=
  (x.kind ≠ .store ∧ (x.order = 1 ∨ x.order = 3))
  ∨ (xp.flags / 2 ^ 4 % 4 ≠ 2 ∧ yp.flags / 2 ^ 4 % 4 ≠ 2 ∧ ((xp.flags / 2 ^ 4 % 4 = 1 ∧ yp.flags / 2 ^ 4 % 4 = 1) ∨ y.kind ≠ .load))
  ∨ (xp.addr < yp.addr + yp.data.length ∧ yp.addr < xp.addr + xp.data.length ∧ ¬(x.kind = .store ∧ y.kind = .load))

/-- Access a releases (R120). -/
abbrev releases (a : Acc) : Prop := a.kind ≠ .load ∧ (a.order = 2 ∨ a.order = 3)

end Sys2Proof.Spec

/-- R114, R115: what a strand's access sees of a byte: of the stores in flight that it sees and that hold the byte, the one later than every
other; memory's byte where it sees none. R272: when the one part of a load may be performed, nothing refuses it and no word of it is uncorrectable, its bytes arrive as the strand
sees them: the access leaves, the destination takes the bytes (a scalar extended by its type), L3 too unless the latches were cleared since
the load committed, and memory does not change. A byte whose value was fixed ahead for the strand (R119) is that value, but on an SO
page. That L3 stays invalid when the latches were cleared since the commit is log entry 15; the order of stores by the steps at which they
were performed, the values fixed ahead, those given up at a load and at an acquire, and what an acquire has observed are log entry 37. -/
def Obligations.LoadArrives : Prop :=
  (∀ (p : Pkg) (u c num k : Nat),
    let holds (e : Nat × Acc) (q : Part) : Prop := Spec.sees u c num e.1 e.2 q ∧ q.addr ≤ k ∧ k < q.addr + q.data.length
    ((∀ e ∈ p.accs, ∀ q ∈ e.2.parts, ¬ holds e q) → p.view u c num k = p.byte (p.physKey k))
    ∧ (∀ e ∈ p.accs, ∀ i q, e.2.parts[i]? = some q → holds e q →
        (∀ f ∈ p.accs, ∀ j r, f.2.parts[j]? = some r → holds f r → (f = e ∧ j = i)
          ∨ (Spec.later e.1 i e.2 q f.1 j f.2 r ∧ ¬ Spec.later f.1 j f.2 r e.1 i e.2 q)) →
        p.view u c num k = q.data.getD (k - q.addr) 0))
  ∧ ∀ (s : State) (num : Nat) (a : Acc) (q : Part) (st : Strand),
    s.pkg.accs.find? num = some a → a.kind = .load → a.parts = [q] → q.addr < 2 ^ 53 → s.pkg.mayPerform num 0 6 = true →
    refusal s.pkg s.host.pcieUp a q = none → s.pkg.poisoned (s.pkg.physKey q.addr) q.len = none → s.pkg.strands.find? a.strand = some st →
    ∃ (t : State) (b : Acc) (st' : Strand),
      exec (.loadDataArrival num 0) s = .next t ∧ t.pkg.mem = s.pkg.mem ∧ t.pkg.accs = s.pkg.accs.del num
      ∧ (let bs := (List.range q.len).map (fun j => ((if q.flags / 2 ^ 4 % 4 = 1 then none else s.pkg.earlyByte a.strand num (q.addr + j)).getD
            (s.pkg.view a.strand a.core num (q.addr + j))))
         b.dest = a.dest ∧ b.buf = (if a.spread = [] then [q.pos] else a.spread).foldl (fun v pos => putBytes v pos bs) a.buf)
      ∧ t.pkg.strands.find? a.strand = some st' 
      ∧ b.obs = max a.obs ((s.pkg.earlyFor num a q).elim (s.pkg.newest a.strand a.core q.addr q.len) (fun e => e.obs))
      ∧ st' = { st.arrive num b with acqAt := if a.order = 1 ∨ a.order = 3 then max st.acqAt b.obs else st.acqAt }
      ∧ t.pkg.early = s.pkg.early.filter (fun e => decide (e.strand ≠ a.strand ∨ (¬(e.key < q.addr + q.len ∧ q.addr < e.key + 8)
          ∧ (a.order = 1 ∨ a.order = 3 → a.scope < e.near))))
      ∧ (∀ r ty, a.dest = .x r ty → r ≠ 0 → (r, num) ∈ st.xpend →
          st'.getX r = scExt ty b.buf.toNat ∧ st'.xpend = st.xpend.filter (fun e => e.2 ≠ num))
      ∧ (∀ r, a.dest = .v r → r < 768 → (r, num) ∈ st.vpend → st'.getV r = b.buf ∧ st'.vpend = st.vpend.filter (fun e => e.2 ≠ num))
      ∧ (st.l3acc = some num → st'.l3acc = none ∧ (st.l3lost ≠ some num → st'.latch.find? 3 = some b.value)
          ∧ (st.l3lost = some num → st'.latch = st.latch))
      ∧ (∀ u, u ≠ a.strand → t.pkg.strands.find? u = s.pkg.strands.find? u)

/-- R116, R117, R119 to R121: when the one part of an access may be performed at a scope: it has not been; its granule does not move; no pop
of its strand from before it is on its way to its answer; every earlier access of the strand that a rule keeps before it has been performed at the
scope; a release has every earlier access of the strand, and every store of others that the strand has seen, performed at its own scope;
and a store has no store to its bytes before it in coherence order that has not been performed there, an atomic none at all. What a release at a scope owes is
every access of the strand, and every store of others that it sees, not yet performed there. R114, R272: when the one part of a store may be performed for every agent, nothing refuses it and it leaves no part of an uncorrectable
word unwritten, its bytes are in memory at its address and every other byte of memory is as it was. At a smaller scope, outside the
window, it advances to that scope alone; what fetches read until they are synchronised with it (R129) is kept. That stores reach one
scope after another, their order by the steps at which they do, the log of what fetches read and the marks on values fixed ahead are log
entry 37; the hold behind unanswered pops, but for a POOLPOPW in its home's waiting list, is log entry 48. -/
def Obligations.StorePerforms : Prop :=
  (∀ (p : Pkg) (num scope : Nat) (y : Acc) (yp : Part),
    p.accs.find? num = some y → y.parts = [yp] →
    let mine (e : Nat × Acc) : Prop := e ∈ p.accs ∧ e.2.strand = y.strand ∧ e.1 < num
    let others (e : Nat × Acc) (i : Nat) (r : Part) : Prop :=
      e ∈ p.accs ∧ e.2.kind = .store ∧ e.2.strand ≠ y.strand ∧ e.2.parts[i]? = some r ∧ 0 < r.reached ∧ r.reached < 7
    let meets (r : Part) : Prop := r.addr < yp.addr + yp.data.length ∧ yp.addr < r.addr + r.data.length
    (p.mayPerform num 0 scope = true ↔
      yp.reached < 7 ∧ (∀ g, p.granules.find? (yp.addr / 65536) = some g → g.moving = none)
      ∧ (∀ o ∈ p.pools, o.2.strand = y.strand → o.2.num < y.after → o.2.kind = .pop ∨ o.2.kind = .popw →
          o.2.joined = true ∨ o.2.answer.isSome = true)
      ∧ (∀ e, mine e → ∀ xp ∈ e.2.parts, Spec.keeps e.2 xp y yp → Spec.performed e.2.kind xp scope)
      ∧ (Spec.releases y → (∀ e, mine e → ∀ xp ∈ e.2.parts, Spec.performed e.2.kind xp y.scope)
          ∧ ∀ e i r, others e i r → Spec.shared e.2.core y.core < r.reached → y.scope < r.reached)
      ∧ (y.kind = .store → ∀ e i r, others e i r → meets r → ¬ scope < r.reached → ¬ Spec.later num 0 y yp e.1 i e.2 r)
      ∧ (y.kind = .atomic → ∀ e i r, others e i r → ¬ meets r)))
  ∧ (∀ (p : Pkg) (st : Strand) (scope n : Nat), p.accs.sorted →
    (n ∈ p.owed st scope ↔ ∃ a, p.accs.find? n = some a ∧ (∃ q ∈ a.parts, ¬ Spec.performed a.kind q scope)
      ∧ (a.strand = st.uid ∨ (a.kind = .store ∧ ∃ q ∈ a.parts, Spec.shared a.core st.core < q.reached ∧ q.reached < 7))))
  ∧ ∀ (s : State) (num scope : Nat) (a : Acc) (q : Part),
    s.pkg.accs.find? num = some a → a.kind = .store → a.parts = [q] → s.pkg.mayPerform num 0 scope = true → scope ≤ 6 → q.reached ≤ scope →
    let k := s.pkg.physKey q.addr
    ((scope = 6 ∨ (2 ≤ scope ∧ 2 ^ 48 ≤ q.addr)) → refusal s.pkg s.host.pcieUp a q = none → s.pkg.poisoned k q.len = none →
      ∃ t, exec (.storePerform num 0 scope) s = .next t ∧ t.pkg.accs = s.pkg.accs.del num ∧ t.pkg.strands = s.pkg.strands
        ∧ (∀ j, j < q.len → t.pkg.byte (k + j) = q.data.getD j 0)
        ∧ (∀ j, ¬(k ≤ j ∧ j < k + q.len) → t.pkg.byte j = s.pkg.byte j))
    ∧ (scope < 6 → q.addr < 2 ^ 48 →
      ∃ t log, exec (.storePerform num 0 scope) s
          = .next (s.withPkg { s.pkg with accs := t, codeLog := log, early := Spec.heard s.pkg a.strand a.core })
        ∧ t.find? num = some { a with parts :=
            [({ q with reached := scope + 1, shown := q.shown ++ [(scope + 1, s.pkg.tick)] } : Part)] }
        ∧ log = s.pkg.codeLog ++ (if 4 ≤ scope ∧ q.reached ≤ 4 then
            [{ step := s.pkg.tick, strand := some a.strand, core := a.core, shown := q.shown, key := q.addr,
               old := (List.range q.len).map (fun i => s.pkg.pkgByte (q.addr + i)) }] else [])
        ∧ ∀ n, n ≠ num → t.find? n = s.pkg.accs.find? n)

namespace Sys2Proof.Spec

/-- The new value of an atomic of opcode op on scalars of w bits (R277), from the bits of the old value, the operand and the comparand;
none for an ACAS that does not match. sg: the type is signed. -/
def atomicNew {w : Nat} (sg : Bool) (op : Nat) (old v c : BitVec w) : Option (BitVec w) :=
  let lt (a b : BitVec w) : Bool := if sg then a.slt b else a.ult b
  let val (a : BitVec w) : Int := if sg then a.toInt else a.toNat
  match op with
  | 0x40 => some (old + v)
  | 0x41 => some (BitVec.ofInt w (max (fmtMin sg w) (min (fmtMax sg w) (val old + val v))))
  | 0x42 => some (if lt v old then v else old)
  | 0x43 => some (if lt old v then v else old)
  | 0x44 => some (old &&& v)
  | 0x45 => some (old ||| v)
  | 0x46 => some (old ^^^ v)
  | 0x47 => some v
  | 0x48 => if old = c then some v else none
  | _ => none

end Sys2Proof.Spec

/-- R107, R277: when an atomic may be performed, in one step the word takes its new value (an ACAS that does not match writes nothing), every
other byte of memory is as it was, and the access delivers the old value, extended by its type. What an atomic that acquires has observed
is log entry 37. -/
def Obligations.AtomicPerforms : Prop :=
  ∀ (s : State) (num : Nat) (a : Acc) (q : Part) (st : Strand),
    s.pkg.accs.find? num = some a → a.kind = .atomic → a.parts = [q] → a.ty ≤ 6 → 0x40 ≤ a.op → a.op ≤ 0x48 → 8 * q.len = scW a.ty →
    q.addr < 2 ^ 53 → s.pkg.mayPerform num 0 6 = true → refusal s.pkg s.host.pcieUp a q = none →
    s.pkg.poisoned (s.pkg.physKey q.addr) q.len = none → s.pkg.strands.find? a.strand = some st →
    let k := s.pkg.physKey q.addr
    let w := scW a.ty
    let old := BitVec.ofNat w (s.pkg.num k q.len)
    ∃ (t : State) (b : Acc), exec (.remoteAtomic num) s = .next t ∧ t.pkg.accs = s.pkg.accs.del num
      ∧ b.dest = a.dest ∧ b.buf = BitVec.ofNat 512 old.toNat 
      ∧ t.pkg.strands.find? a.strand =
          some { st.arrive num b with
            acqAt := if a.order = 1 ∨ a.order = 3 then max st.acqAt (s.pkg.newest a.strand a.core q.addr q.len) else st.acqAt }
      ∧ (∀ j, ¬(k ≤ j ∧ j < k + q.len) → t.pkg.byte j = s.pkg.byte j)
      ∧ (match Spec.atomicNew (scSigned a.ty) a.op old (BitVec.ofNat w a.opnd) (BitVec.ofNat w a.cmp) with
         | some v => t.pkg.num k q.len = v.toNat
         | none => t.pkg.mem = s.pkg.mem)

/-! ### Fences, range waits, flags, galley words, rings and barriers -/

namespace Sys2Proof.Spec

/-- The package after strand u has been ordered after what others did before: no value fixed ahead (R119) for its later loads remains. -/
def acquiredBy (p : Pkg) (u : Nat) : Pkg := { p with early := p.early.filter (fun e => e.strand != u) }

/-- Instruction i takes a synchronous trap of the given cause and value at its slot. -/
abbrev Traps (i : Instr) (s : State) (st : Strand) (c : Nat) (v : X) : Prop :=
  exec i s = .next (s.withPkg (s.pkg.takeTrap s.er s.focus st c v (st.syncTrap c v st.bun.slot)))

/-- The 16 bytes of a notice slot (R359). -/
def notice (code src core sn : Nat) (v : X) : List Byte :=
  bytes 2 code ++ bytes 1 src ++ bytes 1 0 ++ bytes 2 (4 * core + sn) ++ bytes 2 0 ++ bytes 8 v.toNat

end Sys2Proof.Spec

/-- R66, R123, R126, R279: a ready FENCE commits when every access of the strand that its kind covers is performed at its scope: its result
is the status word, which becomes 0; one that orders later loads gives up the values fixed ahead for them, and a full one at PACKAGE or
beyond is the FENCE of R129; until then it blocks. A QFENCE join commits with a join in the queues it names, a hold waits with one, and
commits, with nothing fixed ahead left, once it is released. An RWAIT commits when no range entry of the launch meets its range or its
length is 0, as an acquire at PACKAGE scope, which leaves no value fixed ahead for the strand; until then it blocks. The values fixed
ahead, and the record of what was observed when, are the model's (log entry 37). -/
def Obligations.FencesAndRangeWaits : Prop :=
  ∀ (o : MOps) (s : State) (st : Strand),
    (SlotReady (.fence o) s st →
      (∀ e ∈ s.pkg.accs, e.2.strand = s.focus → (o.order = 0 → e.2.kind ≠ .load) → (o.order = 1 → e.2.kind ≠ .store) →
        ∀ q ∈ e.2.parts, q.reached = 7 ∨ (e.2.kind = .store ∧ o.scope.toNat < q.reached)) →
      exec (.fence o) s = .next (s.unitDone (.fence o) st (if o.order.getLsbD 0 then Spec.acquiredBy s.pkg s.focus else s.pkg)
        (({ st with
            refCount := 0, refCause := 0, refScope := 0
            codeFence := if o.order = 3 ∧ 4 ≤ o.scope.toNat then some { acq := st.acqAt, fence := s.pkg.tick } else st.codeFence } : Strand).mResult o
          (BitVec.ofNat 64 (2 ^ 16 * st.refScope + 2 ^ 8 * st.refCause + st.refCount)))))
    ∧ (SlotReady (.fence o) s st →
      (∃ e ∈ s.pkg.accs, e.2.strand = s.focus ∧ (o.order = 0 → e.2.kind ≠ .load) ∧ (o.order = 1 → e.2.kind ≠ .store)
        ∧ ∃ q ∈ e.2.parts, ¬(q.reached = 7 ∨ (e.2.kind = .store ∧ o.scope.toNat < q.reached))) →
      ∃ l, exec (.fence o) s = .next (s.withPkg (s.pkg.setStrand s.focus { st with run := .blocked (.fence l o.scope.toNat), grant := none })))
    ∧ (SlotReady (.qfence o) s st → st.grant ≠ none →
      exec (.qfence o) s = .next (s.unitDone (.qfence o) st (Spec.acquiredBy s.pkg s.focus) { st with acqAt := s.pkg.tick }))
    ∧ (SlotReady (.qfence o) s st → st.grant = none →
      ∃ p : Pkg, (∃ l, p.joins = l ++ [{ num := s.pkg.nextNum, strand := s.focus, mask := o.offset.toNat }] ∧ l.Sublist s.pkg.joins)
        ∧ p = { s.pkg with joins := p.joins, nextNum := s.pkg.nextNum + 1 }
        ∧ (o.order = 0 → exec (.qfence o) s = .next (s.unitDone (.qfence o) st p st))
        ∧ (o.order = 3 → exec (.qfence o) s =
            .next (s.withPkg (p.setStrand s.focus { st with run := .blocked (.hold s.pkg.nextNum), grant := none }))))
    ∧ (SlotReady (.rwait o) s st →
      let va := (Spec.eaNoIx st o).toNat
      let n := (st.getX o.ix.toNat).toNat
      let clear : Prop :=
        n = 0 ∨ ∀ r ∈ s.pkg.ranges ++ s.pkg.wanted, r.launch = (s.pkg.crew st.crew).launch → va + n ≤ r.base * 64 ∨ (r.base + r.units) * 64 ≤ va
      (clear → exec (.rwait o) s
        = .next (s.unitDone (.rwait o) st (Spec.acquiredBy s.pkg s.focus) { Spec.updated st st o 1 with acqAt := s.pkg.tick }))
      ∧ (¬ clear → exec (.rwait o) s = .next (s.withPkg (s.pkg.setStrand s.focus { st with run := .blocked (.range va n), grant := none }))))

namespace Sys2Proof.Spec

/-- Flag f of a core. -/
def flag (p : Pkg) (c f : Nat) : Nat := ((p.core c).flags.get 0 f).toNat

/-- The core that a selector names: the strand's own with bit 10, else the crew's position [9:5] (R282). -/
def selected (p : Pkg) (st : Strand) (sel : Nat) : Nat := if sel.testBit 10 then st.core else (p.crew st.crew).cores.getD (sel / 32 % 32) 0

/-- A legal selector: no bit above 10, and a position below cpc where one is named. -/
abbrev selector (p : Pkg) (st : Strand) (sel : Nat) : Prop :=
  sel < 2 ^ 11 ∧ (sel.testBit 10 = false → sel / 32 % 32 < (p.launch (p.crew st.crew).launch).cpc)

/-- Access a is the load that an FGET of flag f of core c enters. -/
abbrev FlagLoad (s : State) (st : Strand) (o : MOps) (c f : Nat) (a : Acc) : Prop :=
  a.kind = .load ∧ a.strand = s.focus ∧ a.core = st.core ∧ a.after = s.pkg.nextNum ∧ a.pc = st.bun.pc
  ∧ a.order = o.order.toNat ∧ a.scope = o.scope.toNat ∧ a.spread = []
  ∧ a.dest = (if o.nw = 1 then .l3 4 else .x (o.data.setWidth 5).toNat 4)
  ∧ ∃ q, a.parts = [q] ∧ q.addr = 2 ^ 53 + 4 * (32 * c + f) ∧ q.data.length = 4 ∧ q.pos = 0 ∧ q.reached = 0

/-- Every earlier access of the strand, and every store it can have observed, is performed in the cluster: a release may be made (R121). -/
abbrev Released (p : Pkg) (st : Strand) : Prop := p.owed st 2 = []

end Sys2Proof.Spec

/-- R34, R54, R282, R283: a ready FGET of a legal selector commits as a load of the flag, whose destination is pending; when it is performed
it gives the flag. A selector with a bit above 10 takes 0x02 with the selector, a position beyond the crew 0x13 with the position. A ready
FSET or FADD that may release commits with the flag unit's
write or post of the low 32 bits of x[s]; where no wait stands on the flag, the flag is the value set, or the sum, saturated at 32 bits
with the notice flag saturation queued, and every other flag of the package is as it was. The flag
unit's walk of its waits takes them in order: each whose count is met is granted and its count leaves the flag; what is left of the
flag and the counts granted make up the value walked; waits on other flags stay. -/
def Obligations.FlagOperations : Prop :=
  (∀ (o : MOps) (s : State) (st : Strand),
     let sel := (Spec.eaNoIx st o).toNat
     let c := Spec.selected s.pkg st sel
     let f := sel % 32
     let v := (st.getX o.data.toNat).toNat % 2 ^ 32
     let num := s.pkg.nextAcc
     (∀ i : Instr, i = .fget o ∨ i = .fset o ∨ i = .fadd o → SlotReady i s st →
        (2 ^ 11 ≤ sel → Spec.Traps i s st 0x02 (Spec.eaNoIx st o))
        ∧ (sel < 2 ^ 11 → ¬ Spec.selector s.pkg st sel → Spec.Traps i s st 0x13 (BitVec.ofNat 64 (sel / 32 % 32)))) ∧
     (Spec.selector s.pkg st sel →
     (SlotReady (.fget o) s st → ∃ a, Spec.FlagLoad s st o c f a ∧ exec (.fget o) s = .next (s.unitDone (.fget o) st (s.pkg.addAcc a)
        (if o.nw = 1 ∨ o.data.setWidth 5 = 0#5 then { st with l3acc := some num }
         else { st with l3acc := some num, xpend := st.xpend ++ [((o.data.setWidth 5).toNat, num)] })))
     ∧ (SlotReady (.fset o) s st → Spec.Released s.pkg st → exec (.fset o) s = .next (s.unitDone (.fset o) st (s.pkg.flagSet c f v) st))
     ∧ (SlotReady (.fadd o) s st → Spec.Released s.pkg st →
         exec (.fadd o) s = .next (s.unitDone (.fadd o) st (s.pkg.post c f v st.crew st.core st.sn) st))
     ∧ ((∀ w ∈ (s.pkg.core c).waits, w.flag ≠ f) →
         Spec.flag (s.pkg.flagSet c f v) c f = v
         ∧ Spec.flag (s.pkg.post c f v st.crew st.core st.sn) c f = min (Spec.flag s.pkg c f + v) (2 ^ 32 - 1)
         ∧ (Spec.flag s.pkg c f + v < 2 ^ 32 → (s.pkg.post c f v st.crew st.core st.sn).mem = s.pkg.mem)
         ∧ (let k := 2 ^ 52 + st.crew * 4096
            let tail := s.pkg.num (k + 12) 4
            2 ^ 32 ≤ Spec.flag s.pkg c f + v → (tail + 2 ^ 32 - s.pkg.num (k + 8) 4) % 2 ^ 32 < 32 → (∀ w ∈ s.pkg.unitWaits, w.key ≠ k) →
            let t := s.pkg.post c f v st.crew st.core st.sn
            t.bytes (k + (0x40 + tail % 32 * 16)) 16 = Spec.notice 2 0 st.core st.sn (BitVec.ofNat 64 (32 * c + f))
            ∧ t.num (k + 12) 4 = (tail + 1) % 2 ^ 32)
         ∧ (∀ c' f', (c' ≠ c ∨ f' ≠ f) → Spec.flag (s.pkg.flagSet c f v) c' f' = Spec.flag s.pkg c' f'
            ∧ Spec.flag (s.pkg.post c f v st.crew st.core st.sn) c' f' = Spec.flag s.pkg c' f'))))
  ∧ (∀ (s : State) (num c f r : Nat) (a : Acc) (q : Part) (st : Strand),
     f < 32 → s.pkg.accs.find? num = some a → a.kind = .load → a.parts = [q] → q.addr = 2 ^ 53 + 4 * (32 * c + f) → q.data.length = 4 →
     q.pos = 0 → a.spread = [] → a.dest = .x r 4 → r ≠ 0 → s.pkg.mayPerform num 0 6 = true → s.pkg.poisoned (s.pkg.physKey q.addr) 4 = none →
     s.pkg.strands.find? a.strand = some st → (r, num) ∈ st.xpend →
     ∃ t st', exec (.loadDataArrival num 0) s = .next t ∧ t.pkg.strands.find? a.strand = some st'
       ∧ st'.getX r = BitVec.ofNat 64 (Spec.flag s.pkg c f) ∧ (∀ g, g ≠ r → st'.getX g = st.getX g) ∧ t.pkg.cores = s.pkg.cores)
  ∧ (∀ (f : Nat) (ws : List FlagWait) (v : Nat),
    let r := walkFlag f ws v
    r.1.Sublist ws ∧ (∀ w ∈ ws, w.flag ≠ f → w ∈ r.1)
    ∧ v = r.2.1 + (((ws.filter (fun w => w.flag = f)).map (fun w => w.count)).sum - ((r.1.filter (fun w => w.flag = f)).map (fun w => w.count)).sum)
    ∧ r.2.2.length + r.1.length = ws.length ∧ (∀ w ∈ r.1, w.flag = f → r.2.1 < w.count))
  ∧ (∀ (f c v : Nat) (who : FlagWaiter) (ws : List FlagWait), c ≤ v →
      (walkFlag f ({ flag := f, count := c, who := who } :: ws) v).2.2 = who :: (walkFlag f ws (v - c)).2.2)

namespace Sys2Proof.Spec

/-- n bytes at va lie in the crew's allocation of one position (R96). -/
abbrev inWindow (s : State) (st : Strand) (va n : Nat) : Prop :=
  0x7F0000000000 ≤ va ∧ va < 0x7F0000600000
  ∧ (va - 0x7F0000000000) / 2 ^ 18 < (s.pkg.launch (s.pkg.crew st.crew).launch).cpc
  ∧ (va - 0x7F0000000000) % 2 ^ 18 + n ≤ (s.pkg.launch (s.pkg.crew st.crew).launch).spad

/-- An object of n bytes at va that a unit operation accepts (R280, R285, R116): in the crew's allocation, on an n-byte boundary, or, for a DEQ,
the crew notice ring; in the strand's own core, or one that has been in service while the crew stood on it (R389); the strand has no
access and no pop on its way to its answer that the operation must follow (R127), and no word of memory is uncorrectable. -/
abbrev Object (s : State) (st : Strand) (va n : Nat) (notice : Bool) : Prop :=
  va % n = 0 ∧ (inWindow s st va n ∨ (notice = true ∧ va = 0x7F0000600000)) ∧ s.pkg.owed st 2 = []
  ∧ (∀ e ∈ s.pkg.pools, e.2.strand = st.uid → e.2.kind = .pop ∨ e.2.kind = .popw → e.2.joined = true ∨ e.2.answer.isSome = true)
  ∧ (∀ q ∈ s.pkg.poison, 2 ^ 60 ≤ q)
  ∧ (place s.pkg st va < 2 ^ 52 →
      let c := (place s.pkg st va - 2 ^ 48) / 2 ^ 18
      c = st.core ∨ ((s.pkg.core c).service = .inService ∧ c ∉ (s.pkg.crew st.crew).dead))

end Sys2Proof.Spec

namespace Sys2Proof.Spec

/-- Where a unit operation on an object of n bytes at EA traps for its address, with EA (R280, R285, R383, R387, R388): misaligned 0x08;
outside every region 0x10; not in the crew's allocation of one position, nor, where notice is set, the crew notice ring, 0x13. -/
def ObjectTraps (i : Instr) (s : State) (st : Strand) (o : MOps) (n : Nat) (notice : Bool) : Prop :=
  let va := (eaNoIx st o).toNat
  let traps (c : Nat) : Prop := Traps i s st c (eaNoIx st o)
  (va % n ≠ 0 → traps 0x08)
  ∧ (va % n = 0 → 0x7F0000601000 ≤ va → traps 0x10)
  ∧ (va % n = 0 → va < 0x7F0000601000 → ¬ inWindow s st va n → ¬(notice = true ∧ va = 0x7F0000600000) → traps 0x13)

end Sys2Proof.Spec

/-- R103, R280, R281: a ready GWINIT of a legal object writes TARGET, FLAG, FCORE and POSTN, COUNT 0 and the reserved bytes 0 and keeps GEN.
A ready GWWAIT whose generation differs gives GEN at once, an acquire (R127); one whose generation is still GEN waits at the word. Both trap
for their object's address, and GWINIT takes 0x13 with FCORE where that is beyond the crew. A GWWAIT whose result register is its base has
the base update land last (log entry 18); a word with reserved bits set is waited on as any other (log entry 60). -/
def Obligations.GalleyOperations : Prop :=
  ∀ (o : MOps) (s : State) (st : Strand),
    let va := (Spec.eaNoIx st o).toNat
    let k := Spec.place s.pkg st va
    let v := (st.getX o.data.toNat).toNat
    st.grant = none →
    (SlotReady (.gwinit o) s st → Spec.ObjectTraps (.gwinit o) s st o 16 false)
    ∧ (SlotReady (.gwwait o) s st → Spec.ObjectTraps (.gwwait o) s st o 16 false)
    ∧ (SlotReady (.gwinit o) s st → va % 16 = 0 → Spec.inWindow s st va 16 → (s.pkg.launch (s.pkg.crew st.crew).launch).cpc ≤ v / 2 ^ 37 % 32 →
        Spec.Traps (.gwinit o) s st 0x13 (BitVec.ofNat 64 (v / 2 ^ 37 % 32)))
    ∧ (Spec.Object s st va 16 false →
    (SlotReady (.gwinit o) s st → v / 2 ^ 37 % 32 < (s.pkg.launch (s.pkg.crew st.crew).launch).cpc →
      ∃ p, exec (.gwinit o) s = .next (s.unitDone (.gwinit o) st p (Spec.updated st st o 16))
        ∧ p.num k 4 = v % 2 ^ 32 ∧ p.num (k + 4) 4 = 0 ∧ p.num (k + 8) 2 = s.pkg.num (k + 8) 2 ∧ p.num (k + 10) 1 = v / 2 ^ 32 % 32
        ∧ p.num (k + 11) 1 = v / 2 ^ 37 % 32 ∧ p.num (k + 12) 2 = v / 2 ^ 42 % 2 ^ 16 ∧ p.num (k + 14) 2 = 0
        ∧ (∀ j, ¬(k ≤ j ∧ j < k + 16) → p.byte j = s.pkg.byte j) ∧ p.strands = s.pkg.strands)
    ∧ (SlotReady (.gwwait o) s st →
        (s.pkg.num (k + 8) 2 ≠ (st.getX o.ix.toNat).toNat % 2 ^ 16 →
          exec (.gwwait o) s = .next (s.unitDone (.gwwait o) st (Spec.acquiredBy s.pkg s.focus)
            { Spec.updated st (st.mResult o (BitVec.ofNat 64 (s.pkg.num (k + 8) 2))) o 16 with acqAt := s.pkg.tick }))
        ∧ (s.pkg.num (k + 8) 2 = (st.getX o.ix.toNat).toNat % 2 ^ 16 →
          exec (.gwwait o) s = .next (s.withPkg (({ s.pkg with unitWaits := s.pkg.unitWaits ++
              [{ strand := s.focus, key := k, va := va, kind := 2, gen := s.pkg.num (k + 8) 2 }] } : Pkg).setStrand s.focus
            { st with run := .blocked .galley, grant := none })))))

namespace Sys2Proof.Spec

/-- A legal ring descriptor at key k (R105, R285): LIVE, no reserved bit, SLOG 3 to 6, CLOG to 12, BASE aligned. -/
abbrev RingLegal (p : Pkg) (k : Nat) : Prop :=
  let slog := p.num (k + 16) 1 / 16
  let f := p.num (k + 17) 1
  (f = 1 ∨ f = 3) ∧ p.num (k + 18) 14 = 0 ∧ 3 ≤ slog ∧ slog ≤ 6 ∧ p.num (k + 16) 1 % 16 ≤ 12 ∧ p.num k 8 < 2 ^ 48 ∧ p.num k 8 % 2 ^ slog = 0

/-- The slots of the ring at va, key k, lie in the allocation of one position, or are those of the notice ring (R285, R358). -/
abbrev RingPlaced (s : State) (st : Strand) (va k : Nat) : Prop :=
  let base := s.pkg.num k 8
  let slog := s.pkg.num (k + 16) 1 / 16
  let clog := s.pkg.num (k + 16) 1 % 16
  (inWindow s st base (2 ^ (slog + clog)) ∨ (va = 0x7F0000600000 ∧ base = 0x7F0000600040 ∧ slog = 4 ∧ clog = 5))

/-- A ring that the ring operations accept. -/
abbrev Ring (s : State) (st : Strand) (va k : Nat) : Prop := RingLegal s.pkg k ∧ RingPlaced s st va k

/-- HEAD, TAIL and CLOSED of a descriptor, the capacity, and the place of slot i. -/
def head (p : Pkg) (k : Nat) : Nat := p.num (k + 8) 4
def tail (p : Pkg) (k : Nat) : Nat := p.num (k + 12) 4
def closed (p : Pkg) (k : Nat) : Bool := (p.num (k + 17) 1).testBit 1
def cap (p : Pkg) (k : Nat) : Nat := 2 ^ (p.num (k + 16) 1 % 16)
def slot (p : Pkg) (st : Strand) (k i : Nat) : Nat := place p st (p.num k 8 + i % cap p k * 2 ^ (p.num (k + 16) 1 / 16))

end Sys2Proof.Spec

/-- R105, R287: a ready ENQ or DEQ with no grant on an accepted ring acts at once when it can. A closed ring refuses an ENQ: predicate 1, no
change. A ring with room takes the element into the slot of TAIL, TAIL advances, predicate 0. A DEQ of a ring that holds an element takes
the one at HEAD, zeros above it, HEAD advances, predicate 0, an acquire (R127); of an empty closed ring it gives 0 and predicate 1. A full
open ring makes an ENQ wait, an empty open one a DEQ. They trap for their object's address; a descriptor that is not legal takes 0x02 with
EA, one whose slots lie outside the crew 0x13 with BASE (R285). A DEQ whose result register is its base has the base update land last (log
entry 18); an ENQ of code 1016 enters the 64-bit value, zeros above (log entry 19); an ENQ at TAIL - HEAD above the capacity waits (log
entry 82); what ENQ's write of TAIL logs and gives up is log entry 37. -/
def Obligations.RingOperations : Prop :=
  ∀ (i : Instr) (o : MOps) (s : State) (st : Strand) (enq : Bool) (v : V),
    (i = .enqX o ∧ enq = true ∧ v = (st.getX o.data.toNat).setWidth 512)
      ∨ (i = .enqV o ∧ enq = true ∧ v = ((st.srcs [o.data]).headD ⟨false, 0⟩).val)
      ∨ (i = .deqX o ∧ enq = false ∧ v = 0) ∨ (i = .deqV o ∧ enq = false ∧ v = 0) →
    let va := (Spec.eaNoIx st o).toNat
    let k := Spec.place s.pkg st va
    let n := 2 ^ (s.pkg.num (k + 16) 1 / 16)
    let occ := (Spec.tail s.pkg k + 2 ^ 32 - Spec.head s.pkg k) % 2 ^ 32
    let pd := o.ix.toNat % 8
    let got (e : V) (b : Bool) : Strand :=
      (if enq then st else if i = .deqV o then st.vresult o.data o.nw e else st.mResult o (e.setWidth 64)).setP pd b
    let done (p : Pkg) (e : V) (b : Bool) : Prop := ∃ l : List Nat, l.Sublist s.pkg.poison ∧ exec i s = .next (
      if enq = false ∧ b = false then s.unitDone i st (Spec.acquiredBy (({ p with poison := l } : Pkg).serveRing k) s.focus)
        { Spec.updated st (got e b) o 32 with acqAt := s.pkg.tick }
      else s.unitDone i st (({ p with poison := l } : Pkg).serveRing k) (Spec.updated st (got e b) o 32))
    -- the write of TAIL by ENQ: what fetches read there is kept, and no value fixed ahead of the words written remains
    let told (p : Pkg) (sk : Nat) : Pkg := { p with
      codeLog := s.pkg.codeLog ++ [{ step := s.pkg.tick, strand := some s.focus, core := st.core, shown := [], key := k + 12,
                                     old := (List.range 4).map (fun j => s.pkg.pkgByte (k + 12 + j)) }]
      early := s.pkg.early.filter (fun e => decide (e.strand ≠ s.focus
        ∨ (¬(e.key < sk + n ∧ sk < e.key + 8) ∧ ¬(e.key < k + 32 ∧ k < e.key + 8)))) }
    SlotReady i s st → st.grant = none →
    Spec.ObjectTraps i s st o 32 (!enq) ∧ (Spec.Object s st va 32 (!enq) →
    (¬ Spec.RingLegal s.pkg k → Spec.Traps i s st 0x02 (Spec.eaNoIx st o))
    ∧ (Spec.RingLegal s.pkg k → ¬ Spec.RingPlaced s st va k → va ≠ 0x7F0000600000 → Spec.Traps i s st 0x13 (BitVec.ofNat 64 (s.pkg.num k 8)))
    ∧ (Spec.Ring s st va k →
    (enq = true → Spec.closed s.pkg k = true → done s.pkg 0 true)
    ∧ (enq = true → Spec.closed s.pkg k = false → occ < Spec.cap s.pkg k →
        let sk := Spec.slot s.pkg st k (Spec.tail s.pkg k)
        done (told ((s.pkg.write sk (Spec.bytes n v.toNat)).write (k + 12) (Spec.bytes 4 (Spec.tail s.pkg k + 1))) sk) 0 false)
    ∧ (enq = false → occ = 0 → Spec.closed s.pkg k = true → done s.pkg 0 true)
    ∧ (enq = false → occ ≠ 0 →
        done (s.pkg.write (k + 8) (Spec.bytes 4 (Spec.head s.pkg k + 1)))
          (BitVec.ofNat 512 (s.pkg.num (Spec.slot s.pkg st k (Spec.head s.pkg k)) n)) false)
    ∧ ((enq = true ∧ Spec.closed s.pkg k = false ∧ Spec.cap s.pkg k ≤ occ) ∨ (enq = false ∧ Spec.closed s.pkg k = false ∧ occ = 0) →
        exec i s = .next (s.withPkg (({ s.pkg with unitWaits := s.pkg.unitWaits ++
            [{ strand := s.focus, key := k, va := va, kind := if enq then 0 else 1, val := v }] } : Pkg).setStrand s.focus { st with run := .blocked .ring, grant := none })))))

/-- R286, R288: a ready RINIT of legal values writes an open, empty ring; a ready RCLOSE of an accepted ring sets CLOSED alone. The waiters of
the ring are then tested again. Illegal values of RINIT take 0x02, slots outside the crew 0x13 with BASE; both trap for their object's
address. -/
def Obligations.RingsOpenAndClose : Prop :=
  ∀ (o : MOps) (s : State) (st : Strand),
    let va := (Spec.eaNoIx st o).toNat
    let k := Spec.place s.pkg st va
    let base := (st.getX o.data.toNat).toNat % 2 ^ 48
    let sz := (st.getX o.ix.toNat).toNat % 256
    let legal : Prop := 3 ≤ sz / 16 ∧ sz / 16 ≤ 6 ∧ sz % 16 ≤ 12 ∧ base % 2 ^ (sz / 16) = 0
    (SlotReady (.rinit o) s st → ¬ legal → ∃ v, (v = sz / 16 ∨ v = sz % 16 ∨ v = base) ∧ Spec.Traps (.rinit o) s st 0x02 (BitVec.ofNat 64 v))
    ∧ (SlotReady (.rinit o) s st → legal → Spec.ObjectTraps (.rinit o) s st o 32 false)
    ∧ (SlotReady (.rinit o) s st → legal → va % 32 = 0 → Spec.inWindow s st va 32 → ¬ Spec.inWindow s st base (2 ^ (sz / 16 + sz % 16)) →
        Spec.Traps (.rinit o) s st 0x13 (BitVec.ofNat 64 base))
    ∧ (SlotReady (.rclose o) s st → st.grant = none → Spec.ObjectTraps (.rclose o) s st o 32 false)
    ∧ (Spec.Object s st va 32 false →
    (SlotReady (.rinit o) s st → legal →
      Spec.inWindow s st base (2 ^ (sz / 16 + sz % 16)) →
      ∃ p, exec (.rinit o) s = .next (s.unitDone (.rinit o) st (p.serveRing k) (Spec.updated st st o 32))
        ∧ p.num k 8 = base ∧ Spec.head p k = 0 ∧ Spec.tail p k = 0 ∧ p.num (k + 16) 1 = sz ∧ p.num (k + 17) 1 = 1 ∧ p.num (k + 18) 14 = 0
        ∧ (∀ j, ¬(k ≤ j ∧ j < k + 32) → p.byte j = s.pkg.byte j))
    ∧ (SlotReady (.rclose o) s st → st.grant = none → Spec.Ring s st va k →
      ∃ p, exec (.rclose o) s = .next (s.unitDone (.rclose o) st (p.serveRing k) (Spec.updated st st o 32))
        ∧ Spec.closed p k = true ∧ (∀ j, j ≠ k + 17 → p.byte j = s.pkg.byte j)))

/-- R289 to R291: a member that arrives completes the phase exactly when every member has then arrived: members that dropped leave, the sets
empty, PHASE rises by 1 modulo 2^16, and the barrier's waits are released; else it is recorded and nobody moves. A BARR of a strand that
has arrived waits for the phase to end, and has arrived in the next at that moment (R291). A barrier that the launch
does not have, and BARR and BDROP of a strand outside the member set, take 0x02 with the number. A BARR with wait that is released at
once, and a BWAIT, are acquires (R127). BJOIN enters the set,
BDROP arrives and drops, BARR gives the phase of its arrival, BWAIT a phase that differs. -/
def Obligations.BarrierOperations : Prop :=
  ∀ (o : MOps) (s : State) (st : Strand),
    let b := o.offset.toNat % 32
    let k := (s.pkg.crew st.crew).barrier b
    let legal : Prop := b < (s.pkg.launch (s.pkg.crew st.crew).launch).barr ∧ st.grant = none
    let after (p : Pkg) : Barrier := (p.crew st.crew).barrier b
    let arrive (drop : Bool) : Pkg := s.pkg.barrierArrive st.crew b st.idx drop
    let all : Prop := ∀ m ∈ k.mem, m = st.idx ∨ m ∈ k.arrived
    let late : List UnitWait := s.pkg.unitWaits.filter (fun w => w.key == 2 ^ 56 + st.crew * 64 + b && w.kind == 6)
    (∀ i : Instr, i = .bjoin o ∨ i = .bdrop o ∨ i = .barr o ∨ i = .bwait o → SlotReady i s st → st.grant = none →
        ((s.pkg.launch (s.pkg.crew st.crew).launch).barr ≤ b ∨ ((i = .bdrop o ∨ i = .barr o) ∧ st.idx ∉ k.mem)) →
        Spec.Traps i s st 0x02 (BitVec.ofNat 64 b))
    ∧ (legal → SlotReady (.bjoin o) s st → ∃ p, exec (.bjoin o) s = .next (s.unitDone (.bjoin o) st p st)
        ∧ (after p).mem = (if st.idx ∈ k.mem then k.mem else k.mem ++ [st.idx]) ∧ (after p).arrived = k.arrived ∧ (after p).phase = k.phase)
    ∧ (legal → SlotReady (.bdrop o) s st → st.idx ∈ k.mem → Spec.Released s.pkg st →
        exec (.bdrop o) s = .next (s.unitDone (.bdrop o) st (arrive true) st))
    ∧ (legal → SlotReady (.barr o) s st → st.idx ∈ k.mem → st.idx ∉ k.arrived → Spec.Released s.pkg st →
        (o.offset.getLsbD 5 = false ∨ (all ∧ late = [])) →
        let res := st.mResult o (k.phase.setWidth 64)
        exec (.barr o) s = .next (if o.offset.getLsbD 5 then
            s.unitDone (.barr o) st (Spec.acquiredBy (arrive false) s.focus) { res with acqAt := s.pkg.tick }
          else s.unitDone (.barr o) st (arrive false) res))
    ∧ (legal → SlotReady (.barr o) s st → st.idx ∈ k.mem → Spec.Released s.pkg st →
        let waits (p : Pkg) (w : UnitWait) : Prop := exec (.barr o) s = .next (s.withPkg
          (({ p with unitWaits := p.unitWaits ++ [w] } : Pkg).setStrand s.focus { st with run := .blocked (.barrier b), grant := none }))
        let w : UnitWait := { strand := s.focus, key := 2 ^ 56 + st.crew * 64 + b, va := b, kind := 5, gen := k.phase.toNat }
        (st.idx ∈ k.arrived → waits s.pkg { w with kind := 6, ty := if o.offset.getLsbD 5 then 1 else 0 })
        ∧ (st.idx ∉ k.arrived → o.offset.getLsbD 5 = true → ¬ all → late = [] → waits (arrive false) w))
    ∧ (legal → SlotReady (.bwait o) s st → k.phase ≠ (st.getX o.ix.toNat).setWidth 16 →
        exec (.bwait o) s = .next (s.unitDone (.bwait o) st (Spec.acquiredBy s.pkg s.focus)
          { st.mResult o (k.phase.setWidth 64) with acqAt := s.pkg.tick }))
    ∧ (∀ (drop : Bool) (w : UnitWait) (i : Nat), st.idx ∈ k.mem → late = [w] → w.gen = k.phase.toNat → w.strand % 96 = i →
        i ∈ k.mem → i ∉ k.drops → (drop = true → i ≠ st.idx) → (∃ m ∈ k.mem, m ≠ i ∧ m ∉ k.drops ∧ (drop = true → m ≠ st.idx)) → all →
        (after (arrive drop)).phase = k.phase + 1 ∧ (after (arrive drop)).arrived = [i])
    ∧ (∀ drop : Bool, st.idx ∈ k.mem → late = [] →
        (all → (after (arrive drop)).phase = k.phase + 1 ∧ (after (arrive drop)).arrived = []
          ∧ (after (arrive drop)).mem = k.mem.filter (fun m => !(decide (m ∈ k.drops)) && !(drop && m == st.idx)))
        ∧ (¬ all → (after (arrive drop)).phase = k.phase ∧ (after (arrive drop)).mem = k.mem
          ∧ (∀ m, m ∈ (after (arrive drop)).arrived ↔ m ∈ k.arrived ∨ m = st.idx) ∧ (arrive drop).strands = s.pkg.strands))

/-! ### The P slots and the matrix engine -/

namespace Sys2Proof.Spec

/-- Element (i, j) of tile t of a core, and of operand slot o read in format t (R55, R56). -/
def tile (k : Core) (t i j : Nat) : Int := (k.acc.get 0 (t * 256 + i * 16 + j)).toInt
def oper (k : Core) (t o i j : Nat) : Int :=
  let b : BitVec (tyW t) := (k.opnd.get 0 (o * 256 + i * 16 + j)).setWidth (tyW t)
  if t % 2 = 0 then b.toInt else b.toNat

/-- SAT to a signed width. -/
def sats (w : Nat) (v : Int) : Int := max (-2 ^ (w - 1)) (min (2 ^ (w - 1) - 1) v)

/-- The core's engine is DIRECT and nothing of the tile's row is uncorrectable. -/
abbrev TileReadable (s : State) (st : Strand) (o : POps) : Prop :=
  (s.pkg.core st.core).mode = .direct ∧ poisonTile st.core o.tile.toNat o.row.toNat ∉ s.pkg.poison

/-- Code mv of an ARQ is 1023, or a v register in the window, not pending and, where its unit is in use, without error (R295). -/
abbrev Multiplier (s : State) (st : Strand) (mv : Nat) : Prop :=
  mv = 1023 ∨ (mv / 64 < st.banks.length ∧ (∀ e ∈ st.vpend, e.1 ≠ mv) ∧ (st.vused mv = true → ∀ w < 8, poisonV s.focus mv + w ∉ s.pkg.poison))

/-- Bytes va to va + n can be accessed by the strand, range table apart (R296). -/
def Reach (s : State) (st : Strand) (k : AccKind) (va n : Nat) : Prop := Accessible { s.pkg with ranges := [], wanted := [] } st k va n

/-- Core k' is k but for its tiles, TSAT bits and counts. -/
def TilesOnly (k k' : Core) : Prop := k' = { k with acc := k'.acc, tsat := k'.tsat, ksteps := k'.ksteps, issued := k'.issued }

end Sys2Proof.Spec

/-- R139, R140, R146, R293 to R295: a ready read of a tile row commits with these values. ARD saturates to s32 and marks SATS, or wraps; ARDW
gives 8 of the values sign-extended, ARDH each shifted right by 32; ACENS takes the census in s56 and TSAT; ARQ multiplies, rounds,
saturates to its type and records, and the bank of its multiplier, where its window unit is in use, leaves retention (R48, R61). Each P
slot on a SHARED core takes 0x19 with its opcode. -/
def Obligations.TileReads : Prop :=
  ∀ (o : POps) (s : State) (st : Strand),
    let k := s.pkg.core st.core
    let v (j : Nat) : Int := Spec.tile k o.tile.toNat o.row.toNat j
    let js := List.range 16
    let done (i : Instr) (st' : Strand) : Prop := exec i s = .next (s.unitDone i st s.pkg st')
    let out (f : Nat → Int) : Strand := st.vresult o.vec o.nw (ofLanes 32 16 (fun j => wrapBits 32 (f j)))
    (∀ e ∈ [(Instr.ard o, 0), (.ardw o, 1), (.ardh o, 2), (.awr o, 3), (.aaddv o, 4), (.azero o, 5), (.acens o, 7)],
        SlotReady e.1 s st → k.mode = .shared → Spec.Traps e.1 s st 0x19 (BitVec.ofNat 64 e.2))
    ∧ (SlotReady (.arq o) s st → Spec.Multiplier s st (st.bun.lits.getD (o.sub.toNat % 4) 0 % 2 ^ 10) → k.mode = .shared →
        Spec.Traps (.arq o) s st 0x19 6)
    ∧ (Spec.TileReadable s st o →
    (SlotReady (.ard o) s st → o.sub.getLsbD 0 = true → done (.ard o) (out v))
    ∧ (SlotReady (.ard o) s st → o.sub.getLsbD 0 = false →
        done (.ard o) ((out (fun j => Spec.sats 32 (v j))).satsIf o.dm.toNat (js.any (fun j => decide (Spec.sats 32 (v j) ≠ v j)))))
    ∧ (SlotReady (.ardw o) s st → done (.ardw o) (st.vresult o.vec o.nw
        (ofLanes 64 8 (fun j => wrapBits 64 (v (j + if o.sub.getLsbD 0 then 8 else 0))))))
    ∧ (SlotReady (.ardh o) s st → done (.ardh o) (out (fun j => v j / 2 ^ 32)))
    ∧ (SlotReady (.acens o) s st →
        done (.acens o) ((st.census o.dm.toNat (js.map (fun j => rsb true 56 (v j)))).satsIf o.dm.toNat (k.tsat.get false o.tile.toNat)))
    ∧ (SlotReady (.arq o) s st →
        let w := st.bun.lits.getD (o.sub.toNat % 4) 0
        let keys := st.bun.lits.getD (o.sub.toNat % 4 + 1) 0
        let mv := w % 2 ^ 10
        let ty := w / 2 ^ 18 % 8
        Spec.Multiplier s st mv →
        let m (j : Nat) : Int := if mv = 1023 then 1 else ((st.getV mv).extractLsb' (32 * j) 32).toInt
        let n : Nat := w / 2 ^ 10 % 2 ^ 7
        let r (j : Nat) : Int := if w.testBit 17 then stoch (v j * m j) n ((keys + (16 * o.row.toNat + j : Nat)) % 2 ^ 32) else rne (v j * m j) n
        let q (j : Nat) : Int := satTo (tySigned ty) (tyW ty) (r j)
        ∃ p cs, p = { s.pkg with cores := cs } ∧ (∀ c, p.core c = if c ≠ st.core then s.pkg.core c
            else { k with retained := k.retained.filter (fun b => decide (mv = 1023 ∨ st.vused mv = false ∨ st.banks.getD (mv / 64) 16 ≠ b)) }) ∧
        exec (.arq o) s = .next (s.unitDone (.arq o) st p (((out q).census o.dm.toNat (js.map (fun j => rsb (tySigned ty) (tyW ty) (q j)))).satsIf o.dm.toNat
          (js.any (fun j => decide (q j ≠ r j)) || k.tsat.get false o.tile.toNat)))))

/-- R138, R139, R294, R408: a ready write of a tile, with no K-step on the tile in the queue, commits. AWR sets the row (the wide form one half of
it, saturated to 56 bits), clears TSAT and the counts; AADDV adds to the row, saturates and marks TSAT; AZERO clears the tile, TSAT and
the counts. Every other element stays. A row written whole loses its errors (R366). With a K-step on the tile in the queue the slot holds the issue: nothing changes. -/
def Obligations.TileWrites : Prop :=
  ∀ (i : Instr) (o : POps) (s : State) (st : Strand),
    i = .awr o ∨ i = .aaddv o ∨ i = .azero o → SlotReady i s st → (s.pkg.core st.core).mode = .direct →
    (i = .aaddv o → poisonTile st.core o.tile.toNat o.row.toNat ∉ s.pkg.poison) →
    let k := s.pkg.core st.core
    let t := o.tile.toNat
    let src := (st.srcs [o.vec]).headD ⟨false, 0⟩
    let x (j : Nat) : Int := src.elt 6 j
    let wide (j : Nat) : Int := (if src.l0 then src.val.setWidth 64 else src.val.extractLsb' (64 * (j % 8)) 64).toInt
    let half := if o.sub.getLsbD 1 then 1 else 0
    ((∃ e ∈ k.mxq, ∃ oA oB m tA tB f, e.ent = .mma t oA oB m tA tB f) → exec i s = .next s)
    ∧ ((∀ e ∈ k.mxq, ∀ oA oB m tA tB f, e.ent ≠ .mma t oA oB m tA tB f) →
      let whole (r : Nat) : Prop := i = .azero o ∨ (r = o.row.toNat ∧ ¬(i = .awr o ∧ o.sub.getLsbD 0 = true))
      ∃ k' st' l, exec i s = .next (s.unitDone i st ({ s.pkg.setCore st.core k' with poison := l } : Pkg) st') ∧ l.Sublist s.pkg.poison
        ∧ (∀ q, q ∈ l ↔ q ∈ s.pkg.poison ∧ ¬ ∃ r < 16, whole r ∧ q = poisonTile st.core t r) ∧ Spec.TilesOnly k k'
        ∧ (∀ t' i' j', t' < 16 → i' < 16 → j' < 16 → Spec.tile k' t' i' j' =
            if i = .azero o then (if t' = t then 0 else Spec.tile k t' i' j')
            else if t' ≠ t ∨ i' ≠ o.row.toNat then Spec.tile k t' i' j'
            else if i = .aaddv o then Spec.sats 56 (Spec.tile k t' i' j' + x j')
            else if o.sub.getLsbD 0 = false then x j'
            else if j' / 8 = half then Spec.sats 56 (wide j') else Spec.tile k t' i' j')
        ∧ (k'.tsat.get false t = (if i = .aaddv o then
            k.tsat.get false t || (List.range 16).any (fun j => decide (Spec.sats 56 (Spec.tile k t o.row.toNat j + x j) ≠ Spec.tile k t o.row.toNat j + x j))
            else false))
        ∧ (i ≠ .aaddv o → k'.ksteps.get 0 t = 0 ∧ k'.issued.get 0 t = 0) ∧ (i = .aaddv o → k'.ksteps = k.ksteps ∧ k'.issued = k.issued)
        ∧ (∀ t', t' ≠ t → k'.tsat.get false t' = k.tsat.get false t' ∧ k'.ksteps.get 0 t' = k.ksteps.get 0 t')
        ∧ st' = (if i = .awr o then st.satsIf o.dm.toNat (o.sub.getLsbD 0 && (List.range 8).any (fun j => decide (Spec.sats 56 (wide j) ≠ wide j)))
            else st))

namespace Sys2Proof.Spec

/-- Slots of a list are claimed by the strand's crew on its core and not releasing (R57, R303). -/
abbrev Claimed (s : State) (st : Strand) (l : List Nat) : Prop :=
  ∀ o ∈ l, (s.pkg.core st.core).claim.find? o = some st.crew ∧ o ∉ (s.pkg.core st.core).releasing

/-- The package after an entry ent joins the strand's matrix queue at its tail; the core is otherwise k (R299). -/
def Queued (s : State) (st : Strand) (k : Core) (ent : MxEnt) : Pkg :=
  ({ s.pkg with nextNum := s.pkg.nextNum + 1 } : Pkg).setCore st.core
    { k with mxq := (s.pkg.core st.core).mxq ++ [{ num := s.pkg.nextNum, strand := s.focus, ent := ent }] }

end Sys2Proof.Spec

/-- R124, R135, R299, R301 to R304, R408: on a DIRECT core whose matrix queue has room, a ready matrix command of a strand whose earlier accesses are
performed joins the queue; behind accesses that are not it holds the issue until they are, and at a full queue its strand waits for room. The commands are MMA and MCHAIN with their steps
counted on the tile, within the depth of the launch and with their slots claimed; MSEAL and MZERO with the issue counts of their tiles
cleared; ORELEASE with its slots releasing; OFILL of aligned, readable rows; OFILLV with its rows as they stand. OCLAIM claims all of its
slots and gives 1, or none and gives 0. On a SHARED core each of the nine takes 0x19 with its opcode; a slot that is not the crew's or is
releasing 0x18 with its number; a step beyond the depth 0x1A with the tile. That a command behind accesses not performed holds the issue
without blocking, but blocks where a pop of the strand on its way to its answer may hold them, is log entry 48. R58, R59: an
MFMT that commits at issue n of the strand is in force from issue n + 4; until then the format is the one it would have been. -/
def Obligations.MatrixCommands : Prop :=
  (∀ (s : State) (st : Strand),
     let k := s.pkg.core st.core
     let d := (s.pkg.launch (s.pkg.crew st.crew).launch).maxSteps
     let done (i : Instr) (k' : Core) (ent : MxEnt) : Prop := exec i s = .next (s.unitDone i st (Spec.Queued s st k' ent) st)
     let mm (i : Instr) (o : EMma) (n : Nat) : Prop :=
       SlotReady i s st → Spec.Claimed s st ((List.range n).flatMap (fun x => [o.oA.toNat + x, o.oB.toNat + x])) →
       k.issued.get 0 o.tile.toNat + n ≤ d →
       done i { k with issued := RMap.set k.issued 0 o.tile.toNat (k.issued.get 0 o.tile.toNat + n) }
         (.mma o.tile.toNat o.oA.toNat o.oB.toNat n (o.tA == 1) (o.tB == 1) st.format)
     let slots (o : ESlots) : List Nat := (List.range (o.count.toNat + 1)).map (fun x => o.first.toNat + x)
     let fill (o : EOfill) : Prop :=
       let ea := st.getX o.xB.toNat + o.off.signExtend 64
       let sd := st.getX o.xS.toNat
       let es := max 1 (tyW o.ety.toNat / 8)
       ea.toNat % es = 0 ∧ sd.toNat % es = 0
         ∧ ∀ r < 16, Spec.Reach s st .load (ea + sd * BitVec.ofNat 64 r).toNat (2 * tyW o.ety.toNat)
     let queued (i : Instr) : Prop :=
       (∃ o, i = .mma o ∧ Spec.Claimed s st [o.oA.toNat, o.oB.toNat] ∧ k.issued.get 0 o.tile.toNat + 1 ≤ d)
       ∨ (∃ o, i = .mseal o) ∨ (∃ o, i = .mzero o) ∨ (∃ o, i = .orelease o ∧ Spec.Claimed s st (slots o))
       ∨ (∃ o, i = .ofill o ∧ fill o ∧ Spec.Claimed s st [o.slot.toNat]) ∨ (∃ o, i = .ofillv o ∧ Spec.Claimed s st [o.slot.toNat])
     let waits (i : Instr) (w : Why) : Prop := exec i s = .next (s.withPkg (s.pkg.setStrand s.focus { st with run := .blocked w, grant := none }))
     let op (i : Instr) : Option Nat := match i with
       | .mfmt _ => some 0 | .mma _ => some 1 | .mchain _ => some 2 | .mseal _ => some 3 | .mzero _ => some 4 | .oclaim _ => some 5
       | .orelease _ => some 6 | .ofillv _ => some 8 | _ => none
     (∀ i n, op i = some n → SlotReady i s st → k.mode = .shared → Spec.Traps i s st 0x19 (BitVec.ofNat 64 n))
     ∧ (∀ o, SlotReady (.ofill o) s st → fill o → k.mode = .shared → Spec.Traps (.ofill o) s st 0x19 7) ∧ (
     k.mode = .direct →
     (∀ (i : Instr) (l : List Nat), SlotReady i s st → ¬ Spec.Claimed s st l →
         (∃ o, i = .mma o ∧ l = [o.oA.toNat, o.oB.toNat]) ∨ (∃ o, i = .orelease o ∧ l = slots o)
           ∨ (∃ o, i = .mchain o ∧ l = (List.range (o.n.toNat + 1)).flatMap (fun x => [o.oA.toNat + x, o.oB.toNat + x]))
           ∨ (∃ o, i = .ofillv o ∧ l = [o.slot.toNat]) ∨ (∃ o, i = .ofill o ∧ fill o ∧ l = [o.slot.toNat]) →
         ∃ x ∈ l, ¬ Spec.Claimed s st [x] ∧ Spec.Traps i s st 0x18 (BitVec.ofNat 64 x))
     ∧ (∀ (i : Instr) (o : EMma) (n : Nat), (i = .mma o ∧ n = 1) ∨ (i = .mchain o ∧ n = o.n.toNat + 1) → SlotReady i s st →
         Spec.Claimed s st ((List.range n).flatMap (fun x => [o.oA.toNat + x, o.oB.toNat + x])) → d < k.issued.get 0 o.tile.toNat + n →
         Spec.Traps i s st 0x1A (BitVec.ofNat 64 o.tile.toNat))
     ∧ (∀ i, queued i → SlotReady i s st → s.pkg.owed st 6 ≠ [] →
         (∀ e ∈ s.pkg.pools, e.2.strand = st.uid → e.2.kind = .pop ∨ e.2.kind = .popw → e.2.joined = true ∨ e.2.answer.isSome = true) →
         exec i s = .next s)
     ∧ (∀ i, queued i → SlotReady i s st → s.pkg.owed st 6 = [] → 16 ≤ k.mxq.length → waits i (.queueFull 0))
     ∧ (∀ o, SlotReady (.oclaim o) s st →
         let free : Prop := ∀ x ∈ slots o, k.claim.find? x = none ∨ (k.claim.find? x = some st.crew ∧ x ∉ k.releasing)
         (free → ∃ c, exec (.oclaim o) s = .next (s.unitDone (.oclaim o) st (s.pkg.setCore st.core { k with claim := c }) (st.setX o.xd.toNat 1))
           ∧ ∀ x, c.find? x = if x ∈ slots o then some st.crew else k.claim.find? x)
         ∧ (¬ free → exec (.oclaim o) s = .next (s.unitDone (.oclaim o) st s.pkg (st.setX o.xd.toNat 0))))
     ∧ (k.mxq.length < 16 → s.pkg.owed st 6 = [] →
     (∀ o, mm (.mma o) o 1) ∧ (∀ o, mm (.mchain o) o (o.n.toNat + 1))
     ∧ (∀ (o : EMask) (i : Instr), (i = .mseal o ∨ i = .mzero o) → SlotReady i s st →
         ∃ c, done i { k with issued := c } (if i = .mseal o then .mseal o.mask else .mzero o.mask)
           ∧ ∀ t < 16, c.get 0 t = if o.mask.getLsbD t then 0 else k.issued.get 0 t)
     ∧ (∀ o, SlotReady (.orelease o) s st → Spec.Claimed s st (slots o) →
         done (.orelease o) { k with releasing := k.releasing ++ slots o } (.orelease o.first.toNat (o.count.toNat + 1)))
     ∧ (∀ o : EOfill, SlotReady (.ofill o) s st → Spec.Claimed s st [o.slot.toNat] → fill o →
         let ea := st.getX o.xB.toNat + o.off.signExtend 64
         let sd := st.getX o.xS.toNat
         done (.ofill o) k (.ofill o.slot.toNat o.ety.toNat ea sd st.sup))
     ∧ (∀ o : EOfillv, SlotReady (.ofillv o) s st → Spec.Claimed s st [o.slot.toNat] →
         ∃ l : List (BitVec 16), done (.ofillv o) k (.ofillv o.slot.toNat l) ∧ l.length = 256
           ∧ ∀ r < 16, ∀ j < 16, (l.getD (16 * r + j) 0).toNat = laneOf (st.getV (o.vec.toNat + r)) (tyW o.ety.toNat) j))))
  ∧ (∀ (o : EFmt) (s : State) (st : Strand),
     SlotReady (.mfmt o) s st → (s.pkg.core st.core).mode = .direct → st.fmtPipe.Pairwise (fun a b => a.1 ≤ b.1) →
     ∃ st', exec (.mfmt o) s = .next (s.unitDone (.mfmt o) st s.pkg st')
       ∧ st' = { st with fmt := st'.fmt, fmtPipe := st'.fmtPipe, dirty := st.dirty ||| 0x20000#30 }
       ∧ ∀ n, st.issues ≤ n → ({ st' with issues := n } : Strand).format =
           if n < st.issues + 4 then ({ st with issues := n } : Strand).format else o.atype ++ o.btype ++ o.acc)

/-- R79, R136 to R138, R302 to R304: the engine's head entry, when it may run and reads no uncorrectable word. A K-step adds to each element of its tile the
16 products of its row and column, saturates once to the accumulator's width and marks TSAT where it clamped, counts the step, and leaves
the rest of a chain at the head. An OFILL sets element (i, j) of its slot to element j of row i as read, by the layout of R136; a row that
fails leaves it and the rows after it 0 and traps the issuer (R394). An OFILLV sets its slot to the rows it took. MSEAL clears the step counts of its tiles, MZERO the tiles, ORELEASE the claims and
the slots. A tile or slot written whole loses its errors (R366). -/
def Obligations.MatrixEngineSteps : Prop :=
  ∀ (s : State) (c : Nat) (e : MxQ) (rest : List MxQ),
    let k := s.pkg.core c
    let mended (k' : Core) (gone : Nat → Prop) (i : Instr) : Prop :=
      ∃ l, exec i s = .next (s.withPkg { s.pkg.setCore c k' with poison := l }) ∧ l.Sublist s.pkg.poison ∧ ∀ q, q ∈ l ↔ q ∈ s.pkg.poison ∧ ¬ gone q
    let tiles (m : BitVec 16) (q : Nat) : Prop := ∃ t < 16, m.getLsbD t = true ∧ ∃ r < 16, q = poisonTile c t r
    let opers (f n q : Nat) : Prop := ∃ o, f ≤ o ∧ o < f + n ∧ ∃ r < 16, q = poisonOper c o r
    k.mxq = e :: rest → k.mode = .direct → k.service = .inService → s.pkg.held e.strand 0 e.num = false →
    s.pkg.sealStop (e.strand / 96) c = false →
    (∀ t oA oB n tA tB fmt, e.ent = .mma t oA oB n tA tB fmt → t < 16 →
      (∀ r < 16, poisonTile c t r ∉ s.pkg.poison ∧ poisonOper c oA r ∉ s.pkg.poison ∧ poisonOper c oB r ∉ s.pkg.poison) →
      let at' := fmt.toNat / 16
      let bt := fmt.toNat / 2 % 8
      let w := if fmt.getLsbD 0 then 32 else 56
      let a (i x : Nat) : Int := if tA then Spec.oper k at' oA x i else Spec.oper k at' oA i x
      let b (x j : Nat) : Int := if tB then Spec.oper k bt oB j x else Spec.oper k bt oB x j
      let v (i j : Nat) : Int := Spec.tile k t i j + ((List.range 16).map (fun x => a i x * b x j)).sum
      ∃ k', exec (.kStepExecute c) s = .next (s.withPkg (s.pkg.setCore c k'))
        ∧ k' = { k with acc := k'.acc, tsat := k'.tsat, ksteps := k'.ksteps, mxq := k'.mxq }
        ∧ (∀ i < 16, ∀ j < 16, Spec.tile k' t i j = Spec.sats w (v i j))
        ∧ (∀ t' i j, t' ≠ t → i < 16 → j < 16 → Spec.tile k' t' i j = Spec.tile k t' i j)
        ∧ (k'.tsat.get false t = true ↔ k.tsat.get false t = true ∨ ∃ i < 16, ∃ j < 16, Spec.sats w (v i j) ≠ v i j)
        ∧ k'.ksteps.get 0 t = k.ksteps.get 0 t + 1
        ∧ k'.mxq = (if n ≤ 1 then rest else { e with ent := MxEnt.mma t (oA + 1) (oB + 1) (n - 1) tA tB fmt } :: rest))
    ∧ (∀ o rows, e.ent = .ofillv o rows → rows.length = 256 →
      ∃ m, mended { k with mxq := rest, opnd := m } (opers o 1) (.ofillExecute c)
        ∧ (∀ x < 256, m.get 0 (o * 256 + x) = rows.getD x 0) ∧ (∀ n, n / 256 ≠ o → m.get 0 n = k.opnd.get 0 n))
    ∧ (∀ o t va sd sup, e.ent = .ofill o t va sd sup →
      ∀ (ps : Nat → Pkg) (bs : Nat → List Byte) (n : Nat) (f : Option (Nat × Nat)), n ≤ 16 → ps 0 = s.pkg →
      let read (i : Nat) : Except (Nat × Nat) (List Byte × Pkg) :=
        (ps i).engRead s.er c (e.strand / 96) sup (va + sd * BitVec.ofNat 64 i).toNat (2 * tyW t)
      (∀ i < n, read i = .ok (bs i, ps (i + 1))) →
      ((n = 16 ∧ f = none) ∨ (n < 16 ∧ ∃ cs v, f = some (cs, v) ∧ read n = .error (cs, v) ∧ cs ≠ 0 ∧ cs ≠ 0x30)) →
      let p := ps n
      ∃ (q : Pkg) (l : List Nat) (m : RMap (BitVec 16)), l.Sublist p.poison ∧ (∀ x, x ∈ l ↔ x ∈ p.poison ∧ ¬ opers o 1 x)
        ∧ q = { p.setCore c { k with mxq := rest, opnd := m } with poison := l }
        ∧ (∀ i < 16, ∀ j < 16, m.get 0 (o * 256 + (i * 16 + j)) =
            if i < n then BitVec.ofNat 16 (ofBytes (bs i) / 2 ^ (tyW t * j) % 2 ^ tyW t) else 0)
        ∧ (∀ x, x / 256 ≠ o → m.get 0 x = k.opnd.get 0 x)
        ∧ exec (.ofillExecute c) s = .next (s.withPkg (f.elim q (fun y => q.asyncTo e.strand y.1 (BitVec.ofNat 64 y.2)))))
    ∧ (∀ m, e.ent = .mzero m → ∃ k', mended k' (tiles m) (.mzeroExecute c) ∧ k'.mxq = rest
        ∧ ∀ t < 16, ∀ i < 16, ∀ j < 16, Spec.tile k' t i j = (if m.getLsbD t then 0 else Spec.tile k t i j)
          ∧ (m.getLsbD t = true → k'.tsat.get false t = false ∧ k'.ksteps.get 0 t = 0))
    ∧ (∀ m, e.ent = .mseal m → (s.pkg.crew (e.strand / 96)).st = .resident →
        ∃ ks, exec (.msealRetirement c) s = .next (s.withPkg (s.pkg.setCore c { k with mxq := rest, ksteps := ks }))
          ∧ ∀ t < 16, ks.get 0 t = if m.getLsbD t then 0 else k.ksteps.get 0 t)
    ∧ (∀ f n, e.ent = .orelease f n →
        ∃ cl rl op, mended { k with mxq := rest, claim := cl, releasing := rl, opnd := op } (opers f n) (.oreleaseExecute c)
          ∧ (∀ o, f ≤ o → o < f + n → cl.find? o = none ∧ o ∉ rl ∧ ∀ x < 256, op.get 0 (o * 256 + x) = 0)
          ∧ (∀ o, ¬(f ≤ o ∧ o < f + n) → cl.find? o = k.claim.find? o ∧ (o ∈ rl ↔ o ∈ k.releasing)
              ∧ ∀ x < 256, op.get 0 (o * 256 + x) = k.opnd.get 0 (o * 256 + x)))

/-! ### Copies -/

namespace Sys2Proof.Spec

/-- A field of a shadow set: a field not written holds its reset value, 2 for TYPE and 1 for ROWS and PLANES (R151). -/
def field (m : RMap X) (n : Nat) : Nat := ((m.find? n).getD (if n = 2 then 2 else if n = 4 ∨ n = 5 then 1 else 0)).toNat

/-- The widths of the fields 0 to 21 (R151). -/
def fieldWidth (n : Nat) : Nat :=
  [48, 48, 3, 25, 17, 17, 40, 40, 40, 40, 48, 17, 21, 3, 24, 32, 64, 64, 64, 2, 64, 16].getD n 64

/-- A window offset field in use. -/
def offset (m : RMap X) (n : Nat) : Option Nat := if (field m n).testBit 63 then some (field m n % 2 ^ 23) else none

/-- Bytes of an element of a type (R152). -/
def esOf (t : Nat) : Nat := if t < 4 then 1 else if t < 6 then 2 else 4

/-- The limits of R151, R153 and R307 on the fields of a command; dep: it waits on a dependence word (R155). -/
abbrev CopyLegal (m : RMap X) (dep : Bool) : Prop :=
  let f := field m
  let es := esOf (f 2)
  f 2 < 8 ∧ f 11 ≤ 65536
  ∧ (f 11 ≠ 0 → 0 < f 12 ∧ f 12 ≤ 2 ^ 20 ∧ f 12 % es = 0 ∧ f 10 % 4 = 0)
  ∧ (f 11 = 0 → f 3 ≤ 2 ^ 24 ∧ 1 ≤ f 4 ∧ f 4 ≤ 65536 ∧ 1 ≤ f 5 ∧ f 5 ≤ 65536)
  ∧ f 13 ≤ 4 ∧ (f 13 ≠ 0 → f 2 = 2 ∨ f 2 = 4 ∨ f 2 = 6)
  ∧ (f 14 ≠ 0 → 0x7F0000000000 ≤ f 1 ∧ f 1 < 0x7F0000600000)
  ∧ f 15 / 2 ^ 10 % 2 ^ 6 = 0 ∧ f 19 ≠ 3 ∧ (f 17).testBit 63 = dep
  ∧ (∀ e ∈ [(16, 16), (17, 64), (18, 64), (20, 8)], ∀ o ∈ offset m e.1, o % e.2 = 0)

/-- Its positions and offsets lie in crew cu (R307). -/
abbrev CopyInside (p : Pkg) (cu : Nat) (m : RMap X) : Prop :=
  let cpc := (p.launch (p.crew cu).launch).cpc
  field m 15 / 2 ^ 5 % 2 ^ 5 < cpc ∧ (∀ j < 24, (field m 14).testBit j = true → j < cpc)
  ∧ (∀ e ∈ [(16, 16), (17, 8), (18, 8), (20, 8)], ∀ o ∈ offset m e.1, Inside p cu o e.2)

/-- A 40-bit stride, signed. -/
def stride (m : RMap X) (n : Nat) : Int := (BitVec.ofNat 40 (field m n)).toInt

/-- The elements of a command, and the source and destination of element n: of a strided command by its counts and strides, of a gather by
the index of its row, of f 12 bytes, in the list ix (R152). -/
def total (m : RMap X) : Nat :=
  if field m 11 = 0 then field m 3 * field m 4 * field m 5 else field m 11 * (field m 12 / esOf (field m 2))
def sourceAt (m : RMap X) (ix : List Nat) (n : Nat) : Int :=
  let es := esOf (field m 2)
  let per := field m 12 / es
  field m 0 + (if field m 11 = 0 then
      (n / (field m 3 * field m 4) : Nat) * stride m 7 + (n / field m 3 % field m 4 : Nat) * stride m 6 + (n % field m 3 * es : Nat)
    else (ix.getD (n / per) 0 : Nat) * stride m 6 + (n % per * es : Nat))
def destAt (m : RMap X) (n : Nat) : Int :=
  let es := esOf (field m 2)
  let per := field m 12 / es
  field m 1 + (if field m 11 = 0 then
      (n / (field m 3 * field m 4) : Nat) * stride m 9 + (n / field m 3 % field m 4 : Nat) * stride m 8 + (n % field m 3 * es : Nat)
    else ((n / per * field m 12 + n % per * es : Nat) : Int))

/-- The same as addresses of 64 bits. -/
def source (m : RMap X) (ix : List Nat) (n : Nat) : Nat := (BitVec.ofInt 64 (sourceAt m ix n)).toNat
def dest (m : RMap X) (n : Nat) : Nat := (BitVec.ofInt 64 (destAt m n)).toNat

/-- The positions of a multicast, ascending, and the address that the k-th write of an element goes to: DST's, with the position replaced
under multicast (R153). -/
def castTo (m : RMap X) : List Nat := (List.range 24).filter (fun j => (field m 14).testBit j)
def destOf (m : RMap X) (n k : Nat) : Nat :=
  if field m 14 = 0 then dest m n
  else 0x7F0000000000 + (castTo m).getD k 0 * 2 ^ 18 + (dest m n - 0x7F0000000000) % 2 ^ 18

/-- The ranges that a command enters at its issue (R157): of TRACK 1 its source, of TRACK 2 its destination, at each position of a multicast
mask; of a gather with TRACK 1 none, as its index list is read at its start. They cover, for each position, the 64-byte units from the
lowest to the highest byte that the elements have there. -/
def Tracks (m : RMap X) (l : List Range) : Prop :=
  let es := esOf (field m 2)
  let units (at' : Nat → Nat) (u : Nat) : Prop := ∃ i < total m, ∃ j < total m, at' i / 64 ≤ u ∧ u ≤ (at' j + es - 1) / 64
  let covers (u : Nat) : Prop := ∃ e ∈ l, e.base ≤ u ∧ u < e.base + e.units
  (field m 19 = 0 → l = [])
  ∧ (field m 19 = 1 → field m 11 ≠ 0 → l = [])
  ∧ (field m 19 = 1 → field m 11 = 0 → (∀ i < total m, 0 ≤ sourceAt m [] i ∧ sourceAt m [] i + es ≤ 2 ^ 64) →
      ∀ u, covers u ↔ units (source m []) u)
  ∧ (field m 19 = 2 → field m 14 = 0 → (∀ i < total m, 0 ≤ destAt m i ∧ destAt m i + es ≤ 2 ^ 64) → ∀ u, covers u ↔ units (dest m) u)
  ∧ (field m 19 = 2 → field m 14 ≠ 0 → (∀ i < total m, 0x7F0000000000 ≤ destAt m i ∧ destAt m i + es ≤ 0x7F0000600000) →
      ∀ u, covers u ↔ ∃ k < (castTo m).length, units (fun i => destOf m i k) u)

/-- The values fixed ahead that no NA range of l covers (R111). -/
def uncovered (p : Pkg) (l : List Range) : List Early :=
  p.early.filter (fun e => decide (∀ r ∈ l, r.mode = 2 → (p.crew (e.strand / 96)).launch = r.launch →
    e.va + 8 ≤ r.base * 64 ∨ (r.base + r.units) * 64 ≤ e.va))

/-- The command of shadow set m stands at the end of the strand's copy queue and its ranges refuse from now on: those of a strided one in
the range table where they have room, else, as a gather's, waiting for the start; nothing else of the package has changed but for the
values fixed ahead that they cover (R112, R125, R155, R157). -/
def Appended (s : State) (st : Strand) (m : RMap X) (p : Pkg) : Prop :=
  let k := s.pkg.core st.core
  ∃ l : List Range,
    let now := decide (field m 11 = 0 ∧ s.pkg.ranges.length + l.length ≤ 512)
    p = ({ s.pkg with
        nextNum := s.pkg.nextNum + 1
        ranges := if now then s.pkg.ranges ++ l else s.pkg.ranges
        wanted := if now then s.pkg.wanted else s.pkg.wanted ++ l
        early := uncovered s.pkg l } : Pkg).setCore st.core
      { k with copyq := k.copyq ++ [{ num := s.pkg.nextNum, strand := s.focus, crew := st.crew, fields := m, sup := st.sup }] }
    ∧ (∀ e ∈ l, e.src = 1 ∧ e.tok = s.pkg.nextNum ∧ e.owner = st.core ∧ e.mode = field m 19 ∧ e.launch = (s.pkg.crew st.crew).launch)
    ∧ Tracks m l

/-- Field n of a command breaks a limit of R151 to R153 (R307). -/
def CopyBreaks (m : RMap X) (dep : Bool) (n : Nat) : Prop :=
  let f := field m
  let es := esOf (f 2)
  (n = 11 ∧ 65536 < f 11)
  ∨ (f 11 ≠ 0 ∧ ((n = 12 ∧ (f 12 = 0 ∨ 2 ^ 20 < f 12 ∨ f 12 % es ≠ 0)) ∨ (n = 10 ∧ f 10 % 4 ≠ 0)))
  ∨ (f 11 = 0 ∧ ((n = 3 ∧ 2 ^ 24 < f 3) ∨ (n = 4 ∧ (f 4 = 0 ∨ 65536 < f 4)) ∨ (n = 5 ∧ (f 5 = 0 ∨ 65536 < f 5))))
  ∨ (n = 13 ∧ (4 < f 13 ∨ (f 13 ≠ 0 ∧ f 2 ≠ 2 ∧ f 2 ≠ 4 ∧ f 2 ≠ 6)))
  ∨ (n = 1 ∧ f 14 ≠ 0 ∧ ¬(0x7F0000000000 ≤ f 1 ∧ f 1 < 0x7F0000600000))
  ∨ (n = 15 ∧ f 15 / 2 ^ 10 % 2 ^ 6 ≠ 0) ∨ (n = 19 ∧ f 19 = 3) ∨ (n = 17 ∧ (f 17).testBit 63 ≠ dep)
  ∨ (∃ e ∈ [(16, 16), (17, 64), (18, 64), (20, 8)], ∃ o ∈ offset m e.1, n = e.1 ∧ o % e.2 ≠ 0)

/-- What a command names outside crew cu, as TVAL gives it (R307): an FCORE beyond it, the lowest such position of a multicast mask, the
address of an offset. -/
def CopyOutside (p : Pkg) (cu : Nat) (m : RMap X) (v : Nat) : Prop :=
  let cpc := (p.launch (p.crew cu).launch).cpc
  (v = field m 15 / 2 ^ 5 % 2 ^ 5 ∧ cpc ≤ v)
  ∨ (v < 24 ∧ (field m 14).testBit v = true ∧ cpc ≤ v ∧ ∀ j < v, (field m 14).testBit j = true → j < cpc)
  ∨ (∃ e ∈ [(16, 16), (17, 8), (18, 8), (20, 8)], ∃ o ∈ offset m e.1, v = 0x7F0000000000 + o ∧ ¬ Inside p cu o e.2)

/-- Where a check of one byte at address a as an access of kind k stops (R271 steps 3 to 5, R296): outside every region 0x10, in the window
or the notice area where the crew has no such access 0x13, on a page without permission 0x11; it waits for a translation that the core
does not hold. -/
def ByteStops (i : Instr) (s : State) (st : Strand) (k : AccKind) (a : Nat) : Prop :=
  let ln := (s.pkg.crew st.crew).launch
  let traps (c : Nat) : Prop := Traps i s st c (BitVec.ofNat 64 a)
  (0x7F0000601000 ≤ a → traps 0x10)
  ∧ (0x7F0000600000 ≤ a → a < 0x7F0000601000 → (k ≠ .load ∨ 0x7F0000600248 ≤ a) → traps 0x13)
  ∧ (0x7F0000000000 ≤ a → a < 0x7F0000600000 →
      (s.pkg.launch ln).cpc ≤ (a - 0x7F0000000000) / 2 ^ 18 ∨ (s.pkg.launch ln).spad ≤ (a - 0x7F0000000000) % 2 ^ 18 → traps 0x13)
  ∧ (∀ t, a < 0x7F0000000000 → s.pkg.tlbHit st.core ln a = some t →
      (t.flags.testBit 11 = true ∧ st.sup = false) ∨ (k = .load ∧ t.flags.testBit 1 = false) ∨ (k = .store ∧ t.flags.testBit 2 = false) →
      traps 0x11)
  ∧ (a < 0x7F0000000000 → s.pkg.tlbHit st.core ln a = none →
      exec i s = .next (s.withPkg { s.pkg.setStrand s.focus { st with run := .blocked (.walk a k.code), grant := none } with
        walks := s.pkg.walks ++ [{ strand := s.focus, core := st.core, va := a, acc := k.code }] }))

end Sys2Proof.Spec

/-- R151, R155, R299, R306 to R309: CSET sets a field to the low bits of its register; a ready CGO, CARM or CPY of legal fields inside the crew,
with the strand's earlier accesses performed and room, enters its command: CGO and CPY at the end of the copy queue; CARM in the
armed set, or, as the model reads R155, at the end of the queue when its counter is already 0. A full queue makes the strand wait; a command
behind accesses not performed holds the issue without blocking (log entry 48). A CGO or CARM with a field that breaks a limit takes 0x02
with the field's number, one that names a position or an offset outside the crew 0x13; a CPY of more than 2^24 bytes takes 0x02 with the
number, its source, then its destination, what one byte there takes, then an FCORE beyond the crew 0x13 (R307, R308). CCANCEL removes
the strand's armed commands with its tag. That a command's ranges refuse while they wait for room, and a gather's before its start, is log
entry 21; the values fixed ahead that they end are log entry 37. -/
def Obligations.CopyCommands : Prop :=
  ∀ (s : State) (st : Strand),
    let k := s.pkg.core st.core
    let used := k.copyq.length + (if k.copyRun.isSome then 1 else 0)
    let m := st.shadow
    let waits (i : Instr) (q : Nat) : Prop :=
      exec i s = .next (s.withPkg (s.pkg.setStrand s.focus { st with run := .blocked (.queueFull q), grant := none }))
    let pops : Prop :=
      ∀ e ∈ s.pkg.pools, e.2.strand = st.uid → e.2.kind = .pop ∨ e.2.kind = .popw → e.2.joined = true ∨ e.2.answer.isSome = true
    (∀ (i : Instr) (dep : Bool), (i = .cgo ∧ dep = false) ∨ (i = .carm ∧ dep = true) → SlotReady i s st → Spec.field m 2 < 8 →
        ((∃ n, Spec.CopyBreaks m dep n) → ∃ n, Spec.CopyBreaks m dep n ∧ Spec.Traps i s st 0x02 (BitVec.ofNat 64 n))
        ∧ (Spec.CopyLegal m dep → ¬ Spec.CopyInside s.pkg st.crew m →
            ∃ v, Spec.CopyOutside s.pkg st.crew m v ∧ Spec.Traps i s st 0x13 (BitVec.ofNat 64 v))
        ∧ (Spec.CopyLegal m dep → Spec.CopyInside s.pkg st.crew m → s.pkg.owed st 6 ≠ [] → pops → exec i s = .next s))
    ∧ (∀ o : ECpy, SlotReady (.cpy o) s st →
        let xS := (st.getX o.xS.toNat).toNat
        let xD := (st.getX o.xD.toNat).toNat
        let xN := st.getX o.xN.toNat
        let cpc := (s.pkg.launch (s.pkg.crew st.crew).launch).cpc
        (2 ^ 24 < xN.toNat → Spec.Traps (.cpy o) s st 0x02 xN)
        ∧ (xN.toNat ≤ 2 ^ 24 → Spec.ByteStops (.cpy o) s st .load xS
          ∧ (Spec.Reach s st .load xS 1 → Spec.ByteStops (.cpy o) s st .store xD
            ∧ (Spec.Reach s st .store xD 1 →
                (o.pe = 1 → cpc ≤ o.fcore.toNat → Spec.Traps (.cpy o) s st 0x13 (BitVec.ofNat 64 o.fcore.toNat))
                ∧ ((o.pe = 1 → o.fcore.toNat < cpc) → s.pkg.owed st 6 ≠ [] → pops → exec (.cpy o) s = .next s)))))
    ∧ (∀ o : ECset, SlotReady (.cset o) s st →
      ∃ c, exec (.cset o) s = .next (s.unitDone (.cset o) st s.pkg { st with shadow := c })
        ∧ ∀ n, Spec.field c n = if n = o.field.toNat then (st.getX o.xa.toNat).toNat % 2 ^ Spec.fieldWidth n else Spec.field m n)
    ∧ (SlotReady .cgo s st → Spec.CopyLegal m false → Spec.CopyInside s.pkg st.crew m → s.pkg.owed st 6 = [] →
        (used < 16 → ∃ p, Spec.Appended s st m p ∧ exec .cgo s = .next (s.unitDone .cgo st p st)) ∧ (16 ≤ used → waits .cgo 1))
    ∧ (SlotReady .carm s st → Spec.CopyLegal m true → Spec.CopyInside s.pkg st.crew m → s.pkg.owed st 6 = [] →
        let ko := Spec.offAt s.pkg st.crew (Spec.field m 17 % 2 ^ 23)
        let n := s.pkg.num (ko + 6) 2
        s.pkg.poisoned ko 8 = none →
        (k.armed.length < 16 → n ≠ 0 → exec .carm s = .next (s.unitDone .carm st (s.pkg.setCore st.core { k with armed :=
          k.armed ++ [{ cmd := { num := 0, strand := s.focus, crew := st.crew, fields := m, sup := st.sup } }] }) st))
        ∧ (k.armed.length < 16 → n = 0 → ∃ p, Spec.Appended s st m p ∧ exec .carm s = .next (s.unitDone .carm st p st))
        ∧ (16 ≤ k.armed.length → waits .carm 5))
    ∧ (∀ o : ECpy, SlotReady (.cpy o) s st → (st.getX o.xN.toNat).toNat ≤ 2 ^ 24 → s.pkg.owed st 6 = [] →
        Spec.Reach s st .load (st.getX o.xS.toNat).toNat 1 → Spec.Reach s st .store (st.getX o.xD.toNat).toNat 1 →
        (o.pe = 1 → o.fcore.toNat < (s.pkg.launch (s.pkg.crew st.crew).launch).cpc) →
        (used < 16 → ∃ c p, Spec.Appended s st c p ∧ exec (.cpy o) s = .next (s.unitDone (.cpy o) st p st)
          ∧ Spec.field c 0 = (st.getX o.xS.toNat).toNat ∧ Spec.field c 1 = (st.getX o.xD.toNat).toNat ∧ Spec.field c 2 = 3
          ∧ Spec.field c 3 = (st.getX o.xN.toNat).toNat
          ∧ Spec.field c 15 = (if o.pe = 1 then o.postn.toNat * 2 ^ 16 + o.fcore.toNat * 2 ^ 5 + o.flag.toNat else 0)
          ∧ ∀ n, n ∉ [0, 1, 2, 3, 15] → Spec.field c n = Spec.field [] n) ∧ (16 ≤ used → waits (.cpy o) 1))
    ∧ (∀ o : ETag, SlotReady (.ccancel o) s st → ∃ l, exec (.ccancel o) s = .next (s.unitDone (.ccancel o) st
          (s.pkg.setCore st.core { k with armed := l }) st)
        ∧ l.Sublist k.armed ∧ ∀ a, a ∈ l ↔ a ∈ k.armed ∧ ¬(a.cmd.strand = s.focus ∧ Spec.field a.cmd.fields 21 = o.tag.toNat))

namespace Sys2Proof.Spec

/-- Address k names a legal galley word of crew cu, with no error, that no one waits for (R103). -/
abbrev Galley (p : Pkg) (k : Nat) : Prop := p.poisoned k 16 = none ∧ ∀ w ∈ p.unitWaits, w.key ≠ k

/-- The element an operation writes over old for the element x (R152): store, ADD, ADDS, MAX or MIN on signed elements of w bits. -/
def combine (op w old x : Nat) : Nat :=
  let a := (BitVec.ofNat w old).toInt
  let b := (BitVec.ofNat w x).toInt
  (BitVec.ofInt w (match op with
    | 1 => a + b
    | 2 => max (-2 ^ (w - 1)) (min (2 ^ (w - 1) - 1) (a + b))
    | 3 => max a b
    | 4 => min a b
    | _ => b)).toNat

end Sys2Proof.Spec

/-- R104, R112, R152 to R154, R393: the copy engine of a core in service. A command at the head of its queue, with no join before it, starts:
a strided one with its ranges entered or none wanted, a gather with its index list read. The next write of the command takes its
element, read once, and puts what its operation says at the address it goes to, under multicast at each position of the mask in turn;
every other byte of memory is as it was. The galley word of the core written counts the bytes: COUNT, and with TARGET reached GEN and
the post of POSTN; reserved bits of the word are ignored (log entry 60). A count that completes a generation at the command's last element
waits for its last write; before it the census is merged and the ranges go (R112, R154; log entry 21). A command whose elements are done
leaves: unless that has been done its census is merged and its ranges are removed, then its counter is decremented and its flag posted. A
source outside every region aborts the command: its strand takes 0x10. -/
def Obligations.CopyEngineSteps : Prop :=
  ∀ (s : State) (c : Nat),
    let k := s.pkg.core c
    (∀ (x : CopyCmd) (rest : List CopyCmd), k.copyq = x :: rest → k.copyRun = none → k.service = .inService →
      s.pkg.held x.strand 1 x.num = false →
      let f := Spec.field x.fields
      let starts (ix : List Nat) : Prop :=
        exec (.copyStart c) s = .next (s.withPkg (s.pkg.setCore c { k with copyq := rest, copyRun := some { cmd := x, ix := ix } }))
      (f 11 = 0 → (f 19 = 0 ∨ ∃ r ∈ s.pkg.ranges, r.src = 1 ∧ r.tok = x.num) → starts [])
      ∧ (f 11 ≠ 0 → f 19 = 0 → (∀ i < f 11, Spec.Clean s.pkg x.crew (f 10 + 4 * i) 4) →
          starts ((List.range (f 11)).map (fun i => s.pkg.num (Spec.offAt s.pkg x.crew (f 10 + 4 * i - 0x7F0000000000)) 4))))
    ∧ (∀ r : CopyRun, k.copyRun = some r →
      let m := r.cmd.fields
      let f := Spec.field m
      let cu := r.cmd.crew
      let es := Spec.esOf (f 2)
      let src := Spec.source m r.ix r.done
      let dst := Spec.destOf m r.done r.dest
      let writes := if f 14 = 0 then 1 else (Spec.castTo m).length
      let last : Prop := writes ≤ r.dest + 1
      let kd := Spec.offAt s.pkg cu (dst - 0x7F0000000000)
      let x := r.val.getD (s.pkg.num (Spec.offAt s.pkg cu (src - 0x7F0000000000)) es)
      let y := Spec.combine (f 13) (8 * es) (s.pkg.num kd es) x
      let tab (p : Pkg) (q : Pkg) : Prop := (∀ e, e ∈ q.ranges ↔ e ∈ p.ranges ∧ ¬(e.src = 1 ∧ e.tok = r.cmd.num))
        ∧ ∀ e, e ∈ q.wanted ↔ e ∈ p.wanted ∧ ¬(e.src = 1 ∧ e.tok = r.cmd.num)
      let can : Prop := f 13 ≤ 4 ∧ (f 13 ≠ 0 → f 2 = 2 ∨ f 2 = 4 ∨ f 2 = 6) ∧ f 2 < 7 ∧ r.done < Spec.total m ∧ r.dest < writes
        ∧ (r.val = none → Spec.Clean s.pkg cu src es) ∧ Spec.Clean s.pkg cu dst es
        ∧ (f 14 ≠ 0 → 0x7F0000000000 ≤ Spec.dest m r.done ∧ Spec.dest m r.done < 0x7F0000600000)
      let next (t : State) : Prop := ∃ r' : CopyRun, (t.pkg.core c).copyRun = some r' ∧ r'.cmd = r.cmd ∧ r'.ix = r.ix
        ∧ (last → r'.done = r.done + 1 ∧ r'.val = none ∧ r'.dest = 0) ∧ (¬ last → r'.done = r.done ∧ r'.val = some x ∧ r'.dest = r.dest + 1)
        ∧ r'.sat = (r.sat || decide (f 13 = 2 ∧ (BitVec.ofNat (8 * es) y).toInt
            ≠ (BitVec.ofNat (8 * es) (s.pkg.num kd es)).toInt + (BitVec.ofNat (8 * es) x).toInt))
        ∧ r'.census = (minOf (r.census ++ (if f 2 < 2 then [y % 16, y / 16] else [y]).map (fun v =>
            rsb (f 2 % 2 == 0) (tyW (f 2)) (if f 2 % 2 = 0 then (BitVec.ofNat (tyW (f 2)) v).toInt else v)))).toList
      let final : Prop := Spec.total m ≤ r.done + 1
      let keeps (t : State) : Prop := t.pkg.ranges = s.pkg.ranges ∧ t.pkg.wanted = s.pkg.wanted
        ∧ ∃ r' : CopyRun, (t.pkg.core c).copyRun = some r' ∧ r'.late = r.late ∧ r'.merged = r.merged
      (can → Spec.offset m 16 = none → r.late = [] → ∃ t, exec (.copyWriteLanded c) s = .next t ∧ next t ∧ keeps t ∧ t.pkg.num kd es = y
          ∧ (∀ j, ¬(kd ≤ j ∧ j < kd + es) → t.pkg.byte j = s.pkg.byte j) ∧ t.pkg.strands = s.pkg.strands)
      ∧ (∀ o, can → Spec.offset m 16 = some o → o % 16 = 0 →
          let j := if f 14 = 0 then o / 2 ^ 18 else (dst - 0x7F0000000000) / 2 ^ 18
          let kg := Spec.offAt s.pkg cu (j * 2 ^ 18 + o % 2 ^ 18)
          let n := s.pkg.num (kg + 4) 4 + es
          let target := s.pkg.num kg 4
          let times := if target = 0 then 0 else n / target
          let gen := (s.pkg.num (kg + 8) 2 + times) % 2 ^ 16
          let at' (n w : Nat) : Nat := s.pkg.num (kg + n) w
          let fc := (s.pkg.crew cu).cores.getD (at' 11 1 % 32) 0
          let fl := at' 10 1 % 32
          let counted (t : State) : Prop :=
            t.pkg.num (kg + 4) 4 = (if target = 0 then min n (2 ^ 32 - 1) else n % target) ∧ t.pkg.num (kg + 8) 2 = (if target = 0 then at' 8 2 else gen)
            ∧ Spec.flag t.pkg fc fl = Spec.flag s.pkg fc fl + (if times = 1 then at' 12 2 else 0)
          let blk : Option Nat := (Spec.offset m 20).map (Spec.offAt s.pkg cu)
          Spec.Galley s.pkg kg → kg + 16 ≤ kd ∨ kd + es ≤ kg →
          (times = 0 ∨ at' 12 2 = 0 ∨ (times = 1 ∧ at' 11 1 % 32 < (s.pkg.launch (s.pkg.crew cu).launch).cpc ∧ (s.pkg.crew cu).away = false
            ∧ Spec.flag s.pkg fc fl + at' 12 2 < 2 ^ 32 ∧ ∀ w ∈ (s.pkg.core fc).waits, w.flag ≠ fl)) →
          (¬(final ∧ 0 < times) → ¬(last ∧ final ∧ r.late ≠ []) →
            ∃ t, exec (.copyWriteLanded c) s = .next t ∧ next t ∧ keeps t ∧ t.pkg.num kd es = y ∧ counted t
              ∧ (∀ j, ¬(kd ≤ j ∧ j < kd + es) → ¬(kg + 4 ≤ j ∧ j < kg + 10) → t.pkg.byte j = s.pkg.byte j))
          ∧ (final → 0 < times → ¬ last →
            ∃ t, exec (.copyWriteLanded c) s = .next t ∧ next t ∧ t.pkg.num kd es = y ∧ t.pkg.ranges = s.pkg.ranges
              ∧ (∃ r' : CopyRun, (t.pkg.core c).copyRun = some r' ∧ r'.late = r.late ++ [(kg, (s.pkg.crew cu).cores.getD j 0)])
              ∧ (∀ j, ¬(kd ≤ j ∧ j < kd + es) → t.pkg.byte j = s.pkg.byte j))
          ∧ (final → 0 < times → last → r.late = [] →
            (∀ kb ∈ blk, s.pkg.poisoned kb 8 = none ∧ (kb + 8 ≤ kd ∨ kd + es ≤ kb) ∧ (kb + 8 ≤ kg ∨ kg + 16 ≤ kb)) →
            (∀ o' ∈ Spec.offset m 20, o' % 8 = 0) →
            ∃ (t : State) (r' : CopyRun), exec (.copyWriteLanded c) s = .next t ∧ next t ∧ t.pkg.num kd es = y ∧ counted t ∧ tab s.pkg t.pkg
              ∧ (t.pkg.core c).copyRun = some r' ∧ r'.late = [] ∧ r'.merged = true
              ∧ (∀ kb ∈ blk, t.pkg.num kb 4 = min (s.pkg.num kb 4) (r'.census.headD 0)
                  ∧ t.pkg.num (kb + 4) 4 = (s.pkg.num (kb + 4) 4 ||| if r'.sat then 1 else 0))
              ∧ (∀ j, ¬(kd ≤ j ∧ j < kd + es) → ¬(kg + 4 ≤ j ∧ j < kg + 10) → (∀ kb ∈ blk, ¬(kb ≤ j ∧ j < kb + 8)) → t.pkg.byte j = s.pkg.byte j)))
      ∧ (Spec.total m ≤ r.done →
        let leaves (q : Pkg) : Prop := ∃ p : Pkg, tab q p ∧ p = { q with ranges := p.ranges, wanted := p.wanted }
          ∧ exec (.copyCompletion c) s = .next (s.withPkg (p.setCore c { p.core c with copyRun := none }))
        (r.merged = true → f 15 / 2 ^ 16 % 2 ^ 16 = 0 → Spec.offset m 18 = none →
          exec (.copyCompletion c) s = .next (s.withPkg (s.pkg.setCore c { k with copyRun := none })))
        ∧ (r.merged = false →
        (f 15 / 2 ^ 16 % 2 ^ 16 = 0 → Spec.offset m 18 = none → Spec.offset m 20 = none → leaves s.pkg)
        ∧ (∀ o n, f 15 / 2 ^ 16 % 2 ^ 16 = 0 → Spec.offset m 18 = none → Spec.offset m 20 = some o → o % 8 = 0 → r.census = [n] → n < 2 ^ 32 →
            let kb := Spec.offAt s.pkg cu o
            s.pkg.poisoned kb 8 = none →
            ∃ t, exec (.copyCompletion c) s = .next t ∧ (t.pkg.core c).copyRun = none ∧ tab s.pkg t.pkg
              ∧ t.pkg.num kb 4 = min (s.pkg.num kb 4) n
              ∧ t.pkg.num (kb + 4) 4 = (s.pkg.num (kb + 4) 4 ||| if r.sat then 1 else 0)
              ∧ (∀ j, ¬(kb ≤ j ∧ j < kb + 8) → t.pkg.byte j = s.pkg.byte j))
        ∧ (∀ o, f 15 / 2 ^ 16 % 2 ^ 16 = 0 → Spec.offset m 20 = none → Spec.offset m 18 = some o → o % 64 = 0 →
            s.pkg.poisoned (Spec.offAt s.pkg cu o) 8 = none →
            ∃ (t : State) (p q : Pkg), exec (.copyCompletion c) s = .next t ∧ tab s.pkg p ∧ p = { s.pkg with ranges := p.ranges, wanted := p.wanted }
              ∧ q = p.decrement cu o c 0 ∧ t = s.withPkg (q.setCore c { q.core c with copyRun := none }))
        ∧ (Spec.offset m 18 = none → Spec.offset m 20 = none → 0 < f 15 / 2 ^ 16 % 2 ^ 16 → (s.pkg.crew cu).away = false →
            ∃ p q : Pkg, tab s.pkg p ∧ p = { s.pkg with ranges := p.ranges, wanted := p.wanted }
              ∧ q = p.post ((s.pkg.crew cu).cores.getD (f 15 / 2 ^ 5 % 2 ^ 5) 0) (f 15 % 2 ^ 5) (f 15 / 2 ^ 16 % 2 ^ 16) cu c 0
              ∧ exec (.copyCompletion c) s = .next (s.withPkg (q.setCore c { q.core c with copyRun := none })))))
      ∧ (∀ st, f 2 < 8 → r.val = none → r.done < Spec.total m → 0x7F0000601000 ≤ src →
          s.pkg.strands.find? r.cmd.strand = some st → st.run ≠ .ended → st.lost = false →
          ∃ t, exec (.copyAbort c) s = .next t ∧ (t.pkg.core c).copyRun = none ∧ tab s.pkg t.pkg ∧ t.pkg.mem = s.pkg.mem
            ∧ t.pkg.strands.find? r.cmd.strand =
                some { st with async := st.async ++ [{ cause := 0x10, tval := BitVec.ofNat 64 src }] }))

/-! ### Formes and dependence counters -/

namespace Sys2Proof.Spec

/-- n bytes from a window offset lie in crew cu's allocation (R96). -/
abbrev Spans (p : Pkg) (cu off n : Nat) : Prop := ∀ x < n, Inside p cu (off + x) 1

/-- The record r is a forme that R141 admits: no reserved bit or code, at most 16 output tiles, K within the launch's depth, FCORE in the
crew, strides of 8 bytes, and every part in use aligned and in the allocation. -/
abbrev FormeLegal (p : Pkg) (cu : Nat) (r : List Byte) : Prop :=
  let w (n lo len : Nat) : Nat := recN r (8 * n) 8 / 2 ^ lo % 2 ^ len
  let f := formeOf r
  let l := p.launch (p.crew cu).launch
  let span (tr : Bool) (rows cols t stride : Nat) : Nat :=
    if tr then (cols - 1) * stride + rows * tyW t / 8 else (rows - 1) * stride + cols * tyW t / 8
  w 0 46 2 < 2 ∧ w 0 43 3 < 5 ∧ w 0 40 3 < 5 ∧ w 0 8 3 = 0 ∧ w 1 23 25 = 0 ∧ w 2 23 25 = 0 ∧ w 3 23 22 = 0 ∧ w 5 62 2 < 3
  ∧ w 5 56 4 ≤ 12 ∧ w 5 47 9 = 0 ∧ w 6 23 9 = 0 ∧ w 7 32 8 = 0 ∧ w 7 0 8 = 0
  ∧ f.m / 16 * (f.n / 16) ≤ 16 ∧ f.k / 16 ≤ l.maxSteps ∧ f.fcore < l.cpc ∧ f.astride % 8 = 0 ∧ f.bstride % 8 = 0 ∧ f.ostride % 8 = 0
  ∧ (∀ e ∈ [(true, f.aoff, 8, span f.ta f.m f.k f.atype f.astride), (true, f.boff, 8, span f.tb f.k f.n f.btype f.bstride),
        (true, f.ooff, 8, span false f.m f.n f.otype f.ostride), (f.men, f.moff, 64, 4 * f.n), (f.kind == 1, f.bias, 64, 4 * f.n),
        (f.cen, f.coff, 8, 8), (f.h != 0, f.mapoff, 64, 576), (f.dv0, f.dec0, 64, 8), (f.dv1, f.dec1, 64, 8)],
      e.1 = true → e.2.1 % e.2.2.1 = 0 ∧ Spans p cu e.2.1 e.2.2.2)

/-- The signature code of a row of n elements (R87). -/
def hash (seed h n : Nat) (a : Nat → Int) : Nat :=
  ((List.range h).map (fun j => if ((List.range n).map (fun k =>
    if (mix (BitVec.ofNat 32 (k + seed * 0x9E3779B9))).getLsbD j then -a k else a k)).sum < 0 then 2 ^ j else 0)).sum

/-- Rows i and j fall in one gathering (R148): of one code, and in EXACT mode equal; without signature each row is its own. -/
def together (f : Forme) (a : Nat → Nat → Int) (i j : Nat) : Bool :=
  if f.h = 0 then i == j
  else hash f.seed f.h f.k (a i) == hash f.seed f.h f.k (a j) && (!f.exact || (List.range f.k).all (fun x => a i x == a j x))

/-- The first rows of the gatherings, ascending; the number of row i's gathering; and its members. -/
def leaders (f : Forme) (a : Nat → Nat → Int) : List Nat :=
  (List.range f.m).filter (fun i => (List.range i).all (fun j => !together f a j i))
def gatheringOf (f : Forme) (a : Nat → Nat → Int) (i : Nat) : Nat := (leaders f a).findIdx (fun j => together f a j i)
def gathered (f : Forme) (a : Nat → Nat → Int) (q : Nat) : List Nat :=
  (List.range f.m).filter (fun i => together f a ((leaders f a).getD q 0) i)

/-- The representative row of gathering q: its first, or with MEAN the rounded mean of its members. -/
def represent (f : Forme) (a : Nat → Nat → Int) (q x : Nat) : Int :=
  let n := (gathered f a q).length
  if f.h ≠ 0 ∧ f.rep = 1 then (((gathered f a q).map (fun i => a i x)).sum + (n / 2 : Nat)) / n else a ((leaders f a).getD q 0) x

/-- The imposition map (R149). -/
def formeMap (f : Forme) (a : Nat → Nat → Int) : List Byte :=
  let n := (leaders f a).length
  bytes 2 n ++ bytes 2 f.m ++ bytes 1 (2 ^ 6 * f.bwd + 2 ^ 5 * f.rep + 2 ^ 4 * f.exact.toNat + f.h) ++ bytes 3 0 ++ bytes 4 f.seed
    ++ bytes 52 0 ++ (List.range 256).map (fun i => BitVec.ofNat 8 (if i < f.m then gatheringOf f a i else 0))
    ++ (List.range 256).map (fun q => BitVec.ofNat 8 (if q < n then (gathered f a q).length - 1 else 0))

/-- The accumulator of output (i, j) after n K-steps on the rows a: the bias or 0, then the exact sum of each step's products, saturated
once a step to the accumulator's width (R79, R145); and the step's exact value before it saturates. -/
def stepSum (p : Pkg) (cu : Nat) (f : Forme) (a : Nat → Nat → Int) (i j x : Nat) : Int :=
  ((List.range 16).map (fun y => represent f a (gatheringOf f a i) (16 * x + y) * f.b p cu (16 * x + y) j)).sum
def formeAcc (p : Pkg) (cu : Nat) (f : Forme) (a : Nat → Nat → Int) (i j : Nat) : Nat → Int
  | 0 => if f.kind = 1 then (BitVec.ofNat 32 (p.num (offAt p cu (f.bias + 4 * j)) 4)).toInt else 0
  | n + 1 => sats (if f.s32 then 32 else 56) (formeAcc p cu f a i j n + stepSum p cu f a i j n)

/-- Output (i, j) of a forme before and after it saturates to its type: multiplied, rounded (R146). -/
def formeRaw (p : Pkg) (cu : Nat) (f : Forme) (a : Nat → Nat → Int) (i j : Nat) : Int :=
  let v := formeAcc p cu f a i j (f.k / 16) * (if f.men then (BitVec.ofNat 32 (p.num (offAt p cu (f.moff + 4 * j)) 4)).toInt else 1)
  if f.stoch then stoch v f.shift ((f.keybase + i * f.n + j) % 2 ^ 32) else rne v f.shift
def formeOut (p : Pkg) (cu : Nat) (f : Forme) (a : Nat → Nat → Int) (i j : Nat) : Int :=
  satTo (tySigned f.otype) (tyW f.otype) (formeRaw p cu f a i j)

/-- The bytes of output row i, and where they go. -/
def formeRow (p : Pkg) (cu : Nat) (f : Forme) (a : Nat → Nat → Int) (i : Nat) : List Byte :=
  bytes (f.n * tyW f.otype / 8) ((List.range f.n).map (fun j =>
    (BitVec.ofInt (tyW f.otype) (formeOut p cu f a i j)).toNat * 2 ^ (tyW f.otype * j))).sum
def rowAt (p : Pkg) (cu : Nat) (f : Forme) (i : Nat) : Nat := offAt p cu (f.ooff + i * f.ostride)

/-- Memory after a forme has run (R145, R146): the map if it has a signature, then every output row, from BIAS, B and MULT as the map
leaves them, then the census block. -/
def formeMem (p : Pkg) (cu : Nat) (f : Forme) (a : Nat → Nat → Int) : Pkg :=
  let p1 := if f.h = 0 then p else p.write (offAt p cu f.mapoff) (formeMap f a)
  let p2 := (List.range f.m).foldl (fun q i => q.write (rowAt p cu f i) (formeRow p1 cu f a i)) p1
  let at' : List (Nat × Nat) := (List.range f.m).flatMap (fun i => (List.range f.n).map (fun j => (i, j)))
  let k := offAt p cu f.coff
  let least := (at'.map (fun e => rsb (tySigned f.otype) (tyW f.otype) (formeOut p1 cu f a e.1 e.2))).foldl min 63
  let sat := at'.any (fun e => decide (formeRaw p1 cu f a e.1 e.2 ≠ formeOut p1 cu f a e.1 e.2))
  let tsat := at'.any (fun e => (List.range (f.k / 16)).any (fun n =>
    decide (formeAcc p1 cu f a e.1 e.2 (n + 1) ≠ formeAcc p1 cu f a e.1 e.2 n + stepSum p1 cu f a e.1 e.2 n)))
  if f.cen then (p2.write k (bytes 4 (min (p2.num k 4) least))).write (k + 4)
    (bytes 4 (p2.num (k + 4) 4 ||| (if sat then 1 else 0) ||| (if tsat then 2 else 0)))
  else p2

/-- Forme entry g can be issued to the engine of core c (R144, R181). -/
abbrev Issuable (p : Pkg) (c : Nat) (g : FormeEnt) : Prop :=
  g.ready = true ∧ g.core = none ∧ c ∈ (p.crew g.crew).cores ∧ (p.crew g.crew).isSaved = false ∧ p.held g.strand 2 g.num = false

end Sys2Proof.Spec

/-- R144 to R147, R299, R305, R395, R396: a ready TTASK or TDEP of a record in the crew's window, with the cluster's queue not full, enters its entry: a
forme ready when its counter is 0, a pending decrement. A decrement lowers the counter by 1; at 0 the entries of the record become ready.
The scheduler gives its oldest issuable entry to a free SHARED engine, or, where the record is malformed, drops it and traps its strand
with 0x21. A TTASK of a crew with no SHARED core takes 0x19; both take 0x08 and 0x13 for their address, and wait behind accesses not performed
or for room. A counter already 0 queues the notice. A forme whose output rows lie apart from its multipliers completes: the map of its
signature, its outputs and its census are in memory, the words written whole lose their errors, then DEC0, DEC1 and the post are made,
and it leaves the queue. That a forme is computed in one step is log entry 22; that bits [47:0] of a dependence word are ignored, 73; that
the range of a part is its whole span, 83; that a slot behind accesses not performed holds the issue without blocking, 48. -/
def Obligations.FormesAndDependenceCounters : Prop :=
  ∀ (s : State),
    (∀ (o : EAddr) (st : Strand),
      let a := (st.getX o.xB.toNat + o.off.signExtend 64).toNat
      let off := a - 0x7F0000000000
      let cl := (s.pkg.crew st.crew).cluster
      let q := s.pkg.cluster cl
      let num : Nat := q.formes.length + (s.pkg.decs.filter (fun d => (s.pkg.crew d.crew).cluster == cl)).length
      let shared : Prop := ∃ c ∈ (s.pkg.crew st.crew).cores, (s.pkg.core c).mode = .shared
      let eff (i : Instr) : Prop := i = .ttask o ∨ i = .tdep o
      (∀ i, eff i → SlotReady i s st → a % 64 ≠ 0 → Spec.Traps i s st 0x08 (BitVec.ofNat 64 a))
      ∧ (∀ i, eff i → SlotReady i s st → a % 64 = 0 → 0x7F0000601000 ≤ a → Spec.Traps i s st 0x10 (BitVec.ofNat 64 a))
      ∧ (∀ i, eff i → SlotReady i s st → a % 64 = 0 → a < 0x7F0000601000 → ¬ Spec.inWindow s st a 64 → Spec.Traps i s st 0x13 (BitVec.ofNat 64 a))
      ∧ (SlotReady (.ttask o) s st → a % 64 = 0 → Spec.inWindow s st a 64 → ¬ shared → Spec.Traps (.ttask o) s st 0x19 0x20)
      ∧ (∀ i, eff i → SlotReady i s st → a % 64 = 0 → Spec.inWindow s st a 64 → (i = .ttask o → shared) → s.pkg.owed st 2 ≠ [] →
          (∀ e ∈ s.pkg.pools, e.2.strand = st.uid → e.2.kind = .pop ∨ e.2.kind = .popw → e.2.joined = true ∨ e.2.answer.isSome = true) →
          exec i s = .next s)
      ∧ (a % 64 = 0 → Spec.inWindow s st a 64 → s.pkg.owed st 2 = [] → s.pkg.poisoned (Spec.offAt s.pkg st.crew off) 8 = none →
      (∀ i, eff i → SlotReady i s st → (i = .ttask o → shared) → 1024 ≤ num →
        exec i s = .next (s.withPkg (s.pkg.setStrand s.focus { st with run := .blocked (.queueFull 2), grant := none })))
      ∧ (q.formes.length + (s.pkg.decs.filter (fun d => (s.pkg.crew d.crew).cluster == cl)).length < 1024 →
      (SlotReady (.ttask o) s st → shared →
        let f : FormeEnt := { num := s.pkg.nextNum, strand := s.focus, crew := st.crew, off := off,
                              ready := decide (s.pkg.num (Spec.offAt s.pkg st.crew off + 6) 2 = 0) }
        exec (.ttask o) s = .next (s.unitDone (.ttask o) st
          (({ s.pkg with nextNum := s.pkg.nextNum + 1 } : Pkg).setCluster cl { q with formes := q.formes ++ [f] }) st))
      ∧ (SlotReady (.tdep o) s st → exec (.tdep o) s = .next (s.unitDone (.tdep o) st { s.pkg with
          nextNum := s.pkg.nextNum + 1
          decs := s.pkg.decs ++ [{ tok := s.pkg.nextNum, strand := s.focus, crew := st.crew, off := off }] } st)))))
    ∧ (∀ (tok : Nat) (d : PendDec), s.pkg.decs.find? (fun e => e.tok == tok) = some d → s.pkg.held d.strand 2 tok = false →
      (s.pkg.crew d.crew).isSaved = false → (∀ e ∈ s.pkg.decs, e.strand = d.strand → tok ≤ e.tok) →
      let kc := Spec.offAt s.pkg d.crew d.off + 6
      d.off % 8 = 0 → s.pkg.poisoned (Spec.offAt s.pkg d.crew d.off) 8 = none →
      let left : List PendDec := s.pkg.decs.filter (fun e => e.tok != tok)
      (2 ≤ s.pkg.num kc 2 → exec (.dependenceDecrement tok) s = .next (s.withPkg
          (({ s.pkg with decs := left } : Pkg).write kc (Spec.bytes 2 (s.pkg.num kc 2 - 1)))))
      ∧ (∀ st, s.pkg.num kc 2 = 0 → s.pkg.strands.find? d.strand = some st → exec (.dependenceDecrement tok) s = .next (s.withPkg
          (({ s.pkg with decs := left } : Pkg).notify d.crew 1 0 st.core st.sn (BitVec.ofNat 64 d.off))))
      ∧ (s.pkg.num kc 2 = 1 → ∃ t, exec (.dependenceDecrement tok) s = .next t ∧ t.pkg.decs = left ∧ t.pkg.num kc 2 = 0
          ∧ (t.pkg.cluster (s.pkg.crew d.crew).cluster).formes = (s.pkg.cluster (s.pkg.crew d.crew).cluster).formes.map
              (fun f => { f with ready := f.ready || (f.crew == d.crew && f.off == d.off) })
          ∧ ∀ j, ¬(kc ≤ j ∧ j < kc + 2) → t.pkg.byte j = s.pkg.byte j))
    ∧ (∀ (cl j : Nat) (l l' : List FormeEnt) (f : FormeEnt),
      let c := cl * 24 + j
      let k := s.pkg.core c
      let q := s.pkg.cluster cl
      let key := Spec.offAt s.pkg f.crew f.off
      let r := s.pkg.bytes key 64
      let issued : List FormeEnt := q.formes.map (fun g => if g.num = f.num then { g with core := some c, bytes := r } else g)
      let left : List FormeEnt := q.formes.filter (fun g => g.num != f.num)
      j < 24 → k.mode = .shared → k.forme = none → k.service = .inService →
      (∀ n < 24, n ≠ j → (s.pkg.core (cl * 24 + n)).mode = .direct ∨ (s.pkg.core (cl * 24 + n)).forme.isSome
        ∨ (s.pkg.core (cl * 24 + n)).service ≠ .inService) →
      q.formes = l ++ f :: l' → (∀ g ∈ l, ¬ Spec.Issuable s.pkg c g) → Spec.Issuable s.pkg c f → s.pkg.poisoned key 64 = none →
      (Spec.FormeLegal s.pkg f.crew r → exec (.formeIssue cl) s =
          .next (s.withPkg ((s.pkg.setCluster cl { q with formes := issued }).setCore c { k with forme := some f.num })))
      ∧ (∀ st, ¬ Spec.FormeLegal s.pkg f.crew r → s.pkg.strands.find? f.strand = some st → st.run ≠ .ended → st.lost = false →
          exec (.formeIssue cl) s = .next (s.withPkg ((s.pkg.setCluster cl { q with formes := left }).modStrand f.strand
            (fun x => { x with async := x.async ++ [{ cause := 0x21, tval := BitVec.ofNat 64 f.off }] })))))
    ∧ (∀ (c n : Nat) (e : FormeEnt),
      let k := s.pkg.core c
      let q := s.pkg.cluster (c / 24)
      let f := formeOf e.bytes
      let cu := e.crew
      let a (i x : Nat) : Int := f.a s.pkg cu i x
      let len := f.n * tyW f.otype / 8
      k.forme = some n → q.formes.find? (fun g => g.num == n) = some e → formeUpset s.pkg cu f = none →
      (f.h = 0 ∨ f.mapoff % 2 ^ 18 + 576 ≤ 2 ^ 18) → (∀ i < f.m, (f.ooff + i * f.ostride) % 2 ^ 18 + len ≤ 2 ^ 18) →
      (f.men = false ∨ ∀ i < f.m, ∀ j < f.n, let m := Spec.offAt s.pkg cu (f.moff + 4 * j)
        m + 4 ≤ Spec.rowAt s.pkg cu f i ∨ Spec.rowAt s.pkg cu f i + len ≤ m) →
      ∃ p : Pkg, p = { s.pkg with mem := p.mem, poison := p.poison } ∧ p.poison.Sublist s.pkg.poison
        ∧ (∀ x, p.byte x = (Spec.formeMem s.pkg cu f a).byte x)
        ∧ (∀ x, x ∈ p.poison ↔ x ∈ s.pkg.poison
            ∧ ¬(f.h ≠ 0 ∧ Spec.offAt s.pkg cu f.mapoff ≤ x ∧ x + 8 ≤ Spec.offAt s.pkg cu f.mapoff + 576)
            ∧ ¬ ∃ i < f.m, Spec.rowAt s.pkg cu f i ≤ x ∧ x + 8 ≤ Spec.rowAt s.pkg cu f i + len)
        ∧ (let p := if f.dv0 then p.decrement cu f.dec0 c 0 else p
           let p := if f.dv1 then p.decrement cu f.dec1 c 0 else p
           let p := if f.postn = 0 then p else p.postPos cu f.fcore f.flag f.postn cu c 0
           let p := p.setCluster (c / 24) { p.cluster (c / 24) with formes := (p.cluster (c / 24)).formes.filter (fun g => g.num != e.num) }
           exec (.formeCompletion c) s = .next (s.withPkg (p.setCore c { p.core c with forme := none }))))

/-! ### Collectives -/

namespace Sys2Proof.Spec

/-- n bytes at window address va lie in crew cu's allocation of one position, with no uncorrectable word and no store in flight. -/
abbrev CleanRun (p : Pkg) (cu va n : Nat) : Prop :=
  0x7F0000000000 ≤ va ∧ va < 0x7F0000600000 ∧ Inside p cu (va - 0x7F0000000000) n ∧ va % 2 ^ 18 + n ≤ 2 ^ 18
  ∧ p.poisoned (offAt p cu (va - 0x7F0000000000)) n = none ∧ Settled p

/-- Strand u, if it has not ended, has one more asynchronous trap pending; every other strand is as it was (R356). -/
def Told (p q : Pkg) (u cause : Nat) (tval : X) : Prop :=
  (∀ st, p.strands.find? u = some st → st.run ≠ .ended → st.lost = false →
    q.strands.find? u = some { st with async := st.async ++ [{ cause := cause, tval := tval }] })
  ∧ (∀ st, p.strands.find? u = some st → st.run ≠ .ended → st.lost = false → ∀ v, v ≠ u → q.strands.find? v = p.strands.find? v)

/-- Collective c is over at this rank: it, its ranges and what came for it are gone, and it counts as completed on its communicator. -/
def CollOver (p q : Pkg) (c : Coll) : Prop :=
  (∀ d, d ∈ q.colls ↔ d ∈ p.colls ∧ d.num ≠ c.num) ∧ (∀ r, r ∈ q.ranges ↔ r ∈ p.ranges ∧ ¬(r.src = 2 ∧ r.tok = c.num))
  ∧ (∀ r, r ∈ q.wanted ↔ r ∈ p.wanted ∧ ¬(r.src = 2 ∧ r.tok = c.num))
  ∧ (∀ m, m ∈ q.inbox ↔ m ∈ p.inbox ∧ ¬(m.comm = c.comm ∧ m.num = c.m))
  ∧ (∀ n, q.collDone.get 0 n = p.collDone.get 0 n + if n = c.comm then 1 else 0)

/-- Collective c is abandoned (R402, R403): over, its strand told, and an abandon sent to the peers where tell holds; memory unchanged. -/
def Abandoned (p q : Pkg) (c : Coll) (cause : Nat) (tval : X) (tell : Bool) : Prop :=
  CollOver p q c ∧ Told p q c.strand cause tval ∧ q.mem = p.mem
  ∧ q.outbox = (if tell then p.outbox ++ [.abandon c.comm c.m] else p.outbox)

/-- The range of len bytes at b that an RTADD enters as command n (R110, R311). -/
def rtRange (s : State) (st : Strand) (n b len mode tag : Nat) : Range :=
  { base := b / 64, units := (b + len - 1) / 64 + 1 - b / 64, mode := mode, owner := tag, launch := (s.pkg.crew st.crew).launch, src := 0, tok := n }

/-- Dimension d of communicator cm: the origin and extent of its box, and this package's place and the pod's extent (R158, R171). -/
def org (s : State) (cm d : Nat) : Nat := (s.host.comm.get 0 cm).toNat / 2 ^ (4 * d) % 16
def ext (s : State) (cm d : Nat) : Nat := (s.host.comm.get 0 cm).toNat / 2 ^ (12 + 4 * d) % 16 + 1
def pos (s : State) (d : Nat) : Nat := s.host.podpos.toNat / 2 ^ (4 * d) % 16
def pod (s : State) (d : Nat) : Nat := s.host.podpos.toNat / 2 ^ (12 + 4 * d) % 16 + 1

/-- This package's displacement in the box, and its rank: X first, then Y, then Z (R158). -/
def disp (s : State) (cm d : Nat) : Nat := (pos s d + pod s d - org s cm d % pod s d) % pod s d
def rank (s : State) (cm : Nat) : Nat := disp s cm 0 + ext s cm 0 * (disp s cm 1 + ext s cm 1 * disp s cm 2)

/-- The collective that command n of strand u starts from the block bs at va (R158, R159, R163). -/
def collFor (s : State) (u n : Nat) (st : Strand) (va : Nat) (sup : Bool) (bs : List Byte) : Coll :=
  let cm := (bs.getD 6 0).toNat
  { num := n, m := s.pkg.collAcc.get 0 cm, strand := u, crew := st.crew, launch := (s.pkg.crew st.crew).launch, va := va, comm := cm,
    rank := rank s cm, ranks := ext s cm 0 * (ext s cm 1 * ext s cm 2), sup := sup, block := bs }

/-- A communicator is valid and its box holds this package. -/
abbrev CommOk (s : State) (cm : Nat) : Prop :=
  (s.host.comm.get 0 cm).getLsbD 31 = true ∧ ∀ d < 3, ext s cm d ≤ pod s d ∧ disp s cm d < ext s cm d

/-- The functions that a collective of communicator cm needs are ready: the collective engine, and this package's ports on the paths
between ranks that differ in one dimension. A path goes the shorter way round the pod's ring, the positive one where both are equal; a
package sends on by the port of the path's direction and receives by the other, but in a ring of two by the positive one alone (R15, R183). -/
abbrev PortsReady (s : State) (cm : Nat) : Prop :=
  ∀ d < 3, ∀ i < ext s cm d, ∀ j < ext s cm d,
    let n := pod s d
    let x := disp s cm d
    let fwd := (j + n - i % n) % n
    let t := (x + n - i % n) % n
    let back := (i + n - x % n) % n
    (n = 2 ∧ fwd ≠ 0 → s.host.ready.getLsbD (14 + 2 * d) = true)
    ∧ (n ≠ 2 → fwd ≠ 0 → 2 * fwd ≤ n →
        (t < fwd → s.host.ready.getLsbD (14 + 2 * d) = true) ∧ (0 < t → t ≤ fwd → s.host.ready.getLsbD (15 + 2 * d) = true))
    ∧ (n ≠ 2 → n < 2 * fwd →
        (back < n - fwd → s.host.ready.getLsbD (15 + 2 * d) = true) ∧ (0 < back → back ≤ n - fwd → s.host.ready.getLsbD (14 + 2 * d) = true))

/-- What a rank checks of its own parameter block (R159, R402): codes and limits of the fields, alignment, reserved bits, and 0 where a
BARRIER has no buffer. -/
abbrev BlockLegal (p : Pkg) (c : Coll) : Prop :=
  let w (n lo len : Nat) : Nat := recN c.block (8 * n) 8 / 2 ^ lo % 2 ^ len
  let bar : Prop := c.op = 4
  w 0 61 3 ≤ 5 ∧ w 0 59 2 ≠ 3 ∧ 2 ≤ w 0 56 3 ∧ w 0 45 3 ≤ 2 ∧ 12 ≤ w 0 37 5 ∧ w 0 37 5 ≤ 20 ∧ w 0 25 12 < c.ranks ∧ (c.op ≠ 3 → w 0 25 12 = 0)
  ∧ w 0 0 25 = 0 ∧ w 1 48 16 = 0 ∧ c.send % c.size = 0 ∧ w 2 48 16 = 0 ∧ c.recv % c.size = 0 ∧ w 3 40 24 = 0
  ∧ (bar → c.send = 0 ∧ c.recv = 0 ∧ c.count = 0) ∧ max c.sendN c.recvN * c.size ≤ 2 ^ 32 ∧ w 4 16 48 = 0
  ∧ w 5 62 2 ≠ 3 ∧ w 5 41 5 < (p.launch c.launch).cpc ∧ w 5 23 13 = 0 ∧ (w 5 62 2 = 2 → w 5 0 23 % 16 = 0 ∧ Spans p c.crew (w 5 0 23) 16)
  ∧ w 6 31 1 = 0 ∧ ∀ n < 9, w (7 + n) 0 64 = 0

/-- The package with the ranges r of a new command refusing: in the table where it has room, else waiting for it (R110, R112). -/
abbrev Added (p q : Pkg) (r : List Range) : Prop :=
  q = { p with ranges := q.ranges, wanted := q.wanted, early := uncovered p r }
  ∧ (p.ranges.length + r.length ≤ 512 → q.ranges = p.ranges ++ r ∧ q.wanted = p.wanted)
  ∧ (512 < p.ranges.length + r.length → q.ranges = p.ranges ∧ q.wanted = p.wanted ++ r)

/-- Command (src, tok) has its ranges r in force: they are in the table, or there is room for them there (R112). -/
abbrev InForce (p q : Pkg) (src tok : Nat) (r : List Range) : Prop :=
  q = { p with ranges := q.ranges, wanted := q.wanted, early := q.early }
  ∧ ((∃ x ∈ p.ranges, x.src = src ∧ x.tok = tok) → q = p)
  ∧ ((∀ x ∈ p.ranges, ¬(x.src = src ∧ x.tok = tok)) → q.ranges = p.ranges ++ r ∧ q.early = uncovered p r
      ∧ ∀ x, x ∈ q.wanted ↔ x ∈ p.wanted ∧ ¬(x.src = src ∧ x.tok = tok))

/-- Of collective n, which starts by a block that gives it the ranges r, those ranges refuse: where others were entered at its issue, they
take their place. -/
abbrev Reranged (p q : Pkg) (n : Nat) (r : List Range) : Prop :=
  let own (x : Range) : Bool := x.src == 2 && x.tok == n
  let a := p.ranges.filter (fun x => !own x)
  let b := p.wanted.filter (fun x => !own x)
  ((p.ranges ++ p.wanted).filter own = r → q.ranges = p.ranges ∧ q.wanted = p.wanted ∧ q.early = p.early)
  ∧ ((p.ranges ++ p.wanted).filter own ≠ r → q.early = uncovered p r
      ∧ (a.length + r.length ≤ 512 → q.ranges = a ++ r ∧ q.wanted = b) ∧ (512 < a.length + r.length → q.ranges = a ∧ q.wanted = b ++ r))
abbrev Room (p : Pkg) (src tok : Nat) (r : List Range) : Prop :=
  (∃ x ∈ p.ranges, x.src = src ∧ x.tok = tok) ∨ p.ranges.length + r.length ≤ 512

end Sys2Proof.Spec

/-- R110, R112, R124, R125, R158, R159, R162, R163, R299, R310, R311: a ready COLL of an aligned, readable block, RTADD or RTDEL joins the strand's queue
when that has room; the ranges the command adds refuse at once, in the table or waiting for room there: those of a COLL by its block as it
stands, or, behind a join, none until it starts. A full queue makes the strand wait. An RTADD of no byte or of more than 2^26 units, and COLLQ of a communicator that is not valid, take 0x02;
COLLQ gives the counts of its communicator, completed and outstanding. A collective's ranges cover RECV, NA, and what of SEND lies outside it, RO.
The engine takes the head of a queue that no join holds: RTADD's range is in force, RTDEL removes the launch's ranges of its tag, but for
those of an RTADD still queued; a COLL starts: its block is read, and of a ready communicator it is accepted as its next with this package's
rank, its ranges those of the block read; of one that cannot hold this package it is refused with 0x02, and one whose block cannot be read
with that cause. It takes no COLL while the engine is not ready. That the block is read at the start, and the ranges at the issue taken
from the block as it stands, is log entry 65; that ranges refuse while they wait for room, 21; that an accepted collective keeps its
place in the queue until it is complete, 28; the ports of a ring of two, 74; the bits [63:48] that RTADD keeps, 64; the values fixed ahead
that ranges end, 37. -/
def Obligations.CollectiveCommands : Prop :=
  ∀ (s : State),
    (∀ st : Strand,
      let used := st.collq.length + (s.pkg.colls.filter (fun c => c.strand == s.focus)).length
      let enters (i : Instr) (c : CollCmd) (r : List Range) : Prop := SlotReady i s st → s.pkg.owed st 6 = [] →
        (used < 8 → ∃ p, Spec.Added { s.pkg with nextNum := s.pkg.nextNum + 1 } p r
          ∧ exec i s = .next (s.unitDone i st p { st with collq := st.collq ++ [(s.pkg.nextNum, c)] }))
        ∧ (8 ≤ used → exec i s = .next (s.withPkg (s.pkg.setStrand s.focus { st with run := .blocked (.queueFull 3), grant := none })))
      (∀ o : EAddr,
        let a := (st.getX o.xB.toNat + o.off.signExtend 64).toNat
        let bs := s.pkg.bytes (Spec.offAt s.pkg st.crew (a - 0x7F0000000000)) 128
        let x := Spec.collFor s s.focus s.pkg.nextNum st a st.sup bs
        let legal : Prop := Spec.CommOk s x.comm ∧ Spec.BlockLegal s.pkg x
        (SlotReady (.coll o) s st → a % 64 ≠ 0 → Spec.Traps (.coll o) s st 0x08 (BitVec.ofNat 64 a))
        ∧ (a % 64 = 0 → Spec.Clean s.pkg st.crew a 128 →
            let behind : Prop := s.pkg.held s.focus 3 s.pkg.nextNum = true
            (legal → ¬ behind → enters (.coll o) (.coll a st.sup bs) x.ranges)
            ∧ (¬ legal ∨ behind → enters (.coll o) (.coll a st.sup bs) [])))
      ∧ (∀ o : ERtadd,
        let b := (st.getX o.xB.toNat).toNat
        let n := (st.getX o.xL.toNat).toNat
        let ok : Prop := n ≠ 0 ∧ (b + n - 1) / 64 + 1 - b / 64 ≤ 2 ^ 26
        (ok → enters (.rtadd o) (.rtadd b n o.mode.toNat o.tag.toNat) [Spec.rtRange s st s.pkg.nextNum b n o.mode.toNat o.tag.toNat])
        ∧ (¬ ok → SlotReady (.rtadd o) s st → Spec.Traps (.rtadd o) s st 0x02 (BitVec.ofNat 64 n)))
      ∧ (∀ o : ETag, enters (.rtdel o) (.rtdel o.tag.toNat) [])
      ∧ (∀ o : ECollq,
        let d := s.pkg.collDone.get 0 o.comm.toNat
        SlotReady (.collq o) s st →
        ((s.host.comm.get 0 o.comm.toNat).getLsbD 31 = true →
          exec (.collq o) s = .next (s.unitDone (.collq o) st s.pkg (st.setX o.xd.toNat
            (BitVec.ofNat 64 (2 ^ 16 * (d % 2 ^ 32) + (s.pkg.collAcc.get 0 o.comm.toNat - d) % 2 ^ 16)))))
        ∧ ((s.host.comm.get 0 o.comm.toNat).getLsbD 31 = false → Spec.Traps (.collq o) s st 0x02 (BitVec.ofNat 64 o.comm.toNat))))
    ∧ (∀ c : Coll,
      let on (m a : Nat) : Prop := ∃ r ∈ c.ranges, r.mode = m ∧ r.base * 64 ≤ a ∧ a < (r.base + r.units) * 64
      let recv (b : Nat) : Prop := c.recv ≤ b ∧ b < c.recv + c.recvN * c.size
      (∀ a, on 2 a ↔ ∃ b, b / 64 = a / 64 ∧ recv b)
      ∧ (∀ a, on 1 a ↔ ∃ b, b / 64 = a / 64 ∧ c.send ≤ b ∧ b < c.send + c.sendN * c.size ∧ ¬ recv b)
      ∧ ∀ r ∈ c.ranges, r.src = 2 ∧ r.tok = c.num ∧ r.launch = c.launch ∧ r.units ≤ 2 ^ 26)
    ∧ (∀ (u n : Nat) (st : Strand) (x : CollCmd) (rest : List (Nat × CollCmd)),
      s.pkg.strands.find? u = some st → st.collq = (n, x) :: rest → s.pkg.held u 3 n = false → (s.pkg.crew st.crew).isSaved = false →
      let ln := (s.pkg.crew st.crew).launch
      let taken := s.pkg.modStrand u (fun st => { st with collq := rest })
      let ends (t : Pkg) (e : Nat) (v : X) : Prop := Spec.Told taken t u e v ∧ t.colls = s.pkg.colls ∧ t.mem = s.pkg.mem
        ∧ ∀ r, r ∈ t.ranges ++ t.wanted ↔ r ∈ s.pkg.ranges ++ s.pkg.wanted ∧ ¬(r.src = 2 ∧ r.tok = n)
      (∀ b len mode tag, x = .rtadd b len mode tag → len ≠ 0 → (b + len - 1) / 64 + 1 - b / 64 ≤ 2 ^ 26 →
        let r := [Spec.rtRange s st n b len mode tag]
        (Spec.Room s.pkg 0 n r → ∃ p, Spec.InForce taken p 0 n r ∧ exec (.collAccept u) s = .next (s.withPkg p))
        ∧ (¬ Spec.Room s.pkg 0 n r → exec (.collAccept u) s = .next s))
      ∧ (∀ tag, x = .rtdel tag → ∃ l, exec (.collAccept u) s = .next (s.withPkg { taken with ranges := l })
          ∧ ∀ r, r ∈ l ↔ r ∈ s.pkg.ranges
            ∧ ¬(r.src = 0 ∧ r.launch = ln ∧ r.owner = tag ∧ ∀ e ∈ taken.strands, ∀ q ∈ e.2.collq, q.1 ≠ r.tok))
      ∧ (∀ va sup seen, x = .coll va sup seen →
          (s.host.ready.getLsbD 12 = false → exec (.collAccept u) s = .next s)
          ∧ (s.host.ready.getLsbD 12 = true →
            (∀ e v, taken.engRead s.er baseAgent st.crew sup va 128 = .error (e, v) → e ≠ 0 → e ≠ 0x30 →
              ∃ t, exec (.collAccept u) s = .next (s.withPkg t) ∧ ends t e (BitVec.ofNat 64 v))
            ∧ (Spec.Clean s.pkg st.crew va 128 →
              let bs := s.pkg.bytes (Spec.offAt s.pkg st.crew (va - 0x7F0000000000)) 128
              let cm := (bs.getD 6 0).toNat
              let c := Spec.collFor s u n st va sup bs
              (¬ Spec.CommOk s cm → ∃ t, exec (.collAccept u) s = .next (s.withPkg t) ∧ ends t 0x02 (BitVec.ofNat 64 cm))
              ∧ (Spec.CommOk s cm → ¬ Spec.PortsReady s cm → exec (.collAccept u) s = .next s)
              ∧ (Spec.CommOk s cm → Spec.PortsReady s cm →
                ∃ (t : Pkg) (r : List Range), exec (.collAccept u) s = .next (s.withPkg t) ∧ t.colls = s.pkg.colls ++ [c]
                  ∧ (Spec.BlockLegal s.pkg c → r = c.ranges) ∧ (¬ Spec.BlockLegal s.pkg c → r = []) ∧ Spec.Reranged s.pkg t n r
                  ∧ (∀ m, t.collAcc.get 0 m = s.pkg.collAcc.get 0 m + if m = cm then 1 else 0)
                  ∧ t = { taken with colls := t.colls, collAcc := t.collAcc, ranges := t.ranges, wanted := t.wanted, early := t.early })))))

namespace Sys2Proof.Spec

/-- Element i of a collective's receive buffer before delivery (R160, R162): the reduction by ROP over the ranks, or the element that the
operation brings from a rank's buffer. d lists the ranks' data. -/
def collValue (c : Coll) (d : List (List Byte)) (i : Nat) : Int :=
  let red (j : Nat) : Int :=
    let l := d.map (fun b => c.elt b j)
    if c.rop = 1 then l.max?.getD 0 else if c.rop = 2 then l.min?.getD 0 else l.sum
  if c.op = 0 then red i
  else if c.op = 1 then red (c.rank * c.count + i)
  else if c.op = 2 then c.elt (d.getD (i / c.count) []) (i % c.count)
  else if c.op = 3 then c.elt (d.getD c.root []) i
  else c.elt (d.getD (i / c.count) []) (c.rank * c.count + i % c.count)

/-- The chunks of a collective's receive buffer, each its first element and their number: of 2^CLOG bytes, but for the last of a run. Under
TORUS3 (ALG 1) the runs are the thirds of each rank's part, element i of it in third 3i / COUNT; else the one run is the buffer (R164). -/
def collChunks (c : Coll) : List (Nat × Nat) :=
  let per := 2 ^ c.clog / c.size
  let first (t : Nat) : Nat := (t * c.count + 2) / 3
  let runs : List (Nat × Nat) :=
    if recN c.block 0 8 / 2 ^ 45 % 2 ^ 3 = 1 then
      (List.range (c.recvN / max c.count 1)).flatMap (fun q => (List.range 3).map (fun t => (q * c.count + first t, q * c.count + first (t + 1))))
    else [(0, c.recvN)]
  runs.flatMap (fun r => (List.range ((r.2 - r.1 + per - 1) / per)).map (fun i => (r.1 + i * per, min per (r.2 - r.1 - i * per))))

end Sys2Proof.Spec

/-- R161 to R165, R402 to R405: the steps of the collective in progress on a communicator. It checks its block, has its ranges in force and sends
the block, or is abandoned with 0x02; with every peer's block it goes on, or is abandoned with 0x02 at the first field that differs. The chunk
step goes to the collective that can take one with the lowest PRIO, then first from the pointer on. A first step reads the send buffer and sends it; a later one
delivers one chunk not yet delivered, saturated, to the window, and after the last sends the status. With every rank's status it writes RSTAT, marks CSAT, posts its flag with CMODE 1 and is
over. Holds pause the timers,
releases start them anew; an abandon of a peer, or the timer's end, abandons it with 0x28 and the peer. What one chunk step moves is log
entry 29, that it takes 1 to 4 buffers and that chunks may land in any order log entry 55, and the corners of the check and of abandons
log entry 28. -/
def Obligations.CollectiveSteps : Prop :=
  ∀ (s : State) (cm : Nat) (c : Coll),
    s.pkg.collOf cm = some c →
    let put (d : Coll) : List Coll := s.pkg.colls.map (fun x => if x.num = c.num then d else x)
    let here (f : PeerMsg → Bool) (q : Nat) : Option PeerMsg := s.pkg.peer c q f
    let block (m : PeerMsg) : Bool := m.block != []
    let status (m : PeerMsg) : Bool := m.status.isSome
    (c.stage = 0 →
      (¬ Spec.BlockLegal s.pkg c → ∃ t v, exec (.collCheckStep cm) s = .next (s.withPkg t)
        ∧ Spec.Abandoned s.pkg t c 0x02 (BitVec.ofNat 64 v) true)
      ∧ (Spec.BlockLegal s.pkg c → ¬ Spec.Room s.pkg 2 c.num c.ranges → exec (.collCheckStep cm) s = .next s)
      ∧ (Spec.BlockLegal s.pkg c → Spec.Room s.pkg 2 c.num c.ranges → ∃ p, Spec.InForce s.pkg p 2 c.num c.ranges ∧
        exec (.collCheckStep cm) s = .next (s.withPkg { p with
          outbox := s.pkg.outbox ++ [.check cm c.m c.block], colls := put { c with stage := 1 } })))
    ∧ (∀ r : Nat → PeerMsg, c.stage = 1 → (∀ q ∈ c.others, here block q = some (r q)) →
      ((∀ q ∈ c.others, checkFields (r q).block = checkFields c.block) →
        exec (.collCheckStep cm) s = .next (s.withPkg { s.pkg with colls := put { c with stage := 2 } }))
      ∧ (∀ n < 7, (∃ q ∈ c.others, (checkFields (r q).block).getD n 0 ≠ (checkFields c.block).getD n 0) →
          (∀ k < n, ∀ q ∈ c.others, (checkFields (r q).block).getD k 0 = (checkFields c.block).getD k 0) →
          ∃ t, exec (.collCheckStep cm) s = .next (s.withPkg t)
            ∧ Spec.Abandoned s.pkg t c 0x02 (BitVec.ofNat 64 ((checkFields c.block).getD n 0)) false))
    ∧ (∀ x, (s.pkg.colls.map (fun y => y.num)).Nodup → s.boundary.pickColl = some x →
      let can (y : Coll) : Prop := (∃ n, s.pkg.collOf n = some y) ∧ y.stage = 2 ∧ (y.chunk = 0 ∨ y.recvN = 0 ∨ (s.pkg.allGiven y).isSome = true)
      let dist (y : Coll) : Nat := (y.comm + 256 - s.pkg.collPtr % 256) % 256
      (∃ y, can y ∧ x = { y with bufs := 0 }) ∧ ∀ y, can y → x.prio < y.prio ∨ (x.prio = y.prio ∧ dist x ≤ dist y))
    ∧ (s.boundary.pickColl = some { c with bufs := 0 } →
      let rest (d : Coll) : List Coll := (s.pkg.colls.map (fun x => ({ x with bufs := 0 } : Coll))).map (fun x => if x.num = c.num then d else x)
      let step (t : Pkg) : Prop := exec .collChunkStep s = .next (s.withPkg t) ∧ t.collPtr = (cm + 1) % 256
      (∀ b < 4, poisonBuf (s.channel cm) b ∉ s.pkg.poison) →
      (c.chunk = 0 → (c.gives c.rank = true → Spec.CleanRun s.pkg c.crew c.send (c.sendN * c.size)) →
        ∃ t b, step t ∧ 1 ≤ b ∧ b ≤ 4 ∧ t.mem = s.pkg.mem
          ∧ (let bs := s.pkg.bytes (Spec.offAt s.pkg c.crew (c.send - 0x7F0000000000)) (c.sendN * c.size)
             (c.gives c.rank = true → t.colls = rest { c with chunk := 1, data := bs, bufs := b }
               ∧ t.outbox = s.pkg.outbox ++ [.data cm c.m bs])
             ∧ (c.gives c.rank = false → t.colls = rest { c with chunk := 1, bufs := b } ∧ t.outbox = s.pkg.outbox)))
      ∧ (∀ d, 1 ≤ c.chunk → c.recvN ≠ 0 → s.pkg.allGiven c = some d →
        let chunks := (Spec.collChunks c).length
        let lo (i : Nat) : Nat := ((Spec.collChunks c).getD i (0, 0)).1
        let n (i : Nat) : Nat := ((Spec.collChunks c).getD i (0, 0)).2
        let va (i : Nat) : Nat := c.recv + lo i * c.size
        let val (i : Nat) : Int := Spec.collValue c d i
        let out (i : Nat) : Int := satTo (tySigned c.dtype) (8 * c.size) (val i)
        (∃ i < chunks, i ∉ c.filled) → (∀ i < chunks, i ∉ c.filled → Spec.CleanRun s.pkg c.crew (va i) (n i * c.size)) →
        ∃ t i b, step t ∧ i < chunks ∧ i ∉ c.filled ∧ 1 ≤ b ∧ b ≤ 4
          ∧ (let k := Spec.offAt s.pkg c.crew (va i - 0x7F0000000000)
             let sat := c.sat || (List.range (n i)).any (fun e => decide (out (lo i + e) ≠ val (lo i + e)))
             let c' : Coll := { c with chunk := c.chunk + 1, bufs := b, filled := c.filled ++ [i], sat := sat }
             (∀ e < n i, t.num (k + e * c.size) c.size = (BitVec.ofInt (8 * c.size) (out (lo i + e))).toNat)
             ∧ (∀ j, ¬(k ≤ j ∧ j < k + n i * c.size) → t.byte j = s.pkg.byte j)
             ∧ (c.filled.length + 1 < chunks → t.colls = rest c' ∧ t.outbox = s.pkg.outbox)
             ∧ (chunks ≤ c.filled.length + 1 → t.colls = rest { c' with stage := 3 }
                 ∧ t.outbox = s.pkg.outbox ++ [.status cm c.m (BitVec.ofNat 32 (c.statin + if sat then 2 ^ 31 else 0))]))))
    ∧ (∀ r : Nat → PeerMsg, c.stage = 3 → (∀ q ∈ c.others, here status q = some (r q)) → c.cmode ≤ 1 → c.statin < 2 ^ 31 →
      Spec.Clean s.pkg c.crew (c.va + 52) 4 →
      let k := Spec.offAt s.pkg c.crew (c.va + 52 - 0x7F0000000000)
      let w := c.others.foldl (fun a q => a ||| ((r q).status.getD 0).toNat) (c.statin + if c.sat then 2 ^ 31 else 0)
      let fl := recN c.block 40 8 / 2 ^ 36 % 32
      let fc := (s.pkg.crew c.crew).cores.getD (recN c.block 40 8 / 2 ^ 41 % 32) 0
      let n := recN c.block 40 8 / 2 ^ 46 % 2 ^ 16
      (c.cmode = 1 → (s.pkg.crew c.crew).st = .resident ∧ (∀ x ∈ (s.pkg.core fc).waits, x.flag ≠ fl) ∧ Spec.flag s.pkg fc fl + n < 2 ^ 32) →
      ∃ t, exec (.collCompletion cm) s = .next (s.withPkg t) ∧ t.num k 4 = w
        ∧ (c.cmode = 1 → Spec.flag t fc fl = Spec.flag s.pkg fc fl + n) ∧ (∀ j, ¬(k ≤ j ∧ j < k + 4) → t.byte j = s.pkg.byte j)
        ∧ Spec.CollOver s.pkg t c ∧ (t.launch c.launch).csat = ((s.pkg.launch c.launch).csat || w.testBit 31) ∧ t.strands = s.pkg.strands)
    ∧ (∀ rank, ∃ t, exec (.collHoldMessage cm rank) s = .next (s.withPkg t) ∧ (cm, rank) ∈ t.holdsIn
        ∧ (∀ h ∈ s.pkg.holdsIn, h ∈ t.holdsIn) ∧ t.colls = s.pkg.colls.map (fun d => if d.comm = cm then { d with timer := 0 } else d))
    ∧ (∀ rank, ∃ l, exec (.collReleaseMessage cm rank) s = .next (s.withPkg { s.pkg with
          holdsIn := l, colls := s.pkg.colls.map (fun d => if d.comm = cm then { d with timer := 0 } else d) })
        ∧ ∀ h, h ∈ l ↔ h ∈ s.pkg.holdsIn ∧ h ≠ (cm, rank))
    ∧ (∀ rank m, s.pkg.inbox.find? (fun m => m.comm == cm && m.rank == rank && m.abandon) = some m →
        s.pkg.colls.find? (fun d => d.comm == cm && d.m == m.num) = some c → c.stage ≠ 0 →
        ∃ t, exec (.collAbandonMessage cm rank) s = .next (s.withPkg t)
          ∧ Spec.Abandoned s.pkg t c 0x28 (BitVec.ofNat 64 (2 ^ 63 + 2 ^ 16 * cm + rank)) true)
    ∧ (∀ q l, c.timerLimit ≠ 0 → c.timerLimit * 1024 ≤ c.timer → c.awaited s.pkg = q :: l → (∀ h ∈ s.pkg.holdsIn, h.1 ≠ cm) →
        ∃ t, exec (.collTimerExpiry cm) s = .next (s.withPkg t)
          ∧ Spec.Abandoned s.pkg t c 0x28 (BitVec.ofNat 64 (2 ^ 63 + 2 ^ 16 * cm + q)) true)

/-! ### Spore pools -/

namespace Sys2Proof.Spec

/-- ELOG of a word of pool parameters, and the parameters that are legal (R166). -/
def elog (w : Nat) : Nat := w / 2 ^ 27 % 8 + 3
abbrev PoolLegal (w : Nat) : Prop := w / 2 ^ 30 % 4 ≤ 1 ∧ elog w ≤ 8 ∧ w / 2 ^ 4 % 2 ^ 5 ≤ 24 ∧ w % 2 ^ 4 ≤ 12

/-- The reserved bits of the descriptor at key d are 0; [63:48] of STORAGE and WLIST are among them in this model (assumption 66). -/
abbrev DescClear (p : Pkg) (d : Nat) : Prop := p.num (d + 14) 2 = 0 ∧ p.num (d + 22) 2 = 0 ∧ p.num (d + 48) 16 = 0

/-- A descriptor may lie at a: in the window, or on a page of TIER 01 or 10 (R166, R399). -/
abbrev PoolPlace (s : State) (st : Strand) (a : Nat) : Prop :=
  (0x7F0000000000 ≤ a ∧ a < 0x7F0000600000)
  ∨ (a < 0x7F0000000000 ∧ ∃ t, s.pkg.tlbHit st.core (s.pkg.crew st.crew).launch a = some t ∧ (t.flags / 2 ^ 7 % 4 = 1 ∨ t.flags / 2 ^ 7 % 4 = 2))

/-- The descriptor at a is one an operation may name, with parameters w: aligned and readable; cached by the core's interface, or legal with
its reserved bits 0 (R166, R299, R399). -/
abbrev Desc (s : State) (st : Strand) (a w : Nat) : Prop :=
  let k := place s.pkg st a
  let d := s.pkg.physKey k
  a % 64 = 0 ∧ Reach s st .load a 64 ∧ PoolPlace s st a
  ∧ (((s.pkg.core st.core).poolCache.find? (fun e => e.1 == k) = some (k, w))
    ∨ ((∀ e ∈ (s.pkg.core st.core).poolCache, e.1 ≠ k) ∧ w = s.pkg.num (d + 4) 4 ∧ s.pkg.poisoned d 64 = none ∧ PoolLegal w ∧ DescClear s.pkg d))

/-- Nothing stands before an operation of the strand on the pool at a: no earlier access, no POOLINIT of the strand on it (R124, R125). -/
abbrev PoolNext (s : State) (st : Strand) (a : Nat) : Prop :=
  (∀ e ∈ s.pkg.pools, ¬(e.2.kind = .init ∧ e.2.strand = st.uid ∧ e.2.home = s.pkg.physKey (place s.pkg st a))) ∧ s.pkg.owed st 6 = []

/-- And the core's interface has room for it (R299). -/
abbrev PoolFree (s : State) (st : Strand) (a : Nat) : Prop := PoolNext s st a ∧ poolUsed s.pkg st.core < 32

/-- Package p has sent operation op for the pool at a with parameters w; memory, strands and other operations are as they were. -/
def PoolSent (s : State) (st : Strand) (a w : Nat) (p : Pkg) (op : PoolOp) : Prop :=
  p.pools.find? s.pkg.nextNum = some op ∧ p.nextNum = s.pkg.nextNum + 1 ∧ op.num = s.pkg.nextNum
  ∧ (∀ n, n ≠ s.pkg.nextNum → p.pools.find? n = s.pkg.pools.find? n) ∧ p.mem = s.pkg.mem ∧ p.strands = s.pkg.strands ∧ p.accs = s.pkg.accs
  ∧ op.strand = s.focus ∧ op.crew = st.crew ∧ op.core = st.core ∧ op.sn = st.sn ∧ op.desc = a
  ∧ op.home = s.pkg.physKey (place s.pkg st a) ∧ op.params = w ∧ op.answer = none ∧ op.held = false ∧ op.joined = false
  ∧ op.sent = false ∧ op.orphan = false ∧ op.sup = st.sup

/-- An access that the slot is ordered after is not performed at the scope, and no pop of the strand is still on its way: the slot waits
where it is (R124). -/
abbrev Waits (s : State) (st : Strand) (scope : Nat) : Prop :=
  s.pkg.owed st scope ≠ []
  ∧ ∀ e ∈ s.pkg.pools, e.2.strand = st.uid → e.2.kind = .pop ∨ e.2.kind = .popw → e.2.joined = true ∨ e.2.answer.isSome = true

/-- The registers of l, x0 apart, await operation n (R298). -/
def pending (st : Strand) (l : List (BitVec 5)) (n : Nat) : Strand :=
  { st with xpend := st.xpend ++ (l.filter (fun r => r ≠ 0)).map (fun r => (r.toNat, 2 ^ 40 + n)) }

/-- The continuation record of R31: PC, LIVE, depth, WKIND, predicates, WAIT, the origin, and the live registers in ascending order. -/
def record (st : Strand) (pc : X) (live : BitVec 32) (depth wkind : Nat) (wait : X) : List Byte :=
  let regs := (List.range 32).filter (fun n => live.getLsbD n)
  bytes 8 pc.toNat ++ bytes 4 live.toNat ++ bytes 1 depth ++ bytes 1 wkind
    ++ bytes 1 ((List.range 8).map (fun j => if st.getP j = true ∧ j ≠ 0 then 2 ^ j else 0)).sum ++ bytes 1 0
    ++ bytes 8 wait.toNat ++ bytes 8 (st.core % 24 + 32 * st.sn)
    ++ (List.range 128).map (fun j => if j / 8 < regs.length then BitVec.ofNat 8 ((st.getX (regs.getD (j / 8) 0)).toNat / 2 ^ (8 * (j % 8))) else 0)

/-- A record in slot n of cluster cl is ready with the cluster's next AGE (R37). -/
def Entered' (p q : Pkg) (cl n cu : Nat) (r : List Byte) : Prop :=
  (q.cluster cl).rq.find? n = some { crew := cu, st := .ready none, bytes := r, age := (p.cluster cl).age }
  ∧ (q.cluster cl).age = (p.cluster cl).age + 1 ∧ (∀ m, m ≠ n → (q.cluster cl).rq.find? m = (p.cluster cl).rq.find? m)

end Sys2Proof.Spec

/-- R166, R298, R299, R312, R314 to R318: a ready pool operation on a descriptor it may name, of the element size it needs, is sent to the pool with its
results pending, behind the strand's earlier accesses: a push with its element, a pop with its tag live, SPAWNP with the child's record, POOLINIT with the new descriptor.
That POOLFENCE is an entry of the POOL queue, and how it waits (25), is the model's: it commits when it stands behind no join and none of the
strand's earlier operations on the pool is on its way, else the strand waits for it. A STEAL waits for its answer; answered without a record
it gives the status; with one, whose record has entered its slot by then, it gives 0. R399, R416: a pointer that is misaligned takes 0x08; a
descriptor that may not lie there, that is illegal at its first use by the core, or of another element size than the form needs, 0x22;
POOLINIT of illegal parameters 0x02, a child of depth 33 0x20. With 32 operations outstanding every form waits for room. That bits [63:48]
of STORAGE and WLIST count as reserved (66), and that a slot behind accesses not performed waits where it is (48), is the model's. -/
def Obligations.PoolCommands : Prop :=
  ∀ (s : State) (st : Strand) (w : Nat),
    let n := s.pkg.nextNum
    let x (r : BitVec 5) : Nat := (st.getX r.toNat).toNat
    let sent (i : Instr) (a : Nat) (st' : Strand) (what : Pkg → PoolOp → Prop) : Prop :=
      ∃ p op, Spec.PoolSent s st a w p op ∧ what p op ∧ exec i s = .next (s.unitDone i st p st')
    let tagged (tag : BitVec 16) (p : Pkg) : Prop := (p.crew st.crew).tags =
      (s.pkg.crew st.crew).tags.filter (fun t => t.tag != tag.toNat) ++ [{ tag := tag.toNat, op := n, written := false }]
    (∀ o : EPush, Spec.Desc s st (x o.xP) w → Spec.PoolFree s st (x o.xP) →
      (SlotReady (.poolpushReg o) s st → Spec.elog w = 3 → sent (.poolpushReg o) (x o.xP) (Spec.pending st [o.xd] n)
        (fun _ op => op.kind = .push ∧ op.elem = Spec.bytes 8 (x o.xE) ∧ op.xd = o.xd.toNat))
      ∧ (SlotReady (.poolpushMem o) s st → x o.xE % 2 ^ Spec.elog w = 0 → Spec.Reach s st .load (x o.xE) (2 ^ Spec.elog w) →
          sent (.poolpushMem o) (x o.xP) (Spec.pending st [o.xd] n) (fun _ op => op.kind = .push ∧ op.xd = o.xd.toNat
            ∧ op.mem = some (x o.xE) ∧ op.elem = [])))
    ∧ (∀ (o : EPop) (i : Instr) (kind : PoolKind), Spec.Desc s st (x o.xP) w → Spec.PoolFree s st (x o.xP) →
      ((i = .poolpopReg o ∧ kind = .pop) ∨ (i = .poolpopwReg o ∧ kind = .popw) → SlotReady i s st → Spec.elog w = 3 →
        sent i (x o.xP) (Spec.pending st [o.xd, o.xE] n) (fun p op => op.kind = kind ∧ op.xd = o.xd.toNat ∧ op.xe = some o.xE.toNat
          ∧ op.mem = none ∧ op.tag = o.tag.toNat ∧ tagged o.tag p))
      ∧ ((i = .poolpopMem o ∧ kind = .pop) ∨ (i = .poolpopwMem o ∧ kind = .popw) → SlotReady i s st → x o.xE % 2 ^ Spec.elog w = 0 →
        Spec.Reach s st .store (x o.xE) (2 ^ Spec.elog w) →
        sent i (x o.xP) (Spec.pending st [o.xd] n) (fun p op => op.kind = kind ∧ op.xd = o.xd.toNat ∧ op.xe = none
          ∧ op.mem = some (x o.xE) ∧ op.tag = o.tag.toNat ∧ tagged o.tag p)))
    ∧ (∀ o : EPoolinit, SlotReady (.poolinit o) s st → w = x o.xA % 2 ^ 32 → Spec.PoolLegal w → x o.xS % 2 ^ 48 % 2 ^ Spec.elog w = 0 →
        x o.xD % 64 = 0 → Spec.Reach s st .store (x o.xD) 64 → Spec.PoolPlace s st (x o.xD) → Spec.PoolFree s st (x o.xD) →
        sent (.poolinit o) (x o.xD) st (fun _ op => op.kind = .init ∧ op.elem =
          Spec.bytes 4 0 ++ Spec.bytes 4 w ++ Spec.bytes 8 (x o.xS % 2 ^ 48) ++ Spec.bytes 8 (x o.xW % 2 ^ 48) ++ Spec.bytes 40 0))
    ∧ (∀ o : EPtr, SlotReady (.poolfence o) s st → (∀ e ∈ s.pkg.pools, e.2.num < n) →
        let d := s.pkg.physKey (Spec.place s.pkg st (x o.xP))
        let busy : Prop := (∃ e ∈ s.pkg.pools, e.2.strand = s.focus ∧ e.2.home = d ∧ e.2.answer = none ∧ e.2.orphan = false)
          ∨ ∃ e ∈ s.pkg.pairs, e.home = d ∧ (e.push = s.focus ∨ e.pop = s.focus)
        (st.grant = some .ok → exec (.poolfence o) s = .next (s.unitDone (.poolfence o) st s.pkg st))
        ∧ (st.grant = none → Spec.Desc s st (x o.xP) w → Spec.PoolFree s st (x o.xP) →
          (¬ busy → s.pkg.held s.focus 4 n = false → ∃ p, exec (.poolfence o) s = .next (s.unitDone (.poolfence o) st p st)
            ∧ p.mem = s.pkg.mem ∧ ∀ m, m ≠ n → p.pools.find? m = s.pkg.pools.find? m)
          ∧ (busy ∨ s.pkg.held s.focus 4 n = true → ∃ p op, Spec.PoolSent s st (x o.xP) w p op ∧ op.kind = .fence ∧ exec (.poolfence o) s =
            .next (s.withPkg (p.setStrand s.focus { st with run := .blocked (.poolfence n), grant := none })))))
    ∧ (∀ (i : Instr) (a : Nat) (need : Option Nat), SlotReady i s st →
        (∃ o, i = .poolpushReg o ∧ a = x o.xP ∧ need = some 3) ∨ (∃ o, i = .poolpushMem o ∧ a = x o.xP ∧ need = none)
          ∨ (∃ o, (i = .poolpopReg o ∨ i = .poolpopwReg o) ∧ a = x o.xP ∧ need = some 3)
          ∨ (∃ o, (i = .poolpopMem o ∨ i = .poolpopwMem o) ∧ a = x o.xP ∧ need = none)
          ∨ (∃ o, i = .poolfence o ∧ st.grant = none ∧ a = x o.xP ∧ need = none)
          ∨ (∃ o, i = .steal o ∧ st.grant = none ∧ a = x o.xP ∧ need = some 8)
          ∨ (∃ o, i = .spawnp o ∧ x o.xT % 4 = 0 ∧ x o.xT < 2 ^ 48 ∧ a = x o.xP ∧ need = some 8) →
        let traps (c : Nat) : Prop := Spec.Traps i s st c (BitVec.ofNat 64 a)
        let d := s.pkg.physKey (Spec.place s.pkg st a)
        let v := s.pkg.num (d + 4) 4
        (a % 64 ≠ 0 → traps 0x08)
        ∧ (a % 64 = 0 → Spec.Reach s st .load a 64 → Spec.PoolNext s st a →
          (¬ Spec.PoolPlace s st a → traps 0x22)
          ∧ (Spec.PoolPlace s st a → (∀ e ∈ (s.pkg.core st.core).poolCache, e.1 ≠ Spec.place s.pkg st a) → s.pkg.poisoned d 64 = none →
              ¬(Spec.PoolLegal v ∧ Spec.DescClear s.pkg d) → traps 0x22)
          ∧ (∀ e, Spec.Desc s st a w → need = some e → Spec.elog w ≠ e → traps 0x22)
          ∧ (Spec.Desc s st a w → (∀ e ∈ need, Spec.elog w = e) → (∀ o, i = .spawnp o → st.depth < 32) →
              (∀ o, i = .poolpushMem o → x o.xE % 2 ^ Spec.elog w = 0 ∧ Spec.Reach s st .load (x o.xE) (2 ^ Spec.elog w)) →
              (∀ o, i = .poolpopMem o ∨ i = .poolpopwMem o → x o.xE % 2 ^ Spec.elog w = 0 ∧ Spec.Reach s st .store (x o.xE) (2 ^ Spec.elog w)) →
              32 ≤ poolUsed s.pkg st.core → exec i s = .next (s.withPkg (s.pkg.setStrand s.focus { st with run := .blocked (.queueFull 4), grant := none })))))
    ∧ (∀ o : EPoolinit, SlotReady (.poolinit o) s st →
        let v := x o.xA % 2 ^ 32
        let legal : Prop := Spec.PoolLegal v ∧ x o.xS % 2 ^ 48 % 2 ^ Spec.elog v = 0
        (¬ legal → Spec.Traps (.poolinit o) s st 0x02 (st.getX o.xA.toNat))
        ∧ (legal → x o.xD % 64 ≠ 0 → Spec.Traps (.poolinit o) s st 0x08 (st.getX o.xD.toNat))
        ∧ (legal → x o.xD % 64 = 0 → Spec.Reach s st .store (x o.xD) 64 → Spec.PoolNext s st (x o.xD) → ¬ Spec.PoolPlace s st (x o.xD) →
            Spec.Traps (.poolinit o) s st 0x22 (st.getX o.xD.toNat))
        ∧ (legal → x o.xD % 64 = 0 → Spec.Reach s st .store (x o.xD) 64 → Spec.Waits s st 6 → exec (.poolinit o) s = .next s)
        ∧ (legal → x o.xD % 64 = 0 → Spec.Reach s st .store (x o.xD) 64 → Spec.PoolNext s st (x o.xD) → Spec.PoolPlace s st (x o.xD) →
            32 ≤ poolUsed s.pkg st.core →
            exec (.poolinit o) s = .next (s.withPkg (s.pkg.setStrand s.focus { st with run := .blocked (.queueFull 4), grant := none }))))
    ∧ (∀ o : ESpawnp, SlotReady (.spawnp o) s st →
        (x o.xT % 4 ≠ 0 ∨ 2 ^ 48 ≤ x o.xT → Spec.Traps (.spawnp o) s st 0x08 (st.getX o.xT.toNat))
        ∧ (x o.xT % 4 = 0 → x o.xT < 2 ^ 48 → Spec.Desc s st (x o.xP) w → Spec.PoolNext s st (x o.xP) → Spec.elog w = 8 → 32 ≤ st.depth →
            Spec.Traps (.spawnp o) s st 0x20 32))
    ∧ (∀ o : ESpawnp, SlotReady (.spawnp o) s st → Spec.Desc s st (x o.xP) w → Spec.PoolFree s st (x o.xP) → Spec.elog w = 8 →
        x o.xT % 4 = 0 → x o.xT < 2 ^ 48 → st.depth < 32 →
        sent (.spawnp o) (x o.xP) (Spec.pending st [o.xd] n) (fun _ op => op.kind = .push ∧ op.xd = o.xd.toNat
          ∧ op.elem = Spec.record st (st.getX o.xT.toNat) o.live (st.depth + 1) 0 0 ++ Spec.bytes 96 0))
    ∧ (∀ o : ESteal, SlotReady (.steal o) s st →
      (st.grant = none → Spec.Desc s st (x o.xP) w → Spec.PoolFree s st (x o.xP) → Spec.elog w = 8 →
        ∃ p op, Spec.PoolSent s st (x o.xP) w p op ∧ op.kind = .pop ∧ op.steal = true ∧ exec (.steal o) s =
          .next (s.withPkg (p.setStrand s.focus { st with run := .blocked (.answer n), grant := none })))
      ∧ (∀ v, st.grant = some (.num v) → exec (.steal o) s = .next (s.unitDone (.steal o) st s.pkg (st.setX o.xd.toNat (BitVec.ofNat 64 v))))
      ∧ (∀ m op q, st.grant = some (.rslot m) → s.pkg.pools.find? q = some op → op.num = q → op.steal = true → op.strand = s.focus →
          op.joined = true → (∀ y ∈ s.pkg.pools, y.2.steal = true → y.2.strand = s.focus → y.2.joined = true → y.2 = op) →
          ∃ p, exec (.steal o) s = .next (s.unitDone (.steal o) st p (st.setX o.xd.toNat 0))
            ∧ p = { s.pkg with pools := p.pools } ∧ p.pools.find? q = none ∧ ∀ j, j ≠ q → p.pools.find? j = s.pkg.pools.find? j))
    -- R124: behind accesses not performed, each form waits where it is
    ∧ (∀ (i : Instr) (a : Nat), SlotReady i s st →
        (∃ o, (i = .poolpushReg o ∨ i = .poolpushMem o) ∧ a = x o.xP)
          ∨ (∃ o, (i = .poolpopReg o ∨ i = .poolpopwReg o ∨ i = .poolpopMem o ∨ i = .poolpopwMem o) ∧ a = x o.xP)
          ∨ (∃ o, i = .poolfence o ∧ st.grant = none ∧ a = x o.xP) ∨ (∃ o, i = .steal o ∧ st.grant = none ∧ a = x o.xP)
          ∨ (∃ o, i = .spawnp o ∧ x o.xT % 4 = 0 ∧ x o.xT < 2 ^ 48 ∧ a = x o.xP) →
        a % 64 = 0 → Spec.Reach s st .load a 64 → Spec.Waits s st 6 → exec i s = .next s)

namespace Sys2Proof.Spec

/-- Operation op may move (R125, R126, R178, R317): it is no fence, has no answer, does not wait at its home, stands behind no join, and has
left its core or is of no saved crew; no earlier operation of its strand is still on its way, and none of its core on its pool is at the same
place, but one that is held there. -/
abbrev Travels (p : Pkg) (op : PoolOp) : Prop :=
  op.kind ≠ .fence ∧ op.answer = none ∧ op.joined = false ∧ p.held op.strand 4 op.num = false
  ∧ (op.sent = true ∨ (p.crew op.crew).isSaved = false)
  ∧ ∀ e ∈ p.pools, e.2.num < op.num → e.2.kind ≠ .fence → e.2.answer = none → e.2.joined = false → e.2.orphan = false →
      e.2.strand ≠ op.strand
      ∧ (e.2.core ≠ op.core ∨ e.2.home ≠ op.home ∨ e.2.path.length ≠ op.path.length ∨ e.2.held = true ∨ p.held e.2.strand 4 e.2.num = true)

/-- The operation has left its core; a push of an element in memory has then read it, from its crew's window (R126, R316). -/
abbrev Departs (p : Pkg) (op op' : PoolOp) : Prop :=
  (∀ va, op.mem = some va → op.kind = .push → op.elem = [] → CleanRun p op.crew va (2 ^ elog op.params)
    ∧ op' = { op with sent := true, elem := p.bytes (offAt p op.crew (va - 0x7F0000000000)) (2 ^ elog op.params) })
  ∧ (op.mem = none ∨ op.kind ≠ .push ∨ op.elem ≠ [] → op' = { op with sent := true })

/-- The input port of switch b for what comes from switch a (R13): 192 is the base crossbar, 24d + c stop c of die d. -/
def inPort (a b : Nat) : Nat :=
  if b = 192 then 1 + a / 24 else if a = 192 then 3 else if b % 24 = (a % 24 + 1) % 24 then 1 else 2

/-- What the home accepts (R400): the operation's KIND and ELOG, no reserved bit, COUNT and the waiting list within their capacities. -/
abbrev HomeLegal (p : Pkg) (op : PoolOp) : Prop :=
  let k := op.home
  let w := p.num (k + 4) 4
  w / 2 ^ 30 % 4 = op.params / 2 ^ 30 % 4 ∧ elog w = elog op.params ∧ DescClear p k ∧ p.num k 4 ≤ 2 ^ (w / 2 ^ 4 % 2 ^ 5)
  ∧ (p.num (k + 28) 4 + 2 ^ 32 - p.num (k + 24) 4) % 2 ^ 32 ≤ 2 ^ (w % 2 ^ 4)

end Sys2Proof.Spec

/-- R13, R125, R126, R166 to R170, R317, R400, R401: a pool operation on its way. At a switch, where arrivals of one cycle are taken in ascending port, it pairs with the
oldest operation of the other kind held there for its pool, each answered at once; else it is held for as long as its cap and budget
give, if the store of 32 has room, or goes on. At its home a push goes to the waiting pop at the head of the list, or stores its element
at the top; a pop takes the top one of a STACK, the first of a BAG; a full or empty pool answers 2 or 1, a POOLPOPW waits if the list has
room; the counters follow; what the home does not accept is answered 3 and traps. A POOLINIT writes the descriptor. An answer writes the
element, then the status, and a pop's element is an acquire of its strand; that of a STEAL is its record, which enters a slot or waits for one;
a record that cannot run takes 0x22 and status 3. An answer of a saved crew enters its record; an element whose crew has ended goes back as an
orphan. How long a hold lasts and what it takes of the budget (26), element before status and the answers of crews that have ended (27), the
reserved bits at the home (66) and that values fixed ahead of their turn are given up (37) are the model's. -/
def Obligations.PoolOperationsTravel : Prop :=
  ∀ (s : State) (n : Nat) (op op' : PoolOp),
    s.pkg.pools.find? n = some op → op.num = n → Spec.Departs s.pkg op op' →
    let now (p : Pkg) (o : PoolOp) : Prop := p.pools.find? o.num = some o
    let others (p : Pkg) (l : List Nat) : Prop := ∀ m, m ∉ l → p.pools.find? m = s.pkg.pools.find? m
    let on (o : PoolOp) (sw : Nat) (rest : List Nat) : PoolOp :=
      { o with held := false, path := rest, port := match rest with | b :: _ => Spec.inPort sw b | [] => o.port }
    (∀ sw rest, op.path = sw :: rest → op.held = false → op.kind ≠ .init → Spec.Travels s.pkg op →
      (∀ c q, s.pkg.swPorts.find? sw = some (c, q) → c = s.pkg.swcyc → q ≤ op.port) →
      let here (o : PoolOp) : Prop := (∃ m, (m, o) ∈ s.pkg.pools) ∧ o.held = true ∧ s.pkg.swcyc < o.till ∧ o.path.head? = some sw
      let mate (o : PoolOp) : Prop := here o ∧ o.home = op.home ∧ (o.kind = .push ↔ op.kind ≠ .push)
      let room : Prop :=
        (s.pkg.pools.filter (fun e => e.2.held && decide (s.pkg.swcyc < e.2.till) && e.2.path.head? == some sw)).length < 32
      let t := min (op.params / 2 ^ 9 % 2 ^ 6 + 1) op.budget
      let comes (p : Pkg) : Prop := exec (.poolSwitchArrival n) s = .next (s.withPkg p) ∧ p.mem = s.pkg.mem
        ∧ p.swPorts.find? sw = some (s.pkg.swcyc, op.port)
      ((∀ o, ¬ mate o) → 0 < op.budget → room → ∃ p, comes p ∧ others p [n] ∧ p.pairs = s.pkg.pairs ∧ now p { op' with
          held := true, arrival := s.pkg.swcyc, till := s.pkg.swcyc + t, budget := op.budget - t })
      ∧ ((∀ o, ¬ mate o) → op.budget = 0 ∨ ¬ room → ∃ p, comes p ∧ others p [n] ∧ p.pairs = s.pkg.pairs ∧ now p (on op' sw rest))
      ∧ (∀ o, mate o → o.num ≠ n → (∀ o', mate o' → o' ≠ o → o.arrival < o'.arrival ∨ (o.arrival = o'.arrival ∧ o.port < o'.port)) →
          let push := if op.kind = .push then op' else o
          let pop := if op.kind = .push then o else op'
          push.elem.length = 2 ^ Spec.elog pop.params →
          ∃ p, comes p ∧ now p { push with held := false, answer := some (0, []) }
            ∧ now p { pop with held := false, answer := some (0, push.elem) } ∧ others p [n, o.num]
            ∧ p.pairs = s.pkg.pairs ++ [{ home := push.home, push := push.strand, pop := pop.strand }]))
    ∧ (∀ sw rest, op.path = sw :: rest → op.held = true → op.till ≤ s.pkg.swcyc →
        exec (.poolHoldExpiry n) s = .next (s.withPkg (s.pkg.setOp (on op sw rest))))
    ∧ (∀ m e, s.pkg.pairs[m]? = some e → exec (.pairsIncrement m) s = .next (s.withPkg
        { s.pkg.write (e.home + 32) (Spec.bytes 4 (s.pkg.num (e.home + 32) 4 + 1)) with pairs := s.pkg.pairs.eraseIdx m }))
    ∧ (op.path = [] → Spec.Travels s.pkg op → s.pkg.poisoned op.home 64 = none →
      let k := op.home
      let c (p : Pkg) (j : Nat) : Nat := p.num (k + j) 4
      let w := c s.pkg 4
      let sz := 2 ^ Spec.elog w
      let cap := 2 ^ (w / 2 ^ 4 % 2 ^ 5)
      let wcap := 2 ^ (w % 2 ^ 4)
      let apart (a m : Nat) : Prop := a + m ≤ k ∨ k + 64 ≤ a
      let top (j : Nat) : Nat := s.pkg.num (k + 8) 8 + j * sz
      let at' (j : Nat) : Nat := Spec.offAt s.pkg op.crew (top j - 0x7F0000000000)
      let stored (j : Nat) : Prop := Spec.Clean s.pkg op.crew (top j) sz ∧ apart (at' j) sz
      let wait (j : Nat) : Nat := s.pkg.num (k + 16) 8 + 8 * (j % wcap)
      let wat (j : Nat) : Nat := Spec.offAt s.pkg op.crew (wait j - 0x7F0000000000)
      let listed (j : Nat) : Prop := Spec.Clean s.pkg op.crew (wait j) 8 ∧ apart (wat j) 8
      let plus (p : Pkg) (j : Nat) : Prop := c p j = (c s.pkg j + 1) % 2 ^ 32
      let kept (p : Pkg) (l : List Nat) (a m : Nat) : Prop :=
        ∀ x, (∀ j ∈ l, ¬(k + j ≤ x ∧ x < k + j + 4)) → ¬(a ≤ x ∧ x < a + m) → p.byte x = s.pkg.byte x
      let comes (p : Pkg) : Prop := exec (.poolHomeArrival n) s = .next (s.withPkg p)
      let pops : Prop := op.kind = .pop ∨ op.kind = .popw
      let answers (st : Nat) (e : List Byte) (p : Pkg) : Prop := comes p ∧ now p { op' with answer := some (st, e) }
      (op.kind = .init → ∃ p, comes p ∧ p.mem = (s.pkg.write k op.elem).mem ∧ p.pools.find? n = none
          ∧ ∀ m o, m ≠ n → s.pkg.pools.find? m = some o → p.pools.find? m =
              some (if o.joined = true ∧ o.home = k ∧ o.steal = false then { o with joined := false, answer := some (1, []) } else o))
      ∧ (op.orphan = false → op.kind ≠ .init → ¬ Spec.HomeLegal s.pkg op →
          ∃ p, answers 3 [] p ∧ others p [n] ∧ p.mem = s.pkg.mem ∧ Spec.Told s.pkg p op.strand 0x22 (BitVec.ofNat 64 op.desc))
      ∧ (op.orphan = false → op.kind = .push → Spec.HomeLegal s.pkg op →
          (∀ o, c s.pkg 24 ≠ c s.pkg 28 → listed (c s.pkg 24) → (∃ m, (m, o) ∈ s.pkg.pools) → o.num ≠ n →
            let v := s.pkg.num (wat (c s.pkg 24)) 8
            let named (o : PoolOp) : Prop := o.joined = true ∧ o.home = k ∧ o.tag = v % 2 ^ 16 ∧ o.core = v / 2 ^ 16 % 2 ^ 13 ∧ o.sn = v / 2 ^ 29 % 4
            named o → (∀ e ∈ s.pkg.pools, named e.2 → e.2 = o) → op'.elem.length = 2 ^ Spec.elog o.params →
            ∃ p, answers 0 [] p ∧ now p { o with joined := false, answer := some (0, op'.elem) } ∧ others p [n, o.num]
              ∧ plus p 24 ∧ plus p 36 ∧ kept p [24, 36] 0 0)
          ∧ (c s.pkg 24 = c s.pkg 28 → c s.pkg 0 < cap → stored (c s.pkg 0) → op'.elem.length = sz →
            ∃ p, answers 0 [] p ∧ others p [n] ∧ plus p 0 ∧ plus p 36 ∧ p.bytes (at' (c s.pkg 0)) sz = op'.elem
              ∧ kept p [0, 36] (at' (c s.pkg 0)) sz)
          ∧ (c s.pkg 24 = c s.pkg 28 → cap ≤ c s.pkg 0 → ∃ p, answers 2 [] p ∧ others p [n] ∧ plus p 44 ∧ plus p 36 ∧ kept p [36, 44] 0 0))
      ∧ (op.orphan = false → pops → Spec.HomeLegal s.pkg op →
          let last := c s.pkg 0 - 1
          (0 < c s.pkg 0 → w / 2 ^ 30 % 4 = 0 → stored last →
            ∃ p, answers 0 (s.pkg.bytes (at' last) sz) p ∧ others p [n] ∧ c p 0 = last ∧ plus p 36 ∧ kept p [0, 36] 0 0)
          ∧ (0 < c s.pkg 0 → w / 2 ^ 30 % 4 ≠ 0 → stored last → stored 0 →
            ∃ p, answers 0 (s.pkg.bytes (at' 0) sz) p ∧ others p [n] ∧ c p 0 = last ∧ plus p 36
              ∧ p.bytes (at' 0) sz = s.pkg.bytes (at' last) sz ∧ kept p [0, 36] (at' 0) sz)
          ∧ (c s.pkg 0 = 0 → op.kind = .pop ∨ wcap ≤ (c s.pkg 28 + 2 ^ 32 - c s.pkg 24) % 2 ^ 32 →
            ∃ p, answers 1 [] p ∧ others p [n] ∧ plus p 40 ∧ plus p 36 ∧ kept p [36, 40] 0 0)
          ∧ (c s.pkg 0 = 0 → op.kind = .popw → (c s.pkg 28 + 2 ^ 32 - c s.pkg 24) % 2 ^ 32 < wcap → listed (c s.pkg 28) →
            op.tag < 2 ^ 16 → op.core < 2 ^ 13 → op.sn < 4 →
            ∃ p, comes p ∧ now p { op' with joined := true } ∧ others p [n] ∧ plus p 28
              ∧ p.num (wat (c s.pkg 28)) 8 = op.tag + op.core * 2 ^ 16 + op.sn * 2 ^ 29 ∧ kept p [28] (wat (c s.pkg 28)) 8)))
    ∧ (∀ status elem st, op.answer = some (status, elem) → s.pkg.strands.find? op.strand = some st →
        let cu := s.pkg.crew op.crew
        let comes (p : Pkg) : Prop := exec (.poolAnswerArrival n) s = .next (s.withPkg p)
        let give (x : Strand) (r : Nat) (v : Nat) : Strand := if (r, 2 ^ 40 + n) ∈ x.xpend then
          { x.setX r (BitVec.ofNat 64 v) with xpend := x.xpend.erase (r, 2 ^ 40 + n) } else x
        let got : Prop := status = 0 ∧ op.kind ≠ .push
        let acquires (p : Pkg) : Prop := got → ∀ e ∈ p.early, e.strand ≠ op.strand
        let writes (x : Strand) : Prop := ∃ p, comes p ∧ p.pools.find? n = none ∧ others p [n] ∧ p.mem = s.pkg.mem ∧ acquires p
          ∧ p.strands.find? op.strand = some { x with acqAt := if got then s.pkg.tick else x.acqAt }
        (cu.st = .resident → op.steal = false →
          (op.kind = .push → op.xe = none → writes (give st op.xd status))
          ∧ (∀ r, op.kind = .pop ∨ op.kind = .popw → op.xe = some r → op.mem = none →
              writes (give (give st r (if status = 0 then ofBytes elem else 0)) op.xd status))
          ∧ (∀ va, op.kind = .pop ∨ op.kind = .popw → op.xe = none → op.mem = some va → status ≠ 0 → writes (give st op.xd status))
          ∧ (∀ va, op.kind = .pop ∨ op.kind = .popw → op.xe = none → op.mem = some va → status = 0 → Spec.CleanRun s.pkg op.crew va elem.length →
              let ke := Spec.offAt s.pkg op.crew (va - 0x7F0000000000)
              ∃ p, comes p ∧ p.pools.find? n = none ∧ others p [n] ∧ acquires p
                ∧ p.strands.find? op.strand = some { give st op.xd 0 with acqAt := s.pkg.tick }
                ∧ p.bytes ke elem.length = elem ∧ ∀ j, ¬(ke ≤ j ∧ j < ke + elem.length) → p.byte j = s.pkg.byte j))
        ∧ (cu.st = .resident → op.steal = true → op.joined = false → st.run = .blocked (.answer n) → status ≠ 0 →
            writes { st with run := .ready, grant := some (.num status) })
        ∧ (cu.st = .resident → op.steal = true → op.joined = false → st.run = .blocked (.answer n) → status = 0 →
          let f (lo m : Nat) : Nat := ofBytes ((elem.drop lo).take m)
          let runs : Prop := f 0 8 % 4 = 0 ∧ f 0 8 < 2 ^ 48 ∧ (f 8 4).testBit 0 = false
            ∧ ((List.range 32).filter (fun j => (f 8 4).testBit j)).length ≤ 16 ∧ f 12 1 ≤ 32 ∧ f 13 1 = 0 ∧ f 14 1 % 2 = 0 ∧ f 15 1 = 0
            ∧ f 24 4 < 2 ^ 7
          let r := elem.take 24 ++ Spec.bytes 8 (st.core % 24 + 32 * st.sn) ++ (elem.drop 32).take 128
          let cl := st.core / 24
          let here (p : Pkg) : Prop := comes p ∧ others p [n] ∧ now p { op with joined := true } ∧ p.mem = s.pkg.mem ∧ acquires p
          (runs → ∀ m, s.pkg.takeSlot cl op.crew (f 12 1) = some m → ∃ p, here p ∧ Spec.Entered' s.pkg p cl m op.crew r
            ∧ p.strands.find? op.strand = some { st with run := .ready, grant := some (.rslot m), acqAt := s.pkg.tick })
          ∧ (runs → s.pkg.takeSlot cl op.crew (f 12 1) = none → ∃ p, here p
            ∧ p.strands.find? op.strand = some { st with run := .blocked .runq, acqAt := s.pkg.tick }
            ∧ (p.cluster cl).rqWaits = (s.pkg.cluster cl).rqWaits ++ [{ strand := op.strand, crew := op.crew, depth := f 12 1, bytes := r }])
          ∧ (¬ runs → st.lost = false → ∃ p, comes p ∧ p.pools.find? n = none ∧ others p [n] ∧ p.mem = s.pkg.mem
            ∧ p.strands.find? op.strand = some { st with
                run := .ready, grant := some (.num 3), async := st.async ++ [{ cause := 0x22, tval := BitVec.ofNat 64 op.desc }] }))
        ∧ (cu.isSaved = true → op.steal = false → ∃ p, comes p ∧ p.pools.find? n = none ∧ others p [n] ∧ p.strands = s.pkg.strands
            ∧ (p.crew op.crew).image.answers = cu.image.answers ++ [op])
        ∧ (cu.st = .ended → op.steal = false → status = 0 → op.kind = .pop ∨ op.kind = .popw → ∃ p, comes p ∧ others p [n] ∧ now p { op with
            kind := .push, orphan := true, answer := none, elem := elem, path := [], budget := 0, held := false, steal := false }))

/-! ### Tasks, system instructions and the running of strands -/

namespace Sys2Proof.Spec

/-- v is a field of a WAIT operand that breaks R33: the whole operand of WKIND 0, else a count of 0 or must-be-zero bits that are set. -/
abbrev WaitBad (wkind w v : Nat) : Prop :=
  (wkind = 0 ∧ w ≠ 0 ∧ v = w)
  ∨ (wkind = 1 ∧ ((w / 2 ^ 32 = 0 ∧ v = 0) ∨ (w / 2 ^ 10 % 2 ^ 22 ≠ 0 ∧ v = w / 2 ^ 10 % 2 ^ 22)))
  ∨ (wkind = 2 ∧ w % 2 ^ 4 ≠ 0 ∧ v = w % 2 ^ 4)
  ∨ (wkind = 3 ∧ 2 ^ 16 ≤ w ∧ v = w / 2 ^ 16)

/-- The place that a WAIT operand names is beyond the crew (R313), with the number of its position or the address of its galley word. -/
abbrev WaitAway (s : State) (st : Strand) (wkind w v : Nat) : Prop :=
  (wkind = 1 ∧ v = w / 2 ^ 5 % 2 ^ 5 ∧ (s.pkg.launch (s.pkg.crew st.crew).launch).cpc ≤ v)
  ∨ (wkind = 2 ∧ v = w / 2 ^ 4 % 2 ^ 44 * 16 ∧ ¬ inWindow s st v 16)

/-- The strand of a launch that failed at some core is told by cause 0x28 when it can next be (R363). -/
def told (l : Launch) (st : Strand) : Strand := { st with async := st.async ++ [{ cause := 0x28, tval := BitVec.ofNat 64 l.failCore }] }

end Sys2Proof.Spec

/-- R35, R36, R124, R312, R313, R319 to R321, R359, R382, R416: a ready SPAWN of a legal target enters the child's record in the slot it is
given, the lowest free general slot within the crew's share, or the reserved slot of its depth, else it waits; a bad target takes 0x08 and a
33rd level 0x20. PARK of a legal wait is decided; an illegal field takes 0x02, a place beyond the crew 0x13. NOTE queues its notice in the
crew's ring, or counts a drop when the ring is full. TLBINV waits for its answer. CTXSAVE writes the strand's state to its block, with
the banks it reads out of retention, CTXLOAD is decided; each takes 0x08 at a misaligned block, and CTXLOAD of a block of another number of window units 0x02. SPAWN,
NOTE, TLBINV and CTXSAVE come after the strand's earlier accesses. In user mode TLBINV, CTXSAVE and CTXLOAD take 0x07. That the lowest general
slot is taken (58), the bytes of a block (7), its units and the destinations that CTXSAVE waits for (36), and that a slot behind accesses not
performed waits where it is (48) are the model's. -/
def Obligations.TasksAndSystemInstructions : Prop :=
  ∀ (s : State) (st : Strand),
    let x (r : BitVec 5) : Nat := (st.getX r.toNat).toNat
    (∀ o : ESpawn, SlotReady (.spawn o) s st → x o.xT % 4 = 0 → x o.xT < 2 ^ 48 → st.depth < 32 → s.pkg.owed st 2 = [] →
      let cl := st.core / 24
      let q := s.pkg.cluster cl
      let free (m : Nat) : Prop := q.rq.find? m = none
      let share := (q.rq.filter (fun e => decide (e.1 < 512) && e.2.crew == st.crew)).length < (s.pkg.launch (s.pkg.crew st.crew).launch).gcap
      let enters (m : Nat) : Prop := ∃ p, exec (.spawn o) s = .next (s.unitDone (.spawn o) st p st) ∧ p.mem = s.pkg.mem
        ∧ p.strands = s.pkg.strands ∧ Spec.Entered' s.pkg p cl m st.crew (Spec.record st (st.getX o.xT.toNat) o.live (st.depth + 1) 0 0);
      (∀ m, st.grant = some (.rslot m) → exec (.spawn o) s = .next (s.unitDone (.spawn o) st s.pkg st))
      ∧ (∀ m, st.grant = none → share → m < 512 → free m → (∀ j < m, ¬ free j) → enters m)
      ∧ (st.grant = none → ¬ share ∨ (∀ j < 512, ¬ free j) → free (513 + st.depth) → enters (513 + st.depth))
      ∧ (st.grant = none → ¬ share ∨ (∀ j < 512, ¬ free j) → ¬ free (513 + st.depth) →
          let r := Spec.record st (st.getX o.xT.toNat) o.live (st.depth + 1) 0 0
          let l := q.rqWaits ++ [{ strand := s.focus, crew := st.crew, depth := st.depth + 1, bytes := r }]
          exec (.spawn o) s = .next (s.withPkg ((s.pkg.setCluster cl { q with rqWaits := l }).setStrand s.focus
            { st with run := .blocked .runq, grant := none }))))
    ∧ (∀ o : ESpawn, SlotReady (.spawn o) s st →
        (x o.xT % 4 ≠ 0 ∨ 2 ^ 48 ≤ x o.xT → Spec.Traps (.spawn o) s st 0x08 (st.getX o.xT.toNat))
        ∧ (x o.xT % 4 = 0 → x o.xT < 2 ^ 48 → 32 ≤ st.depth → Spec.Traps (.spawn o) s st 0x20 32)
        ∧ (x o.xT % 4 = 0 → x o.xT < 2 ^ 48 → st.depth < 32 → st.grant = none → Spec.Waits s st 2 → exec (.spawn o) s = .next s))
    ∧ (∀ o : EPark, SlotReady (.park o) s st →
        let k := o.wkind.toNat
        let w := x o.xW
        ((∃ v, Spec.WaitBad k w v) → ∃ v, Spec.WaitBad k w v ∧ Spec.Traps (.park o) s st 0x02 (BitVec.ofNat 64 v))
        ∧ ((∀ v, ¬ Spec.WaitBad k w v) →
          (∀ v, Spec.WaitAway s st k w v → Spec.Traps (.park o) s st 0x13 (BitVec.ofNat 64 v))
          ∧ ((∀ v, ¬ Spec.WaitAway s st k w v) → exec (.park o) s = .next (s.unitDone (.park o) st s.pkg
              { st with pend := some (.park o.live k (st.getX o.xW.toNat)) }))))
    ∧ (∀ o : ENote, SlotReady (.note o) s st →
        let k := 2 ^ 52 + st.crew * 4096
        let head := s.pkg.num (k + 8) 4
        let tail := s.pkg.num (k + 12) 4
        (s.pkg.owed st 6 = [] → (tail + 2 ^ 32 - head) % 2 ^ 32 < 32 → (∀ w ∈ s.pkg.unitWaits, w.key ≠ k) → exec (.note o) s = .next (s.unitDone (.note o) st
          ((s.pkg.write (k + (0x40 + tail % 32 * 16)) (Spec.notice o.code.toNat 1 st.core st.sn (st.getX o.xa.toNat))).write (k + 12)
            (Spec.bytes 4 (tail + 1))) st))
        ∧ (s.pkg.owed st 6 = [] → 32 ≤ (tail + 2 ^ 32 - head) % 2 ^ 32 → exec (.note o) s = .next (s.unitDone (.note o) st
          (s.pkg.write (k + 0x240) (Spec.bytes 8 (min (s.pkg.num (k + 0x240) 8 + 1) (2 ^ 64 - 1)))) st))
        ∧ (s.pkg.owed st 6 ≠ [] → exec (.note o) s = .next s))
    ∧ (∀ o : ETlb, SlotReady (.tlbinv o) s st → st.sup = true →
        (st.grant = none → s.pkg.owed st 6 = [] → exec (.tlbinv o) s = .next (s.withPkg (s.pkg.setStrand s.focus
          { st with run := .blocked (.tlbinv (x o.xA) (x o.xN)), grant := none })))
        ∧ (st.grant = none → Spec.Waits s st 6 → exec (.tlbinv o) s = .next s)
        ∧ (st.grant = some .ok → exec (.tlbinv o) s = .next (s.unitDone (.tlbinv o) st s.pkg st)))
    ∧ (∀ o : EReg, SlotReady (.ctxsave o) s st → st.sup = true →
        let n := 8192 + 4096 * st.banks.length
        let k := Spec.offAt s.pkg st.crew (x o.xA - 0x7F0000000000)
        (x o.xA % 64 ≠ 0 → Spec.Traps (.ctxsave o) s st 0x08 (st.getX o.xA.toNat))
        ∧ (x o.xA % 64 = 0 → Spec.Reach s st .store (x o.xA) n → st.unarrived ≠ [] → exec (.ctxsave o) s =
            .next (s.withPkg (s.pkg.setStrand s.focus { st with run := .blocked (.pending st.unarrived), grant := none })))
        ∧ (x o.xA % 64 = 0 → Spec.Reach s st .store (x o.xA) n → st.unarrived = [] → Spec.Waits s st 6 → exec (.ctxsave o) s = .next s)
        ∧ (x o.xA % 64 = 0 → st.unarrived = [] → s.pkg.owed st 6 = [] → Spec.Clean s.pkg st.crew (x o.xA) n →
            st.upsetIn s.focus s.pkg.poison (fun u => st.vused (64 * u)) true = false →
            ∃ p, exec (.ctxsave o) s = .next (s.unitDone (.ctxsave o) st p st) ∧ p.strands = s.pkg.strands
              ∧ (∀ b ∈ (p.core st.core).retained, b ∉ st.usedBanks)
              ∧ (∃ e ∈ p.ctx, e.addr = k ∧ e.units = st.banks.length ∧ e.strand = st.image) ∧ (∀ e ∈ p.ctx, e.addr = k → e.strand = st.image)
              ∧ (∀ j < n, p.byte (k + j) = Config.ctxByte st.image j) ∧ ∀ j, ¬(k ≤ j ∧ j < k + n) → p.byte j = s.pkg.byte j))
    ∧ (∀ o : EReg, SlotReady (.ctxload o) s st → st.sup = true →
        let n := 8192 + 4096 * st.banks.length
        (x o.xA % 64 ≠ 0 → Spec.Traps (.ctxload o) s st 0x08 (st.getX o.xA.toNat))
        ∧ (x o.xA % 64 = 0 → Spec.Reach s st .load (x o.xA) n → (∀ e ∈ s.pkg.ctx, e.units = st.banks.length) →
            exec (.ctxload o) s = .next (s.unitDone (.ctxload o) st s.pkg { st with pend := some (.ctxload (x o.xA)) }))
        ∧ (∀ e ∈ s.pkg.ctx, x o.xA % 64 = 0 → Spec.Clean s.pkg st.crew (x o.xA) n →
            let k := Spec.offAt s.pkg st.crew (x o.xA - 0x7F0000000000)
            e.addr = k → (∀ e' ∈ s.pkg.ctx, e'.addr = k → e' = e) → (∀ j < 8192, s.pkg.byte (k + j) = Config.ctxByte e.strand j) →
            e.units ≠ st.banks.length → Spec.Traps (.ctxload o) s st 0x02 (BitVec.ofNat 64 (e.units - 1))))
    ∧ (∀ i : Instr, (∃ o, i = .tlbinv o) ∨ (∃ o, i = .ctxsave o) ∨ (∃ o, i = .ctxload o) → SlotReady i s st → st.sup = false →
        Spec.Traps i s st 0x07 0)

namespace Sys2Proof.Spec

/-- Crew cu, resident in cluster cl, has a record that no strand has been given, in slot n, and an idle strand u with no trap to take. -/
abbrev CanStart (p : Pkg) (cl cu u n : Nat) : Prop :=
  (∃ c, p.crews.find? cu = some c ∧ c.cluster = cl ∧ (c.st = .resident ∨ ∃ b, c.st = .retry b))
  ∧ (∃ st, p.strands.find? u = some st ∧ st.crew = cu ∧ st.run = .idle ∧ (st.async = [] ∨ st.inh = true))
  ∧ (∃ r, (p.cluster cl).rq.find? n = some r ∧ r.crew = cu ∧ r.st = .ready none)

/-- The record in slot n of cluster cl is given to strand u (R38). -/
def give (cl : Nat) (p : Pkg) (h : Nat × Nat × Nat) : Pkg :=
  (p.setCluster cl { p.cluster cl with rq := (p.cluster cl).rq.modify h.2.2 (fun r => { r with st := .ready (some h.2.1) }) }).modStrand h.2.1
    (fun t => { t with run := .starting h.2.2 })

/-- Crew a is served no later than crew b: by index, then by order of placement in the cluster (R38). -/
abbrev NoLater (p : Pkg) (a b : Nat) : Prop :=
  a = b ∨ (p.crew a).index < (p.crew b).index
  ∨ ((p.crew a).index = (p.crew b).index ∧ ((p.crew a).placed < (p.crew b).placed ∨ ((p.crew a).placed = (p.crew b).placed ∧ a < b)))

/-- Keys ascend, as the tables that the model keeps by number do. -/
abbrev Ascending {α : Type} (m : RMap α) : Prop := (m.map (fun e => e.1)).Pairwise (· < ·)

end Sys2Proof.Spec

/-- R37, R38: TASK_SCHEDULER_ROUND makes at most four handouts, each of the oldest ready record of the first crew that has one and an idle
strand, to its lowest idle strand, and it stops before four only when no crew has both. The premises are of the state alone: the tables'
keys ascend, and the AGEs of a crew's ready records lie within half their range (R37). R32, R43, R127, R196: TASK_START sets the strand
from the record it was given: PC, depth, predicates, the live x registers; every other x, mask, scale and vector register is 0, the format
latch is its reset value, queues, latches and sticky words are empty; it is an acquire. That its mode, INH, TVEC and TSCR stay as they were is
the model's (34). R94, R319:
TLBINV_COMPLETION drops the translations that the TLBINV names, all of them with x[N] 0, and the strand goes on. Each of these three
actions completes in every state where a round, a strand given a record, or a strand that waits for its TLBINV is there. -/
def Obligations.TasksStart : Prop :=
  ∀ (s : State),
    (∀ cl : Nat, Spec.Ascending s.pkg.strands → Spec.Ascending s.pkg.crews → Spec.Ascending (s.pkg.cluster cl).rq →
      (∀ cu, ∃ b : Word32, ∀ e ∈ (s.pkg.cluster cl).rq, e.2.crew = cu → e.2.st = .ready none → (e.2.age - b).toNat < 2 ^ 31) →
      ∃ hs : List (Nat × Nat × Nat), exec (.taskSchedulerRound cl) s = .next (s.withPkg (hs.foldl (Spec.give cl) s.pkg)) ∧ hs.length ≤ 4
        ∧ (∀ j cu u n, hs[j]? = some (cu, u, n) →
            let p := (hs.take j).foldl (Spec.give cl) s.pkg
            Spec.CanStart p cl cu u n
            ∧ (∀ cu' u' n', Spec.CanStart p cl cu' u' n' → Spec.NoLater p cu cu' ∧ (cu' = cu → u ≤ u'))
            ∧ (∀ n' r r', (p.cluster cl).rq.find? n = some r → (p.cluster cl).rq.find? n' = some r' → r'.crew = cu → r'.st = .ready none →
                (r'.age - r.age).toNat < 2 ^ 31))
        ∧ (hs.length < 4 → ∀ cu u n, ¬ Spec.CanStart (hs.foldl (Spec.give cl) s.pkg) cl cu u n))
    ∧ (∀ (u n : Nat) (st : Strand) (r : RqSlot),
      let cl := st.core / 24
      let w (lo k : Nat) : Nat := ofBytes ((r.bytes.drop lo).take k)
      let live (k : Nat) : Bool := (w 8 4).testBit k
      s.pkg.strands.find? u = some st → st.run = .starting n → (s.pkg.cluster cl).rq.find? n = some r →
      ∃ t st', exec (.taskStart u) s = .next (s.withPkg t) ∧ t.strands.find? u = some st' ∧ t.mem = s.pkg.mem
        ∧ (∀ v, v ≠ u → t.strands.find? v = s.pkg.strands.find? v) ∧ t.early = (Spec.acquiredBy s.pkg u).early ∧ st'.acqAt = s.pkg.tick
        ∧ (t.cluster cl).rq.find? n = some { r with st := .running u }
        ∧ (∀ m, m ≠ n → (t.cluster cl).rq.find? m = (s.pkg.cluster cl).rq.find? m)
        ∧ st'.run = .ready ∧ st'.phase = .boundary ∧ st'.rslot = some n ∧ st'.pc.toNat = w 0 8 % 2 ^ 48 ∧ st'.depth = w 12 1 % 64
        ∧ (∀ k, 0 < k → k < 32 → live k = true →
            st'.getX k = BitVec.ofNat 64 (w (32 + 8 * ((List.range k).filter (fun j => j ≠ 0 ∧ live j)).length) 8))
        ∧ (∀ k, live k = false → k < 32 → st'.getX k = 0) ∧ (∀ k, 0 < k → k < 8 → st'.getP k = (w 14 1).testBit k)
        ∧ (∀ k, k ≠ 0 → st'.getM k = 0) ∧ (∀ k, st'.getE k = 0) ∧ (∀ k, st'.getV k = 0) ∧ (∀ k, st'.getQ k = []) ∧ st'.latch = []
        ∧ st'.fmt = 0b0100100#7 ∧ st'.fmtPipe = [] ∧ st'.sticky = []
        ∧ st'.pend = none ∧ st'.shadow = [] ∧ st'.dirty = 0 ∧ st'.sup = st.sup ∧ st'.inh = st.inh ∧ st'.tvec = st.tvec ∧ st'.tscr = st.tscr
        ∧ st'.core = st.core ∧ st'.banks = st.banks)
    ∧ (∀ (u va n : Nat) (st : Strand), s.pkg.strands.find? u = some st → st.run = .blocked (.tlbinv va n) →
      ∃ t, exec (.tlbinvCompletion u) s = .next (s.withPkg t)
        ∧ t.strands.find? u = some { st with run := .ready, grant := some .ok }
        ∧ (∀ v, v ≠ u → t.strands.find? v = s.pkg.strands.find? v) ∧ t = { s.pkg with tlb := t.tlb, strands := t.strands }
        ∧ ∀ e, e ∈ t.tlb ↔ e ∈ s.pkg.tlb ∧ n ≠ 0 ∧ (va + n ≤ e.va ∨ e.va + e.size ≤ va))

namespace Sys2Proof.Spec

/-- No load of flag f of core c by the issuing strand is in flight. -/
def NoGets (s : State) (f c : Nat) : Prop :=
  ∀ e ∈ s.pkg.accs, e.2.strand = s.focus → ∀ q ∈ e.2.parts, q.addr ≠ 2 ^ 53 + 4 * (32 * c + f)

end Sys2Proof.Spec

/-- R29, R30, R34, R50, R54, R188, R356, R363: a core without an issuing strand takes the first able one after the last, on a fresh core strand 0 first (50, the model's); its latches are
lost unless it was the last; a hold or a POOLFENCE that has ended is granted. A header wait is granted at once when its count is met or 0,
and takes its count; else the strand waits. A header post adds its count, once the accesses it releases are performed. A pending trap
enters the handler with TV 0, at idle, at a bundle's boundary or at its wait, whose count, granted already, goes back to the flag (69, the
model's). A strand of a failed launch is told by 0x28, or 0x29 with the barrier of which a member lost by containment it waits for: at its blocked slot, its
bundle, its park, or later (where and how is 30, the model's); under INH, or past the grace period, it is discarded. -/
def Obligations.StrandsAreScheduled : Prop :=
  ∀ (s : State),
    (∀ (c i : Nat),
      let k := s.pkg.core c
      let n (j : Nat) : Nat := ((match k.lastIssuer with | some m => m + 1 | none => 0) + j) % 4
      let able (m u : Nat) (st : Strand) : Prop := k.res.find? m = some u ∧ s.pkg.strands.find? u = some st ∧ s.pkg.runnable u st = true
        ∧ s.pkg.stopped st = false
      ∀ (u : Nat) (st : Strand), k.cur = none → k.service = .inService → i < 4 → (∀ j < i, ∀ v t, ¬ able (n j) v t) → able (n i) u st →
        let p : Pkg := { s.pkg with pools := match st.run with | .blocked (.poolfence m) => RMap.del s.pkg.pools m | _ => s.pkg.pools }
        let g : Option Grant := match st.run with | .blocked (.hold _) => some .ok | .blocked (.poolfence _) => some .ok | _ => st.grant
        exec (.strandSwitch c) s = .next (s.withPkg ((p.setCore c { k with cur := some (n i) }).setStrand u
          (if k.lastIssuer = some (n i) then { st with run := .ready, grant := g }
           else { st with run := .ready, grant := g, latch := [], l3lost := st.l3acc }))))
    ∧ (∀ st : Strand, s.focused st → st.run = .ready →
      let n := st.bun.header.toNat / 2 ^ 23
      let f := st.bun.header.toNat / 2 ^ 18 % 2 ^ 5
      let k := s.pkg.core st.core
      let v := Spec.flag s.pkg st.core f
      (st.phase = .wait → st.grant = some .ok → exec .headerSyncWait s = .next (s.withPkg (s.pkg.setStrand s.focus
          ({ st with grant := none, bun := { st.bun with granted := true } } : Strand).beginIssues)))
      ∧ (st.phase = .wait → st.grant = none → n = 0 → exec .headerSyncWait s = .next (s.withPkg ((Spec.acquiredBy s.pkg s.focus).setStrand s.focus
          ({ st with grant := none, acqAt := s.pkg.tick, bun := { st.bun with granted := true } } : Strand).beginIssues)))
      ∧ (st.phase = .wait → st.grant = none → 0 < n → n ≤ v → Spec.NoGets s f st.core → (∀ w ∈ k.waits, w.flag ≠ f) → ∃ t, exec .headerSyncWait s = .next (s.withPkg t)
          ∧ t.strands.find? s.focus = some { st with run := .ready, grant := some .ok, acqAt := s.pkg.tick }
          ∧ (∀ u, u ≠ s.focus → t.strands.find? u = s.pkg.strands.find? u)
          ∧ (t.core st.core).waits = k.waits ∧ t.early = (Spec.acquiredBy s.pkg s.focus).early ∧ t.mem = s.pkg.mem
          ∧ ∀ g, Spec.flag t st.core g = if g = f then v - n else Spec.flag s.pkg st.core g)
      ∧ (st.phase = .wait → st.grant = none → v < n → Spec.NoGets s f st.core → (∀ w ∈ k.waits, w.flag ≠ f) → ∃ t, exec .headerSyncWait s = .next (s.withPkg t)
          ∧ t.strands.find? s.focus = some { st with run := .blocked .flag }
          ∧ (t.core st.core).waits = k.waits ++ [{ flag := f, count := n, who := .header s.focus }]
          ∧ ∀ g, Spec.flag t st.core g = Spec.flag s.pkg st.core g)
      ∧ (st.phase = .post → s.pkg.owed st 2 = [] → exec .headerSyncPost s = .next (s.withPkg (
          if n = 0 then s.pkg.setStrand s.focus st.endBundle
          else (s.pkg.setStrand s.focus st.endBundle).post st.core f n st.crew st.core st.sn)))
      ∧ (st.phase = .post → Spec.Waits s st 2 → exec .headerSyncPost s = .next s))
    ∧ (∀ (u : Nat) (st : Strand) (a : ATrap) (rest : List ATrap),
      let flags : Bool := st.run == .ready || st.run == .blocked .flag || (match st.run with | .blocked (.walk _ _) => true | _ => false)
      s.pkg.strands.find? u = some st → st.async = a :: rest → (s.pkg.crew st.crew).st = .resident → Spec.Deliverable s st → st.bun.rep < 32 →
      st.run = .idle ∨ (flags = true ∧ ((st.phase = .boundary ∧ st.bun.started = false) ∨ st.phase = .wait)) →
      ∃ t e, exec (.asyncTrapDelivery u) s = .next (s.withPkg t) ∧ t.strands.find? u = some e ∧ e.async = rest ∧ t.mem = s.pkg.mem
        ∧ Spec.Entered st e a.cause a.tval (if st.run = .idle then 0 else if st.phase = .wait then st.bun.pc else st.pc) false 0 0
        ∧ Spec.EntryFrame st e ∧ e.sup = st.sup ∧ (∀ w ∈ (t.core st.core).waits, w.who ≠ .header u)
        ∧ (let n := st.bun.header.toNat / 2 ^ 23
           let f := st.bun.header.toNat / 2 ^ 18 % 2 ^ 5
           st.phase = .wait → st.grant = some .ok → (∀ w ∈ (s.pkg.core st.core).waits, w.who = .header u ∨ w.flag ≠ f) →
            Spec.flag t st.core f = min (Spec.flag s.pkg st.core f + n) (2 ^ 32 - 1)))
    ∧ (∀ (u : Nat) (st : Strand),
      let l := s.pkg.launch (s.pkg.crew st.crew).launch
      let due := l.failTime + s.host.ygrace.toNat
      let c : X := BitVec.ofNat 64 l.failCore
      let other : Prop := ∃ x ∈ s.pkg.strands, x.1 ≠ u ∧ x.2.crew = st.crew ∧ x.2.run ≠ .ended
      let becomes (is : Strand → Prop) : Prop := ∃ t e, exec (.failedLaunchRelease u) s = .next (s.withPkg t) ∧ t.strands.find? u = some e ∧ is e
      s.pkg.strands.find? u = some st → l.failed = true →
      (st.grace = none → st.inh = false →
        (st.run = .ready ∨ st.run = .idle → becomes (fun e => e = Spec.told l { st with grace := some due }))
        ∧ (∀ n, st.run = .starting n → becomes (fun e => e = Spec.told l { st with run := .idle, grace := some due }))
        ∧ (∀ w, st.tvec ≠ 0 → st.run = .blocked w → st.bun.slot < 16 → st.bun.rep < 32 →
          (st.phase = .issue →
            ((∀ b, w ≠ .barrier b) → becomes (fun e => Spec.Entered st e 0x28 c st.bun.pc true st.bun.rep st.bun.slot))
            ∧ (∀ b, w = .barrier b →
                let lost : Prop := ∃ i ∈ ((s.pkg.crew st.crew).barrier b).mem, ∃ x, s.pkg.strands.find? (96 * st.crew + i) = some x ∧ x.contained = true
                (lost → becomes (fun e => Spec.Entered st e 0x29 (BitVec.ofNat 64 (l.failCore + 2 ^ 16 * b)) st.bun.pc true st.bun.rep st.bun.slot))
                ∧ (¬ lost → becomes (fun e => Spec.Entered st e 0x28 c st.bun.pc true st.bun.rep st.bun.slot))))
          ∧ (st.phase = .wait → becomes (fun e => Spec.Entered st e 0x28 c st.bun.pc false 0 0))
          ∧ (st.phase = .boundary → becomes (fun e => Spec.Entered st e 0x28 c st.pc false 0 0))
          ∧ (∀ r k v m, st.phase = .transfer → w = .pending r → st.pend = some (.park k v m) →
              becomes (fun e => Spec.Entered { st with pend := none } e 0x28 c
                (st.bun.pc + BitVec.ofNat 64 (4 * bundleWords st.bun.header)) false 0 0))))
      ∧ (other → st.run ≠ .ended →
          (st.inh = true → st.grace = none → becomes (fun e => e.run = .ended ∧ e.lost = true))
          ∧ (due ≤ s.pkg.time → ∃ t x, exec (.abortGraceExpiry u) s = .next (s.withPkg t) ∧ t.strands.find? u = some x ∧ x.run = .ended
              ∧ x.lost = true ∧ t.mem = s.pkg.mem)))

/-! ### The host interface, placement and records -/

namespace Sys2Proof.Spec

/-- Vector v is masked: bit 0 of the vector control word of its entry, the second 64-bit word's upper half; masked at reset (47). -/
def masked (h : HostRegs) (v : Nat) : Bool := ((h.msix.find? (2 * v + 1)).getD 0x100000000#64).getLsbD 32

/-- What a host read of BAR 0 gives (R171): write-only registers and reserved offsets give 0. -/
def hostValue (s : State) (off : Nat) : BitVec 64 :=
  let k := s.host.queue ((off - 0x100000) / 32)
  if off = 0 then s.host.ready.setWidth 64
  else if off = 0x8 then s.host.podpos.setWidth 64
  else if off = 0x10 then s.host.cfgerr.setWidth 64
  else if off = 0x18 then Config.memcap.setWidth 64
  else if off = 0x100 then s.host.explicitRing.setWidth 64
  else if off = 0x108 then s.host.ygrace.setWidth 64
  else if 0x1000 ≤ off ∧ off < 0x2000 ∧ off % 16 = 0 then (s.host.comm.get 0 ((off - 0x1000) / 16)).setWidth 64
  else if 0x100000 ≤ off ∧ off < 0x140000 ∧ off % 32 = 0 then k.base
  else if 0x100000 ≤ off ∧ off < 0x140000 ∧ off % 32 = 8 then BitVec.ofNat 64 (2 ^ 16 * k.root + (if k.en then 16 else 0) + k.qlog)
  else if 0x100000 ≤ off ∧ off < 0x140000 ∧ off % 32 = 16 then k.head.setWidth 64
  else 0

/-- What a host read of a 64-bit word of BAR 2 gives (R171): the table of 2,048 vectors, then their pending bits; the place of the pending bits
is the model's (47). -/
def tableValue (h : HostRegs) (w : Nat) : BitVec 64 :=
  if w < 4096 then (h.msix.find? w).getD (if w % 2 = 1 then 0x100000000#64 else 0)
  else if w < 4128 then
    BitVec.ofNat 64 ((((List.range 64).filter (fun i => decide (64 * (w - 4096) + i ∈ h.msixPending))).map (fun i => 2 ^ i)).sum)
  else 0

end Sys2Proof.Spec

/-- R171, R172, R418: what a host write does over an up link. YGRACE is set; PODPOS, EXPLICIT_RING and a communicator are set while no launch
runs, else CFGRUN; QBASE while its queue is disabled, else QBUSY. A CFGERR write clears the bits written 1. QCTL with EN 1 enables a
disabled queue of a legal length and base, else sets QBAD, or QBUSY if it was enabled; with EN 0 it disables. QTAIL takes the doorbell. A
read gives the register, with READY.MEM set MEMCAP too. A read of BAR 2 gives the table and the pending
bits. A vector that is signalled sends its message, or is pending while masked. Over a link that is down neither a write nor a read takes
place. That frames taken into the explicit ring leave the automatic pool (37), the seven bits of EXPLICIT_RING, a QCTL write of EN 0 and writes
over a link that is down (40), and the masks of the vectors and the place of their table and pending bits (47, PRESUMED) are the model's. -/
def Obligations.HostRegisterWrites : Prop :=
  ∀ (s : State) (v : BitVec 64) (q : Nat),
    let h := s.host
    let k := h.queue q
    let running : Prop := ∃ e ∈ s.pkg.launches, e.2.recorded = false
    let err (n : Nat) : State := s.withHost { h with cfgerr := h.cfgerr ||| BitVec.ofNat 4 (2 ^ n) }
    let queue (i : Instr) (k' : HQueue) : Prop := ∃ m, exec i s = .next (s.withHost { h with queues := m })
      ∧ m.find? q = some k' ∧ ∀ r, r ≠ q → m.find? r = h.queues.find? r
    (h.pcieUp = false → (∀ off, exec (.hostRegisterWrite off v) s = .next s ∧ s.hostRead off = s ∧ s.msixRead off = s) ∧ exec (.cfgerrClear v) s = .next s
      ∧ exec (.qctlEnable q v) s = .next s ∧ exec (.qctlDisable q v) s = .next s ∧ ∀ t, exec (.qtailDoorbell q t) s = .next s)
    ∧ (∀ n, (Spec.masked h n = false → h.signal n = { h with signals := n :: h.signals })
        ∧ (Spec.masked h n = true → h.signal n = { h with msixPending := if n ∈ h.msixPending then h.msixPending else h.msixPending ++ [n] }))
    ∧ (h.pcieUp = true → h.ready.getLsbD 11 = true → ∀ off, s.hostRead off = s.withHost { h with readData := Spec.hostValue s off })
    ∧ (h.pcieUp = true → ∀ w, s.msixRead w = s.withHost { h with readData := Spec.tableValue h w })
    ∧ (h.pcieUp = true → q < 8192 →
    exec (.hostRegisterWrite 0x108 v) s = .next (s.withHost { h with ygrace := v.setWidth 32 })
    ∧ (running → ∀ off, off = 0x8 ∨ off = 0x100 ∨ (∃ n < 256, off = 0x1000 + 16 * n) → exec (.hostRegisterWrite off v) s = .next (err 0))
    ∧ (¬ running → exec (.hostRegisterWrite 0x8 v) s = .next (s.withHost { h with podpos := v.setWidth 24 })
        ∧ (v.setWidth 7 = h.explicitRing → exec (.hostRegisterWrite 0x100 v) s = .next s)
        ∧ (∃ t, exec (.hostRegisterWrite 0x100 v) s = .next t ∧ t.host = { h with explicitRing := v.setWidth 7 } ∧ t.pkg.strands = s.pkg.strands
          ∧ t.pkg.cores = s.pkg.cores)
        ∧ ∀ n < 256, ∃ m, exec (.hostRegisterWrite (0x1000 + 16 * n) v) s = .next (s.withHost { h with comm := m })
            ∧ ∀ j, m.get 0 j = if j = n then v.setWidth 32 &&& 0x8FFFFFFF#32 else h.comm.get 0 j)
    ∧ (k.en = true → exec (.hostRegisterWrite (0x100000 + 32 * q) v) s = .next (err 1))
    ∧ (k.en = false → queue (.hostRegisterWrite (0x100000 + 32 * q) v) { k with base := v })
    ∧ (∃ e, exec (.cfgerrClear v) s = .next (s.withHost { h with cfgerr := e }) ∧ ∀ j, e.getLsbD j = (h.cfgerr.getLsbD j && !v.getLsbD j))
    ∧ (v.getLsbD 4 = true → k.en = true → exec (.qctlEnable q v) s = .next (err 1))
    ∧ (v.getLsbD 4 = true → k.en = false → v.toNat % 16 = 0 ∨ 12 < v.toNat % 16 ∨ k.base.toNat % 64 ≠ 0 → exec (.qctlEnable q v) s = .next (err 2))
    ∧ (v.getLsbD 4 = true → k.en = false → 1 ≤ v.toNat % 16 → v.toNat % 16 ≤ 12 → k.base.toNat % 64 = 0 →
        queue (.qctlEnable q v) { k with root := v.toNat / 2 ^ 16 % 2 ^ 32, qlog := v.toNat % 16, en := true })
    ∧ (v.getLsbD 4 = false → k.en = true → queue (.qctlDisable q v) { k with en := false })
    ∧ (∀ t : BitVec 32, queue (.qtailDoorbell q t) { k with tail := t }))

/-- R27, R28, R102, R173 to R177, R417, R418: with no launch passed over, an enabled queue with a packet is fetched: a legal packet is a
launch now, a malformed one passes with its head, and one that cannot be read disables the queue with QFETCH. The dispatcher places the
next crew of the launch it picks in the first cluster that fits: its strands stand at ENTRY with their arguments, its crew holds the cores,
the pointers move on. A saved crew that it places stands on its new cores, its record still to be read. With no room the crew waits, and
the victims found for it are asked to yield by their deadline. A launch whose crews are over and whose work is done has its record written
and its vector signalled. That no second search is made for a crew that waits (42), a TSTART of 0 (40), and when a signalled vector is pending
(47, PRESUMED) are the model's. -/
def Obligations.LaunchesAreFetchedPlacedAndRecorded : Prop :=
  ∀ (s : State),
    (∀ (q : Nat),
      let k := s.host.queue q
      let pa := k.base.toNat + 64 * (k.head.toNat % 2 ^ k.qlog)
      let key := s.pkg.physKey pa
      (∀ e ∈ s.pkg.launches, e.2.placing = true ∨ e.2.headed = true) → k.en = true → k.tail ≠ k.head →
      s.host.ready.getLsbD 10 = true → s.host.ready.getLsbD 11 = true → (∀ e ∈ s.pkg.launches, e.2.queue = q → e.2.placing = false) →
      (tierOf pa = 0 ∨ (tierOf pa ≠ 3 ∧ s.pkg.moving pa = false ∧ (s.pkg.poisoned key 64).isSome = true) → s.pkg.moving pa = false →
        ∃ t, exec (.packetFetch q) s = .next t ∧ t.pkg = s.pkg ∧ t.host.queue q = { k with en := false }
          ∧ t.host.cfgerr = s.host.cfgerr ||| 8#4)
      ∧ (tierOf pa = 1 ∨ tierOf pa = 2 → s.pkg.moving pa = true → exec (.packetFetch q) s = .next s)
      ∧ (tierOf pa = 1 ∨ tierOf pa = 2 → s.pkg.moving pa = false → s.pkg.poisoned key 64 = none →
      ∀ (compl sig : Option Nat) (p1 p2 : Pkg),
        let l : Launch := { queue := q, packet := s.pkg.bytes key 64, fetched := s.pkg.time, root := k.root }
        s.pkg.holdPa s.er k.root l.compl 64 = .ok (compl, p1) →
        (if l.sigm then p1.holdPa s.er k.root l.sigva 8 else .ok (none, p1)) = .ok (sig, p2) →
        (l.bad compl.isSome sig.isSome = none → ∃ t, exec (.packetFetch q) s = .next (s.withPkg t)
          ∧ t.launches.find? s.pkg.nextLaunch = some { l with complPa := compl, sigPa := sig } ∧ t.nextLaunch = s.pkg.nextLaunch + 1
          ∧ t.strands = s.pkg.strands ∧ t.crews = s.pkg.crews)
        ∧ (∀ off, l.bad compl.isSome sig.isSome = some off → s.reportWaits l compl sig = false → ∃ t, exec (.packetFetch q) s = .next t
          ∧ t.pkg.launches = s.pkg.launches ∧ (t.host.queue q).head = k.head + 1 ∧ t.pkg.strands = s.pkg.strands)))
    ∧ (∀ (q ln cl : Nat) (seats : List Seat),
      let l := s.pkg.launch ln
      let cu := s.pkg.nextCrew
      s.host.ready.getLsbD 10 = true → s.pickQueue = some (q, ln, none) →
      (s.clusterOrder.filter s.dieReady).findSome? (fun cl => (s.pkg.fits l none cl).map (fun x => (cl, x))) = some (cl, seats) →
      ∃ t, exec .dispatchRound s = .next t ∧ t.host.queuePtr = (q + 1) % 8192 ∧ t.host.clusterPtr = (cl + 1) % 192
        ∧ t.pkg.nextCrew = cu + 1 ∧ (t.pkg.launch ln).nextCrew = l.nextCrew + 1
        ∧ (∃ c, t.pkg.crews.find? cu = some c ∧ c.launch = ln ∧ c.index = l.nextCrew ∧ c.cluster = cl ∧ c.st = .resident
            ∧ c.cores = seats.map (fun x => x.core) ∧ c.spad = seats.map (fun x => x.spad))
        ∧ (∀ j < l.cpc, ∀ m < l.spc, ∃ st, t.pkg.strands.find? (96 * cu + (j * l.spc + m)) = some st
            ∧ st.pc.toNat = l.entry ∧ st.run = .ready ∧ st.crew = cu ∧ st.idx = j * l.spc + m
            ∧ (∀ x, seats[j]? = some x → st.core = x.core)
            ∧ st.getX 1 = BitVec.ofNat 64 l.args ∧ st.getX 2 = BitVec.ofNat 64 l.nextCrew ∧ st.getX 3 = BitVec.ofNat 64 (j * l.spc + m)
            ∧ st.getX 4 = BitVec.ofNat 64 (l.spc * l.cpc) ∧ ∀ r, 4 < r → st.getX r = 0))
    ∧ (∀ (q ln cu cl : Nat) (seats : List Seat),
      let l := s.pkg.launch ln
      s.host.ready.getLsbD 10 = true → s.pickQueue = some (q, ln, some cu) → (s.pkg.crew cu).launch = ln →
      (s.clusterOrder.filter s.dieReady).findSome? (fun cl => (s.pkg.fits l (some (s.pkg.crew cu)) cl).map (fun x => (cl, x))) = some (cl, seats) →
      ∃ t c, exec .dispatchRound s = .next t ∧ t.host.queuePtr = (q + 1) % 8192 ∧ t.host.clusterPtr = (cl + 1) % 192
        ∧ t.pkg.crews.find? cu = some c ∧ c.st = .restoring ∧ c.cluster = cl ∧ c.launch = ln ∧ c.index = (s.pkg.crew cu).index
        ∧ c.cores = seats.map (fun x => x.core) ∧ c.spad = seats.map (fun x => x.spad)
        ∧ (∀ j < l.cpc, ∀ m < l.spc, ∀ st, s.pkg.strands.find? (96 * cu + (j * l.spc + m)) = some st →
            ∃ st', t.pkg.strands.find? (96 * cu + (j * l.spc + m)) = some st' ∧ (∀ x, seats[j]? = some x → st'.core = x.core)
              ∧ st'.x = st.x ∧ st'.v = st.v ∧ st'.pc = st.pc ∧ st'.run = st.run))
    ∧ (∀ (q ln : Nat) (o : Option Nat) (vs : List Nat),
      let l := s.pkg.launch ln
      let w := (ln, match o with | some cu => (s.pkg.crew cu).index | none => l.nextCrew)
      let d := s.pkg.time + s.host.ygrace.toNat
      s.host.ready.getLsbD 10 = true → s.pickQueue = some (q, ln, o) →
      (∀ cl ∈ s.clusterOrder, s.dieReady cl = true → s.pkg.fits l (o.map s.pkg.crew) cl = none) → (∀ e ∈ s.pkg.crews, e.2.waiter ≠ some w ∧ s.pkg.slotBusy s.er e.1 1 0 = false) →
      (s.clusterOrder.filter s.dieReady).findSome? (s.pkg.victims s.er w l (o.map s.pkg.crew)) = some vs →
      ∃ t, exec .dispatchRound s = .next t ∧ t.host.queuePtr = (q + 1) % 8192 ∧ w ∈ t.host.waiting ∧ t.pkg.mem = s.pkg.mem
        ∧ ∀ cu ∈ vs, ∀ c, s.pkg.crews.find? cu = some c → (∀ b, c.st ≠ .saving b) → ∃ c', t.pkg.crews.find? cu = some c'
          ∧ c' = { c with req := true, waiter := some w, fails := 0
                          deadline := if l.deadline ≠ 0 then min d (l.fetched + l.deadline * 1000) else d })
    ∧ (∀ (ln a : Nat) (l : Launch),
      s.pkg.launches.find? ln = some l → l.placing = false → l.recorded = false → s.pkg.launchQuiet ln = true → s.host.pcieUp = true →
      l.complPa = some a → l.sigm = false → s.pkg.moving a = false →
      let k := s.pkg.physKey a
      ∃ t, exec (.launchCompletionRecord ln) s = .next t ∧ t.pkg.launches.find? ln = some { l with recorded := true }
        ∧ t.pkg.num k 4 = (if l.failed then 1 else 0) ∧ t.pkg.num (k + 4) 4 = l.faults % 2 ^ 32 ∧ t.pkg.num (k + 8) 4 = l.lid
        ∧ t.pkg.num (k + 12) 4 = l.done % 2 ^ 32 ∧ t.pkg.num (k + 16) 8 = l.tstart.getD 0 % 2 ^ 64 ∧ t.pkg.num (k + 24) 8 = l.tend % 2 ^ 64
        ∧ t.pkg.num (k + 32) 4 = (if l.csat then 4 else 0) + (if l.tsats then 2 else 0) + (if l.esats then 1 else 0)
        ∧ (∀ j, ¬(k ≤ j ∧ j < k + 64) → t.pkg.byte j = s.pkg.byte j)
        ∧ t.host = (if Spec.masked s.host l.vec then
            { s.host with msixPending := if l.vec ∈ s.host.msixPending then s.host.msixPending else s.host.msixPending ++ [l.vec] }
          else { s.host with signals := l.vec :: s.host.signals }))

/-! ### Pre-emption, containment and the loss of functions -/

/-- R50, R60, R178 to R181, R243, R361, R362, R367, R410 to R413: a crew whose requested yield is overdue is saved by force, unless one of its
strands has issued its YIELD. A leaving crew that has drained, and whose record can be written, is saved with its registers, its latches
invalid but for those captured for an issue in progress, the record's header last. A slot that is VALID already keeps the crew where it is; a save that cannot be made is abandoned and
retried. A placed crew with a good record runs again, nothing of it dirty; a bad record, such as one whose header
is not VALID or of another launch or crew, fails the launch and contains its cores. Both wait while a page of the slot is on the move. A scrub
zeroes the core and returns it to service, or retires it. What a save waits for and what a VALID slot does (43), and what a restore sets (44) are
the model's. -/
def Obligations.CrewsAreSavedAndRestored : Prop :=
  ∀ (s : State) (cu : Nat),
    let c := s.pkg.crew cu
    let l := s.pkg.launch c.launch
    s.host.islands.get .running (c.cluster / 12) ≠ .stopped →
    (c.st = .resident → c.req = true → c.deadline ≤ s.pkg.time → l.failed = false →
      let yields : Prop := ∃ e ∈ s.pkg.strands, e.2.crew = cu ∧ e.2.pend = some (.yield true false)
      (¬ yields → exec (.deadlineExpiry cu) s = .next (s.withPkg (s.pkg.setCrew cu { c with st := .saving true, sealed := [] })))
      ∧ (yields → exec (.deadlineExpiry cu) s = .next s))
    ∧ (∀ forced, c.st = .saving forced → l.failed = false → s.pkg.drained cu = true → s.pkg.crewUpset cu = none → s.pkg.slotBusy s.er cu (l.recSize / 65536) 1 = false →
      let va := s.pkg.slotOf cu
      let body (p : Pkg) (ok : Bool) : Prop := saveBody s.er s.host.pcieUp cu va l.recSize (s.pkg.wakeDirty cu) = (p, ok)
      let head := Spec.bytes 8 (2 ^ 63 + (if forced then 1 else 0)) ++ Spec.bytes 4 c.index ++ Spec.bytes 4 l.lid ++ Spec.bytes 8 s.pkg.time
        ++ Spec.bytes 40 0
      (s.pkg.slotValid s.er cu = true → exec (.crewSave cu) s = .next (s.withPkg (s.pkg.setCrew cu
          { c with st := .resident, req := false, waiter := none, fails := 0, sealed := [] })))
      ∧ (s.pkg.slotValid s.er cu = false →
        (∀ p1 p2, body p1 true → l.savesz ≠ 0 → l.nslot ≠ 0 → savePage s.er s.host.pcieUp cu p1 va 64 (fun n => head[n]?) = some p2 →
          ∃ t c', exec (.crewSave cu) s = .next (s.withPkg t) ∧ t.crews.find? cu = some c' ∧ c'.st = .saved forced ∧ c'.req = false
            ∧ c'.launch = c.launch ∧ c'.index = c.index ∧ c'.barriers = c.barriers ∧ c'.tags = c.tags
            ∧ ∀ u st, s.pkg.strands.find? u = some st → st.crew = cu → ∃ st', t.strands.find? u = some st' ∧ st'.x = st.x ∧ st'.v = st.v
                ∧ st'.p = st.p ∧ st'.m = st.m ∧ st'.e = st.e ∧ st'.latch = []
                ∧ st'.q = st.q.mapVals (fun l => l.map (fun x => { x with bad := false }))
                ∧ (st.pend = none → st'.pc = st.pc ∧ st'.bun.latch = if st.atBoundary = true then [] else st.bun.latch) ∧ st'.sup = st.sup ∧ st'.inh = st.inh ∧ st'.tvec = st.tvec)
        ∧ (∀ p1, body p1 false → c.fails + 1 < 4 → ∃ t c', exec (.crewSave cu) s = .next (s.withPkg t) ∧ t.crews.find? cu = some c'
            ∧ c'.st = .retry forced ∧ c'.fails = c.fails + 1 ∧ c'.sealed = [])))
    ∧ (∀ forced, c.st = .retry forced →
      (c.sealed ≠ [] ∨ c.resumed + 65536 ≤ s.pkg.cycs.get 0 (c.cluster / 12) →
        exec (.saveRetry cu) s = .next (s.withPkg (s.pkg.setCrew cu { c with st := .saving (forced || decide (c.deadline ≤ s.pkg.time)), sealed := [] })))
      ∧ (c.sealed = [] → s.pkg.cycs.get 0 (c.cluster / 12) < c.resumed + 65536 → exec (.saveRetry cu) s = .next s))
    ∧ (∀ p, c.st = .restoring → s.pkg.slotBusy s.er cu (l.recSize / 65536) 0 = false → s.pkg.readRecord s.er cu = .ok p → c.image.answers = [] → ∃ t c', exec (.crewRestore cu) s = .next (s.withPkg t)
        ∧ t.crews.find? cu = some c' ∧ c'.st = .resident ∧ c'.image = {} ∧ (∀ h ∈ t.holdsOut, h.1 ≠ cu)
        ∧ ∀ u st, s.pkg.strands.find? u = some st → ∃ st', t.strands.find? u = some st' ∧ st'.x = st.x ∧ st'.v = st.v ∧ st'.pc = st.pc
            ∧ (st.crew = cu → st'.acqAt = s.pkg.tick ∧ ∀ n < 18, st'.dirty.getLsbD n = false))
    ∧ (c.st = .restoring → s.pkg.slotBusy s.er cu (l.recSize / 65536) 0 = true → exec (.crewRestore cu) s = .next s)
    ∧ (∀ h p, s.pkg.engRead s.er (saveAgent c.cluster) cu true (s.pkg.slotOf cu) 64 = .ok (h, p) →
        let f (lo m : Nat) : Nat := ofBytes ((h.drop lo).take m)
        f 0 8 < 2 ^ 63 ∨ f 12 4 ≠ l.lid ∨ f 8 4 ≠ c.index → s.pkg.readRecord s.er cu = .error 0x02)
    ∧ (∀ cause, c.st = .restoring → s.pkg.slotBusy s.er cu (l.recSize / 65536) 0 = false → s.pkg.readRecord s.er cu = .error cause → l.failed = false → ∃ t, exec (.crewRestore cu) s = .next (s.withPkg t)
        ∧ (t.launch c.launch).failed = true ∧ (t.launch c.launch).placing = false ∧ ∀ n ∈ c.cores, (t.core n).service = .contained)
    ∧ (∀ n, (s.pkg.core n).service = .contained → ∃ t, exec (.coreScrub n) s = .next (s.withPkg t)
        ∧ (∃ v, (v = .inService ∨ v = .retired) ∧ t.core n = { res := (s.pkg.core n).res, service := v })
        ∧ (∀ off < 2 ^ 18, t.byte (2 ^ 48 + n * 2 ^ 18 + off) = 0) ∧ (∀ m, m ≠ n → t.core m = s.pkg.core m)
        ∧ ∀ a, ¬(2 ^ 48 + n * 2 ^ 18 ≤ a ∧ a < 2 ^ 48 + (n + 1) * 2 ^ 18) → t.byte a = s.pkg.byte a)

namespace Sys2Proof.Spec

/-- A port has lost its link, from state s to t: its PORT bit is 0, it retrains no more, and every collective that uses it is abandoned: it is gone,
its peers are told, and its strand, if it is still there, has the trap of cause 0x31 pending, with the port and the communicator (R403). -/
def PortLost (s t : State) (port : Nat) : Prop :=
  t.host.ready = s.host.ready &&& ~~~(BitVec.ofNat 20 (2 ^ (14 + port))) ∧ (∀ x ∈ t.host.retraining, x.1 ≠ port) ∧ t.pkg.mem = s.pkg.mem
  ∧ ((∀ c ∈ s.pkg.colls, 14 + port ∉ (s.box c.comm).ports) → t.pkg = s.pkg)
  ∧ (∀ c ∈ s.pkg.colls, 14 + port ∈ (s.box c.comm).ports →
      (∀ d ∈ t.pkg.colls, d.num ≠ c.num) ∧ .abandon c.comm c.m ∈ t.pkg.outbox
      ∧ ∀ st, s.pkg.strands.find? c.strand = some st → st.run ≠ .ended → st.lost = false →
          ∃ st', t.pkg.strands.find? c.strand = some st' ∧ { cause := 0x31, tval := BitVec.ofNat 64 (port + 2 ^ 16 * c.comm) } ∈ st'.async)
  ∧ (∀ c ∈ s.pkg.colls, 14 + port ∉ (s.box c.comm).ports →
      (∀ d ∈ s.pkg.colls, 14 + port ∈ (s.box d.comm).ports → d.num ≠ c.num) → c ∈ t.pkg.colls)

end Sys2Proof.Spec

/-- R182 to R184, R361, R368, R403, R419, R421: a function that becomes ready sets its bit; a die's cores that fail their self-test are retired. Losing the dispatcher
or the tiering unit clears the bit alone; losing memory fails every launch; losing a die contains its cores; losing a port abandons the
collectives that use it, whose strands take 0x31. A reset leaves every register at its reset value; the model keeps the bytes of memory and scratchpads
and their uncorrectable words (its reading: no rule clears them). -/
def Obligations.FunctionsComeAndGo : Prop :=
  ∀ (s : State),
    let up (n : Nat) : HostRegs := { s.host with ready := s.host.ready ||| BitVec.ofNat 20 (2 ^ n) }
    let down (n : Nat) : HostRegs := { s.host with ready := s.host.ready &&& ~~~(BitVec.ofNat 20 (2 ^ n)) }
    (∀ n, 10 ≤ n → n ≤ 13 → s.host.ready.getLsbD n = false → exec (.functionReady n) s = .next (s.withHost (up n)))
    ∧ (∀ port < 6, s.host.ready.getLsbD (14 + port) = false → exec (.functionReady (14 + port)) s = .next (s.withHost
        { up (14 + port) with retraining := s.host.retraining.filter (fun x => x.1 != port) }))
    ∧ (∀ d < 8, s.host.ready.getLsbD (2 + d) = false → ∃ t, exec (.functionReady (2 + d)) s = .next t ∧ t.host = up (2 + d)
        ∧ (∀ c, (t.pkg.core c).service = .retired ↔ (s.pkg.core c).service = .retired ∨ (c / 576 = d ∧ Config.scrubFails s.pkg.tick c = true))
        ∧ ∀ c, c / 576 ≠ d → t.pkg.core c = s.pkg.core c)
    ∧ (∀ n, n = 10 ∨ n = 13 → s.host.ready.getLsbD n = true → exec (.functionLoss n) s = .next (s.withHost (down n)))
    ∧ (s.host.ready.getLsbD 11 = true → ∃ t, exec (.functionLoss 11) s = .next t ∧ t.host = down 11
        ∧ ∀ ln l, s.pkg.launches.find? ln = some l → l.recorded = false → (t.pkg.launch ln).failed = true)
    ∧ (∀ d < 8, s.host.ready.getLsbD (2 + d) = true → ∃ t, exec (.functionLoss (2 + d)) s = .next t ∧ t.host = down (2 + d)
        ∧ ∀ c, c / 576 = d → (t.pkg.core c).service ≠ .inService)
    ∧ (∀ port < 6, s.host.ready.getLsbD (14 + port) = true → ∃ t, exec (.functionLoss (14 + port)) s = .next t ∧ Spec.PortLost s t port)
    ∧ (∃ t, exec .packageReset s = .next t ∧ exec .criticalTemperatureReset s = .next t ∧ t.host = State.reset.host ∧ t.focus = State.reset.focus
        ∧ t.pkg = { State.reset.pkg with mem := t.pkg.mem, poison := t.pkg.poison, tick := s.pkg.tick }
        ∧ (∀ k, k < 2 ^ 48 + 4608 * 2 ^ 18 → t.pkg.byte k = s.pkg.byte k) ∧ (∀ k, 2 ^ 48 + 4608 * 2 ^ 18 ≤ k → t.pkg.byte k = 0))

/-- R18, R21, R48, R93, R94, R99 to R102, R184, R389, R419, R420, R422: islands throttle, stop and resume; a flit error changes nothing; a
port retrains, and one that has for more than 20 µs has lost its link; the PCIe link goes down and up. One of the first 96 walks of a die,
in order of request, enters its leaf in the core's cache, for the frame asked for, and wakes its strand, or delivers 0x10 or 0x11. A window
bank enters retention. With the tiering unit ready an epoch halves every granule's count and moves none that a leaf of a page table in use pins; a completed move
brings the granule's bytes to its new frame. That any of those walks may end first (Config.pick) is the model's. -/
def Obligations.IslandsLinksAndMemoryEvents : Prop :=
  ∀ (s : State),
    let island (i : Nat) (x : Island) (t : State) : Prop := t.host.islands.get .running i = x
      ∧ (∀ j, j ≠ i → t.host.islands.get .running j = s.host.islands.get .running j) ∧ t.host = { s.host with islands := t.host.islands }
    let running (i : Nat) : Prop := s.host.islands.get .running i ≠ .stopped;
    (∀ i < 18, running i → ∃ t, exec (.islandThrottle i) s = .next t ∧ island i .throttled t ∧ t.pkg = s.pkg)
    ∧ (∀ i < 16, running i → ∃ t, exec (.islandStop i) s = .next t ∧ island i .stopped t
        ∧ t.pkg = { s.pkg with outbox := t.pkg.outbox, holdsOut := t.pkg.holdsOut })
    ∧ (∀ i < 16, ¬ running i → ∃ t, exec (.islandResume i) s = .next t ∧ island i .running t ∧ t.pkg.strands = s.pkg.strands
        ∧ t.pkg.mem = s.pkg.mem ∧ ∀ cu c, s.pkg.crews.find? cu = some c → c.st = .resident → c.cluster / 12 = i → c.cluster < 192 →
          (∀ h ∈ t.pkg.holdsOut, h.1 ≠ cu) ∧ (c.req = true → c.deadline ≤ s.pkg.time → (s.pkg.launch c.launch).failed = false →
            (∀ e ∈ s.pkg.strands, e.2.crew = cu → e.2.pend ≠ some (.yield true false)) →
            (t.pkg.crew cu).st = .saving true))
    ∧ (∀ n, exec (.linkFlitError n) s = .next s)
    ∧ (∀ p < 6, s.host.ready.getLsbD (14 + p) = true → (∀ x ∈ s.host.retraining, x.1 ≠ p) →
        exec (.portRetraining p) s = .next (s.withHost { s.host with retraining := s.host.retraining ++ [(p, s.pkg.time)] }))
    ∧ (∀ p < 6, ∀ t0, s.host.retraining.find? (fun x => x.1 == p) = some (p, t0) →
        let trained (h : HostRegs) : HostRegs := { h with
          ready := h.ready ||| BitVec.ofNat 20 (2 ^ (14 + p)), retraining := h.retraining.filter (fun x => x.1 != p) }
        (s.pkg.time ≤ t0 + 20000 → exec (.portRetrainTimeout p) s = .next s ∧ exec (.portTrained p) s = .next (s.withHost (trained s.host)))
        ∧ (t0 + 20000 < s.pkg.time → ∃ t, exec (.portRetrainTimeout p) s = .next t ∧ Spec.PortLost s t p
            ∧ exec (.portTrained p) s = .next (t.withHost (trained t.host))))
    ∧ (∃ t, exec .pcieLinkLoss s = .next t ∧ t.host = { s.host with pcieUp := false } ∧ t.pkg.mem = s.pkg.mem
        ∧ ((∀ e ∈ s.pkg.accs, ∀ q ∈ e.2.parts, q.addr < 0x800000000000 ∨ 2 ^ 48 ≤ q.addr) → t.pkg = s.pkg))
    ∧ exec .pcieLinkUp s = .next (s.withHost { s.host with pcieUp := true })
    ∧ (∀ die : Nat, (∃ w ∈ s.pkg.walks, w.core / 576 = die) → ∃ w, s.pkg.walkTurn die = some w
        ∧ w ∈ (s.pkg.walks.filter (fun w => w.core / 576 == die)).take 96)
    ∧ (∀ (die : Nat) (w : Walk) (st : Strand), s.pkg.walkTurn die = some w →
        s.pkg.strands.find? w.strand = some st → st.run = .blocked (.walk w.va w.acc) →
        let ln := (s.pkg.crew st.crew).launch
        let root := (s.pkg.launch ln).root
        let rest : Pkg := { s.pkg with walks := s.pkg.walks.erase w }
        let wakes (p : Pkg) (g : Option Grant) : Pkg := p.modStrand w.strand (fun x => { x with run := .ready, grant := g })
        (s.pkg.walkLeaf s.er root w.va = .missing → exec (.pageWalk die) s = .next (s.withPkg (wakes rest (some (.trap 0x10 (BitVec.ofNat 64 w.va))))))
        ∧ (∀ l, s.pkg.walkLeaf s.er root w.va = .leaf l → permOk st.sup l.e w.acc = false →
            exec (.pageWalk die) s = .next (s.withPkg (wakes rest (some (.trap 0x11 (BitVec.ofNat 64 w.va))))))
        ∧ (∀ l, s.pkg.walkLeaf s.er root w.va = .leaf l → permOk st.sup l.e w.acc = true → l.e < 2 ^ 48 →
            let e := l.e ||| (if w.acc = 1 ∨ w.acc = 2 then 0x600 else 0x200)
            ∃ t : Pkg, exec (.pageWalk die) s = .next (s.withPkg (wakes t none))
              ∧ t.tlb.head? = some { core := w.core, launch := ln, va := l.va, size := l.size, pa := l.pa, flags := e % 4096, frame := w.va / 65536 }
              ∧ t.num (s.pkg.physKey l.pte) 8 = e ∧ t.strands = s.pkg.strands ∧ t.walks = rest.walks
              ∧ ∀ j, ¬(s.pkg.physKey l.pte ≤ j ∧ j < s.pkg.physKey l.pte + 8) → t.byte j = s.pkg.byte j))
    ∧ (∀ c b, (∃ e ∈ (s.pkg.core c).res, ∃ st, s.pkg.strands.find? e.2 = some st ∧ st.retn = true ∧ b ∈ st.banks) → b ∉ (s.pkg.core c).retained →
        exec (.bankRetentionEntry c b) s = .next (s.withPkg (s.pkg.setCore c { s.pkg.core c with retained := b :: (s.pkg.core c).retained })))
    ∧ (s.host.ready.getLsbD 13 = false → exec .tieringEpoch s = .next s ∧ ∀ f, exec (.granuleMoveComplete f) s = .next s)
    ∧ (s.host.ready.getLsbD 13 = true → s.pkg.granules.sorted → ∃ m, exec .tieringEpoch s = .next (s.withPkg { s.pkg with granules := m })
        ∧ ∀ f, (m.find? f).isSome = (s.pkg.granules.find? f).isSome ∧ ∀ g g', s.pkg.granules.find? f = some g → m.find? f = some g' →
          g'.count = g.count >>> 1 ∧ g'.byDie = [] ∧ g'.place = g.place
          ∧ (s.pinned f = true ∨ g.moving.isSome → g'.moving = g.moving) ∧ (g.place = none → g.count.toNat < 256 → g'.moving = g.moving))
    ∧ (∀ f g dst, s.host.ready.getLsbD 13 = true → s.canonical → s.pkg.granules.find? f = some g → g.moving = some dst →
        let src := g.place.getD f
        let dest := dst.getD f
        (∀ e ∈ s.pkg.crews, e.2.unclear = false) → (∀ e ∈ s.pkg.granules, e.1 ≠ f → e.2.place ≠ some dest) → (∀ q ∈ s.pkg.poison, q < 2 ^ 60 → q / 65536 ≠ src) →
        ∃ t, exec (.granuleMoveComplete f) s = .next (s.withPkg t) ∧ t.granules.find? f = some { g with place := dst, moving := none }
          ∧ (∀ j < 65536, t.byte (dest * 65536 + j) = s.pkg.byte (src * 65536 + j))
          ∧ (∀ k, k / 65536 ≠ src → k / 65536 ≠ dest → t.byte k = s.pkg.byte k) ∧ t.strands = s.pkg.strands)

/-! ### Reset, safety and the canonical form of memory -/

/-- R10, R182: after reset nothing runs and nothing is in flight: no strand, crew, launch, access or command; no function is ready, every queue is disabled with
QHEAD and QTAIL 0, CFGERR is 0, YGRACE 100,000, no communicator valid, the rotating pointers and counters 0. Memory lists nothing and is in
canonical form. The values of registers for which the spec gives none are the model's (log entry 3). -/
def Obligations.ResetLeavesNothingRunning : Prop :=
  let p := State.reset.pkg
  let h := State.reset.host
  p.strands = [] ∧ p.crews = [] ∧ p.launches = [] ∧ p.accs = [] ∧ p.walks = [] ∧ p.tlb = [] ∧ p.ranges = [] ∧ p.pools = [] ∧ p.colls = []
  ∧ (∀ c, p.core c = {}) ∧ (∀ c, p.cluster c = {}) ∧ (∀ c f, Spec.flag p c f = 0) ∧ p.poison = []
  ∧ p.early = [] ∧ p.wanted = [] ∧ p.codeLog = [] ∧ p.granules = [] ∧ h.retraining = [] ∧ h.signals = [] ∧ h.msixPending = []
  ∧ h.ready = 0 ∧ h.cfgerr = 0 ∧ h.pcieUp = false ∧ h.ygrace = 100000#32 ∧ (∀ n, (h.comm.get 0 n).getLsbD 31 = false)
  ∧ (∀ q, h.queue q = {}) ∧ h.queuePtr = 0 ∧ h.clusterPtr = 0 ∧ p.collPtr = 0 ∧ (∀ i, h.islands.get .running i = .running)
  ∧ State.reset.canonical ∧ (∀ k, p.byte k = 0)

/-- Every step answers a next state: whatever the state, whatever the agenda, the machine neither stops nor lacks a meaning. -/
def Obligations.EveryStepAnswersANextState : Prop := ∀ s : State, Safe s

/-- Memory stays in canonical form: keys strictly rising, no entry equal to what an unlisted address reads as. -/
def Obligations.MemoryStaysCanonical : Prop := ∀ s t : State, s.canonical → step s = .next t → t.canonical
end

