-- ==== Sys2Proof/Laws/RMap.lean ====
section
/-! SUPPORT. The laws of the sparse tables: reading after writing, and that every operation keeps the canonical form. -/

namespace Sys2Proof.Machine

theorem RMap.find?_ins_same {α : Type} (m : RMap α) (k : Nat) (v : α) (h : ∀ e ∈ m, e.1 ≠ k) :
    (m.ins k v).find? k = some v := by
  induction m with
  | nil => simp [ins, find?]
  | cons e m ih =>
    obtain ⟨k', v'⟩ := e
    have hk : k' ≠ k := h (k', v') (by simp)
    have hk' : ¬ k = k' := fun e => hk e.symm
    unfold ins
    by_cases hlt : k < k'
    · rw [if_pos hlt]; simp [find?]
    · rw [if_neg hlt]; unfold find?; rw [if_neg hk']
      exact ih (fun e he => h e (by simp [he]))

theorem RMap.find?_ins_ne {α : Type} (m : RMap α) (k j : Nat) (v : α) (h : j ≠ k) :
    (m.ins k v).find? j = m.find? j := by
  induction m with
  | nil => simp [ins, find?, h]
  | cons e m ih =>
    obtain ⟨k', v'⟩ := e
    unfold ins
    by_cases hlt : k < k'
    · rw [if_pos hlt, find?, if_neg h]
    · rw [if_neg hlt, find?, find?, ih]

theorem RMap.find?_del_same {α : Type} (m : RMap α) (k : Nat) : (m.del k).find? k = none := by
  induction m with
  | nil => rfl
  | cons e m ih =>
    obtain ⟨k', v'⟩ := e
    by_cases hk : k' = k
    · simpa [del, hk] using ih
    · have : ¬ k = k' := fun e => hk e.symm
      simp only [del, List.filter_cons, bne_iff_ne, ne_eq, hk, not_false_eq_true, if_true] at ih ⊢
      rw [find?, if_neg this]; exact ih

theorem RMap.find?_del_ne {α : Type} (m : RMap α) (k j : Nat) (h : j ≠ k) :
    (m.del k).find? j = m.find? j := by
  induction m with
  | nil => rfl
  | cons e m ih =>
    obtain ⟨k', v'⟩ := e
    by_cases hk : k' = k
    · have : ¬ j = k' := hk ▸ h
      simpa [del, find?, hk, this, h] using ih
    · simp only [del, List.filter_cons, bne_iff_ne, ne_eq, hk, not_false_eq_true, if_true] at ih ⊢
      rw [find?, find?, ih]

/-- A table cut down to the keys that f admits. -/
theorem RMap.get_filter {α : Type} (m : RMap α) (d : α) (f : Nat → Bool) (k : Nat) :
    RMap.get (m.filter (fun e => f e.1)) d k = if f k then m.get d k else d := by
  induction m with
  | nil => simp [get, find?]
  | cons e m ih =>
    obtain ⟨k', v'⟩ := e
    by_cases hf : f k' = true <;> by_cases hk : k = k' <;> simp_all [get, find?, List.filter_cons]

theorem RMap.del_no_key {α : Type} (m : RMap α) (k : Nat) : ∀ e ∈ m.del k, e.1 ≠ k := by
  intro e he; simpa using (List.mem_filter.mp he).2

@[simp] theorem RMap.find?_put_same {α : Type} (m : RMap α) (k : Nat) (v : α) :
    (m.put k v).find? k = some v :=
  RMap.find?_ins_same _ k v (RMap.del_no_key m k)

theorem RMap.find?_put_ne {α : Type} (m : RMap α) (k j : Nat) (v : α) (h : j ≠ k) :
    (m.put k v).find? j = m.find? j := by
  rw [put, find?_ins_ne _ _ _ _ h, find?_del_ne _ _ _ h]

/-- A read of the place written gives the value written. -/
@[simp] theorem RMap.get_set_same {α : Type} [DecidableEq α] (m : RMap α) (d : α) (k : Nat) (v : α) :
    (m.set d k v).get d k = v := by
  unfold set get
  by_cases h : v = d
  · rw [if_pos h, find?_del_same, h]; rfl
  · rw [if_neg h, find?_put_same]; rfl

/-- A write leaves every other place alone. -/
theorem RMap.get_set_ne {α : Type} [DecidableEq α] (m : RMap α) (d : α) (k j : Nat) (v : α) (h : j ≠ k) :
    (m.set d k v).get d j = m.get d j := by
  unfold set get
  by_cases hv : v = d
  · rw [if_pos hv, find?_del_ne _ _ _ h]
  · rw [if_neg hv, find?_put_ne _ _ _ _ h]

theorem RMap.mem_ins {α : Type} (m : RMap α) (k : Nat) (v : α) (e : Nat × α) :
    e ∈ m.ins k v → e = (k, v) ∨ e ∈ m := by
  induction m with
  | nil => simp [ins]
  | cons x m ih =>
    obtain ⟨k', v'⟩ := x
    unfold ins
    by_cases hlt : k < k'
    · rw [if_pos hlt]; simp only [List.mem_cons]; tauto
    · rw [if_neg hlt]; simp only [List.mem_cons]
      intro h
      rcases h with h | h
      · exact .inr (.inl h)
      · rcases ih h with h | h
        · exact .inl h
        · exact .inr (.inr h)

theorem RMap.sorted_ins {α : Type} (m : RMap α) (k : Nat) (v : α) (hs : m.sorted) (hk : ∀ e ∈ m, e.1 ≠ k) :
    (m.ins k v).sorted := by
  induction m with
  | nil => simp [ins, sorted]
  | cons x m ih =>
    obtain ⟨k', v'⟩ := x
    have hne : k' ≠ k := hk (k', v') (by simp)
    have hs' := List.pairwise_cons.mp hs
    unfold ins
    by_cases hlt : k < k'
    · rw [if_pos hlt]
      refine List.pairwise_cons.mpr ⟨?_, hs⟩
      intro e he
      rcases List.mem_cons.mp he with h | h
      · rw [h]; exact hlt
      · exact Nat.lt_trans hlt (hs'.1 e h)
    · rw [if_neg hlt]
      refine List.pairwise_cons.mpr ⟨?_, ih hs'.2 (fun e he => hk e (by simp [he]))⟩
      intro e he
      rcases RMap.mem_ins _ _ _ _ he with h | h
      · rw [h]; show k' < k; omega
      · exact hs'.1 e h

theorem RMap.sorted_del {α : Type} (m : RMap α) (k : Nat) (hs : m.sorted) : (m.del k).sorted :=
  List.Pairwise.filter _ hs

theorem RMap.sorted_put {α : Type} (m : RMap α) (k : Nat) (v : α) (hs : m.sorted) : (m.put k v).sorted :=
  RMap.sorted_ins _ _ _ (RMap.sorted_del m k hs) (RMap.del_no_key m k)

/-- Every write keeps the canonical form. -/
theorem RMap.wf_set {α : Type} [DecidableEq α] (m : RMap α) (d : α) (k : Nat) (v : α) (h : m.wf d) :
    (m.set d k v).wf d := by
  unfold set
  by_cases hv : v = d
  · rw [if_pos hv]
    exact ⟨RMap.sorted_del m k h.1, fun e he => h.2 e (List.mem_filter.mp he).1⟩
  · rw [if_neg hv]
    refine ⟨RMap.sorted_put m k v h.1, fun e he => ?_⟩
    rcases RMap.mem_ins _ _ _ _ he with h' | h'
    · rw [h']; exact hv
    · exact h.2 e (List.mem_filter.mp h').1

theorem RMap.wf_nil {α : Type} [DecidableEq α] (d : α) : RMap.wf ([] : RMap α) d := by
  simp [wf, sorted]

theorem RMap.sorted_modify {α : Type} (m : RMap α) (k : Nat) (f : α → α) (hs : m.sorted) : (m.modify k f).sorted := by
  unfold sorted modify
  rw [List.pairwise_map]
  refine List.Pairwise.imp ?_ hs
  intro a b hab
  by_cases h1 : a.1 = k <;> by_cases h2 : b.1 = k <;> simp [h1, h2] <;> omega

theorem RMap.find?_modify_same {α : Type} (m : RMap α) (k : Nat) (f : α → α) :
    (m.modify k f).find? k = (m.find? k).map f := by
  induction m with
  | nil => rfl
  | cons e m ih =>
    obtain ⟨k', v'⟩ := e
    by_cases hk : k' = k
    · simp [modify, find?, hk]
    · have : ¬ k = k' := fun e => hk e.symm
      simp only [modify, List.map_cons, hk, if_false, find?, this] at ih ⊢
      exact ih

theorem RMap.find?_modify_ne {α : Type} (m : RMap α) (k j : Nat) (f : α → α) (h : j ≠ k) :
    (m.modify k f).find? j = m.find? j := by
  induction m with
  | nil => rfl
  | cons e m ih =>
    obtain ⟨k', v'⟩ := e
    by_cases hk : k' = k
    · subst hk; simpa [modify, find?, h] using ih
    · simp only [modify, List.map_cons, hk, if_false, find?] at ih ⊢
      rw [ih]

end Sys2Proof.Machine
end

