-- ==== Sys2Proof/Laws/Memory.lean ====
section
/-! SUPPORT. Memory: every operation on its bytes keeps the canonical form, and a write changes the bytes it writes and no other. -/

namespace Sys2Proof.Machine

/-! ### The canonical form is kept -/

theorem memWrite_wf (m : RMap Byte) (k : Nat) (bs : List Byte) (h : Memory.wf m) : Memory.wf (memWrite m k bs) := by
  induction bs generalizing m k with
  | nil => exact h
  | cons b bs ih => exact ih _ _ (RMap.wf_set m 0 k b h)

theorem Pkg.write_wf (p : Pkg) (k : Nat) (bs : List Byte) (h : Memory.wf p.mem) : Memory.wf (p.write k bs).mem :=
  memWrite_wf p.mem k bs h

theorem memFilter_wf (m : RMap Byte) (f : Nat × Byte → Bool) (h : Memory.wf m) : Memory.wf (m.filter f) :=
  ⟨h.1.filter _, fun e he => h.2 e (List.mem_of_mem_filter he)⟩

theorem memPut_wf (m : RMap Byte) (k : Nat) (b : Byte) (h : Memory.wf m) (hb : b ≠ 0) : Memory.wf (m.put k b) := by
  have := RMap.wf_set m 0 k b h
  rw [RMap.set, if_neg hb] at this
  exact this

theorem moveFrame_wf (m : RMap Byte) (src dst : Nat) (h : Memory.wf m) : Memory.wf (moveFrame m src dst) := by
  have key : ∀ (l : List (Nat × Byte)) (m : RMap Byte), (∀ e ∈ l, e.2 ≠ 0) → Memory.wf m →
      Memory.wf (l.foldl (fun m e => RMap.put m (dst * 65536 + e.1 % 65536) e.2) m) := by
    intro l
    induction l with
    | nil => exact fun m _ hm => hm
    | cons e l ih =>
      exact fun m hl hm => ih _ (fun x hx => hl x (by simp [hx])) (memPut_wf m _ _ hm (hl e (by simp)))
  exact key _ _ (fun e he => h.2 e (List.mem_of_mem_filter he)) (memFilter_wf m _ h)

theorem Pkg.moveWindow_wf (p : Pkg) (n : Nat) (gone : Bool) (m : Nat × Nat) (h : Memory.wf p.mem) :
    Memory.wf (p.moveWindow n gone m).mem := by
  have hw : Memory.wf (memWrite p.mem m.2 (p.bytes m.1 n)) := memWrite_wf _ _ _ h
  cases gone
  · exact hw
  · exact memFilter_wf _ _ hw

theorem Pkg.zeroSpad_wf (p : Pkg) (c : Nat) (h : Memory.wf p.mem) : Memory.wf (p.zeroSpad c).mem :=
  memFilter_wf p.mem _ h

theorem State.packageReset_wf (s : State) (h : s.canonical) : s.packageReset.canonical :=
  memFilter_wf s.pkg.mem _ h

/-- Reset memory lists nothing. -/
theorem reset_canonical : State.reset.canonical := RMap.wf_nil 0

/-! ### Read after write -/

theorem memWrite_get_below (m : RMap Byte) (k : Nat) (bs : List Byte) (j : Nat) (h : j < k) :
    (memWrite m k bs).get 0 j = m.get 0 j := by
  induction bs generalizing m k with
  | nil => rfl
  | cons b bs ih =>
    rw [memWrite, ih _ _ (by omega), RMap.get_set_ne _ _ _ _ _ (by omega)]

/-- A write changes no byte outside those it writes. -/
theorem memWrite_get_out (m : RMap Byte) (k : Nat) (bs : List Byte) (j : Nat) (h : ¬(k ≤ j ∧ j < k + bs.length)) :
    (memWrite m k bs).get 0 j = m.get 0 j := by
  induction bs generalizing m k with
  | nil => rfl
  | cons b bs ih =>
    simp only [List.length_cons] at h
    rw [memWrite, ih _ _ (by omega), RMap.get_set_ne _ _ _ _ _ (by omega)]

/-- A byte that was written reads as written. -/
theorem memWrite_get_in (m : RMap Byte) (k : Nat) (bs : List Byte) (i : Nat) (h : i < bs.length) :
    (memWrite m k bs).get 0 (k + i) = bs.getD i 0 := by
  induction bs generalizing m k i with
  | nil => simp at h
  | cons b bs ih =>
    rw [memWrite]
    cases i with
    | zero =>
      rw [memWrite_get_below _ _ _ _ (by omega)]
      simp
    | succ i =>
      have := ih (RMap.set m 0 k b) (k + 1) i (by simpa using h)
      rw [show k + (i + 1) = k + 1 + i by omega, this]
      simp

theorem Pkg.byte_write_in (p : Pkg) (k : Nat) (bs : List Byte) (i : Nat) (h : i < bs.length) :
    (p.write k bs).byte (k + i) = bs.getD i 0 := memWrite_get_in p.mem k bs i h

theorem Pkg.byte_write_out (p : Pkg) (k : Nat) (bs : List Byte) (j : Nat) (h : ¬(k ≤ j ∧ j < k + bs.length)) :
    (p.write k bs).byte j = p.byte j := memWrite_get_out p.mem k bs j h

end Sys2Proof.Machine
end

