-- ==== Sys2Proof/Laws/Ops.lean ====
section
/-! SUPPORT. What the shared frames of the slots can do: a ready slot commits, and every slot with its strand in focus answers a
next state. -/

namespace Sys2Proof.Machine

/-- The register checks of a ready slot find nothing. -/
theorem regStop_ready {i : Instr} {s : State} {st : Strand} (h : SlotReady i s st) :
    regStop s.focus s.pkg.poison i [] none st = none := by
  obtain ⟨-, -, -, hf, hw, hl, hq, hp, h5, -⟩ := h
  have h1 : badFields st.bun.lits i = [] := hf.2
  have h2 : ((foot i).vw.toList ++ (foot i).vr).filter
      (fun c => isV c && decide (st.banks.length ≤ c.toNat / 64)) = [] := by
    rw [List.filter_eq_nil_iff]
    intro c hc hb
    simp only [Bool.and_eq_true, decide_eq_true_eq] at hb
    exact absurd (hw c hc hb.1) (by omega)
  have h3 : (latchesRead (foot i) (sLatches i)).filter
      (fun n => (st.bun.latch.find? n).isNone && !(n == 3 && st.bun.l3acc.isSome)) = [] := by
    rw [List.filter_eq_nil_iff]
    intro n hn hb
    have := hl n hn
    cases hx : st.bun.latch.find? n <;> simp_all
  have h4 : (st.slotCapt st.bun.slot).filter (fun c => c.ent.isNone) = [] := by
    rw [List.filter_eq_nil_iff]
    intro c hc hb
    have := hq c hc
    cases hx : c.ent <;> simp_all
  simp only [regStop, h1, h2, h3, h4, h5, hp, List.append_nil, ne_eq, not_true_eq_false, and_false, if_true, if_false, List.map_nil,
    Bool.false_eq_true]

/-- A ready slot whose own checks find nothing passes every check. -/
theorem slotStop_ready {i : Instr} {s : State} {st : Strand} (h : SlotReady i s st) :
    slotStop i [] none none s st = none := by
  have hr := regStop_ready h
  obtain ⟨-, hg, hu, -, -, -, -, -, -, hroom⟩ := h
  have h1 : unusedStop i st = none := by
    unfold unusedStop
    split
    · rename_i w hw
      rw [if_pos (hu w hw)]
    · rfl
  have h2 : pushStop i st = none := by
    unfold pushStop
    dsimp only
    split
    · rename_i d hd
      rw [if_neg]
      simp only [Bool.and_eq_true, Bool.not_eq_true', decide_eq_true_eq]
      rintro ⟨⟨a, b⟩, c⟩
      exact absurd (hroom d hd a b) (by omega)
    · rfl
  simp only [slotStop, hg, h1, hr, h2, Option.none_or]

/-- A ready slot whose effect stays in the strand commits with that effect. -/
theorem onSlot_ready {i : Instr} {eff : Strand → Strand} {s : State} {st : Strand} (h : SlotReady i s st) :
    onSlot i (fun _ => []) noPv eff s = .next (s.slotDone i (eff st)) := by
  have hs : slotStop i [] (noPv st) none s st = none := slotStop_ready h
  simp [onSlot, h.1, hs, State.slotDone]

/-- The same with a privilege check that finds nothing. -/
theorem onSlot_ready_pv {i : Instr} {pv : Strand → Option Stop} {eff : Strand → Strand} {s : State} {st : Strand}
    (h : SlotReady i s st) (hp : pv st = none) : onSlot i (fun _ => []) pv eff s = .next (s.slotDone i (eff st)) := by
  have hs : slotStop i [] none none s st = none := slotStop_ready h
  simp [onSlot, h.1, hp, hs, State.slotDone]

/-- A ready slot on the units whose field, privilege and own checks find nothing, and whose effect completes, commits. -/
theorem onUnit_ready {i : Instr} {fx : State → Strand → List Nat} {pv : Strand → Option Stop} {chk : State → Strand → Option Stop}
    {eff : State → Strand → Res} {s : State} {st st' : Strand} {p : Pkg} (h : SlotReady i s st) (hf : fx s st = [])
    (hp : pv st = none) (hc : chk s st = none) (he : eff s st = .done p st') :
    onUnit i fx pv chk eff s = .next (s.unitDone i st p st') := by
  have hs : slotStop i [] none none s st = none := slotStop_ready h
  simp [onUnit, h.1, hf, hp, hc, hs, he, State.unitDone]

/-- The same for an effect that leaves the strand waiting at a unit. -/
theorem onUnit_wait {i : Instr} {fx : State → Strand → List Nat} {pv : Strand → Option Stop} {chk : State → Strand → Option Stop}
    {eff : State → Strand → Res} {s : State} {st : Strand} {p : Pkg} {w : Why} (h : SlotReady i s st) (hf : fx s st = [])
    (hp : pv st = none) (hc : chk s st = none) (he : eff s st = .wait p w) :
    onUnit i fx pv chk eff s = .next { s with pkg := p.setStrand s.focus { st with run := .blocked w, grant := none } } := by
  have hs : slotStop i [] none none s st = none := slotStop_ready h
  simp [onUnit, h.1, hf, hp, hc, hs, he]

/-- A ready B slot whose guard holds commits with its effect. -/
theorem bOp_ready {i : Instr} {g : BitVec 3} {gn : BitVec 1} {pv chk : Strand → Option Stop} {eff : Strand → Strand} {s : State}
    {st : Strand} (h : SlotReady i s st) (hg : guard st g gn = true) (hp : pv st = none) (hc : chk st = none) :
    bOp i g gn pv chk eff s = .next (s.bDone (eff st)) := by
  have hs : slotStop i [] none none s st = none := slotStop_ready h
  simp [bOp, bStop, h.1, hg, hp, hc, hs, State.bDone]

/-- A guarded-off B slot with legal fields commits and does nothing. -/
theorem bOp_off {i : Instr} {g : BitVec 3} {gn : BitVec 1} {pv chk : Strand → Option Stop} {eff : Strand → Strand} {s : State}
    {st : Strand} (h : s.focused st) (hf : WellFormed st.bun.lits i) (hg : guard st g gn = false) :
    bOp i g gn pv chk eff s = .next (s.bDone st) := by
  have hb : badFields st.bun.lits i = [] := hf.2
  simp [bOp, bStop, h, hg, hb, State.bDone]

/-! ### Every slot answers a next state -/

theorem onSlot_next {i : Instr} {fx : Strand → List Nat} {pv : Strand → Option Stop} {eff : Strand → Strand} {s : State} {st : Strand}
    (h : s.focused st) : ∃ t, onSlot i fx pv eff s = .next t := by
  unfold onSlot
  rw [h]
  dsimp only
  split <;> exact ⟨_, rfl⟩

theorem onUnit_next {i : Instr} {fx : State → Strand → List Nat} {pv : Strand → Option Stop} {chk : State → Strand → Option Stop}
    {eff : State → Strand → Res} {s : State} {st : Strand} (h : s.focused st) : ∃ t, onUnit i fx pv chk eff s = .next t := by
  unfold onUnit
  rw [h]
  dsimp only
  split
  · exact ⟨_, rfl⟩
  · split <;> exact ⟨_, rfl⟩

theorem bOp_next {i : Instr} {g : BitVec 3} {gn : BitVec 1} {pv chk : Strand → Option Stop} {eff : Strand → Strand} {s : State}
    {st : Strand} (h : s.focused st) : ∃ t, bOp i g gn pv chk eff s = .next t := by
  unfold bOp
  rw [h]
  dsimp only
  split <;> exact ⟨_, rfl⟩

theorem trapOp_next {i : Instr} {o : BPred} {c : Nat} {s : State} {st : Strand} (h : s.focused st) :
    ∃ t, trapOp i o c s = .next t := by
  unfold trapOp
  rw [h]
  dsimp only
  split
  · exact ⟨_, rfl⟩
  · split <;> exact ⟨_, rfl⟩

end Sys2Proof.Machine
end

