-- ==== Sys2Proof/Laws/PerInstr.lean ====
section
/-! SUPPORT. The family Encoding, one lemma for each constructor: the word of an instruction fits its slot, and its opcode field holds
the instruction's opcode. An event of the machine has no word. -/

namespace Sys2Proof.Laws.Encoding

/-- The opcode that the view of an instruction names. -/
def viewOp : View → Nat
  | .sReg op _ | .sImm op _ | .bOff op _ | .bPred op _ | .v op _ | .m op _ | .p op _ | .e op _ => op
  | .event => 0

/-- The word fits the slot, and its opcode field is the opcode (R197 to R203). -/
def Statement (i : Instr) : Prop :=
  ∀ c, slotClass i = some c → encode i < 2 ^ c.size ∧ opcode c (encode i) = viewOp i.view

theorem ofSReg {i : Instr} {op : Nat} {o : SReg} (h : i.view = .sReg op o) (hop : op < 256) : Statement i := by
  intro c hc
  simp only [slotClass, h, Option.some.injEq] at hc
  subst hc
  simp only [encode, h, SlotClass.size, opcode, viewOp, SReg.bitsOf]
  omega

theorem ofSImm {i : Instr} {op : Nat} {o : SImm} (h : i.view = .sImm op o) (hop : op < 256) : Statement i := by
  intro c hc
  simp only [slotClass, h, Option.some.injEq] at hc
  subst hc
  simp only [encode, h, SlotClass.size, opcode, viewOp, SImm.bitsOf]
  omega

theorem ofBOff {i : Instr} {op : Nat} {o : BOff} (h : i.view = .bOff op o) (hop : op < 64) : Statement i := by
  intro c hc
  simp only [slotClass, h, Option.some.injEq] at hc
  subst hc
  simp only [encode, h, SlotClass.size, opcode, viewOp, BOff.bitsOf]
  omega

theorem ofBPred {i : Instr} {op : Nat} {o : BPred} (h : i.view = .bPred op o) (hop : op < 64) : Statement i := by
  intro c hc
  simp only [slotClass, h, Option.some.injEq] at hc
  subst hc
  simp only [encode, h, SlotClass.size, opcode, viewOp, BPred.bitsOf]
  omega

theorem ofV {i : Instr} {op : Nat} {o : VOps} (h : i.view = .v op o) (hop : op < 256) : Statement i := by
  intro c hc
  simp only [slotClass, h, Option.some.injEq] at hc
  subst hc
  simp only [encode, h, SlotClass.size, opcode, viewOp, VOps.bitsOf]
  omega

theorem ofM {i : Instr} {op : Nat} {o : MOps} (h : i.view = .m op o) (hop : op < 256) : Statement i := by
  intro c hc
  simp only [slotClass, h, Option.some.injEq] at hc
  subst hc
  simp only [encode, h, SlotClass.size, opcode, viewOp, MOps.bitsOf]
  omega

theorem ofP {i : Instr} {op : Nat} {o : POps} (h : i.view = .p op o) (hop : op < 32) : Statement i := by
  intro c hc
  simp only [slotClass, h, Option.some.injEq] at hc
  subst hc
  simp only [encode, h, SlotClass.size, opcode, viewOp, POps.bitsOf]
  omega

theorem ofE {i : Instr} {op pay : Nat} (h : i.view = .e op pay) (hop : op < 256) (hp : pay < 2 ^ 56) : Statement i := by
  intro c hc
  simp only [slotClass, h, Option.some.injEq] at hc
  subst hc
  simp only [encode, h, SlotClass.size, opcode, viewOp]
  omega

theorem ofEvent {i : Instr} (h : i.view = .event) : Statement i := by
  intro c hc
  simp only [slotClass, h, reduceCtorEq] at hc

theorem add (o : SReg) : Statement (.add o) := ofSReg rfl (by omega)
theorem sub (o : SReg) : Statement (.sub o) := ofSReg rfl (by omega)
theorem and (o : SReg) : Statement (.and o) := ofSReg rfl (by omega)
theorem or (o : SReg) : Statement (.or o) := ofSReg rfl (by omega)
theorem xor (o : SReg) : Statement (.xor o) := ofSReg rfl (by omega)
theorem andn (o : SReg) : Statement (.andn o) := ofSReg rfl (by omega)
theorem shl (o : SReg) : Statement (.shl o) := ofSReg rfl (by omega)
theorem shr (o : SReg) : Statement (.shr o) := ofSReg rfl (by omega)
theorem sha (o : SReg) : Statement (.sha o) := ofSReg rfl (by omega)
theorem rol (o : SReg) : Statement (.rol o) := ofSReg rfl (by omega)
theorem mul (o : SReg) : Statement (.mul o) := ofSReg rfl (by omega)
theorem mulh (o : SReg) : Statement (.mulh o) := ofSReg rfl (by omega)
theorem mulhz (o : SReg) : Statement (.mulhz o) := ofSReg rfl (by omega)
theorem div (o : SReg) : Statement (.div o) := ofSReg rfl (by omega)
theorem divz (o : SReg) : Statement (.divz o) := ofSReg rfl (by omega)
theorem rem (o : SReg) : Statement (.rem o) := ofSReg rfl (by omega)
theorem remz (o : SReg) : Statement (.remz o) := ofSReg rfl (by omega)
theorem min (o : SReg) : Statement (.min o) := ofSReg rfl (by omega)
theorem max (o : SReg) : Statement (.max o) := ofSReg rfl (by omega)
theorem minz (o : SReg) : Statement (.minz o) := ofSReg rfl (by omega)
theorem maxz (o : SReg) : Statement (.maxz o) := ofSReg rfl (by omega)
theorem adds (o : SReg) : Statement (.adds o) := ofSReg rfl (by omega)
theorem subs (o : SReg) : Statement (.subs o) := ofSReg rfl (by omega)
theorem clz (o : SReg) : Statement (.clz o) := ofSReg rfl (by omega)
theorem ctz (o : SReg) : Statement (.ctz o) := ofSReg rfl (by omega)
theorem popc (o : SReg) : Statement (.popc o) := ofSReg rfl (by omega)
theorem sext (o : SReg) : Statement (.sext o) := ofSReg rfl (by omega)
theorem zext (o : SReg) : Statement (.zext o) := ofSReg rfl (by omega)
theorem bfx (o : SReg) : Statement (.bfx o) := ofSReg rfl (by omega)
theorem bfxz (o : SReg) : Statement (.bfxz o) := ofSReg rfl (by omega)
theorem bfi (o : SReg) : Statement (.bfi o) := ofSReg rfl (by omega)
theorem mov (o : SReg) : Statement (.mov o) := ofSReg rfl (by omega)
theorem addi (o : SImm) : Statement (.addi o) := ofSImm rfl (by omega)
theorem andi (o : SImm) : Statement (.andi o) := ofSImm rfl (by omega)
theorem ori (o : SImm) : Statement (.ori o) := ofSImm rfl (by omega)
theorem xori (o : SImm) : Statement (.xori o) := ofSImm rfl (by omega)
theorem shli (o : SImm) : Statement (.shli o) := ofSImm rfl (by omega)
theorem shri (o : SImm) : Statement (.shri o) := ofSImm rfl (by omega)
theorem shai (o : SImm) : Statement (.shai o) := ofSImm rfl (by omega)
theorem roli (o : SImm) : Statement (.roli o) := ofSImm rfl (by omega)
theorem muli (o : SImm) : Statement (.muli o) := ofSImm rfl (by omega)
theorem mini (o : SImm) : Statement (.mini o) := ofSImm rfl (by omega)
theorem maxi (o : SImm) : Statement (.maxi o) := ofSImm rfl (by omega)
theorem movi (o : SImm) : Statement (.movi o) := ofSImm rfl (by omega)
theorem lih (o : SImm) : Statement (.lih o) := ofSImm rfl (by omega)
theorem movw (o : SImm) : Statement (.movw o) := ofSImm rfl (by omega)
theorem movd (o : SImm) : Statement (.movd o) := ofSImm rfl (by omega)
theorem addw (o : SImm) : Statement (.addw o) := ofSImm rfl (by omega)
theorem csrr (o : SImm) : Statement (.csrr o) := ofSImm rfl (by omega)
theorem csrw (o : SImm) : Statement (.csrw o) := ofSImm rfl (by omega)
theorem csrs (o : SImm) : Statement (.csrs o) := ofSImm rfl (by omega)
theorem csrc (o : SImm) : Statement (.csrc o) := ofSImm rfl (by omega)
theorem eset (o : SReg) : Statement (.eset o) := ofSReg rfl (by omega)
theorem eget (o : SReg) : Statement (.eget o) := ofSReg rfl (by omega)
theorem ecens (o : SReg) : Statement (.ecens o) := ofSReg rfl (by omega)
theorem eadd (o : SReg) : Statement (.eadd o) := ofSReg rfl (by omega)
theorem ecopy (o : SReg) : Statement (.ecopy o) := ofSReg rfl (by omega)
theorem br (o : BOff) : Statement (.br o) := ofBOff rfl (by omega)
theorem brl (o : BOff) : Statement (.brl o) := ofBOff rfl (by omega)
theorem jr (o : BPred) : Statement (.jr o) := ofBPred rfl (by omega)
theorem jrl (o : BPred) : Statement (.jrl o) := ofBPred rfl (by omega)
theorem loop (o : BOff) : Statement (.loop o) := ofBOff rfl (by omega)
theorem cmpeq (o : BPred) : Statement (.cmpeq o) := ofBPred rfl (by omega)
theorem cmpne (o : BPred) : Statement (.cmpne o) := ofBPred rfl (by omega)
theorem cmplt (o : BPred) : Statement (.cmplt o) := ofBPred rfl (by omega)
theorem cmple (o : BPred) : Statement (.cmple o) := ofBPred rfl (by omega)
theorem cmpltz (o : BPred) : Statement (.cmpltz o) := ofBPred rfl (by omega)
theorem cmplez (o : BPred) : Statement (.cmplez o) := ofBPred rfl (by omega)
theorem cmpeqi (o : BPred) : Statement (.cmpeqi o) := ofBPred rfl (by omega)
theorem cmpnei (o : BPred) : Statement (.cmpnei o) := ofBPred rfl (by omega)
theorem cmplti (o : BPred) : Statement (.cmplti o) := ofBPred rfl (by omega)
theorem cmplei (o : BPred) : Statement (.cmplei o) := ofBPred rfl (by omega)
theorem pand (o : BPred) : Statement (.pand o) := ofBPred rfl (by omega)
theorem por (o : BPred) : Statement (.por o) := ofBPred rfl (by omega)
theorem pxor (o : BPred) : Statement (.pxor o) := ofBPred rfl (by omega)
theorem pandn (o : BPred) : Statement (.pandn o) := ofBPred rfl (by omega)
theorem pmov (o : BPred) : Statement (.pmov o) := ofBPred rfl (by omega)
theorem trap (o : BPred) : Statement (.trap o) := ofBPred rfl (by omega)
theorem svc (o : BPred) : Statement (.svc o) := ofBPred rfl (by omega)
theorem brk (o : BPred) : Statement (.brk o) := ofBPred rfl (by omega)
theorem eret (o : BOff) : Statement (.eret o) := ofBOff rfl (by omega)
theorem endTask (o : BOff) : Statement (.endTask o) := ofBOff rfl (by omega)
theorem yield (o : BOff) : Statement (.yield o) := ofBOff rfl (by omega)
theorem idle (o : BOff) : Statement (.idle o) := ofBOff rfl (by omega)
theorem vnop (o : VOps) : Statement (.vnop o) := ofV rfl (by omega)
theorem vmov (o : VOps) : Statement (.vmov o) := ofV rfl (by omega)
theorem vadd (o : VOps) : Statement (.vadd o) := ofV rfl (by omega)
theorem vsub (o : VOps) : Statement (.vsub o) := ofV rfl (by omega)
theorem vadds (o : VOps) : Statement (.vadds o) := ofV rfl (by omega)
theorem vsubs (o : VOps) : Statement (.vsubs o) := ofV rfl (by omega)
theorem vneg (o : VOps) : Statement (.vneg o) := ofV rfl (by omega)
theorem vabs (o : VOps) : Statement (.vabs o) := ofV rfl (by omega)
theorem vmul (o : VOps) : Statement (.vmul o) := ofV rfl (by omega)
theorem vmulh (o : VOps) : Statement (.vmulh o) := ofV rfl (by omega)
theorem vmulq (o : VOps) : Statement (.vmulq o) := ofV rfl (by omega)
theorem vmac (o : VOps) : Statement (.vmac o) := ofV rfl (by omega)
theorem vmacs (o : VOps) : Statement (.vmacs o) := ofV rfl (by omega)
theorem vmin (o : VOps) : Statement (.vmin o) := ofV rfl (by omega)
theorem vmax (o : VOps) : Statement (.vmax o) := ofV rfl (by omega)
theorem vavg (o : VOps) : Statement (.vavg o) := ofV rfl (by omega)
theorem vabsd (o : VOps) : Statement (.vabsd o) := ofV rfl (by omega)
theorem vdiv (o : VOps) : Statement (.vdiv o) := ofV rfl (by omega)
theorem vshl (o : VOps) : Statement (.vshl o) := ofV rfl (by omega)
theorem vshr (o : VOps) : Statement (.vshr o) := ofV rfl (by omega)
theorem vsha (o : VOps) : Statement (.vsha o) := ofV rfl (by omega)
theorem vshrr (o : VOps) : Statement (.vshrr o) := ofV rfl (by omega)
theorem vshrs (o : VOps) : Statement (.vshrs o) := ofV rfl (by omega)
theorem vshls (o : VOps) : Statement (.vshls o) := ofV rfl (by omega)
theorem vnorm (o : VOps) : Statement (.vnorm o) := ofV rfl (by omega)
theorem vcens (o : VOps) : Statement (.vcens o) := ofV rfl (by omega)
theorem vand (o : VOps) : Statement (.vand o) := ofV rfl (by omega)
theorem vor (o : VOps) : Statement (.vor o) := ofV rfl (by omega)
theorem vxor (o : VOps) : Statement (.vxor o) := ofV rfl (by omega)
theorem vandn (o : VOps) : Statement (.vandn o) := ofV rfl (by omega)
theorem vnot (o : VOps) : Statement (.vnot o) := ofV rfl (by omega)
theorem vcmpeq (o : VOps) : Statement (.vcmpeq o) := ofV rfl (by omega)
theorem vcmpne (o : VOps) : Statement (.vcmpne o) := ofV rfl (by omega)
theorem vcmplt (o : VOps) : Statement (.vcmplt o) := ofV rfl (by omega)
theorem vcmple (o : VOps) : Statement (.vcmple o) := ofV rfl (by omega)
theorem vsel (o : VOps) : Statement (.vsel o) := ofV rfl (by omega)
theorem vclamp (o : VOps) : Statement (.vclamp o) := ofV rfl (by omega)
theorem vpopc (o : VOps) : Statement (.vpopc o) := ofV rfl (by omega)
theorem vclz (o : VOps) : Statement (.vclz o) := ofV rfl (by omega)
theorem vsplat (o : VOps) : Statement (.vsplat o) := ofV rfl (by omega)
theorem viota (o : VOps) : Statement (.viota o) := ofV rfl (by omega)
theorem vins (o : VOps) : Statement (.vins o) := ofV rfl (by omega)
theorem vext (o : VOps) : Statement (.vext o) := ofV rfl (by omega)
theorem vperm (o : VOps) : Statement (.vperm o) := ofV rfl (by omega)
theorem vslide (o : VOps) : Statement (.vslide o) := ofV rfl (by omega)
theorem vzip (o : VOps) : Statement (.vzip o) := ofV rfl (by omega)
theorem vunzip (o : VOps) : Statement (.vunzip o) := ofV rfl (by omega)
theorem vredadd (o : VOps) : Statement (.vredadd o) := ofV rfl (by omega)
theorem vredmax (o : VOps) : Statement (.vredmax o) := ofV rfl (by omega)
theorem vredmin (o : VOps) : Statement (.vredmin o) := ofV rfl (by omega)
theorem vscan (o : VOps) : Statement (.vscan o) := ofV rfl (by omega)
theorem vmcount (o : VOps) : Statement (.vmcount o) := ofV rfl (by omega)
theorem vexp2q (o : VOps) : Statement (.vexp2q o) := ofV rfl (by omega)
theorem vlog2q (o : VOps) : Statement (.vlog2q o) := ofV rfl (by omega)
theorem vrcpq (o : VOps) : Statement (.vrcpq o) := ofV rfl (by omega)
theorem vrsqq (o : VOps) : Statement (.vrsqq o) := ofV rfl (by omega)
theorem vdivq (o : VOps) : Statement (.vdivq o) := ofV rfl (by omega)
theorem vhash (o : VOps) : Statement (.vhash o) := ofV rfl (by omega)
theorem vmix (o : VOps) : Statement (.vmix o) := ofV rfl (by omega)
theorem vsegsum (o : VOps) : Statement (.vsegsum o) := ofV rfl (by omega)
theorem vmapscat (o : VOps) : Statement (.vmapscat o) := ofV rfl (by omega)
theorem vmapcnt (o : VOps) : Statement (.vmapcnt o) := ofV rfl (by omega)
theorem vmapcntFirst (o : VOps) : Statement (.vmapcntFirst o) := ofV rfl (by omega)
theorem vcvt (o : VOps) : Statement (.vcvt o) := ofV rfl (by omega)
theorem vpack (o : VOps) : Statement (.vpack o) := ofV rfl (by omega)
theorem vunpk (o : VOps) : Statement (.vunpk o) := ofV rfl (by omega)
theorem vquant (o : VOps) : Statement (.vquant o) := ofV rfl (by omega)
theorem ldx (o : MOps) : Statement (.ldx o) := ofM rfl (by omega)
theorem ldv (o : MOps) : Statement (.ldv o) := ofM rfl (by omega)
theorem ldvs (o : MOps) : Statement (.ldvs o) := ofM rfl (by omega)
theorem ldvb (o : MOps) : Statement (.ldvb o) := ofM rfl (by omega)
theorem stx (o : MOps) : Statement (.stx o) := ofM rfl (by omega)
theorem stv (o : MOps) : Statement (.stv o) := ofM rfl (by omega)
theorem stvs (o : MOps) : Statement (.stvs o) := ofM rfl (by omega)
theorem stvm (o : MOps) : Statement (.stvm o) := ofM rfl (by omega)
theorem aadd (o : MOps) : Statement (.aadd o) := ofM rfl (by omega)
theorem aadds (o : MOps) : Statement (.aadds o) := ofM rfl (by omega)
theorem amin (o : MOps) : Statement (.amin o) := ofM rfl (by omega)
theorem amax (o : MOps) : Statement (.amax o) := ofM rfl (by omega)
theorem aand (o : MOps) : Statement (.aand o) := ofM rfl (by omega)
theorem aor (o : MOps) : Statement (.aor o) := ofM rfl (by omega)
theorem axor (o : MOps) : Statement (.axor o) := ofM rfl (by omega)
theorem aswp (o : MOps) : Statement (.aswp o) := ofM rfl (by omega)
theorem acas (o : MOps) : Statement (.acas o) := ofM rfl (by omega)
theorem fence (o : MOps) : Statement (.fence o) := ofM rfl (by omega)
theorem qfence (o : MOps) : Statement (.qfence o) := ofM rfl (by omega)
theorem rwait (o : MOps) : Statement (.rwait o) := ofM rfl (by omega)
theorem gwinit (o : MOps) : Statement (.gwinit o) := ofM rfl (by omega)
theorem gwwait (o : MOps) : Statement (.gwwait o) := ofM rfl (by omega)
theorem fset (o : MOps) : Statement (.fset o) := ofM rfl (by omega)
theorem fget (o : MOps) : Statement (.fget o) := ofM rfl (by omega)
theorem fadd (o : MOps) : Statement (.fadd o) := ofM rfl (by omega)
theorem enqV (o : MOps) : Statement (.enqV o) := ofM rfl (by omega)
theorem enqX (o : MOps) : Statement (.enqX o) := ofM rfl (by omega)
theorem deqV (o : MOps) : Statement (.deqV o) := ofM rfl (by omega)
theorem deqX (o : MOps) : Statement (.deqX o) := ofM rfl (by omega)
theorem rinit (o : MOps) : Statement (.rinit o) := ofM rfl (by omega)
theorem rclose (o : MOps) : Statement (.rclose o) := ofM rfl (by omega)
theorem bjoin (o : MOps) : Statement (.bjoin o) := ofM rfl (by omega)
theorem barr (o : MOps) : Statement (.barr o) := ofM rfl (by omega)
theorem bwait (o : MOps) : Statement (.bwait o) := ofM rfl (by omega)
theorem bdrop (o : MOps) : Statement (.bdrop o) := ofM rfl (by omega)
theorem ard (o : POps) : Statement (.ard o) := ofP rfl (by omega)
theorem ardw (o : POps) : Statement (.ardw o) := ofP rfl (by omega)
theorem ardh (o : POps) : Statement (.ardh o) := ofP rfl (by omega)
theorem awr (o : POps) : Statement (.awr o) := ofP rfl (by omega)
theorem aaddv (o : POps) : Statement (.aaddv o) := ofP rfl (by omega)
theorem azero (o : POps) : Statement (.azero o) := ofP rfl (by omega)
theorem arq (o : POps) : Statement (.arq o) := ofP rfl (by omega)
theorem acens (o : POps) : Statement (.acens o) := ofP rfl (by omega)
theorem mfmt (o : EFmt) : Statement (.mfmt o) := ofE rfl (by omega) (by simp only [EFmt.pay]; omega)
theorem mma (o : EMma) : Statement (.mma o) := ofE rfl (by omega) (by simp only [EMma.pay]; omega)
theorem mchain (o : EMma) : Statement (.mchain o) := ofE rfl (by omega) (by simp only [EMma.pay]; omega)
theorem mseal (o : EMask) : Statement (.mseal o) := ofE rfl (by omega) (by simp only [EMask.pay]; omega)
theorem mzero (o : EMask) : Statement (.mzero o) := ofE rfl (by omega) (by simp only [EMask.pay]; omega)
theorem oclaim (o : ESlots) : Statement (.oclaim o) := ofE rfl (by omega) (by simp only [ESlots.pay]; omega)
theorem orelease (o : ESlots) : Statement (.orelease o) := ofE rfl (by omega) (by simp only [ESlots.pay]; omega)
theorem ofill (o : EOfill) : Statement (.ofill o) := ofE rfl (by omega) (by simp only [EOfill.pay]; omega)
theorem ofillv (o : EOfillv) : Statement (.ofillv o) := ofE rfl (by omega) (by simp only [EOfillv.pay]; omega)
theorem ttask (o : EAddr) : Statement (.ttask o) := ofE rfl (by omega) (by simp only [EAddr.pay]; omega)
theorem tdep (o : EAddr) : Statement (.tdep o) := ofE rfl (by omega) (by simp only [EAddr.pay]; omega)
theorem cset (o : ECset) : Statement (.cset o) := ofE rfl (by omega) (by simp only [ECset.pay]; omega)
theorem cgo : Statement .cgo := ofE rfl (by omega) (by omega)
theorem cpy (o : ECpy) : Statement (.cpy o) := ofE rfl (by omega) (by simp only [ECpy.pay]; omega)
theorem carm : Statement .carm := ofE rfl (by omega) (by omega)
theorem ccancel (o : ETag) : Statement (.ccancel o) := ofE rfl (by omega) (by simp only [ETag.pay]; omega)
theorem coll (o : EAddr) : Statement (.coll o) := ofE rfl (by omega) (by simp only [EAddr.pay]; omega)
theorem collq (o : ECollq) : Statement (.collq o) := ofE rfl (by omega) (by simp only [ECollq.pay]; omega)
theorem rtadd (o : ERtadd) : Statement (.rtadd o) := ofE rfl (by omega) (by simp only [ERtadd.pay]; omega)
theorem rtdel (o : ETag) : Statement (.rtdel o) := ofE rfl (by omega) (by simp only [ETag.pay]; omega)
theorem spawn (o : ESpawn) : Statement (.spawn o) := ofE rfl (by omega) (by simp only [ESpawn.pay]; omega)
theorem spawnp (o : ESpawnp) : Statement (.spawnp o) := ofE rfl (by omega) (by simp only [ESpawnp.pay]; omega)
theorem park (o : EPark) : Statement (.park o) := ofE rfl (by omega) (by simp only [EPark.pay]; omega)
theorem steal (o : ESteal) : Statement (.steal o) := ofE rfl (by omega) (by simp only [ESteal.pay]; omega)
theorem poolinit (o : EPoolinit) : Statement (.poolinit o) := ofE rfl (by omega) (by simp only [EPoolinit.pay]; omega)
theorem poolpushReg (o : EPush) : Statement (.poolpushReg o) := ofE rfl (by omega) (by simp only [EPush.pay]; omega)
theorem poolpushMem (o : EPush) : Statement (.poolpushMem o) := ofE rfl (by omega) (by simp only [EPush.pay]; omega)
theorem poolpopReg (o : EPop) : Statement (.poolpopReg o) := ofE rfl (by omega) (by simp only [EPop.pay]; omega)
theorem poolpopMem (o : EPop) : Statement (.poolpopMem o) := ofE rfl (by omega) (by simp only [EPop.pay]; omega)
theorem poolpopwReg (o : EPop) : Statement (.poolpopwReg o) := ofE rfl (by omega) (by simp only [EPop.pay]; omega)
theorem poolpopwMem (o : EPop) : Statement (.poolpopwMem o) := ofE rfl (by omega) (by simp only [EPop.pay]; omega)
theorem poolfence (o : EPtr) : Statement (.poolfence o) := ofE rfl (by omega) (by simp only [EPtr.pay]; omega)
theorem tlbinv (o : ETlb) : Statement (.tlbinv o) := ofE rfl (by omega) (by simp only [ETlb.pay]; omega)
theorem ctxsave (o : EReg) : Statement (.ctxsave o) := ofE rfl (by omega) (by simp only [EReg.pay]; omega)
theorem ctxload (o : EReg) : Statement (.ctxload o) := ofE rfl (by omega) (by simp only [EReg.pay]; omega)
theorem note (o : ENote) : Statement (.note o) := ofE rfl (by omega) (by simp only [ENote.pay]; omega)
theorem hostRegisterWrite (off : Nat) (v : BitVec 64) : Statement (.hostRegisterWrite off v) := ofEvent rfl
theorem cfgerrClear (v : BitVec 64) : Statement (.cfgerrClear v) := ofEvent rfl
theorem qctlEnable (q : Nat) (v : BitVec 64) : Statement (.qctlEnable q v) := ofEvent rfl
theorem qctlDisable (q : Nat) (v : BitVec 64) : Statement (.qctlDisable q v) := ofEvent rfl
theorem qtailDoorbell (q : Nat) (v : BitVec 32) : Statement (.qtailDoorbell q v) := ofEvent rfl
theorem packetFetch (q : Nat) : Statement (.packetFetch q) := ofEvent rfl
theorem dispatchRound : Statement .dispatchRound := ofEvent rfl
theorem deadlineExpiry (crew : Nat) : Statement (.deadlineExpiry crew) := ofEvent rfl
theorem crewSave (crew : Nat) : Statement (.crewSave crew) := ofEvent rfl
theorem saveRetry (crew : Nat) : Statement (.saveRetry crew) := ofEvent rfl
theorem crewRestore (crew : Nat) : Statement (.crewRestore crew) := ofEvent rfl
theorem taskSchedulerRound (cluster : Nat) : Statement (.taskSchedulerRound cluster) := ofEvent rfl
theorem taskStart (strand : Nat) : Statement (.taskStart strand) := ofEvent rfl
theorem strandSwitch (core : Nat) : Statement (.strandSwitch core) := ofEvent rfl
theorem bundleDecode : Statement .bundleDecode := ofEvent rfl
theorem headerSyncWait : Statement .headerSyncWait := ofEvent rfl
theorem headerSyncPost : Statement .headerSyncPost := ofEvent rfl
theorem asyncTrapDelivery (strand : Nat) : Statement (.asyncTrapDelivery strand) := ofEvent rfl
theorem loadDataArrival (acc : Nat) (part : Nat) : Statement (.loadDataArrival acc part) := ofEvent rfl
theorem failedLaunchRelease (strand : Nat) : Statement (.failedLaunchRelease strand) := ofEvent rfl
theorem abortGraceExpiry (strand : Nat) : Statement (.abortGraceExpiry strand) := ofEvent rfl
theorem coreScrub (core : Nat) : Statement (.coreScrub core) := ofEvent rfl
theorem storePerform (acc : Nat) (part : Nat) (scope : Nat) : Statement (.storePerform acc part scope) := ofEvent rfl
theorem pageWalk (die : Nat) : Statement (.pageWalk die) := ofEvent rfl
theorem remoteAtomic (acc : Nat) : Statement (.remoteAtomic acc) := ofEvent rfl
theorem bankRetentionEntry (core : Nat) (bank : Nat) : Statement (.bankRetentionEntry core bank) := ofEvent rfl
theorem tieringEpoch : Statement .tieringEpoch := ofEvent rfl
theorem granuleMoveComplete (frame : Nat) : Statement (.granuleMoveComplete frame) := ofEvent rfl
theorem kStepExecute (core : Nat) : Statement (.kStepExecute core) := ofEvent rfl
theorem ofillExecute (core : Nat) : Statement (.ofillExecute core) := ofEvent rfl
theorem msealRetirement (core : Nat) : Statement (.msealRetirement core) := ofEvent rfl
theorem mzeroExecute (core : Nat) : Statement (.mzeroExecute core) := ofEvent rfl
theorem oreleaseExecute (core : Nat) : Statement (.oreleaseExecute core) := ofEvent rfl
theorem formeIssue (cluster : Nat) : Statement (.formeIssue cluster) := ofEvent rfl
theorem formeCompletion (core : Nat) : Statement (.formeCompletion core) := ofEvent rfl
theorem dependenceDecrement (tok : Nat) : Statement (.dependenceDecrement tok) := ofEvent rfl
theorem copyStart (core : Nat) : Statement (.copyStart core) := ofEvent rfl
theorem copyWriteLanded (core : Nat) : Statement (.copyWriteLanded core) := ofEvent rfl
theorem copyCompletion (core : Nat) : Statement (.copyCompletion core) := ofEvent rfl
theorem copyAbort (core : Nat) : Statement (.copyAbort core) := ofEvent rfl
theorem collAccept (strand : Nat) : Statement (.collAccept strand) := ofEvent rfl
theorem collCheckStep (comm : Nat) : Statement (.collCheckStep comm) := ofEvent rfl
theorem collChunkStep : Statement .collChunkStep := ofEvent rfl
theorem collCompletion (comm : Nat) : Statement (.collCompletion comm) := ofEvent rfl
theorem collAbandonMessage (comm : Nat) (rank : Nat) : Statement (.collAbandonMessage comm rank) := ofEvent rfl
theorem collHoldMessage (comm : Nat) (rank : Nat) : Statement (.collHoldMessage comm rank) := ofEvent rfl
theorem collReleaseMessage (comm : Nat) (rank : Nat) : Statement (.collReleaseMessage comm rank) := ofEvent rfl
theorem collTimerExpiry (comm : Nat) : Statement (.collTimerExpiry comm) := ofEvent rfl
theorem poolSwitchArrival (op : Nat) : Statement (.poolSwitchArrival op) := ofEvent rfl
theorem poolHoldExpiry (op : Nat) : Statement (.poolHoldExpiry op) := ofEvent rfl
theorem pairsIncrement (n : Nat) : Statement (.pairsIncrement n) := ofEvent rfl
theorem poolHomeArrival (op : Nat) : Statement (.poolHomeArrival op) := ofEvent rfl
theorem poolAnswerArrival (op : Nat) : Statement (.poolAnswerArrival op) := ofEvent rfl
theorem launchCompletionRecord (launch : Nat) : Statement (.launchCompletionRecord launch) := ofEvent rfl
theorem functionReady (bit : Nat) : Statement (.functionReady bit) := ofEvent rfl
theorem functionLoss (bit : Nat) : Statement (.functionLoss bit) := ofEvent rfl
theorem packageReset : Statement .packageReset := ofEvent rfl
theorem criticalTemperatureReset : Statement .criticalTemperatureReset := ofEvent rfl
theorem islandThrottle (island : Nat) : Statement (.islandThrottle island) := ofEvent rfl
theorem islandStop (island : Nat) : Statement (.islandStop island) := ofEvent rfl
theorem islandResume (island : Nat) : Statement (.islandResume island) := ofEvent rfl
theorem linkFlitError (link : Nat) : Statement (.linkFlitError link) := ofEvent rfl
theorem portRetrainTimeout (port : Nat) : Statement (.portRetrainTimeout port) := ofEvent rfl
theorem portTrained (port : Nat) : Statement (.portTrained port) := ofEvent rfl
theorem pcieLinkLoss : Statement .pcieLinkLoss := ofEvent rfl
theorem portRetraining (port : Nat) : Statement (.portRetraining port) := ofEvent rfl
theorem pcieLinkUp : Statement .pcieLinkUp := ofEvent rfl
theorem tlbinvCompletion (strand : Nat) : Statement (.tlbinvCompletion strand) := ofEvent rfl

end Sys2Proof.Laws.Encoding
end

