-- ==== Sys2Proof/Laws/Registers.lean ====
section
/-! SUPPORT. A strand's registers: a read after a write, the registers a write leaves alone, and the fixed registers x0, p0 and m0. -/

namespace Sys2Proof.Machine

/-! ### x registers -/

@[simp] theorem Strand.getX_zero (st : Strand) : st.getX 0 = 0 := rfl
@[simp] theorem Strand.setX_zero (st : Strand) (v : X) : st.setX 0 v = st := rfl

theorem Strand.getX_setX (st : Strand) (r n : Nat) (v : X) (h : r ≠ 0) :
    (st.setX r v).getX n = if n = r then v else st.getX n := by
  unfold setX getX
  rw [if_neg h]
  by_cases hn : n = r
  · subst hn
    rw [if_neg h, if_pos rfl]
    exact RMap.get_set_same _ _ _ _
  · rw [if_neg hn]
    by_cases h0 : n = 0
    · rw [if_pos h0, if_pos h0]
    · rw [if_neg h0, if_neg h0]
      exact RMap.get_set_ne _ _ _ _ _ hn

/-! ### Predicates -/

@[simp] theorem Strand.getP_zero (st : Strand) : st.getP 0 = true := rfl
@[simp] theorem Strand.setP_zero (st : Strand) (b : Bool) : st.setP 0 b = st := rfl

theorem Strand.getP_setP (st : Strand) (r n : Nat) (b : Bool) (h : r ≠ 0) :
    (st.setP r b).getP n = if n = r then b else st.getP n := by
  unfold setP getP
  rw [if_neg h]
  by_cases hn : n = r
  · subst hn
    rw [if_neg h, if_pos rfl]
    exact RMap.get_set_same _ _ _ _
  · rw [if_neg hn]
    by_cases h0 : n = 0
    · rw [if_pos h0, if_pos h0]
    · rw [if_neg h0, if_neg h0]
      exact RMap.get_set_ne _ _ _ _ _ hn

/-! ### Masks -/

@[simp] theorem Strand.getM_zero (st : Strand) : st.getM 0 = BitVec.allOnes 64 := rfl
@[simp] theorem Strand.setM_zero (st : Strand) (v : X) : st.setM 0 v = st := rfl

theorem Strand.getM_setM (st : Strand) (r n : Nat) (v : X) (h : r ≠ 0) :
    (st.setM r v).getM n = if n = r then v else st.getM n := by
  unfold setM getM
  rw [if_neg h]
  by_cases hn : n = r
  · subst hn
    rw [if_neg h, if_pos rfl]
    exact RMap.get_set_same _ _ _ _
  · rw [if_neg hn]
    by_cases h0 : n = 0
    · rw [if_pos h0, if_pos h0]
    · rw [if_neg h0, if_neg h0]
      exact RMap.get_set_ne _ _ _ _ _ hn

/-! ### Scale registers, vector registers and queues -/

theorem Strand.getE_setE (st : Strand) (r n : Nat) (v : BitVec 16) :
    (st.setE r v).getE n = if n = r then v else st.getE n := by
  by_cases hn : n = r
  · subst hn
    rw [if_pos rfl]
    exact RMap.get_set_same _ _ _ _
  · rw [if_neg hn]
    exact RMap.get_set_ne _ _ _ _ _ hn

/-- A write of a vector register puts its window unit in use (R60). -/
theorem Strand.vused_setV (st : Strand) (r n : Nat) (v : V) (h : r / 64 < 12) :
    (st.setV r v).vused n = (decide (n / 64 = r / 64) || st.vused n) := by
  unfold vused setV mark
  simp only [BitVec.getLsbD_or, BitVec.getLsbD_ofNat, Nat.testBit_two_pow]
  by_cases hn : n / 64 = r / 64
  · simp [hn]; omega
  · have h1 : ¬ (r / 64 = 18 + n / 64) := by omega
    simp [hn, h1]; omega

/-- A vector register reads what was written to it; the others read as before (R46, R61). -/
theorem Strand.getV_setV (st : Strand) (r n : Nat) (v : V) (h : r / 64 < 12) :
    (st.setV r v).getV n = if n = r then v else st.getV n := by
  have hd := st.vused_setV r n v h
  unfold getV
  rw [hd]
  by_cases hn : n = r
  · subst hn
    have hg : (st.setV n v).v.get 0 n = v := RMap.get_set_same _ _ _ _
    rw [hg, if_pos rfl, if_pos (by simp)]
  · have hg : (st.setV r v).v.get 0 n = (st.usedV r).get 0 n := RMap.get_set_ne _ _ _ _ _ hn
    have hu : (st.usedV r).get 0 n = if st.vused r || n / 64 != r / 64 then st.v.get 0 n else 0 := by
      unfold usedV
      by_cases hr : st.vused r = true
      · simp [hr]
      · rw [if_neg hr, RMap.get_filter st.v 0 (fun k => k / 64 != r / 64) n]; simp [hr]
    rw [hg, if_neg hn, hu]
    by_cases he : n / 64 = r / 64
    · have : st.vused n = st.vused r := by simp [vused, he]
      simp [he, this]
    · simp [he]

theorem Strand.getQ_setQ (st : Strand) (r n : Nat) (l : List QEnt) :
    (st.setQ r l).getQ n = if n = r then l else st.getQ n := by
  by_cases hn : n = r
  · subst hn
    rw [if_pos rfl]
    exact RMap.get_set_same _ _ _ _
  · rw [if_neg hn]
    exact RMap.get_set_ne _ _ _ _ _ hn

/-! ### Latches -/

@[simp] theorem Strand.latch_setL_same (st : Strand) (n : Nat) (v : V) : (st.setL n v).latch.find? n = some v :=
  RMap.find?_put_same _ _ _

theorem Strand.latch_setL_ne (st : Strand) (n k : Nat) (v : V) (h : k ≠ n) : (st.setL n v).latch.find? k = st.latch.find? k :=
  RMap.find?_put_ne _ _ _ _ h

@[simp] theorem Strand.getX_setL (st : Strand) (n : Nat) (v : V) (r : Nat) : (st.setL n v).getX r = st.getX r := rfl
@[simp] theorem Strand.getP_setL (st : Strand) (n : Nat) (v : V) (r : Nat) : (st.setL n v).getP r = st.getP r := rfl
@[simp] theorem Strand.getM_setL (st : Strand) (n : Nat) (v : V) (r : Nat) : (st.setL n v).getM r = st.getM r := rfl
@[simp] theorem Strand.getE_setL (st : Strand) (n : Nat) (v : V) (r : Nat) : (st.setL n v).getE r = st.getE r := rfl
@[simp] theorem Strand.getV_setL (st : Strand) (n : Nat) (v : V) (r : Nat) : (st.setL n v).getV r = st.getV r := rfl

end Sys2Proof.Machine
end

