-- ==== Sys2Proof/Laws/State.lean ====
section
/-! SUPPORT. What each plain update of the state, the package and a strand leaves: one lemma for each field, true by definition. -/

namespace Sys2Proof.Machine

@[simp] theorem State.withPkg_pkg (s : State) (p : Pkg) : (s.withPkg p).pkg = p := rfl
@[simp] theorem State.withPkg_host (s : State) (p : Pkg) : (s.withPkg p).host = s.host := rfl
@[simp] theorem State.withPkg_focus (s : State) (p : Pkg) : (s.withPkg p).focus = s.focus := rfl
@[simp] theorem State.withPkg_agenda (s : State) (p : Pkg) : (s.withPkg p).agenda = s.agenda := rfl

@[simp] theorem Pkg.setCore_mem (p : Pkg) (c : Nat) (k : Core) : (p.setCore c k).mem = p.mem := rfl
@[simp] theorem Pkg.setCore_poison (p : Pkg) (c : Nat) (k : Core) : (p.setCore c k).poison = p.poison := rfl
@[simp] theorem Pkg.setCore_strands (p : Pkg) (c : Nat) (k : Core) : (p.setCore c k).strands = p.strands := rfl
@[simp] theorem Pkg.setCore_cores (p : Pkg) (c : Nat) (k : Core) : (p.setCore c k).cores = RMap.put p.cores c k := rfl
@[simp] theorem Pkg.setCore_clusters (p : Pkg) (c : Nat) (k : Core) : (p.setCore c k).clusters = p.clusters := rfl
@[simp] theorem Pkg.setCore_crews (p : Pkg) (c : Nat) (k : Core) : (p.setCore c k).crews = p.crews := rfl
@[simp] theorem Pkg.setCore_launches (p : Pkg) (c : Nat) (k : Core) : (p.setCore c k).launches = p.launches := rfl
@[simp] theorem Pkg.setCore_accs (p : Pkg) (c : Nat) (k : Core) : (p.setCore c k).accs = p.accs := rfl
@[simp] theorem Pkg.setCore_nextAcc (p : Pkg) (c : Nat) (k : Core) : (p.setCore c k).nextAcc = p.nextAcc := rfl
@[simp] theorem Pkg.setCore_early (p : Pkg) (c : Nat) (k : Core) : (p.setCore c k).early = p.early := rfl
@[simp] theorem Pkg.setCore_codeLog (p : Pkg) (c : Nat) (k : Core) : (p.setCore c k).codeLog = p.codeLog := rfl
@[simp] theorem Pkg.setCore_tlb (p : Pkg) (c : Nat) (k : Core) : (p.setCore c k).tlb = p.tlb := rfl
@[simp] theorem Pkg.setCore_walks (p : Pkg) (c : Nat) (k : Core) : (p.setCore c k).walks = p.walks := rfl
@[simp] theorem Pkg.setCore_ranges (p : Pkg) (c : Nat) (k : Core) : (p.setCore c k).ranges = p.ranges := rfl
@[simp] theorem Pkg.setCore_wanted (p : Pkg) (c : Nat) (k : Core) : (p.setCore c k).wanted = p.wanted := rfl
@[simp] theorem Pkg.setCore_joins (p : Pkg) (c : Nat) (k : Core) : (p.setCore c k).joins = p.joins := rfl
@[simp] theorem Pkg.setCore_nextNum (p : Pkg) (c : Nat) (k : Core) : (p.setCore c k).nextNum = p.nextNum := rfl
@[simp] theorem Pkg.setCore_decs (p : Pkg) (c : Nat) (k : Core) : (p.setCore c k).decs = p.decs := rfl
@[simp] theorem Pkg.setCore_unitWaits (p : Pkg) (c : Nat) (k : Core) : (p.setCore c k).unitWaits = p.unitWaits := rfl
@[simp] theorem Pkg.setCore_pools (p : Pkg) (c : Nat) (k : Core) : (p.setCore c k).pools = p.pools := rfl
@[simp] theorem Pkg.setCore_pairs (p : Pkg) (c : Nat) (k : Core) : (p.setCore c k).pairs = p.pairs := rfl
@[simp] theorem Pkg.setCore_swcyc (p : Pkg) (c : Nat) (k : Core) : (p.setCore c k).swcyc = p.swcyc := rfl
@[simp] theorem Pkg.setCore_swPorts (p : Pkg) (c : Nat) (k : Core) : (p.setCore c k).swPorts = p.swPorts := rfl
@[simp] theorem Pkg.setCore_colls (p : Pkg) (c : Nat) (k : Core) : (p.setCore c k).colls = p.colls := rfl
@[simp] theorem Pkg.setCore_collAcc (p : Pkg) (c : Nat) (k : Core) : (p.setCore c k).collAcc = p.collAcc := rfl
@[simp] theorem Pkg.setCore_collDone (p : Pkg) (c : Nat) (k : Core) : (p.setCore c k).collDone = p.collDone := rfl
@[simp] theorem Pkg.setCore_collPtr (p : Pkg) (c : Nat) (k : Core) : (p.setCore c k).collPtr = p.collPtr := rfl
@[simp] theorem Pkg.setCore_holdsIn (p : Pkg) (c : Nat) (k : Core) : (p.setCore c k).holdsIn = p.holdsIn := rfl
@[simp] theorem Pkg.setCore_holdsOut (p : Pkg) (c : Nat) (k : Core) : (p.setCore c k).holdsOut = p.holdsOut := rfl
@[simp] theorem Pkg.setCore_inbox (p : Pkg) (c : Nat) (k : Core) : (p.setCore c k).inbox = p.inbox := rfl
@[simp] theorem Pkg.setCore_outbox (p : Pkg) (c : Nat) (k : Core) : (p.setCore c k).outbox = p.outbox := rfl
@[simp] theorem Pkg.setCore_granules (p : Pkg) (c : Nat) (k : Core) : (p.setCore c k).granules = p.granules := rfl
@[simp] theorem Pkg.setCore_ctx (p : Pkg) (c : Nat) (k : Core) : (p.setCore c k).ctx = p.ctx := rfl
@[simp] theorem Pkg.setCore_time (p : Pkg) (c : Nat) (k : Core) : (p.setCore c k).time = p.time := rfl
@[simp] theorem Pkg.setCore_cycs (p : Pkg) (c : Nat) (k : Core) : (p.setCore c k).cycs = p.cycs := rfl
@[simp] theorem Pkg.setCore_tick (p : Pkg) (c : Nat) (k : Core) : (p.setCore c k).tick = p.tick := rfl
@[simp] theorem Pkg.setCore_nextCrew (p : Pkg) (c : Nat) (k : Core) : (p.setCore c k).nextCrew = p.nextCrew := rfl
@[simp] theorem Pkg.setCore_nextLaunch (p : Pkg) (c : Nat) (k : Core) : (p.setCore c k).nextLaunch = p.nextLaunch := rfl

@[simp] theorem Pkg.setCluster_mem (p : Pkg) (c : Nat) (k : Cluster) : (p.setCluster c k).mem = p.mem := rfl
@[simp] theorem Pkg.setCluster_poison (p : Pkg) (c : Nat) (k : Cluster) : (p.setCluster c k).poison = p.poison := rfl
@[simp] theorem Pkg.setCluster_strands (p : Pkg) (c : Nat) (k : Cluster) : (p.setCluster c k).strands = p.strands := rfl
@[simp] theorem Pkg.setCluster_cores (p : Pkg) (c : Nat) (k : Cluster) : (p.setCluster c k).cores = p.cores := rfl
@[simp] theorem Pkg.setCluster_clusters (p : Pkg) (c : Nat) (k : Cluster) : (p.setCluster c k).clusters = RMap.put p.clusters c k := rfl
@[simp] theorem Pkg.setCluster_crews (p : Pkg) (c : Nat) (k : Cluster) : (p.setCluster c k).crews = p.crews := rfl
@[simp] theorem Pkg.setCluster_launches (p : Pkg) (c : Nat) (k : Cluster) : (p.setCluster c k).launches = p.launches := rfl
@[simp] theorem Pkg.setCluster_accs (p : Pkg) (c : Nat) (k : Cluster) : (p.setCluster c k).accs = p.accs := rfl
@[simp] theorem Pkg.setCluster_nextAcc (p : Pkg) (c : Nat) (k : Cluster) : (p.setCluster c k).nextAcc = p.nextAcc := rfl
@[simp] theorem Pkg.setCluster_early (p : Pkg) (c : Nat) (k : Cluster) : (p.setCluster c k).early = p.early := rfl
@[simp] theorem Pkg.setCluster_codeLog (p : Pkg) (c : Nat) (k : Cluster) : (p.setCluster c k).codeLog = p.codeLog := rfl
@[simp] theorem Pkg.setCluster_tlb (p : Pkg) (c : Nat) (k : Cluster) : (p.setCluster c k).tlb = p.tlb := rfl
@[simp] theorem Pkg.setCluster_walks (p : Pkg) (c : Nat) (k : Cluster) : (p.setCluster c k).walks = p.walks := rfl
@[simp] theorem Pkg.setCluster_ranges (p : Pkg) (c : Nat) (k : Cluster) : (p.setCluster c k).ranges = p.ranges := rfl
@[simp] theorem Pkg.setCluster_wanted (p : Pkg) (c : Nat) (k : Cluster) : (p.setCluster c k).wanted = p.wanted := rfl
@[simp] theorem Pkg.setCluster_joins (p : Pkg) (c : Nat) (k : Cluster) : (p.setCluster c k).joins = p.joins := rfl
@[simp] theorem Pkg.setCluster_nextNum (p : Pkg) (c : Nat) (k : Cluster) : (p.setCluster c k).nextNum = p.nextNum := rfl
@[simp] theorem Pkg.setCluster_decs (p : Pkg) (c : Nat) (k : Cluster) : (p.setCluster c k).decs = p.decs := rfl
@[simp] theorem Pkg.setCluster_unitWaits (p : Pkg) (c : Nat) (k : Cluster) : (p.setCluster c k).unitWaits = p.unitWaits := rfl
@[simp] theorem Pkg.setCluster_pools (p : Pkg) (c : Nat) (k : Cluster) : (p.setCluster c k).pools = p.pools := rfl
@[simp] theorem Pkg.setCluster_pairs (p : Pkg) (c : Nat) (k : Cluster) : (p.setCluster c k).pairs = p.pairs := rfl
@[simp] theorem Pkg.setCluster_swcyc (p : Pkg) (c : Nat) (k : Cluster) : (p.setCluster c k).swcyc = p.swcyc := rfl
@[simp] theorem Pkg.setCluster_swPorts (p : Pkg) (c : Nat) (k : Cluster) : (p.setCluster c k).swPorts = p.swPorts := rfl
@[simp] theorem Pkg.setCluster_colls (p : Pkg) (c : Nat) (k : Cluster) : (p.setCluster c k).colls = p.colls := rfl
@[simp] theorem Pkg.setCluster_collAcc (p : Pkg) (c : Nat) (k : Cluster) : (p.setCluster c k).collAcc = p.collAcc := rfl
@[simp] theorem Pkg.setCluster_collDone (p : Pkg) (c : Nat) (k : Cluster) : (p.setCluster c k).collDone = p.collDone := rfl
@[simp] theorem Pkg.setCluster_collPtr (p : Pkg) (c : Nat) (k : Cluster) : (p.setCluster c k).collPtr = p.collPtr := rfl
@[simp] theorem Pkg.setCluster_holdsIn (p : Pkg) (c : Nat) (k : Cluster) : (p.setCluster c k).holdsIn = p.holdsIn := rfl
@[simp] theorem Pkg.setCluster_holdsOut (p : Pkg) (c : Nat) (k : Cluster) : (p.setCluster c k).holdsOut = p.holdsOut := rfl
@[simp] theorem Pkg.setCluster_inbox (p : Pkg) (c : Nat) (k : Cluster) : (p.setCluster c k).inbox = p.inbox := rfl
@[simp] theorem Pkg.setCluster_outbox (p : Pkg) (c : Nat) (k : Cluster) : (p.setCluster c k).outbox = p.outbox := rfl
@[simp] theorem Pkg.setCluster_granules (p : Pkg) (c : Nat) (k : Cluster) : (p.setCluster c k).granules = p.granules := rfl
@[simp] theorem Pkg.setCluster_ctx (p : Pkg) (c : Nat) (k : Cluster) : (p.setCluster c k).ctx = p.ctx := rfl
@[simp] theorem Pkg.setCluster_time (p : Pkg) (c : Nat) (k : Cluster) : (p.setCluster c k).time = p.time := rfl
@[simp] theorem Pkg.setCluster_cycs (p : Pkg) (c : Nat) (k : Cluster) : (p.setCluster c k).cycs = p.cycs := rfl
@[simp] theorem Pkg.setCluster_tick (p : Pkg) (c : Nat) (k : Cluster) : (p.setCluster c k).tick = p.tick := rfl
@[simp] theorem Pkg.setCluster_nextCrew (p : Pkg) (c : Nat) (k : Cluster) : (p.setCluster c k).nextCrew = p.nextCrew := rfl
@[simp] theorem Pkg.setCluster_nextLaunch (p : Pkg) (c : Nat) (k : Cluster) : (p.setCluster c k).nextLaunch = p.nextLaunch := rfl

@[simp] theorem Pkg.setCrew_mem (p : Pkg) (c : Nat) (k : Crew) : (p.setCrew c k).mem = p.mem := rfl
@[simp] theorem Pkg.setCrew_poison (p : Pkg) (c : Nat) (k : Crew) : (p.setCrew c k).poison = p.poison := rfl
@[simp] theorem Pkg.setCrew_strands (p : Pkg) (c : Nat) (k : Crew) : (p.setCrew c k).strands = p.strands := rfl
@[simp] theorem Pkg.setCrew_cores (p : Pkg) (c : Nat) (k : Crew) : (p.setCrew c k).cores = p.cores := rfl
@[simp] theorem Pkg.setCrew_clusters (p : Pkg) (c : Nat) (k : Crew) : (p.setCrew c k).clusters = p.clusters := rfl
@[simp] theorem Pkg.setCrew_crews (p : Pkg) (c : Nat) (k : Crew) : (p.setCrew c k).crews = RMap.put p.crews c k := rfl
@[simp] theorem Pkg.setCrew_launches (p : Pkg) (c : Nat) (k : Crew) : (p.setCrew c k).launches = p.launches := rfl
@[simp] theorem Pkg.setCrew_accs (p : Pkg) (c : Nat) (k : Crew) : (p.setCrew c k).accs = p.accs := rfl
@[simp] theorem Pkg.setCrew_nextAcc (p : Pkg) (c : Nat) (k : Crew) : (p.setCrew c k).nextAcc = p.nextAcc := rfl
@[simp] theorem Pkg.setCrew_early (p : Pkg) (c : Nat) (k : Crew) : (p.setCrew c k).early = p.early := rfl
@[simp] theorem Pkg.setCrew_codeLog (p : Pkg) (c : Nat) (k : Crew) : (p.setCrew c k).codeLog = p.codeLog := rfl
@[simp] theorem Pkg.setCrew_tlb (p : Pkg) (c : Nat) (k : Crew) : (p.setCrew c k).tlb = p.tlb := rfl
@[simp] theorem Pkg.setCrew_walks (p : Pkg) (c : Nat) (k : Crew) : (p.setCrew c k).walks = p.walks := rfl
@[simp] theorem Pkg.setCrew_ranges (p : Pkg) (c : Nat) (k : Crew) : (p.setCrew c k).ranges = p.ranges := rfl
@[simp] theorem Pkg.setCrew_wanted (p : Pkg) (c : Nat) (k : Crew) : (p.setCrew c k).wanted = p.wanted := rfl
@[simp] theorem Pkg.setCrew_joins (p : Pkg) (c : Nat) (k : Crew) : (p.setCrew c k).joins = p.joins := rfl
@[simp] theorem Pkg.setCrew_nextNum (p : Pkg) (c : Nat) (k : Crew) : (p.setCrew c k).nextNum = p.nextNum := rfl
@[simp] theorem Pkg.setCrew_decs (p : Pkg) (c : Nat) (k : Crew) : (p.setCrew c k).decs = p.decs := rfl
@[simp] theorem Pkg.setCrew_unitWaits (p : Pkg) (c : Nat) (k : Crew) : (p.setCrew c k).unitWaits = p.unitWaits := rfl
@[simp] theorem Pkg.setCrew_pools (p : Pkg) (c : Nat) (k : Crew) : (p.setCrew c k).pools = p.pools := rfl
@[simp] theorem Pkg.setCrew_pairs (p : Pkg) (c : Nat) (k : Crew) : (p.setCrew c k).pairs = p.pairs := rfl
@[simp] theorem Pkg.setCrew_swcyc (p : Pkg) (c : Nat) (k : Crew) : (p.setCrew c k).swcyc = p.swcyc := rfl
@[simp] theorem Pkg.setCrew_swPorts (p : Pkg) (c : Nat) (k : Crew) : (p.setCrew c k).swPorts = p.swPorts := rfl
@[simp] theorem Pkg.setCrew_colls (p : Pkg) (c : Nat) (k : Crew) : (p.setCrew c k).colls = p.colls := rfl
@[simp] theorem Pkg.setCrew_collAcc (p : Pkg) (c : Nat) (k : Crew) : (p.setCrew c k).collAcc = p.collAcc := rfl
@[simp] theorem Pkg.setCrew_collDone (p : Pkg) (c : Nat) (k : Crew) : (p.setCrew c k).collDone = p.collDone := rfl
@[simp] theorem Pkg.setCrew_collPtr (p : Pkg) (c : Nat) (k : Crew) : (p.setCrew c k).collPtr = p.collPtr := rfl
@[simp] theorem Pkg.setCrew_holdsIn (p : Pkg) (c : Nat) (k : Crew) : (p.setCrew c k).holdsIn = p.holdsIn := rfl
@[simp] theorem Pkg.setCrew_holdsOut (p : Pkg) (c : Nat) (k : Crew) : (p.setCrew c k).holdsOut = p.holdsOut := rfl
@[simp] theorem Pkg.setCrew_inbox (p : Pkg) (c : Nat) (k : Crew) : (p.setCrew c k).inbox = p.inbox := rfl
@[simp] theorem Pkg.setCrew_outbox (p : Pkg) (c : Nat) (k : Crew) : (p.setCrew c k).outbox = p.outbox := rfl
@[simp] theorem Pkg.setCrew_granules (p : Pkg) (c : Nat) (k : Crew) : (p.setCrew c k).granules = p.granules := rfl
@[simp] theorem Pkg.setCrew_ctx (p : Pkg) (c : Nat) (k : Crew) : (p.setCrew c k).ctx = p.ctx := rfl
@[simp] theorem Pkg.setCrew_time (p : Pkg) (c : Nat) (k : Crew) : (p.setCrew c k).time = p.time := rfl
@[simp] theorem Pkg.setCrew_cycs (p : Pkg) (c : Nat) (k : Crew) : (p.setCrew c k).cycs = p.cycs := rfl
@[simp] theorem Pkg.setCrew_tick (p : Pkg) (c : Nat) (k : Crew) : (p.setCrew c k).tick = p.tick := rfl
@[simp] theorem Pkg.setCrew_nextCrew (p : Pkg) (c : Nat) (k : Crew) : (p.setCrew c k).nextCrew = p.nextCrew := rfl
@[simp] theorem Pkg.setCrew_nextLaunch (p : Pkg) (c : Nat) (k : Crew) : (p.setCrew c k).nextLaunch = p.nextLaunch := rfl

@[simp] theorem Pkg.setLaunch_mem (p : Pkg) (c : Nat) (k : Launch) : (p.setLaunch c k).mem = p.mem := rfl
@[simp] theorem Pkg.setLaunch_poison (p : Pkg) (c : Nat) (k : Launch) : (p.setLaunch c k).poison = p.poison := rfl
@[simp] theorem Pkg.setLaunch_strands (p : Pkg) (c : Nat) (k : Launch) : (p.setLaunch c k).strands = p.strands := rfl
@[simp] theorem Pkg.setLaunch_cores (p : Pkg) (c : Nat) (k : Launch) : (p.setLaunch c k).cores = p.cores := rfl
@[simp] theorem Pkg.setLaunch_clusters (p : Pkg) (c : Nat) (k : Launch) : (p.setLaunch c k).clusters = p.clusters := rfl
@[simp] theorem Pkg.setLaunch_crews (p : Pkg) (c : Nat) (k : Launch) : (p.setLaunch c k).crews = p.crews := rfl
@[simp] theorem Pkg.setLaunch_launches (p : Pkg) (c : Nat) (k : Launch) : (p.setLaunch c k).launches = RMap.put p.launches c k := rfl
@[simp] theorem Pkg.setLaunch_accs (p : Pkg) (c : Nat) (k : Launch) : (p.setLaunch c k).accs = p.accs := rfl
@[simp] theorem Pkg.setLaunch_nextAcc (p : Pkg) (c : Nat) (k : Launch) : (p.setLaunch c k).nextAcc = p.nextAcc := rfl
@[simp] theorem Pkg.setLaunch_early (p : Pkg) (c : Nat) (k : Launch) : (p.setLaunch c k).early = p.early := rfl
@[simp] theorem Pkg.setLaunch_codeLog (p : Pkg) (c : Nat) (k : Launch) : (p.setLaunch c k).codeLog = p.codeLog := rfl
@[simp] theorem Pkg.setLaunch_tlb (p : Pkg) (c : Nat) (k : Launch) : (p.setLaunch c k).tlb = p.tlb := rfl
@[simp] theorem Pkg.setLaunch_walks (p : Pkg) (c : Nat) (k : Launch) : (p.setLaunch c k).walks = p.walks := rfl
@[simp] theorem Pkg.setLaunch_ranges (p : Pkg) (c : Nat) (k : Launch) : (p.setLaunch c k).ranges = p.ranges := rfl
@[simp] theorem Pkg.setLaunch_wanted (p : Pkg) (c : Nat) (k : Launch) : (p.setLaunch c k).wanted = p.wanted := rfl
@[simp] theorem Pkg.setLaunch_joins (p : Pkg) (c : Nat) (k : Launch) : (p.setLaunch c k).joins = p.joins := rfl
@[simp] theorem Pkg.setLaunch_nextNum (p : Pkg) (c : Nat) (k : Launch) : (p.setLaunch c k).nextNum = p.nextNum := rfl
@[simp] theorem Pkg.setLaunch_decs (p : Pkg) (c : Nat) (k : Launch) : (p.setLaunch c k).decs = p.decs := rfl
@[simp] theorem Pkg.setLaunch_unitWaits (p : Pkg) (c : Nat) (k : Launch) : (p.setLaunch c k).unitWaits = p.unitWaits := rfl
@[simp] theorem Pkg.setLaunch_pools (p : Pkg) (c : Nat) (k : Launch) : (p.setLaunch c k).pools = p.pools := rfl
@[simp] theorem Pkg.setLaunch_pairs (p : Pkg) (c : Nat) (k : Launch) : (p.setLaunch c k).pairs = p.pairs := rfl
@[simp] theorem Pkg.setLaunch_swcyc (p : Pkg) (c : Nat) (k : Launch) : (p.setLaunch c k).swcyc = p.swcyc := rfl
@[simp] theorem Pkg.setLaunch_swPorts (p : Pkg) (c : Nat) (k : Launch) : (p.setLaunch c k).swPorts = p.swPorts := rfl
@[simp] theorem Pkg.setLaunch_colls (p : Pkg) (c : Nat) (k : Launch) : (p.setLaunch c k).colls = p.colls := rfl
@[simp] theorem Pkg.setLaunch_collAcc (p : Pkg) (c : Nat) (k : Launch) : (p.setLaunch c k).collAcc = p.collAcc := rfl
@[simp] theorem Pkg.setLaunch_collDone (p : Pkg) (c : Nat) (k : Launch) : (p.setLaunch c k).collDone = p.collDone := rfl
@[simp] theorem Pkg.setLaunch_collPtr (p : Pkg) (c : Nat) (k : Launch) : (p.setLaunch c k).collPtr = p.collPtr := rfl
@[simp] theorem Pkg.setLaunch_holdsIn (p : Pkg) (c : Nat) (k : Launch) : (p.setLaunch c k).holdsIn = p.holdsIn := rfl
@[simp] theorem Pkg.setLaunch_holdsOut (p : Pkg) (c : Nat) (k : Launch) : (p.setLaunch c k).holdsOut = p.holdsOut := rfl
@[simp] theorem Pkg.setLaunch_inbox (p : Pkg) (c : Nat) (k : Launch) : (p.setLaunch c k).inbox = p.inbox := rfl
@[simp] theorem Pkg.setLaunch_outbox (p : Pkg) (c : Nat) (k : Launch) : (p.setLaunch c k).outbox = p.outbox := rfl
@[simp] theorem Pkg.setLaunch_granules (p : Pkg) (c : Nat) (k : Launch) : (p.setLaunch c k).granules = p.granules := rfl
@[simp] theorem Pkg.setLaunch_ctx (p : Pkg) (c : Nat) (k : Launch) : (p.setLaunch c k).ctx = p.ctx := rfl
@[simp] theorem Pkg.setLaunch_time (p : Pkg) (c : Nat) (k : Launch) : (p.setLaunch c k).time = p.time := rfl
@[simp] theorem Pkg.setLaunch_cycs (p : Pkg) (c : Nat) (k : Launch) : (p.setLaunch c k).cycs = p.cycs := rfl
@[simp] theorem Pkg.setLaunch_tick (p : Pkg) (c : Nat) (k : Launch) : (p.setLaunch c k).tick = p.tick := rfl
@[simp] theorem Pkg.setLaunch_nextCrew (p : Pkg) (c : Nat) (k : Launch) : (p.setLaunch c k).nextCrew = p.nextCrew := rfl
@[simp] theorem Pkg.setLaunch_nextLaunch (p : Pkg) (c : Nat) (k : Launch) : (p.setLaunch c k).nextLaunch = p.nextLaunch := rfl

@[simp] theorem Pkg.setStrand_mem (p : Pkg) (u : Nat) (st : Strand) : (p.setStrand u st).mem = p.mem := rfl
@[simp] theorem Pkg.setStrand_poison (p : Pkg) (u : Nat) (st : Strand) : (p.setStrand u st).poison = p.poison := rfl
@[simp] theorem Pkg.setStrand_strands (p : Pkg) (u : Nat) (st : Strand) : (p.setStrand u st).strands = RMap.put p.strands u st := rfl
@[simp] theorem Pkg.setStrand_cores (p : Pkg) (u : Nat) (st : Strand) : (p.setStrand u st).cores = p.cores := rfl
@[simp] theorem Pkg.setStrand_clusters (p : Pkg) (u : Nat) (st : Strand) : (p.setStrand u st).clusters = p.clusters := rfl
@[simp] theorem Pkg.setStrand_crews (p : Pkg) (u : Nat) (st : Strand) : (p.setStrand u st).crews = p.crews := rfl
@[simp] theorem Pkg.setStrand_launches (p : Pkg) (u : Nat) (st : Strand) : (p.setStrand u st).launches = p.launches := rfl
@[simp] theorem Pkg.setStrand_accs (p : Pkg) (u : Nat) (st : Strand) : (p.setStrand u st).accs = p.accs := rfl
@[simp] theorem Pkg.setStrand_nextAcc (p : Pkg) (u : Nat) (st : Strand) : (p.setStrand u st).nextAcc = p.nextAcc := rfl
@[simp] theorem Pkg.setStrand_early (p : Pkg) (u : Nat) (st : Strand) : (p.setStrand u st).early = p.early := rfl
@[simp] theorem Pkg.setStrand_codeLog (p : Pkg) (u : Nat) (st : Strand) : (p.setStrand u st).codeLog = p.codeLog := rfl
@[simp] theorem Pkg.setStrand_tlb (p : Pkg) (u : Nat) (st : Strand) : (p.setStrand u st).tlb = p.tlb := rfl
@[simp] theorem Pkg.setStrand_walks (p : Pkg) (u : Nat) (st : Strand) : (p.setStrand u st).walks = p.walks := rfl
@[simp] theorem Pkg.setStrand_ranges (p : Pkg) (u : Nat) (st : Strand) : (p.setStrand u st).ranges = p.ranges := rfl
@[simp] theorem Pkg.setStrand_wanted (p : Pkg) (u : Nat) (st : Strand) : (p.setStrand u st).wanted = p.wanted := rfl
@[simp] theorem Pkg.setStrand_joins (p : Pkg) (u : Nat) (st : Strand) : (p.setStrand u st).joins = p.joins := rfl
@[simp] theorem Pkg.setStrand_nextNum (p : Pkg) (u : Nat) (st : Strand) : (p.setStrand u st).nextNum = p.nextNum := rfl
@[simp] theorem Pkg.setStrand_decs (p : Pkg) (u : Nat) (st : Strand) : (p.setStrand u st).decs = p.decs := rfl
@[simp] theorem Pkg.setStrand_unitWaits (p : Pkg) (u : Nat) (st : Strand) : (p.setStrand u st).unitWaits = p.unitWaits := rfl
@[simp] theorem Pkg.setStrand_pools (p : Pkg) (u : Nat) (st : Strand) : (p.setStrand u st).pools = p.pools := rfl
@[simp] theorem Pkg.setStrand_pairs (p : Pkg) (u : Nat) (st : Strand) : (p.setStrand u st).pairs = p.pairs := rfl
@[simp] theorem Pkg.setStrand_swcyc (p : Pkg) (u : Nat) (st : Strand) : (p.setStrand u st).swcyc = p.swcyc := rfl
@[simp] theorem Pkg.setStrand_swPorts (p : Pkg) (u : Nat) (st : Strand) : (p.setStrand u st).swPorts = p.swPorts := rfl
@[simp] theorem Pkg.setStrand_colls (p : Pkg) (u : Nat) (st : Strand) : (p.setStrand u st).colls = p.colls := rfl
@[simp] theorem Pkg.setStrand_collAcc (p : Pkg) (u : Nat) (st : Strand) : (p.setStrand u st).collAcc = p.collAcc := rfl
@[simp] theorem Pkg.setStrand_collDone (p : Pkg) (u : Nat) (st : Strand) : (p.setStrand u st).collDone = p.collDone := rfl
@[simp] theorem Pkg.setStrand_collPtr (p : Pkg) (u : Nat) (st : Strand) : (p.setStrand u st).collPtr = p.collPtr := rfl
@[simp] theorem Pkg.setStrand_holdsIn (p : Pkg) (u : Nat) (st : Strand) : (p.setStrand u st).holdsIn = p.holdsIn := rfl
@[simp] theorem Pkg.setStrand_holdsOut (p : Pkg) (u : Nat) (st : Strand) : (p.setStrand u st).holdsOut = p.holdsOut := rfl
@[simp] theorem Pkg.setStrand_inbox (p : Pkg) (u : Nat) (st : Strand) : (p.setStrand u st).inbox = p.inbox := rfl
@[simp] theorem Pkg.setStrand_outbox (p : Pkg) (u : Nat) (st : Strand) : (p.setStrand u st).outbox = p.outbox := rfl
@[simp] theorem Pkg.setStrand_granules (p : Pkg) (u : Nat) (st : Strand) : (p.setStrand u st).granules = p.granules := rfl
@[simp] theorem Pkg.setStrand_ctx (p : Pkg) (u : Nat) (st : Strand) : (p.setStrand u st).ctx = p.ctx := rfl
@[simp] theorem Pkg.setStrand_time (p : Pkg) (u : Nat) (st : Strand) : (p.setStrand u st).time = p.time := rfl
@[simp] theorem Pkg.setStrand_cycs (p : Pkg) (u : Nat) (st : Strand) : (p.setStrand u st).cycs = p.cycs := rfl
@[simp] theorem Pkg.setStrand_tick (p : Pkg) (u : Nat) (st : Strand) : (p.setStrand u st).tick = p.tick := rfl
@[simp] theorem Pkg.setStrand_nextCrew (p : Pkg) (u : Nat) (st : Strand) : (p.setStrand u st).nextCrew = p.nextCrew := rfl
@[simp] theorem Pkg.setStrand_nextLaunch (p : Pkg) (u : Nat) (st : Strand) : (p.setStrand u st).nextLaunch = p.nextLaunch := rfl

@[simp] theorem Pkg.modStrand_mem (p : Pkg) (u : Nat) (f : Strand → Strand) : (p.modStrand u f).mem = p.mem := rfl
@[simp] theorem Pkg.modStrand_poison (p : Pkg) (u : Nat) (f : Strand → Strand) : (p.modStrand u f).poison = p.poison := rfl
@[simp] theorem Pkg.modStrand_strands (p : Pkg) (u : Nat) (f : Strand → Strand) : (p.modStrand u f).strands = RMap.modify p.strands u f := rfl
@[simp] theorem Pkg.modStrand_cores (p : Pkg) (u : Nat) (f : Strand → Strand) : (p.modStrand u f).cores = p.cores := rfl
@[simp] theorem Pkg.modStrand_clusters (p : Pkg) (u : Nat) (f : Strand → Strand) : (p.modStrand u f).clusters = p.clusters := rfl
@[simp] theorem Pkg.modStrand_crews (p : Pkg) (u : Nat) (f : Strand → Strand) : (p.modStrand u f).crews = p.crews := rfl
@[simp] theorem Pkg.modStrand_launches (p : Pkg) (u : Nat) (f : Strand → Strand) : (p.modStrand u f).launches = p.launches := rfl
@[simp] theorem Pkg.modStrand_accs (p : Pkg) (u : Nat) (f : Strand → Strand) : (p.modStrand u f).accs = p.accs := rfl
@[simp] theorem Pkg.modStrand_nextAcc (p : Pkg) (u : Nat) (f : Strand → Strand) : (p.modStrand u f).nextAcc = p.nextAcc := rfl
@[simp] theorem Pkg.modStrand_early (p : Pkg) (u : Nat) (f : Strand → Strand) : (p.modStrand u f).early = p.early := rfl
@[simp] theorem Pkg.modStrand_codeLog (p : Pkg) (u : Nat) (f : Strand → Strand) : (p.modStrand u f).codeLog = p.codeLog := rfl
@[simp] theorem Pkg.modStrand_tlb (p : Pkg) (u : Nat) (f : Strand → Strand) : (p.modStrand u f).tlb = p.tlb := rfl
@[simp] theorem Pkg.modStrand_walks (p : Pkg) (u : Nat) (f : Strand → Strand) : (p.modStrand u f).walks = p.walks := rfl
@[simp] theorem Pkg.modStrand_ranges (p : Pkg) (u : Nat) (f : Strand → Strand) : (p.modStrand u f).ranges = p.ranges := rfl
@[simp] theorem Pkg.modStrand_wanted (p : Pkg) (u : Nat) (f : Strand → Strand) : (p.modStrand u f).wanted = p.wanted := rfl
@[simp] theorem Pkg.modStrand_joins (p : Pkg) (u : Nat) (f : Strand → Strand) : (p.modStrand u f).joins = p.joins := rfl
@[simp] theorem Pkg.modStrand_nextNum (p : Pkg) (u : Nat) (f : Strand → Strand) : (p.modStrand u f).nextNum = p.nextNum := rfl
@[simp] theorem Pkg.modStrand_decs (p : Pkg) (u : Nat) (f : Strand → Strand) : (p.modStrand u f).decs = p.decs := rfl
@[simp] theorem Pkg.modStrand_unitWaits (p : Pkg) (u : Nat) (f : Strand → Strand) : (p.modStrand u f).unitWaits = p.unitWaits := rfl
@[simp] theorem Pkg.modStrand_pools (p : Pkg) (u : Nat) (f : Strand → Strand) : (p.modStrand u f).pools = p.pools := rfl
@[simp] theorem Pkg.modStrand_pairs (p : Pkg) (u : Nat) (f : Strand → Strand) : (p.modStrand u f).pairs = p.pairs := rfl
@[simp] theorem Pkg.modStrand_swcyc (p : Pkg) (u : Nat) (f : Strand → Strand) : (p.modStrand u f).swcyc = p.swcyc := rfl
@[simp] theorem Pkg.modStrand_swPorts (p : Pkg) (u : Nat) (f : Strand → Strand) : (p.modStrand u f).swPorts = p.swPorts := rfl
@[simp] theorem Pkg.modStrand_colls (p : Pkg) (u : Nat) (f : Strand → Strand) : (p.modStrand u f).colls = p.colls := rfl
@[simp] theorem Pkg.modStrand_collAcc (p : Pkg) (u : Nat) (f : Strand → Strand) : (p.modStrand u f).collAcc = p.collAcc := rfl
@[simp] theorem Pkg.modStrand_collDone (p : Pkg) (u : Nat) (f : Strand → Strand) : (p.modStrand u f).collDone = p.collDone := rfl
@[simp] theorem Pkg.modStrand_collPtr (p : Pkg) (u : Nat) (f : Strand → Strand) : (p.modStrand u f).collPtr = p.collPtr := rfl
@[simp] theorem Pkg.modStrand_holdsIn (p : Pkg) (u : Nat) (f : Strand → Strand) : (p.modStrand u f).holdsIn = p.holdsIn := rfl
@[simp] theorem Pkg.modStrand_holdsOut (p : Pkg) (u : Nat) (f : Strand → Strand) : (p.modStrand u f).holdsOut = p.holdsOut := rfl
@[simp] theorem Pkg.modStrand_inbox (p : Pkg) (u : Nat) (f : Strand → Strand) : (p.modStrand u f).inbox = p.inbox := rfl
@[simp] theorem Pkg.modStrand_outbox (p : Pkg) (u : Nat) (f : Strand → Strand) : (p.modStrand u f).outbox = p.outbox := rfl
@[simp] theorem Pkg.modStrand_granules (p : Pkg) (u : Nat) (f : Strand → Strand) : (p.modStrand u f).granules = p.granules := rfl
@[simp] theorem Pkg.modStrand_ctx (p : Pkg) (u : Nat) (f : Strand → Strand) : (p.modStrand u f).ctx = p.ctx := rfl
@[simp] theorem Pkg.modStrand_time (p : Pkg) (u : Nat) (f : Strand → Strand) : (p.modStrand u f).time = p.time := rfl
@[simp] theorem Pkg.modStrand_cycs (p : Pkg) (u : Nat) (f : Strand → Strand) : (p.modStrand u f).cycs = p.cycs := rfl
@[simp] theorem Pkg.modStrand_tick (p : Pkg) (u : Nat) (f : Strand → Strand) : (p.modStrand u f).tick = p.tick := rfl
@[simp] theorem Pkg.modStrand_nextCrew (p : Pkg) (u : Nat) (f : Strand → Strand) : (p.modStrand u f).nextCrew = p.nextCrew := rfl
@[simp] theorem Pkg.modStrand_nextLaunch (p : Pkg) (u : Nat) (f : Strand → Strand) : (p.modStrand u f).nextLaunch = p.nextLaunch := rfl

@[simp] theorem Pkg.write_mem (p : Pkg) (k : Nat) (bs : List Byte) : (p.write k bs).mem = memWrite p.mem k bs := rfl
@[simp] theorem Pkg.write_poison (p : Pkg) (k : Nat) (bs : List Byte) : (p.write k bs).poison = p.poison := rfl
@[simp] theorem Pkg.write_strands (p : Pkg) (k : Nat) (bs : List Byte) : (p.write k bs).strands = p.strands := rfl
@[simp] theorem Pkg.write_cores (p : Pkg) (k : Nat) (bs : List Byte) : (p.write k bs).cores = p.cores := rfl
@[simp] theorem Pkg.write_clusters (p : Pkg) (k : Nat) (bs : List Byte) : (p.write k bs).clusters = p.clusters := rfl
@[simp] theorem Pkg.write_crews (p : Pkg) (k : Nat) (bs : List Byte) : (p.write k bs).crews = p.crews := rfl
@[simp] theorem Pkg.write_launches (p : Pkg) (k : Nat) (bs : List Byte) : (p.write k bs).launches = p.launches := rfl
@[simp] theorem Pkg.write_accs (p : Pkg) (k : Nat) (bs : List Byte) : (p.write k bs).accs = p.accs := rfl
@[simp] theorem Pkg.write_nextAcc (p : Pkg) (k : Nat) (bs : List Byte) : (p.write k bs).nextAcc = p.nextAcc := rfl
@[simp] theorem Pkg.write_early (p : Pkg) (k : Nat) (bs : List Byte) : (p.write k bs).early = p.early := rfl
@[simp] theorem Pkg.write_codeLog (p : Pkg) (k : Nat) (bs : List Byte) : (p.write k bs).codeLog = p.codeLog := rfl
@[simp] theorem Pkg.write_tlb (p : Pkg) (k : Nat) (bs : List Byte) : (p.write k bs).tlb = p.tlb := rfl
@[simp] theorem Pkg.write_walks (p : Pkg) (k : Nat) (bs : List Byte) : (p.write k bs).walks = p.walks := rfl
@[simp] theorem Pkg.write_ranges (p : Pkg) (k : Nat) (bs : List Byte) : (p.write k bs).ranges = p.ranges := rfl
@[simp] theorem Pkg.write_wanted (p : Pkg) (k : Nat) (bs : List Byte) : (p.write k bs).wanted = p.wanted := rfl
@[simp] theorem Pkg.write_joins (p : Pkg) (k : Nat) (bs : List Byte) : (p.write k bs).joins = p.joins := rfl
@[simp] theorem Pkg.write_nextNum (p : Pkg) (k : Nat) (bs : List Byte) : (p.write k bs).nextNum = p.nextNum := rfl
@[simp] theorem Pkg.write_decs (p : Pkg) (k : Nat) (bs : List Byte) : (p.write k bs).decs = p.decs := rfl
@[simp] theorem Pkg.write_unitWaits (p : Pkg) (k : Nat) (bs : List Byte) : (p.write k bs).unitWaits = p.unitWaits := rfl
@[simp] theorem Pkg.write_pools (p : Pkg) (k : Nat) (bs : List Byte) : (p.write k bs).pools = p.pools := rfl
@[simp] theorem Pkg.write_pairs (p : Pkg) (k : Nat) (bs : List Byte) : (p.write k bs).pairs = p.pairs := rfl
@[simp] theorem Pkg.write_swcyc (p : Pkg) (k : Nat) (bs : List Byte) : (p.write k bs).swcyc = p.swcyc := rfl
@[simp] theorem Pkg.write_swPorts (p : Pkg) (k : Nat) (bs : List Byte) : (p.write k bs).swPorts = p.swPorts := rfl
@[simp] theorem Pkg.write_colls (p : Pkg) (k : Nat) (bs : List Byte) : (p.write k bs).colls = p.colls := rfl
@[simp] theorem Pkg.write_collAcc (p : Pkg) (k : Nat) (bs : List Byte) : (p.write k bs).collAcc = p.collAcc := rfl
@[simp] theorem Pkg.write_collDone (p : Pkg) (k : Nat) (bs : List Byte) : (p.write k bs).collDone = p.collDone := rfl
@[simp] theorem Pkg.write_collPtr (p : Pkg) (k : Nat) (bs : List Byte) : (p.write k bs).collPtr = p.collPtr := rfl
@[simp] theorem Pkg.write_holdsIn (p : Pkg) (k : Nat) (bs : List Byte) : (p.write k bs).holdsIn = p.holdsIn := rfl
@[simp] theorem Pkg.write_holdsOut (p : Pkg) (k : Nat) (bs : List Byte) : (p.write k bs).holdsOut = p.holdsOut := rfl
@[simp] theorem Pkg.write_inbox (p : Pkg) (k : Nat) (bs : List Byte) : (p.write k bs).inbox = p.inbox := rfl
@[simp] theorem Pkg.write_outbox (p : Pkg) (k : Nat) (bs : List Byte) : (p.write k bs).outbox = p.outbox := rfl
@[simp] theorem Pkg.write_granules (p : Pkg) (k : Nat) (bs : List Byte) : (p.write k bs).granules = p.granules := rfl
@[simp] theorem Pkg.write_ctx (p : Pkg) (k : Nat) (bs : List Byte) : (p.write k bs).ctx = p.ctx := rfl
@[simp] theorem Pkg.write_time (p : Pkg) (k : Nat) (bs : List Byte) : (p.write k bs).time = p.time := rfl
@[simp] theorem Pkg.write_cycs (p : Pkg) (k : Nat) (bs : List Byte) : (p.write k bs).cycs = p.cycs := rfl
@[simp] theorem Pkg.write_tick (p : Pkg) (k : Nat) (bs : List Byte) : (p.write k bs).tick = p.tick := rfl
@[simp] theorem Pkg.write_nextCrew (p : Pkg) (k : Nat) (bs : List Byte) : (p.write k bs).nextCrew = p.nextCrew := rfl
@[simp] theorem Pkg.write_nextLaunch (p : Pkg) (k : Nat) (bs : List Byte) : (p.write k bs).nextLaunch = p.nextLaunch := rfl

@[simp] theorem Strand.mark_crew (st : Strand) (b : Nat) : (st.mark b).crew = st.crew := rfl
@[simp] theorem Strand.mark_idx (st : Strand) (b : Nat) : (st.mark b).idx = st.idx := rfl
@[simp] theorem Strand.mark_core (st : Strand) (b : Nat) : (st.mark b).core = st.core := rfl
@[simp] theorem Strand.mark_sn (st : Strand) (b : Nat) : (st.mark b).sn = st.sn := rfl
@[simp] theorem Strand.mark_x (st : Strand) (b : Nat) : (st.mark b).x = st.x := rfl
@[simp] theorem Strand.mark_p (st : Strand) (b : Nat) : (st.mark b).p = st.p := rfl
@[simp] theorem Strand.mark_m (st : Strand) (b : Nat) : (st.mark b).m = st.m := rfl
@[simp] theorem Strand.mark_q (st : Strand) (b : Nat) : (st.mark b).q = st.q := rfl
@[simp] theorem Strand.mark_e (st : Strand) (b : Nat) : (st.mark b).e = st.e := rfl
@[simp] theorem Strand.mark_v (st : Strand) (b : Nat) : (st.mark b).v = st.v := rfl
@[simp] theorem Strand.mark_banks (st : Strand) (b : Nat) : (st.mark b).banks = st.banks := rfl
@[simp] theorem Strand.mark_latch (st : Strand) (b : Nat) : (st.mark b).latch = st.latch := rfl
@[simp] theorem Strand.mark_l3acc (st : Strand) (b : Nat) : (st.mark b).l3acc = st.l3acc := rfl
@[simp] theorem Strand.mark_l3lost (st : Strand) (b : Nat) : (st.mark b).l3lost = st.l3lost := rfl
@[simp] theorem Strand.mark_fmt (st : Strand) (b : Nat) : (st.mark b).fmt = st.fmt := rfl
@[simp] theorem Strand.mark_fmtPipe (st : Strand) (b : Nat) : (st.mark b).fmtPipe = st.fmtPipe := rfl
@[simp] theorem Strand.mark_issues (st : Strand) (b : Nat) : (st.mark b).issues = st.issues := rfl
@[simp] theorem Strand.mark_sup (st : Strand) (b : Nat) : (st.mark b).sup = st.sup := rfl
@[simp] theorem Strand.mark_inh (st : Strand) (b : Nat) : (st.mark b).inh = st.inh := rfl
@[simp] theorem Strand.mark_retn (st : Strand) (b : Nat) : (st.mark b).retn = st.retn := rfl
@[simp] theorem Strand.mark_tcause (st : Strand) (b : Nat) : (st.mark b).tcause = st.tcause := rfl
@[simp] theorem Strand.mark_tpc (st : Strand) (b : Nat) : (st.mark b).tpc = st.tpc := rfl
@[simp] theorem Strand.mark_tval (st : Strand) (b : Nat) : (st.mark b).tval = st.tval := rfl
@[simp] theorem Strand.mark_tstat (st : Strand) (b : Nat) : (st.mark b).tstat = st.tstat := rfl
@[simp] theorem Strand.mark_tvec (st : Strand) (b : Nat) : (st.mark b).tvec = st.tvec := rfl
@[simp] theorem Strand.mark_tscr (st : Strand) (b : Nat) : (st.mark b).tscr = st.tscr := rfl
@[simp] theorem Strand.mark_dirty (st : Strand) (b : Nat) : (st.mark b).dirty = st.dirty ||| BitVec.ofNat 30 (2 ^ b) := rfl
@[simp] theorem Strand.mark_sticky (st : Strand) (b : Nat) : (st.mark b).sticky = st.sticky := rfl
@[simp] theorem Strand.mark_trapSet (st : Strand) (b : Nat) : (st.mark b).trapSet = st.trapSet := rfl
@[simp] theorem Strand.mark_pend (st : Strand) (b : Nat) : (st.mark b).pend = st.pend := rfl
@[simp] theorem Strand.mark_pc (st : Strand) (b : Nat) : (st.mark b).pc = st.pc := rfl
@[simp] theorem Strand.mark_phase (st : Strand) (b : Nat) : (st.mark b).phase = st.phase := rfl
@[simp] theorem Strand.mark_bun (st : Strand) (b : Nat) : (st.mark b).bun = st.bun := rfl
@[simp] theorem Strand.mark_depth (st : Strand) (b : Nat) : (st.mark b).depth = st.depth := rfl
@[simp] theorem Strand.mark_rslot (st : Strand) (b : Nat) : (st.mark b).rslot = st.rslot := rfl
@[simp] theorem Strand.mark_run (st : Strand) (b : Nat) : (st.mark b).run = st.run := rfl
@[simp] theorem Strand.mark_grant (st : Strand) (b : Nat) : (st.mark b).grant = st.grant := rfl
@[simp] theorem Strand.mark_xpend (st : Strand) (b : Nat) : (st.mark b).xpend = st.xpend := rfl
@[simp] theorem Strand.mark_vpend (st : Strand) (b : Nat) : (st.mark b).vpend = st.vpend := rfl
@[simp] theorem Strand.mark_async (st : Strand) (b : Nat) : (st.mark b).async = st.async := rfl
@[simp] theorem Strand.mark_idleHandler (st : Strand) (b : Nat) : (st.mark b).idleHandler = st.idleHandler := rfl
@[simp] theorem Strand.mark_refCount (st : Strand) (b : Nat) : (st.mark b).refCount = st.refCount := rfl
@[simp] theorem Strand.mark_refCause (st : Strand) (b : Nat) : (st.mark b).refCause = st.refCause := rfl
@[simp] theorem Strand.mark_refScope (st : Strand) (b : Nat) : (st.mark b).refScope = st.refScope := rfl
@[simp] theorem Strand.mark_shadow (st : Strand) (b : Nat) : (st.mark b).shadow = st.shadow := rfl
@[simp] theorem Strand.mark_acqAt (st : Strand) (b : Nat) : (st.mark b).acqAt = st.acqAt := rfl
@[simp] theorem Strand.mark_codeFence (st : Strand) (b : Nat) : (st.mark b).codeFence = st.codeFence := rfl
@[simp] theorem Strand.mark_codeSeen (st : Strand) (b : Nat) : (st.mark b).codeSeen = st.codeSeen := rfl
@[simp] theorem Strand.mark_collq (st : Strand) (b : Nat) : (st.mark b).collq = st.collq := rfl
@[simp] theorem Strand.mark_grace (st : Strand) (b : Nat) : (st.mark b).grace = st.grace := rfl
@[simp] theorem Strand.mark_lost (st : Strand) (b : Nat) : (st.mark b).lost = st.lost := rfl
@[simp] theorem Strand.mark_contained (st : Strand) (b : Nat) : (st.mark b).contained = st.contained := rfl

@[simp] theorem Strand.setL_crew (st : Strand) (n : Nat) (v : V) : (st.setL n v).crew = st.crew := rfl
@[simp] theorem Strand.setL_idx (st : Strand) (n : Nat) (v : V) : (st.setL n v).idx = st.idx := rfl
@[simp] theorem Strand.setL_core (st : Strand) (n : Nat) (v : V) : (st.setL n v).core = st.core := rfl
@[simp] theorem Strand.setL_sn (st : Strand) (n : Nat) (v : V) : (st.setL n v).sn = st.sn := rfl
@[simp] theorem Strand.setL_x (st : Strand) (n : Nat) (v : V) : (st.setL n v).x = st.x := rfl
@[simp] theorem Strand.setL_p (st : Strand) (n : Nat) (v : V) : (st.setL n v).p = st.p := rfl
@[simp] theorem Strand.setL_m (st : Strand) (n : Nat) (v : V) : (st.setL n v).m = st.m := rfl
@[simp] theorem Strand.setL_q (st : Strand) (n : Nat) (v : V) : (st.setL n v).q = st.q := rfl
@[simp] theorem Strand.setL_e (st : Strand) (n : Nat) (v : V) : (st.setL n v).e = st.e := rfl
@[simp] theorem Strand.setL_v (st : Strand) (n : Nat) (v : V) : (st.setL n v).v = st.v := rfl
@[simp] theorem Strand.setL_banks (st : Strand) (n : Nat) (v : V) : (st.setL n v).banks = st.banks := rfl
@[simp] theorem Strand.setL_latch (st : Strand) (n : Nat) (v : V) : (st.setL n v).latch = st.latch.put n v := rfl
@[simp] theorem Strand.setL_l3acc (st : Strand) (n : Nat) (v : V) : (st.setL n v).l3acc = if n = 3 then none else st.l3acc := rfl
@[simp] theorem Strand.setL_l3lost (st : Strand) (n : Nat) (v : V) : (st.setL n v).l3lost = st.l3lost := rfl
@[simp] theorem Strand.setL_fmt (st : Strand) (n : Nat) (v : V) : (st.setL n v).fmt = st.fmt := rfl
@[simp] theorem Strand.setL_fmtPipe (st : Strand) (n : Nat) (v : V) : (st.setL n v).fmtPipe = st.fmtPipe := rfl
@[simp] theorem Strand.setL_issues (st : Strand) (n : Nat) (v : V) : (st.setL n v).issues = st.issues := rfl
@[simp] theorem Strand.setL_sup (st : Strand) (n : Nat) (v : V) : (st.setL n v).sup = st.sup := rfl
@[simp] theorem Strand.setL_inh (st : Strand) (n : Nat) (v : V) : (st.setL n v).inh = st.inh := rfl
@[simp] theorem Strand.setL_retn (st : Strand) (n : Nat) (v : V) : (st.setL n v).retn = st.retn := rfl
@[simp] theorem Strand.setL_tcause (st : Strand) (n : Nat) (v : V) : (st.setL n v).tcause = st.tcause := rfl
@[simp] theorem Strand.setL_tpc (st : Strand) (n : Nat) (v : V) : (st.setL n v).tpc = st.tpc := rfl
@[simp] theorem Strand.setL_tval (st : Strand) (n : Nat) (v : V) : (st.setL n v).tval = st.tval := rfl
@[simp] theorem Strand.setL_tstat (st : Strand) (n : Nat) (v : V) : (st.setL n v).tstat = st.tstat := rfl
@[simp] theorem Strand.setL_tvec (st : Strand) (n : Nat) (v : V) : (st.setL n v).tvec = st.tvec := rfl
@[simp] theorem Strand.setL_tscr (st : Strand) (n : Nat) (v : V) : (st.setL n v).tscr = st.tscr := rfl
@[simp] theorem Strand.setL_dirty (st : Strand) (n : Nat) (v : V) : (st.setL n v).dirty = st.dirty := rfl
@[simp] theorem Strand.setL_sticky (st : Strand) (n : Nat) (v : V) : (st.setL n v).sticky = st.sticky := rfl
@[simp] theorem Strand.setL_trapSet (st : Strand) (n : Nat) (v : V) : (st.setL n v).trapSet = st.trapSet := rfl
@[simp] theorem Strand.setL_pend (st : Strand) (n : Nat) (v : V) : (st.setL n v).pend = st.pend := rfl
@[simp] theorem Strand.setL_pc (st : Strand) (n : Nat) (v : V) : (st.setL n v).pc = st.pc := rfl
@[simp] theorem Strand.setL_phase (st : Strand) (n : Nat) (v : V) : (st.setL n v).phase = st.phase := rfl
@[simp] theorem Strand.setL_bun (st : Strand) (n : Nat) (v : V) : (st.setL n v).bun = st.bun := rfl
@[simp] theorem Strand.setL_depth (st : Strand) (n : Nat) (v : V) : (st.setL n v).depth = st.depth := rfl
@[simp] theorem Strand.setL_rslot (st : Strand) (n : Nat) (v : V) : (st.setL n v).rslot = st.rslot := rfl
@[simp] theorem Strand.setL_run (st : Strand) (n : Nat) (v : V) : (st.setL n v).run = st.run := rfl
@[simp] theorem Strand.setL_grant (st : Strand) (n : Nat) (v : V) : (st.setL n v).grant = st.grant := rfl
@[simp] theorem Strand.setL_xpend (st : Strand) (n : Nat) (v : V) : (st.setL n v).xpend = st.xpend := rfl
@[simp] theorem Strand.setL_vpend (st : Strand) (n : Nat) (v : V) : (st.setL n v).vpend = st.vpend := rfl
@[simp] theorem Strand.setL_async (st : Strand) (n : Nat) (v : V) : (st.setL n v).async = st.async := rfl
@[simp] theorem Strand.setL_idleHandler (st : Strand) (n : Nat) (v : V) : (st.setL n v).idleHandler = st.idleHandler := rfl
@[simp] theorem Strand.setL_refCount (st : Strand) (n : Nat) (v : V) : (st.setL n v).refCount = st.refCount := rfl
@[simp] theorem Strand.setL_refCause (st : Strand) (n : Nat) (v : V) : (st.setL n v).refCause = st.refCause := rfl
@[simp] theorem Strand.setL_refScope (st : Strand) (n : Nat) (v : V) : (st.setL n v).refScope = st.refScope := rfl
@[simp] theorem Strand.setL_shadow (st : Strand) (n : Nat) (v : V) : (st.setL n v).shadow = st.shadow := rfl
@[simp] theorem Strand.setL_acqAt (st : Strand) (n : Nat) (v : V) : (st.setL n v).acqAt = st.acqAt := rfl
@[simp] theorem Strand.setL_codeFence (st : Strand) (n : Nat) (v : V) : (st.setL n v).codeFence = st.codeFence := rfl
@[simp] theorem Strand.setL_codeSeen (st : Strand) (n : Nat) (v : V) : (st.setL n v).codeSeen = st.codeSeen := rfl
@[simp] theorem Strand.setL_collq (st : Strand) (n : Nat) (v : V) : (st.setL n v).collq = st.collq := rfl
@[simp] theorem Strand.setL_grace (st : Strand) (n : Nat) (v : V) : (st.setL n v).grace = st.grace := rfl
@[simp] theorem Strand.setL_lost (st : Strand) (n : Nat) (v : V) : (st.setL n v).lost = st.lost := rfl
@[simp] theorem Strand.setL_contained (st : Strand) (n : Nat) (v : V) : (st.setL n v).contained = st.contained := rfl

@[simp] theorem Strand.setE_crew (st : Strand) (n : Nat) (v : BitVec 16) : (st.setE n v).crew = st.crew := rfl
@[simp] theorem Strand.setE_idx (st : Strand) (n : Nat) (v : BitVec 16) : (st.setE n v).idx = st.idx := rfl
@[simp] theorem Strand.setE_core (st : Strand) (n : Nat) (v : BitVec 16) : (st.setE n v).core = st.core := rfl
@[simp] theorem Strand.setE_sn (st : Strand) (n : Nat) (v : BitVec 16) : (st.setE n v).sn = st.sn := rfl
@[simp] theorem Strand.setE_x (st : Strand) (n : Nat) (v : BitVec 16) : (st.setE n v).x = st.x := rfl
@[simp] theorem Strand.setE_p (st : Strand) (n : Nat) (v : BitVec 16) : (st.setE n v).p = st.p := rfl
@[simp] theorem Strand.setE_m (st : Strand) (n : Nat) (v : BitVec 16) : (st.setE n v).m = st.m := rfl
@[simp] theorem Strand.setE_q (st : Strand) (n : Nat) (v : BitVec 16) : (st.setE n v).q = st.q := rfl
@[simp] theorem Strand.setE_e (st : Strand) (n : Nat) (v : BitVec 16) : (st.setE n v).e = RMap.set st.e 0 n v := rfl
@[simp] theorem Strand.setE_v (st : Strand) (n : Nat) (v : BitVec 16) : (st.setE n v).v = st.v := rfl
@[simp] theorem Strand.setE_banks (st : Strand) (n : Nat) (v : BitVec 16) : (st.setE n v).banks = st.banks := rfl
@[simp] theorem Strand.setE_latch (st : Strand) (n : Nat) (v : BitVec 16) : (st.setE n v).latch = st.latch := rfl
@[simp] theorem Strand.setE_l3acc (st : Strand) (n : Nat) (v : BitVec 16) : (st.setE n v).l3acc = st.l3acc := rfl
@[simp] theorem Strand.setE_l3lost (st : Strand) (n : Nat) (v : BitVec 16) : (st.setE n v).l3lost = st.l3lost := rfl
@[simp] theorem Strand.setE_fmt (st : Strand) (n : Nat) (v : BitVec 16) : (st.setE n v).fmt = st.fmt := rfl
@[simp] theorem Strand.setE_fmtPipe (st : Strand) (n : Nat) (v : BitVec 16) : (st.setE n v).fmtPipe = st.fmtPipe := rfl
@[simp] theorem Strand.setE_issues (st : Strand) (n : Nat) (v : BitVec 16) : (st.setE n v).issues = st.issues := rfl
@[simp] theorem Strand.setE_sup (st : Strand) (n : Nat) (v : BitVec 16) : (st.setE n v).sup = st.sup := rfl
@[simp] theorem Strand.setE_inh (st : Strand) (n : Nat) (v : BitVec 16) : (st.setE n v).inh = st.inh := rfl
@[simp] theorem Strand.setE_retn (st : Strand) (n : Nat) (v : BitVec 16) : (st.setE n v).retn = st.retn := rfl
@[simp] theorem Strand.setE_tcause (st : Strand) (n : Nat) (v : BitVec 16) : (st.setE n v).tcause = st.tcause := rfl
@[simp] theorem Strand.setE_tpc (st : Strand) (n : Nat) (v : BitVec 16) : (st.setE n v).tpc = st.tpc := rfl
@[simp] theorem Strand.setE_tval (st : Strand) (n : Nat) (v : BitVec 16) : (st.setE n v).tval = st.tval := rfl
@[simp] theorem Strand.setE_tstat (st : Strand) (n : Nat) (v : BitVec 16) : (st.setE n v).tstat = st.tstat := rfl
@[simp] theorem Strand.setE_tvec (st : Strand) (n : Nat) (v : BitVec 16) : (st.setE n v).tvec = st.tvec := rfl
@[simp] theorem Strand.setE_tscr (st : Strand) (n : Nat) (v : BitVec 16) : (st.setE n v).tscr = st.tscr := rfl
@[simp] theorem Strand.setE_dirty (st : Strand) (n : Nat) (v : BitVec 16) : (st.setE n v).dirty = st.dirty ||| BitVec.ofNat 30 (2 ^ 15) := rfl
@[simp] theorem Strand.setE_sticky (st : Strand) (n : Nat) (v : BitVec 16) : (st.setE n v).sticky = st.sticky := rfl
@[simp] theorem Strand.setE_trapSet (st : Strand) (n : Nat) (v : BitVec 16) : (st.setE n v).trapSet = st.trapSet := rfl
@[simp] theorem Strand.setE_pend (st : Strand) (n : Nat) (v : BitVec 16) : (st.setE n v).pend = st.pend := rfl
@[simp] theorem Strand.setE_pc (st : Strand) (n : Nat) (v : BitVec 16) : (st.setE n v).pc = st.pc := rfl
@[simp] theorem Strand.setE_phase (st : Strand) (n : Nat) (v : BitVec 16) : (st.setE n v).phase = st.phase := rfl
@[simp] theorem Strand.setE_bun (st : Strand) (n : Nat) (v : BitVec 16) : (st.setE n v).bun = st.bun := rfl
@[simp] theorem Strand.setE_depth (st : Strand) (n : Nat) (v : BitVec 16) : (st.setE n v).depth = st.depth := rfl
@[simp] theorem Strand.setE_rslot (st : Strand) (n : Nat) (v : BitVec 16) : (st.setE n v).rslot = st.rslot := rfl
@[simp] theorem Strand.setE_run (st : Strand) (n : Nat) (v : BitVec 16) : (st.setE n v).run = st.run := rfl
@[simp] theorem Strand.setE_grant (st : Strand) (n : Nat) (v : BitVec 16) : (st.setE n v).grant = st.grant := rfl
@[simp] theorem Strand.setE_xpend (st : Strand) (n : Nat) (v : BitVec 16) : (st.setE n v).xpend = st.xpend := rfl
@[simp] theorem Strand.setE_vpend (st : Strand) (n : Nat) (v : BitVec 16) : (st.setE n v).vpend = st.vpend := rfl
@[simp] theorem Strand.setE_async (st : Strand) (n : Nat) (v : BitVec 16) : (st.setE n v).async = st.async := rfl
@[simp] theorem Strand.setE_idleHandler (st : Strand) (n : Nat) (v : BitVec 16) : (st.setE n v).idleHandler = st.idleHandler := rfl
@[simp] theorem Strand.setE_refCount (st : Strand) (n : Nat) (v : BitVec 16) : (st.setE n v).refCount = st.refCount := rfl
@[simp] theorem Strand.setE_refCause (st : Strand) (n : Nat) (v : BitVec 16) : (st.setE n v).refCause = st.refCause := rfl
@[simp] theorem Strand.setE_refScope (st : Strand) (n : Nat) (v : BitVec 16) : (st.setE n v).refScope = st.refScope := rfl
@[simp] theorem Strand.setE_shadow (st : Strand) (n : Nat) (v : BitVec 16) : (st.setE n v).shadow = st.shadow := rfl
@[simp] theorem Strand.setE_acqAt (st : Strand) (n : Nat) (v : BitVec 16) : (st.setE n v).acqAt = st.acqAt := rfl
@[simp] theorem Strand.setE_codeFence (st : Strand) (n : Nat) (v : BitVec 16) : (st.setE n v).codeFence = st.codeFence := rfl
@[simp] theorem Strand.setE_codeSeen (st : Strand) (n : Nat) (v : BitVec 16) : (st.setE n v).codeSeen = st.codeSeen := rfl
@[simp] theorem Strand.setE_collq (st : Strand) (n : Nat) (v : BitVec 16) : (st.setE n v).collq = st.collq := rfl
@[simp] theorem Strand.setE_grace (st : Strand) (n : Nat) (v : BitVec 16) : (st.setE n v).grace = st.grace := rfl
@[simp] theorem Strand.setE_lost (st : Strand) (n : Nat) (v : BitVec 16) : (st.setE n v).lost = st.lost := rfl
@[simp] theorem Strand.setE_contained (st : Strand) (n : Nat) (v : BitVec 16) : (st.setE n v).contained = st.contained := rfl

@[simp] theorem Strand.setV_crew (st : Strand) (n : Nat) (v : V) : (st.setV n v).crew = st.crew := rfl
@[simp] theorem Strand.setV_idx (st : Strand) (n : Nat) (v : V) : (st.setV n v).idx = st.idx := rfl
@[simp] theorem Strand.setV_core (st : Strand) (n : Nat) (v : V) : (st.setV n v).core = st.core := rfl
@[simp] theorem Strand.setV_sn (st : Strand) (n : Nat) (v : V) : (st.setV n v).sn = st.sn := rfl
@[simp] theorem Strand.setV_x (st : Strand) (n : Nat) (v : V) : (st.setV n v).x = st.x := rfl
@[simp] theorem Strand.setV_p (st : Strand) (n : Nat) (v : V) : (st.setV n v).p = st.p := rfl
@[simp] theorem Strand.setV_m (st : Strand) (n : Nat) (v : V) : (st.setV n v).m = st.m := rfl
@[simp] theorem Strand.setV_q (st : Strand) (n : Nat) (v : V) : (st.setV n v).q = st.q := rfl
@[simp] theorem Strand.setV_e (st : Strand) (n : Nat) (v : V) : (st.setV n v).e = st.e := rfl
@[simp] theorem Strand.setV_v (st : Strand) (n : Nat) (v : V) : (st.setV n v).v = RMap.set (st.usedV n) 0 n v := rfl
@[simp] theorem Strand.setV_banks (st : Strand) (n : Nat) (v : V) : (st.setV n v).banks = st.banks := rfl
@[simp] theorem Strand.setV_latch (st : Strand) (n : Nat) (v : V) : (st.setV n v).latch = st.latch := rfl
@[simp] theorem Strand.setV_l3acc (st : Strand) (n : Nat) (v : V) : (st.setV n v).l3acc = st.l3acc := rfl
@[simp] theorem Strand.setV_l3lost (st : Strand) (n : Nat) (v : V) : (st.setV n v).l3lost = st.l3lost := rfl
@[simp] theorem Strand.setV_fmt (st : Strand) (n : Nat) (v : V) : (st.setV n v).fmt = st.fmt := rfl
@[simp] theorem Strand.setV_fmtPipe (st : Strand) (n : Nat) (v : V) : (st.setV n v).fmtPipe = st.fmtPipe := rfl
@[simp] theorem Strand.setV_issues (st : Strand) (n : Nat) (v : V) : (st.setV n v).issues = st.issues := rfl
@[simp] theorem Strand.setV_sup (st : Strand) (n : Nat) (v : V) : (st.setV n v).sup = st.sup := rfl
@[simp] theorem Strand.setV_inh (st : Strand) (n : Nat) (v : V) : (st.setV n v).inh = st.inh := rfl
@[simp] theorem Strand.setV_retn (st : Strand) (n : Nat) (v : V) : (st.setV n v).retn = st.retn := rfl
@[simp] theorem Strand.setV_tcause (st : Strand) (n : Nat) (v : V) : (st.setV n v).tcause = st.tcause := rfl
@[simp] theorem Strand.setV_tpc (st : Strand) (n : Nat) (v : V) : (st.setV n v).tpc = st.tpc := rfl
@[simp] theorem Strand.setV_tval (st : Strand) (n : Nat) (v : V) : (st.setV n v).tval = st.tval := rfl
@[simp] theorem Strand.setV_tstat (st : Strand) (n : Nat) (v : V) : (st.setV n v).tstat = st.tstat := rfl
@[simp] theorem Strand.setV_tvec (st : Strand) (n : Nat) (v : V) : (st.setV n v).tvec = st.tvec := rfl
@[simp] theorem Strand.setV_tscr (st : Strand) (n : Nat) (v : V) : (st.setV n v).tscr = st.tscr := rfl
@[simp] theorem Strand.setV_dirty (st : Strand) (n : Nat) (v : V) : (st.setV n v).dirty = st.dirty ||| BitVec.ofNat 30 (2 ^ (n / 64)) ||| BitVec.ofNat 30 (2 ^ (18 + n / 64)) := rfl
@[simp] theorem Strand.setV_sticky (st : Strand) (n : Nat) (v : V) : (st.setV n v).sticky = st.sticky := rfl
@[simp] theorem Strand.setV_trapSet (st : Strand) (n : Nat) (v : V) : (st.setV n v).trapSet = st.trapSet := rfl
@[simp] theorem Strand.setV_pend (st : Strand) (n : Nat) (v : V) : (st.setV n v).pend = st.pend := rfl
@[simp] theorem Strand.setV_pc (st : Strand) (n : Nat) (v : V) : (st.setV n v).pc = st.pc := rfl
@[simp] theorem Strand.setV_phase (st : Strand) (n : Nat) (v : V) : (st.setV n v).phase = st.phase := rfl
@[simp] theorem Strand.setV_bun (st : Strand) (n : Nat) (v : V) : (st.setV n v).bun = st.bun := rfl
@[simp] theorem Strand.setV_depth (st : Strand) (n : Nat) (v : V) : (st.setV n v).depth = st.depth := rfl
@[simp] theorem Strand.setV_rslot (st : Strand) (n : Nat) (v : V) : (st.setV n v).rslot = st.rslot := rfl
@[simp] theorem Strand.setV_run (st : Strand) (n : Nat) (v : V) : (st.setV n v).run = st.run := rfl
@[simp] theorem Strand.setV_grant (st : Strand) (n : Nat) (v : V) : (st.setV n v).grant = st.grant := rfl
@[simp] theorem Strand.setV_xpend (st : Strand) (n : Nat) (v : V) : (st.setV n v).xpend = st.xpend := rfl
@[simp] theorem Strand.setV_vpend (st : Strand) (n : Nat) (v : V) : (st.setV n v).vpend = st.vpend := rfl
@[simp] theorem Strand.setV_async (st : Strand) (n : Nat) (v : V) : (st.setV n v).async = st.async := rfl
@[simp] theorem Strand.setV_idleHandler (st : Strand) (n : Nat) (v : V) : (st.setV n v).idleHandler = st.idleHandler := rfl
@[simp] theorem Strand.setV_refCount (st : Strand) (n : Nat) (v : V) : (st.setV n v).refCount = st.refCount := rfl
@[simp] theorem Strand.setV_refCause (st : Strand) (n : Nat) (v : V) : (st.setV n v).refCause = st.refCause := rfl
@[simp] theorem Strand.setV_refScope (st : Strand) (n : Nat) (v : V) : (st.setV n v).refScope = st.refScope := rfl
@[simp] theorem Strand.setV_shadow (st : Strand) (n : Nat) (v : V) : (st.setV n v).shadow = st.shadow := rfl
@[simp] theorem Strand.setV_acqAt (st : Strand) (n : Nat) (v : V) : (st.setV n v).acqAt = st.acqAt := rfl
@[simp] theorem Strand.setV_codeFence (st : Strand) (n : Nat) (v : V) : (st.setV n v).codeFence = st.codeFence := rfl
@[simp] theorem Strand.setV_codeSeen (st : Strand) (n : Nat) (v : V) : (st.setV n v).codeSeen = st.codeSeen := rfl
@[simp] theorem Strand.setV_collq (st : Strand) (n : Nat) (v : V) : (st.setV n v).collq = st.collq := rfl
@[simp] theorem Strand.setV_grace (st : Strand) (n : Nat) (v : V) : (st.setV n v).grace = st.grace := rfl
@[simp] theorem Strand.setV_lost (st : Strand) (n : Nat) (v : V) : (st.setV n v).lost = st.lost := rfl
@[simp] theorem Strand.setV_contained (st : Strand) (n : Nat) (v : V) : (st.setV n v).contained = st.contained := rfl

@[simp] theorem Strand.setQ_crew (st : Strand) (n : Nat) (l : List QEnt) : (st.setQ n l).crew = st.crew := rfl
@[simp] theorem Strand.setQ_idx (st : Strand) (n : Nat) (l : List QEnt) : (st.setQ n l).idx = st.idx := rfl
@[simp] theorem Strand.setQ_core (st : Strand) (n : Nat) (l : List QEnt) : (st.setQ n l).core = st.core := rfl
@[simp] theorem Strand.setQ_sn (st : Strand) (n : Nat) (l : List QEnt) : (st.setQ n l).sn = st.sn := rfl
@[simp] theorem Strand.setQ_x (st : Strand) (n : Nat) (l : List QEnt) : (st.setQ n l).x = st.x := rfl
@[simp] theorem Strand.setQ_p (st : Strand) (n : Nat) (l : List QEnt) : (st.setQ n l).p = st.p := rfl
@[simp] theorem Strand.setQ_m (st : Strand) (n : Nat) (l : List QEnt) : (st.setQ n l).m = st.m := rfl
@[simp] theorem Strand.setQ_q (st : Strand) (n : Nat) (l : List QEnt) : (st.setQ n l).q = RMap.set st.q [] n l := rfl
@[simp] theorem Strand.setQ_e (st : Strand) (n : Nat) (l : List QEnt) : (st.setQ n l).e = st.e := rfl
@[simp] theorem Strand.setQ_v (st : Strand) (n : Nat) (l : List QEnt) : (st.setQ n l).v = st.v := rfl
@[simp] theorem Strand.setQ_banks (st : Strand) (n : Nat) (l : List QEnt) : (st.setQ n l).banks = st.banks := rfl
@[simp] theorem Strand.setQ_latch (st : Strand) (n : Nat) (l : List QEnt) : (st.setQ n l).latch = st.latch := rfl
@[simp] theorem Strand.setQ_l3acc (st : Strand) (n : Nat) (l : List QEnt) : (st.setQ n l).l3acc = st.l3acc := rfl
@[simp] theorem Strand.setQ_l3lost (st : Strand) (n : Nat) (l : List QEnt) : (st.setQ n l).l3lost = st.l3lost := rfl
@[simp] theorem Strand.setQ_fmt (st : Strand) (n : Nat) (l : List QEnt) : (st.setQ n l).fmt = st.fmt := rfl
@[simp] theorem Strand.setQ_fmtPipe (st : Strand) (n : Nat) (l : List QEnt) : (st.setQ n l).fmtPipe = st.fmtPipe := rfl
@[simp] theorem Strand.setQ_issues (st : Strand) (n : Nat) (l : List QEnt) : (st.setQ n l).issues = st.issues := rfl
@[simp] theorem Strand.setQ_sup (st : Strand) (n : Nat) (l : List QEnt) : (st.setQ n l).sup = st.sup := rfl
@[simp] theorem Strand.setQ_inh (st : Strand) (n : Nat) (l : List QEnt) : (st.setQ n l).inh = st.inh := rfl
@[simp] theorem Strand.setQ_retn (st : Strand) (n : Nat) (l : List QEnt) : (st.setQ n l).retn = st.retn := rfl
@[simp] theorem Strand.setQ_tcause (st : Strand) (n : Nat) (l : List QEnt) : (st.setQ n l).tcause = st.tcause := rfl
@[simp] theorem Strand.setQ_tpc (st : Strand) (n : Nat) (l : List QEnt) : (st.setQ n l).tpc = st.tpc := rfl
@[simp] theorem Strand.setQ_tval (st : Strand) (n : Nat) (l : List QEnt) : (st.setQ n l).tval = st.tval := rfl
@[simp] theorem Strand.setQ_tstat (st : Strand) (n : Nat) (l : List QEnt) : (st.setQ n l).tstat = st.tstat := rfl
@[simp] theorem Strand.setQ_tvec (st : Strand) (n : Nat) (l : List QEnt) : (st.setQ n l).tvec = st.tvec := rfl
@[simp] theorem Strand.setQ_tscr (st : Strand) (n : Nat) (l : List QEnt) : (st.setQ n l).tscr = st.tscr := rfl
@[simp] theorem Strand.setQ_dirty (st : Strand) (n : Nat) (l : List QEnt) : (st.setQ n l).dirty = st.dirty ||| BitVec.ofNat 30 (2 ^ 14) := rfl
@[simp] theorem Strand.setQ_sticky (st : Strand) (n : Nat) (l : List QEnt) : (st.setQ n l).sticky = st.sticky := rfl
@[simp] theorem Strand.setQ_trapSet (st : Strand) (n : Nat) (l : List QEnt) : (st.setQ n l).trapSet = st.trapSet := rfl
@[simp] theorem Strand.setQ_pend (st : Strand) (n : Nat) (l : List QEnt) : (st.setQ n l).pend = st.pend := rfl
@[simp] theorem Strand.setQ_pc (st : Strand) (n : Nat) (l : List QEnt) : (st.setQ n l).pc = st.pc := rfl
@[simp] theorem Strand.setQ_phase (st : Strand) (n : Nat) (l : List QEnt) : (st.setQ n l).phase = st.phase := rfl
@[simp] theorem Strand.setQ_bun (st : Strand) (n : Nat) (l : List QEnt) : (st.setQ n l).bun = st.bun := rfl
@[simp] theorem Strand.setQ_depth (st : Strand) (n : Nat) (l : List QEnt) : (st.setQ n l).depth = st.depth := rfl
@[simp] theorem Strand.setQ_rslot (st : Strand) (n : Nat) (l : List QEnt) : (st.setQ n l).rslot = st.rslot := rfl
@[simp] theorem Strand.setQ_run (st : Strand) (n : Nat) (l : List QEnt) : (st.setQ n l).run = st.run := rfl
@[simp] theorem Strand.setQ_grant (st : Strand) (n : Nat) (l : List QEnt) : (st.setQ n l).grant = st.grant := rfl
@[simp] theorem Strand.setQ_xpend (st : Strand) (n : Nat) (l : List QEnt) : (st.setQ n l).xpend = st.xpend := rfl
@[simp] theorem Strand.setQ_vpend (st : Strand) (n : Nat) (l : List QEnt) : (st.setQ n l).vpend = st.vpend := rfl
@[simp] theorem Strand.setQ_async (st : Strand) (n : Nat) (l : List QEnt) : (st.setQ n l).async = st.async := rfl
@[simp] theorem Strand.setQ_idleHandler (st : Strand) (n : Nat) (l : List QEnt) : (st.setQ n l).idleHandler = st.idleHandler := rfl
@[simp] theorem Strand.setQ_refCount (st : Strand) (n : Nat) (l : List QEnt) : (st.setQ n l).refCount = st.refCount := rfl
@[simp] theorem Strand.setQ_refCause (st : Strand) (n : Nat) (l : List QEnt) : (st.setQ n l).refCause = st.refCause := rfl
@[simp] theorem Strand.setQ_refScope (st : Strand) (n : Nat) (l : List QEnt) : (st.setQ n l).refScope = st.refScope := rfl
@[simp] theorem Strand.setQ_shadow (st : Strand) (n : Nat) (l : List QEnt) : (st.setQ n l).shadow = st.shadow := rfl
@[simp] theorem Strand.setQ_acqAt (st : Strand) (n : Nat) (l : List QEnt) : (st.setQ n l).acqAt = st.acqAt := rfl
@[simp] theorem Strand.setQ_codeFence (st : Strand) (n : Nat) (l : List QEnt) : (st.setQ n l).codeFence = st.codeFence := rfl
@[simp] theorem Strand.setQ_codeSeen (st : Strand) (n : Nat) (l : List QEnt) : (st.setQ n l).codeSeen = st.codeSeen := rfl
@[simp] theorem Strand.setQ_collq (st : Strand) (n : Nat) (l : List QEnt) : (st.setQ n l).collq = st.collq := rfl
@[simp] theorem Strand.setQ_grace (st : Strand) (n : Nat) (l : List QEnt) : (st.setQ n l).grace = st.grace := rfl
@[simp] theorem Strand.setQ_lost (st : Strand) (n : Nat) (l : List QEnt) : (st.setQ n l).lost = st.lost := rfl
@[simp] theorem Strand.setQ_contained (st : Strand) (n : Nat) (l : List QEnt) : (st.setQ n l).contained = st.contained := rfl

end Sys2Proof.Machine
end

