-- ==== Sys2Proof/Tests/Slice0.lean ====
section
/-! SUPPORT. The model's own tests: ill-formed instructions that are refused, words written out from the spec's encodings, single
steps with the spec's own numbers, and for each statement with hypotheses a state and operands that meet them. -/

namespace Sys2Proof.Tests

open Sys2Proof.Machine

set_option Elab.async false

/-! ### Ill-formed instructions

A legal term of each form, and terms that break one check each. -/

def sr : SReg := ⟨1, 0, 2, 0, 0, 3, 0⟩
def si : SImm := ⟨1, 0, 0, 0, 5⟩
def bp : BPred := ⟨0, 0, 1, 2, 3, 0⟩
def vo : VOps := ⟨6, 0, 1, 0, 2, 3, 0, 0, 0, 0⟩
def mo : MOps := ⟨6, 0, 1, 0, 2, 3, 0, 0, 0, 0⟩
def m0 : MOps := ⟨0, 0, 1, 0, 2, 0, 0, 0, 0, 0⟩
def po : POps := ⟨1, 2, 3, 0, 0, 0, 0⟩

theorem test_wellformed_terms : ∀ i ∈ [Instr.add sr, .addi si, .cmpeq bp, .vadd vo, .ldx mo, .ard po, .mma ⟨0, 1, 2, 3, 0, 0⟩],
    wellFormed [] i = true := by decide +kernel

/-- The S forms: latch codes 6 and 7, a[4:3] of a latch, fields that must be 0, bit fields past bit 63, literals, control registers. -/
theorem test_illformed_s : ∀ i ∈ [Instr.add { sr with a := 6, la := 1 }, .add { sr with a := 8, la := 1 }, .add { sr with b := 7, lb := 1 },
    .add { sr with sub := 1 }, .clz sr, .clz { sr with b := 0, lb := 1 }, .clz { sr with b := 0, sub := 1 }, .sext sr, .bfx { sr with lb := 1 },
    .bfx { sr with b := 31, sub := 33 }, .eset { sr with b := 0, nw := 1 }, .eget { sr with b := 0, la := 1 }, .ecens sr,
    .eadd { sr with sub := 1 }, .ecopy sr, .movi { si with a := 1 }, .movi { si with la := 1 }, .movw { si with imm := 0 },
    .movw { si with imm := 4 }, .movd { si with imm := 0 }, .addw { si with imm := 3 }, .csrr { si with a := 1 }, .csrr { si with imm := 0x00B },
    .csrw { si with imm := 0x012 }, .addi { si with a := 7, la := 1 }], wellFormed [] i = false := by decide +kernel

/-- A literal index is checked against the literal count of the bundle. -/
theorem test_illformed_literals : wellFormed [7] (.movw { si with imm := 0 }) = true ∧ wellFormed [7] (.movw { si with imm := 1 }) = false
    ∧ wellFormed [7, 8] (.movd { si with imm := 0 }) = true ∧ wellFormed [7, 8] (.movd { si with imm := 1 }) = false := by decide +kernel

/-- The B forms: fields that a form leaves unused. -/
theorem test_illformed_b : ∀ i ∈ [Instr.jr { bp with b := 0 }, .jr { bp with pd := 0 }, .cmpeq { bp with imm := 1 }, .cmpeqi bp,
    .pand { bp with a := 8 }, .pand { bp with b := 8 }, .pand { bp with imm := 1 }, .pmov { bp with b := 1 }, .trap { bp with a := 0, b := 0 },
    .svc { bp with pd := 0, b := 0 }, .eret ⟨0, 0, 1⟩, .endTask ⟨0, 0, 1⟩, .yield ⟨0, 0, 1⟩, .idle ⟨0, 0, 1⟩],
    wellFormed [] i = false := by decide +kernel

/-- The V forms: reserved vector codes, latches as destinations, fields not read, types not allowed, a peek without a queue register, the
e field, windows, and the fields that select a form. -/
theorem test_illformed_v : ∀ i ∈ [Instr.vadd { vo with a := 768 }, .vadd { vo with a := 1022 }, .vadd { vo with d := 1016 }, .vadd { vo with d := 768 },
    .vadd { vo with c := 1 }, .vneg vo, .vadd { vo with k := 1 }, .vand { vo with e := 1 }, .vcmpeq { vo with e := 16 }, .vzip { vo with e := 2 },
    .vexp2q { vo with b := 0, ty := 5 }, .vlog2q { vo with b := 0 }, .vcvt { vo with b := 0, e := 0, a := 1007 }, .vpack vo, .vnop vo,
    .vnop { vo with ty := 0, d := 0, a := 0, b := 0, mask := 1 }, .vcens { vo with b := 0, d := 0, nw := 1 }, .vext { vo with mask := 1 },
    .vhash { vo with ty := 2, c := 1, e := 13 }, .vhash { vo with ty := 2, c := 1, e := 0 }, .vsegsum { vo with ty := 2, c := 1, e := 4 },
    .vmapscat { vo with c := 0 }, .vmapcnt { vo with a := 0, b := 1, c := 2, e := 16 }, .vmapcntFirst { vo with a := 0, b := 1, c := 2, e := 0 },
    .vmapcntFirst { vo with a := 0, b := 1, c := 2, e := 17 }, .vquant { vo with c := 1 }], wellFormed [] i = false := by decide +kernel

/-- The M forms: types, data fields, orders and scopes, updates, flags, barriers, and the fields that select a form. -/
theorem test_illformed_m : ∀ i ∈ [Instr.ldx { mo with ty := 7 }, .ldx { mo with data := 32 }, .ldx { mo with mask := 1 }, .ldx { mo with order := 2 },
    .ldx { mo with scope := 1 }, .ldx { mo with order := 1, scope := 7 }, .ldx { mo with update := 1 }, .ldx { mo with update := 2, data := 2 },
    .ldv { mo with data := 1016 }, .ldvs { mo with ty := 1 }, .ldvs { mo with update := 2 }, .stx { mo with nw := 1 }, .stv { mo with data := 800 },
    .stvs { mo with update := 3 }, .aadd { mo with ty := 7 }, .acas { mo with update := 2 }, .fence mo, .fence { m0 with base := 0, scope := 7 },
    .fence { m0 with base := 0, offset := 1 }, .qfence { m0 with base := 0, data := 0, order := 1, offset := 1 },
    .qfence { m0 with base := 0, data := 0, offset := 0 }, .qfence { m0 with base := 0, data := 0, offset := 32 }, .rwait m0,
    .rwait { m0 with data := 0, update := 2 }, .gwinit { m0 with order := 1 }, .gwinit { m0 with order := 2, scope := 3 }, .gwinit { m0 with ix := 1 },
    .gwwait { m0 with order := 1 }, .fset { m0 with update := 1 }, .fadd { m0 with nw := 1 }, .fget { m0 with order := 2, scope := 2 },
    .enqX { m0 with ty := 1, ix := 8 }, .enqX m0, .enqV { m0 with ty := 1 }, .enqV { m0 with data := 900 }, .deqX m0, .deqV { m0 with ty := 1 },
    .deqV { m0 with ty := 2 }, .rinit { m0 with nw := 1 }, .rclose m0, .bjoin m0, .bjoin { m0 with data := 0, base := 0, offset := 32 },
    .barr m0, .barr { m0 with base := 0, offset := 64 }, .bwait m0, .bdrop { m0 with data := 0, base := 0, scope := 1 }],
    wellFormed [] i = false := by decide +kernel

/-- The P forms: vector codes, sub-operations, and the literal word of ARQ. -/
theorem test_illformed_p : ∀ i ∈ [Instr.ard { po with vec := 1016 }, .ard { po with sub := 2 }, .ard { po with sub := 1, dm := 1 }, .ardw { po with dm := 1 },
    .ardh { po with sub := 1 }, .awr { po with sub := 4 }, .awr { po with nw := 1 }, .aaddv { po with dm := 1 }, .azero po,
    .azero { po with row := 0, vec := 0, step := 1 }, .arq po, .acens po, .acens { po with vec := 0, nw := 1 }], wellFormed [] i = false := by decide +kernel

theorem test_illformed_arq : wellFormed [1023, 0] (.arq po) = true ∧ wellFormed [768, 0] (.arq po) = false ∧ wellFormed [2 ^ 21, 0] (.arq po) = false
    ∧ wellFormed [1023, 0] (.arq { po with sub := 1 }) = false := by decide +kernel

/-- The E forms: types, slot ranges, empty masks, field numbers, posts, modes, and LIVE. -/
theorem test_illformed_e : ∀ i ∈ [Instr.mfmt ⟨5, 0, 0⟩, .mfmt ⟨0, 7, 0⟩, .mma ⟨1, 0, 0, 0, 0, 0⟩, .mchain ⟨4, 0, 60, 0, 0, 0⟩, .mchain ⟨4, 0, 0, 60, 0, 0⟩,
    .mseal ⟨0⟩, .mzero ⟨0⟩, .oclaim ⟨1, 60, 4⟩, .orelease ⟨1, 0, 0⟩, .orelease ⟨0, 60, 4⟩, .ofill ⟨1, 2, 5, 0, 0⟩, .ofillv ⟨5, 0, 0⟩, .ofillv ⟨0, 753, 0⟩,
    .cset ⟨1, 22⟩, .cpy ⟨1, 2, 3, 0, 1, 0, 0⟩, .cpy ⟨1, 2, 3, 0, 0, 0, 1⟩, .rtadd ⟨1, 2, 0, 0⟩, .rtadd ⟨1, 2, 3, 0⟩, .spawn ⟨1, 1⟩,
    .spawnp ⟨1, 2, 3, 0x3FFFE⟩, .park ⟨1, 0, 1⟩], wellFormed [] i = false := by decide +kernel

/-! ### Words written out from R197 to R203, R207 to R212 and R297 -/

/-- Each word decodes, in slots of class c, to the instruction beside it. -/
abbrev Decodes (c : SlotClass) (l : List (Nat × Instr)) : Prop := ∀ p ∈ l, decode? c p.1 = some p.2

theorem test_decode_s_1 : Decodes .S [
    (0x00A716DE, .add ⟨20, 1, 24, 1, 0, 27, 30⟩),
    (0x01CAA118, .sub ⟨25, 0, 21, 0, 0, 4, 24⟩),
    (0x0281A06F, .and ⟨16, 0, 13, 0, 0, 1, 47⟩),
    (0x033D29B1, .or ⟨7, 1, 9, 0, 1, 6, 49⟩),
    (0x04D0B141, .xor ⟨26, 0, 5, 1, 0, 5, 1⟩),
    (0x05E0E70B, .andn ⟨28, 0, 7, 0, 0, 28, 11⟩),
    (0x0657E1BD, .shl ⟨10, 1, 31, 0, 0, 6, 61⟩),
    (0x07FBF858, .shr ⟨31, 0, 31, 1, 1, 1, 24⟩),
    (0x0873C8D6, .sha ⟨14, 0, 30, 0, 1, 3, 22⟩),
    (0x09529297, .rol ⟨10, 0, 20, 1, 0, 10, 23⟩),
    (0x0ADE141F, .mul ⟨27, 1, 16, 1, 0, 16, 31⟩),
    (0x0BB857F0, .mulh ⟨23, 0, 2, 1, 0, 31, 48⟩),
    (0x0C643B66, .mulhz ⟨12, 1, 1, 1, 1, 13, 38⟩),
    (0x0DD9E53E, .div ⟨27, 0, 15, 0, 0, 20, 62⟩),
    (0x0EF88B21, .divz ⟨31, 0, 4, 0, 1, 12, 33⟩),
    (0x0F6734F0, .rem ⟨12, 1, 25, 1, 0, 19, 48⟩),
    (0x10CF93BD, .remz ⟨25, 1, 28, 1, 0, 14, 61⟩),
    (0x111972D2, .min ⟨3, 0, 11, 1, 0, 11, 18⟩),
    (0x12F159B4, .max ⟨30, 0, 10, 1, 1, 6, 52⟩),
    (0x131B19AF, .minz ⟨3, 0, 24, 1, 1, 6, 47⟩)] := by decide +kernel

theorem test_decode_s_2 : Decodes .S [
    (0x14129230, .maxz ⟨2, 0, 20, 1, 0, 8, 48⟩),
    (0x15A77D5B, .adds ⟨20, 1, 27, 1, 1, 21, 27⟩),
    (0x162BCAF6, .subs ⟨5, 0, 30, 0, 1, 11, 54⟩),
    (0x173B090B, .clz ⟨7, 0, 24, 0, 1, 4, 11⟩),
    (0x1874AA8A, .ctz ⟨14, 1, 5, 0, 1, 10, 10⟩),
    (0x197A3DEF, .popc ⟨15, 0, 17, 1, 1, 23, 47⟩),
    (0x1A5D3B7A, .sext ⟨11, 1, 9, 1, 1, 13, 58⟩),
    (0x1B29AF16, .zext ⟨5, 0, 13, 0, 1, 28, 22⟩),
    (0x1C3218F3, .bfx ⟨6, 0, 16, 1, 1, 3, 51⟩),
    (0x1DD6EB24, .bfxz ⟨26, 1, 23, 0, 1, 12, 36⟩),
    (0x1EBF7E7F, .bfi ⟨23, 1, 27, 1, 1, 25, 63⟩),
    (0x1FBFF4F7, .mov ⟨23, 1, 31, 1, 0, 19, 55⟩),
    (0x400E5537, .addi ⟨1, 1, 18, 1, 1335⟩),
    (0x41B5FD12, .andi ⟨22, 1, 15, 1, 3346⟩),
    (0x428D9A4F, .ori ⟨17, 1, 12, 1, 2639⟩),
    (0x43658DEC, .xori ⟨12, 1, 12, 0, 3564⟩),
    (0x44E5984B, .shli ⟨28, 1, 12, 1, 2123⟩),
    (0x4528FF00, .shri ⟨5, 0, 7, 1, 3840⟩),
    (0x46E54B84, .shai ⟨28, 1, 10, 0, 2948⟩),
    (0x47B4D4D8, .roli ⟨22, 1, 6, 1, 1240⟩)] := by decide +kernel

theorem test_decode_s_3 : Decodes .S [
    (0x48A70322, .muli ⟨20, 1, 24, 0, 802⟩),
    (0x49368382, .mini ⟨6, 1, 20, 0, 898⟩),
    (0x4ACAAFC9, .maxi ⟨25, 0, 21, 0, 4041⟩),
    (0x4B80CE45, .movi ⟨16, 0, 6, 0, 3653⟩),
    (0x4C2967B9, .lih ⟨5, 0, 11, 0, 1977⟩),
    (0x8039D59F, .movw ⟨7, 0, 14, 1, 1439⟩),
    (0x816A63CF, .movd ⟨13, 0, 19, 0, 975⟩),
    (0x82BC367D, .addw ⟨23, 1, 1, 1, 1661⟩),
    (0xA0FF9DDD, .csrr ⟨31, 1, 28, 1, 3549⟩),
    (0xA127E8CD, .csrw ⟨4, 1, 31, 0, 2253⟩),
    (0xA2A498BA, .csrs ⟨20, 1, 4, 1, 2234⟩),
    (0xA38FFF56, .csrc ⟨17, 1, 31, 1, 3926⟩),
    (0xB061DBCA, .eset ⟨12, 0, 14, 1, 1, 15, 10⟩),
    (0xB13677C9, .eget ⟨6, 1, 19, 1, 0, 31, 9⟩),
    (0xB2A18915, .ecens ⟨20, 0, 12, 0, 1, 4, 21⟩),
    (0xB3997BBF, .eadd ⟨19, 0, 11, 1, 1, 14, 63⟩),
    (0xB4455B7E, .ecopy ⟨8, 1, 10, 1, 1, 13, 62⟩)] := by decide +kernel

theorem test_decode_b_1 : Decodes .B [
    (0x03A621C1, .br ⟨7, 0, 2499009⟩),
    (0x06EF6CFA, .brl ⟨5, 1, 3108090⟩),
    (0x09DB82A4, .jr ⟨3, 1, 3, 14, 1, 164⟩),
    (0x0DD9600D, .jrl ⟨3, 1, 3, 5, 16, 13⟩),
    (0x10CFB647, .loop ⟨1, 1, 1029703⟩),
    (0x15B976C9, .cmpeq ⟨3, 0, 7, 5, 27, 201⟩),
    (0x18EC927D, .cmpne ⟨1, 1, 5, 18, 9, 125⟩),
    (0x1E1413B1, .cmplt ⟨4, 0, 2, 16, 9, 433⟩),
    (0x215C29FD, .cmple ⟨2, 1, 3, 16, 20, 509⟩),
    (0x260E4A9A, .cmpltz ⟨4, 0, 1, 25, 5, 154⟩),
    (0x29EAB110, .cmplez ⟨3, 1, 5, 10, 24, 272⟩),
    (0x2CDB2D7E, .cmpeqi ⟨1, 1, 3, 12, 22, 382⟩),
    (0x3388531C, .cmpnei ⟨7, 0, 1, 1, 9, 284⟩),
    (0x36348E08, .cmplti ⟨4, 0, 6, 18, 7, 8⟩),
    (0x3A6CEF6B, .cmplei ⟨4, 1, 5, 19, 23, 363⟩),
    (0x3F7FB6C6, .pand ⟨6, 1, 7, 30, 27, 198⟩),
    (0x42773065, .por ⟨4, 1, 6, 28, 24, 101⟩),
    (0x45FE469C, .pxor ⟨3, 1, 7, 25, 3, 156⟩),
    (0x4BB65D2B, .pandn ⟨7, 0, 6, 25, 14, 299⟩),
    (0x4DD94CF5, .pmov ⟨3, 1, 3, 5, 6, 245⟩)] := by decide +kernel

theorem test_decode_b_2 : Decodes .B [
    (0x535C8ADA, .trap ⟨6, 1, 3, 18, 5, 218⟩),
    (0x568E1089, .svc ⟨5, 0, 1, 24, 8, 137⟩),
    (0x5BB8EDE3, .brk ⟨7, 0, 7, 3, 22, 483⟩),
    (0x5CEE3F0F, .eret ⟨1, 1, 3030799⟩),
    (0x623FE4B7, .endTask ⟨4, 0, 4187319⟩),
    (0x66432110, .yield ⟨4, 1, 205072⟩),
    (0x688E07E7, .idle ⟨1, 0, 919527⟩)] := by decide +kernel

theorem test_decode_v_1 : Decodes .V1 [
    (0x00BB4D5B5CA914E5, .vnop ⟨5, 6, 845, 0, 730, 917, 138, 3, 1, 5⟩),
    (0x0154BEE6C5308B42, .vmov ⟨2, 5, 190, 1, 822, 166, 69, 5, 0, 2⟩),
    (0x02A6A5DF82523E58, .vadd ⟨5, 1, 677, 1, 764, 74, 287, 1, 0, 24⟩),
    (0x03948A3762F287B0, .vsub ⟨4, 5, 138, 0, 443, 94, 323, 6, 1, 16⟩),
    (0x04798011D65A5CBE, .vadds ⟨3, 6, 384, 0, 142, 715, 302, 2, 1, 30⟩),
    (0x05B67C21C20C6ABB, .vsubs ⟨5, 5, 636, 0, 270, 65, 565, 2, 1, 27⟩),
    (0x06EE1267878EEAF8, .vneg ⟨7, 3, 530, 0, 828, 241, 885, 3, 1, 24⟩),
    (0x07888753EAF0B143, .vabs ⟨4, 2, 135, 0, 671, 350, 88, 5, 0, 3⟩),
    (0x08E6079EAC87053F, .vmul ⟨7, 1, 519, 1, 245, 400, 898, 4, 1, 31⟩),
    (0x09673045973B145F, .vmulh ⟨3, 1, 816, 0, 556, 743, 394, 1, 0, 31⟩),
    (0x0A9B2E6003B8ADBB, .vmulq ⟨4, 6, 814, 0, 768, 119, 86, 6, 1, 27⟩),
    (0x0B4ACFAD7AC1E2FE, .vmac ⟨2, 2, 719, 1, 363, 856, 241, 3, 1, 30⟩),
    (0x0CB966B08465CBF5, .vmacs ⟨5, 6, 358, 1, 388, 140, 741, 7, 1, 21⟩),
    (0x0D7E87FB3B4AE753, .vmin ⟨3, 7, 647, 1, 985, 873, 371, 5, 0, 19⟩),
    (0x0EAAF632C208C846, .vmax ⟨5, 2, 758, 0, 406, 65, 100, 1, 0, 6⟩),
    (0x0F4829F1FE03DBA1, .vavg ⟨2, 2, 41, 1, 911, 960, 493, 6, 1, 1⟩),
    (0x109134A98EEBB245, .vabsd ⟨4, 4, 308, 1, 332, 477, 473, 1, 0, 5⟩),
    (0x11C849EF4C5EF512, .vdiv ⟨6, 2, 73, 1, 890, 395, 890, 4, 0, 18⟩),
    (0x40651D6029356290, .vshl ⟨3, 1, 285, 0, 769, 294, 689, 2, 0, 16⟩),
    (0x412FB3A89E087B96, .vshr ⟨1, 3, 947, 1, 324, 961, 61, 6, 0, 22⟩)] := by decide +kernel

theorem test_decode_v_2 : Decodes .V1 [
    (0x4293660F392D5AEF, .vsha ⟨4, 4, 870, 0, 121, 805, 685, 3, 1, 15⟩),
    (0x43CAEB046675B856, .vshrr ⟨6, 2, 747, 0, 35, 206, 732, 1, 0, 22⟩),
    (0x44359BD72A017B2A, .vshrs ⟨1, 5, 411, 1, 697, 320, 189, 4, 1, 10⟩),
    (0x453BFA9518D9EE9F, .vshls ⟨1, 6, 1018, 1, 168, 795, 247, 2, 0, 31⟩),
    (0x463A70DD1F3A2C62, .vnorm ⟨1, 6, 624, 1, 744, 999, 278, 1, 1, 2⟩),
    (0x479EBA95C178477F, .vcens ⟨4, 7, 698, 1, 174, 47, 35, 5, 1, 31⟩),
    (0x6038497339BBEE62, .vand ⟨1, 6, 73, 0, 921, 823, 503, 1, 1, 2⟩),
    (0x61CA943FCCBE4249, .vor ⟨6, 2, 660, 0, 510, 407, 801, 1, 0, 9⟩),
    (0x62F1C9D201AF0246, .vxor ⟨7, 4, 457, 1, 656, 53, 897, 1, 0, 6⟩),
    (0x63D690983109E07A, .vandn ⟨6, 5, 656, 1, 193, 545, 240, 1, 1, 26⟩),
    (0x64262B4CA276DD94, .vnot ⟨1, 1, 555, 0, 613, 78, 878, 6, 0, 20⟩),
    (0x653229BE6D9495F1, .vcmpeq ⟨1, 4, 553, 1, 499, 434, 586, 7, 1, 17⟩),
    (0x66CAE874F83A77BD, .vcmpne ⟨6, 2, 744, 0, 935, 775, 315, 6, 1, 29⟩),
    (0x67EA3811EA03DE7B, .vcmplt ⟨7, 2, 568, 0, 143, 320, 495, 1, 1, 27⟩),
    (0x688C8844C2A3C69A, .vcmple ⟨4, 3, 136, 0, 550, 84, 483, 2, 0, 26⟩),
    (0x6996AB2361FBF382, .vsel ⟨4, 5, 683, 0, 283, 63, 505, 6, 0, 2⟩),
    (0x6ACB30F10BFF164E, .vclamp ⟨6, 2, 816, 1, 904, 383, 907, 1, 0, 14⟩),
    (0x6BED8572C92D3DD3, .vpopc ⟨7, 3, 389, 0, 918, 293, 670, 7, 0, 19⟩),
    (0x6C30935D418D9F24, .vclz ⟨1, 4, 147, 0, 746, 49, 719, 4, 1, 4⟩),
    (0x80FD882922227489, .vsplat ⟨7, 7, 392, 0, 329, 68, 314, 2, 0, 9⟩)] := by decide +kernel

theorem test_decode_v_3 : Decodes .V1 [
    (0x81994B84621459C1, .viota ⟨4, 6, 331, 1, 35, 66, 556, 7, 0, 1⟩),
    (0x8227E169EB737FFF, .vins ⟨1, 1, 993, 0, 847, 366, 447, 7, 1, 31⟩),
    (0x83A4ED902BA19EE1, .vext ⟨5, 1, 237, 1, 129, 372, 207, 3, 1, 1⟩),
    (0x84567B5D3F78C4D5, .vperm ⟨2, 5, 635, 0, 745, 1007, 98, 3, 0, 21⟩),
    (0x85C9C9E5CDC0F4EF, .vslide ⟨6, 2, 457, 1, 814, 440, 122, 3, 1, 15⟩),
    (0x865263960E2865D2, .vzip ⟨2, 4, 611, 1, 176, 453, 50, 7, 0, 18⟩),
    (0x8792630D641685F6, .vunzip ⟨4, 4, 611, 0, 107, 130, 834, 7, 1, 22⟩),
    (0x882BEA045D1C9EB7, .vredadd ⟨1, 2, 1002, 0, 34, 931, 591, 2, 1, 23⟩),
    (0x8971DC19E8E694B2, .vredmax ⟨3, 4, 476, 0, 207, 284, 842, 2, 1, 18⟩),
    (0x8AAF0F2F0B4E7A94, .vredmin ⟨5, 3, 783, 0, 376, 361, 829, 2, 0, 20⟩),
    (0x8B9166127AA1EB22, .vscan ⟨4, 4, 358, 0, 147, 852, 245, 4, 1, 2⟩),
    (0x8C29976096FA42B0, .vmcount ⟨1, 2, 407, 0, 772, 735, 289, 2, 1, 16⟩),
    (0xA0D3746686630584, .vexp2q ⟨6, 4, 884, 0, 820, 204, 386, 6, 0, 4⟩),
    (0xA1B659682C782ED4, .vlog2q ⟨5, 5, 601, 0, 833, 399, 23, 3, 0, 20⟩),
    (0xA27589C5F68D893A, .vrcpq ⟨3, 5, 393, 1, 559, 721, 708, 4, 1, 26⟩),
    (0xA3F7B344C4BE653F, .vrsqq ⟨7, 5, 947, 0, 550, 151, 818, 4, 1, 31⟩),
    (0xA4A6B8246930A059, .vdivq ⟨5, 1, 696, 0, 291, 294, 80, 1, 0, 25⟩),
    (0xA57653A77F07707E, .vhash ⟨3, 5, 595, 1, 315, 992, 952, 1, 1, 30⟩),
    (0xA6C84A6082DD5EF7, .vmix ⟨6, 2, 74, 0, 772, 91, 687, 3, 1, 23⟩),
    (0xA7FFBB3DF090BE4B, .vsegsum ⟨7, 7, 955, 0, 495, 530, 95, 1, 0, 11⟩)] := by decide +kernel

theorem test_decode_v_4 : Decodes .V1 [
    (0xA8F5B2FC20256126, .vmapscat ⟨7, 5, 434, 1, 993, 4, 688, 4, 1, 6⟩),
    (0xA9FA1E74B5B4EAEB, .vmapcnt ⟨7, 6, 542, 0, 933, 694, 629, 3, 1, 11⟩),
    (0xA93EC29FFC68CEBA, .vmapcntFirst ⟨1, 7, 706, 1, 255, 909, 103, 2, 1, 26⟩),
    (0xC0EF3172FE715879, .vcvt ⟨7, 3, 817, 0, 919, 974, 172, 1, 1, 25⟩),
    (0xC14AA049122505EE, .vpack ⟨2, 2, 672, 0, 584, 580, 642, 7, 1, 14⟩),
    (0xC251EF26CD6A4066, .vunpk ⟨2, 4, 495, 0, 310, 429, 288, 1, 1, 6⟩),
    (0xC3849925F20C734E, .vquant ⟨4, 1, 153, 0, 303, 577, 569, 5, 0, 14⟩)] := by decide +kernel

theorem test_decode_m_1 : Decodes .M [
    (0x004E61575BC4E098, .ldx ⟨2, 3, 609, 0, 21, 26, 3, 3, 3, 319640⟩),
    (0x01308E2CF6BB4F46, .ldv ⟨1, 4, 142, 0, 11, 7, 2, 6, 2, 3886918⟩),
    (0x025A77EC8ACA067E, .ldvs ⟨2, 6, 631, 1, 27, 4, 1, 2, 3, 657022⟩),
    (0x032558328DAF1E2B, .ldvb ⟨1, 1, 344, 0, 12, 20, 1, 5, 2, 3087915⟩),
    (0x207F155FBDF7A194, .stx ⟨3, 7, 789, 0, 23, 29, 3, 5, 3, 3645844⟩),
    (0x21E5776C6A97F6CA, .stv ⟨7, 1, 375, 0, 27, 3, 1, 2, 2, 1570506⟩),
    (0x22539121BC805C13, .stvs ⟨2, 4, 913, 0, 8, 13, 3, 4, 2, 23571⟩),
    (0x2337DA96CCBD9CD8, .stvm ⟨1, 5, 986, 1, 5, 22, 1, 4, 2, 4037848⟩),
    (0x40784AE7FE810362, .aadd ⟨3, 6, 74, 1, 25, 31, 3, 6, 2, 66402⟩),
    (0x413DEBE70B89104D, .aadds ⟨1, 7, 491, 1, 25, 24, 1, 3, 2, 593997⟩),
    (0x4272924C94BC5B4D, .amin ⟨3, 4, 658, 0, 19, 4, 2, 4, 2, 3955533⟩),
    (0x43E6148912AAA2F4, .amax ⟨7, 1, 532, 1, 2, 8, 2, 2, 2, 2794228⟩),
    (0x44C496FC9CBF045E, .aand ⟨6, 1, 150, 1, 31, 4, 3, 4, 2, 4129886⟩),
    (0x455761F3C996C4EE, .aor ⟨2, 5, 865, 1, 28, 30, 1, 1, 2, 1492206⟩),
    (0x465C566F2B415CE7, .axor ⟨2, 7, 86, 0, 27, 25, 1, 3, 1, 89319⟩),
    (0x4775D6F2294C67D7, .aswp ⟨3, 5, 470, 1, 28, 17, 1, 1, 1, 813015⟩),
    (0x48F00DC475DE1A4D, .acas ⟨7, 4, 13, 1, 17, 3, 2, 5, 3, 1972813⟩),
    (0x60A437373CFC25EF, .fence ⟨5, 1, 55, 0, 13, 25, 3, 4, 3, 3941871⟩),
    (0x61DA7A1C37DA72C7, .qfence ⟨6, 6, 634, 0, 7, 1, 2, 7, 3, 1733319⟩),
    (0x62FF4CFBB17912EA, .rwait ⟨7, 7, 844, 1, 30, 29, 2, 1, 1, 3740394⟩)] := by decide +kernel

theorem test_decode_m_2 : Decodes .M [
    (0x6369373B6B59306D, .gwinit ⟨3, 2, 311, 0, 14, 27, 1, 3, 1, 1650797⟩),
    (0x6489164191E88932, .gwwait ⟨4, 2, 278, 0, 16, 12, 2, 1, 3, 2656562⟩),
    (0x653CAE8C7C796F0D, .fset ⟨1, 7, 174, 1, 3, 3, 3, 4, 1, 3763981⟩),
    (0x6688CA6373DD51C4, .fget ⟨4, 2, 202, 0, 24, 27, 2, 3, 3, 1921476⟩),
    (0x6750F379994BD3D0, .fadd ⟨2, 4, 243, 0, 30, 12, 3, 1, 1, 775120⟩),
    (0x801058973BB19CA5, .enqV ⟨0, 4, 88, 1, 5, 25, 3, 3, 2, 3251365⟩),
    (0x80292D288E97FFD2, .enqX ⟨1, 2, 301, 0, 10, 4, 1, 6, 2, 1572818⟩),
    (0x810FA1CA777DC2F1, .deqV ⟨0, 3, 929, 1, 18, 19, 2, 7, 1, 4047601⟩),
    (0x81290E483C4F3392, .deqX ⟨1, 2, 270, 0, 18, 1, 3, 4, 1, 996242⟩),
    (0x829AD3042C604436, .rinit ⟨4, 6, 723, 0, 1, 1, 1, 4, 1, 2114614⟩),
    (0x83D4F28B5A6C4DCD, .rclose ⟨6, 5, 242, 1, 2, 26, 3, 2, 1, 2903501⟩),
    (0x848F1C495469E982, .bjoin ⟨4, 3, 796, 0, 18, 10, 2, 4, 1, 2746754⟩),
    (0x852E47DE7C93503E, .barr ⟨1, 3, 583, 1, 23, 19, 3, 4, 2, 1265726⟩),
    (0x86EA5E55EE61D6E4, .bwait ⟨7, 2, 606, 0, 21, 15, 1, 6, 1, 2217700⟩),
    (0x87B065EE5788D514, .bdrop ⟨5, 4, 101, 1, 27, 18, 2, 7, 2, 578836⟩)] := by decide +kernel

theorem test_decode_p_1 : Decodes .P1 [
    (0x04308315, .ard ⟨8, 6, 65, 1, 1, 0, 5⟩),
    (0x0C087C2A, .ardw ⟨8, 1, 62, 0, 2, 1, 2⟩),
    (0x13321D86, .ardh ⟨6, 6, 270, 1, 8, 0, 6⟩),
    (0x192A04BC, .awr ⟨2, 5, 258, 0, 11, 1, 4⟩),
    (0x21DE52CD, .aaddv ⟨3, 11, 809, 0, 12, 1, 5⟩),
    (0x2FFB84A5, .azero ⟨15, 15, 450, 0, 10, 0, 5⟩),
    (0x30FDED91, .arq ⟨1, 15, 758, 1, 9, 0, 1⟩),
    (0x3C0D8FB1, .acens ⟨8, 1, 711, 1, 11, 0, 1⟩)] := by decide +kernel

theorem test_decode_e_1 : Decodes .E [
    (0x0000000000000058, .mfmt ⟨5, 4, 0⟩),
    (0x0100000000EC8A82, .mma ⟨14, 12, 34, 40, 1, 0⟩),
    (0x02000000012C22E0, .mchain ⟨18, 12, 8, 46, 0, 0⟩),
    (0x0300000000000AE4, .mseal ⟨2788⟩),
    (0x040000000000111D, .mzero ⟨4381⟩),
    (0x05B8000000007814, .oclaim ⟨23, 30, 20⟩),
    (0x06A800000000883A, .orelease ⟨21, 34, 58⟩),
    (0x07963811C178F800, .ofill ⟨18, 24, 7, 1163640, 62⟩),
    (0x0800300002B9D800, .ofillv ⟨6, 697, 54⟩),
    (0x2048001EDAA30000, .ttask ⟨9, 2022051⟩),
    (0x216800C126DD0000, .tdep ⟨13, 12658397⟩),
    (0x3050000000000011, .cset ⟨10, 17⟩),
    (0x3100000000000000, .cgo),
    (0x327A94EE54A8C000, .cpy ⟨15, 10, 10, 0, 29, 25, 21155⟩),
    (0x3300000000000000, .carm),
    (0x3400000000008409, .ccancel ⟨33801⟩),
    (0x40B000E6E74A0000, .coll ⟨22, 15132490⟩),
    (0x4180000000000078, .collq ⟨16, 120⟩),
    (0x4269700000003767, .rtadd ⟨13, 5, 3, 14183⟩),
    (0x430000000000F183, .rtdel ⟨61827⟩)] := by decide +kernel

theorem test_decode_e_2 : Decodes .E [
    (0x50480000508B65D7, .spawn ⟨9, 1351312855⟩),
    (0x51FD0E007526773E, .spawnp ⟨31, 20, 7, 1965455166⟩),
    (0x5200C0015A4CED73, .park ⟨3, 1, 1514990963⟩),
    (0x531D400000000000, .steal ⟨3, 21⟩),
    (0x5473E91000000000, .poolinit ⟨14, 15, 20, 17⟩),
    (0x55AB4C0000000000, .poolpushReg ⟨21, 13, 6⟩),
    (0x55397D0000000000, .poolpushMem ⟨7, 5, 30⟩),
    (0x5681AC808F000000, .poolpopReg ⟨16, 6, 22, 32911⟩),
    (0x567FA75814000000, .poolpopMem ⟨15, 30, 19, 22548⟩),
    (0x57F04A6F12000000, .poolpopwReg ⟨30, 1, 5, 28434⟩),
    (0x574CE180AD000000, .poolpopwMem ⟨9, 19, 16, 32941⟩),
    (0x5804800000000000, .poolfence ⟨18⟩),
    (0x60FF400000000000, .tlbinv ⟨31, 29⟩),
    (0x6138000000000000, .ctxsave ⟨7⟩),
    (0x6290000000000000, .ctxload ⟨18⟩),
    (0x634000000000A992, .note ⟨8, 43410⟩)] := by decide +kernel

/-! ### Small states -/

/-- The slot number an instruction is tried in. -/
def slotNo (i : Instr) : Nat :=
  match slotClass i with
  | some .S => 0
  | some .B => 1
  | some .V0 => 2
  | some .M => 4
  | some .P0 => 5
  | _ => 7

/-- A strand at the slot of i, alone in its bundle at 0x1000 with two literal words, with a handler at 0x2000. -/
def at1 (i : Instr) : Strand :=
  { phase := .issue, tvec := 0x2000
    bun := {
      pc := 0x1000, header := BitVec.ofNat 32 (2 ^ slotNo i + 2 * 2 ^ 14), words := [(slotNo i, encode i)], lits := [1023, 7], slot := slotNo i
      cur := [(slotNo i, encode i)], granted := true, started := true } }

/-- A launch packet: two cores and 4 barriers for each crew, 16 KiB of window, D/16 of 256. -/
def packet1 : List Byte := List.replicate 24 0 ++ Spec.bytes 8 (2 ^ 57 + 16 * 2 ^ 44 + 4 * 2 ^ 38) ++ Spec.bytes 8 (255 * 2 ^ 56) ++ List.replicate 24 0

/-- A launch whose crews are placed. -/
def launch1 : Launch := { queue := 0, packet := packet1, headed := true, placing := false, nextCrew := 1 }

/-- Crew 0 of launch 0 on cores 0 and 1, with this strand on core 0. -/
def world (st : Strand) : State :=
  { State.reset with
    pkg := { State.reset.pkg with
      strands := [(0, st)], cores := [(0, { res := [(0, 0)], cur := some 0 })]
      crews := [(0, { launch := 0, index := 0, cluster := 0, cores := [0, 1], spad := [0, 0] })]
      launches := [(0, launch1)]
      nextCrew := 1, nextLaunch := 1 } }

/-- The strand at the slot of i with x registers set. -/
def withX (i : Instr) (l : List (Nat × X)) : Strand := l.foldl (fun st e => st.setX e.1 e.2) (at1 i)

/-- The state after i, or the reset state where it stops. -/
def after (i : Instr) (s : State) : State :=
  match exec i s with
  | .next t => t
  | _ => State.reset

/-- i answers a next state: exec i s = .next (after i s). -/
def moves (i : Instr) (s : State) : Bool :=
  match exec i s with
  | .next _ => true
  | _ => false

/-- The strand in focus after i at its slot. -/
def ran (i : Instr) (st : Strand) : Strand := ((after i (world st)).pkg.strands.find? 0).getD {}

/-- Nothing stands against the slot: SlotReady of Safety.lean as a truth value, its vector codes looked at one by one. -/
def ready (i : Instr) (s : State) (st : Strand) : Bool :=
  let f := foot i
  decide (s.focused st) && decide st.untrapped && decide (st.wordClean i) && decide (WellFormed st.bun.lits i)
    && (vCodes i).all (fun c => !isV c || decide (c.toNat / 64 < st.banks.length))
    && (latchesRead f (sLatches i)).all (fun n => (st.bun.latch.find? n).isSome)
    && (st.slotCapt st.bun.slot).all (fun c => c.ent.isSome)
    && decide (st.waits f (sLatches i) = [])
    && !st.spoiled s.focus s.pkg.poison i
    && f.vw.toList.all (fun d => !isQ d || f.nw || decide ((st.getQ (d.toNat - 1008)).length < 8))

theorem slotReady_of_ready {i : Instr} {s : State} {st : Strand} (h : ready i s st = true) : SlotReady i s st := by
  simp only [ready, Bool.and_eq_true, decide_eq_true_eq, List.all_eq_true, Bool.or_eq_true, Bool.not_eq_true'] at h
  obtain ⟨⟨⟨⟨⟨⟨⟨⟨⟨h1, h2⟩, h3⟩, h4⟩, h5⟩, h6⟩, h7⟩, h8⟩, h9⟩, h11⟩ := h
  refine ⟨h1, h2, h3, h4, fun c hc hv => ?_, h6, h7, h8, h9, fun d hd hq hn => ?_⟩
  · simpa [hv] using h5 c hc
  · simpa [hq, hn] using h11 d (by simpa using hd)

/-! ### One step with the spec's own numbers -/

/-- R227: xa = 0x7FFF_FFFF_FFFF_FFF0 and xb = 0x20. -/
theorem test_r227 :
    let x : List (Nat × X) := [(2, 0x7FFFFFFFFFFFFFF0), (3, 0x20)]
    (ran (.add sr) (withX (.add sr) x)).getX 1 = 0x8000000000000010 ∧ (ran (.adds sr) (withX (.adds sr) x)).getX 1 = 0x7FFFFFFFFFFFFFFF
    ∧ (ran (.mulh sr) (withX (.mulh sr) x)).getX 1 = 0xF ∧ (ran (.mul sr) (withX (.mul sr) x)).getX 1 = 0xFFFFFFFFFFFFFE00
    ∧ (ran (.mulh sr) (withX (.mulh sr) [(2, -1), (3, 2)])).getX 1 = -1
    ∧ (ran (.mulhz sr) (withX (.mulhz sr) [(2, -1), (3, 2)])).getX 1 = 1 := by decide +kernel

/-- R228: the corners of division. -/
theorem test_r228 :
    (ran (.div sr) (withX (.div sr) [(2, 5)])).getX 1 = 0x7FFFFFFFFFFFFFFF ∧ (ran (.div sr) (withX (.div sr) [(2, -5)])).getX 1 = 0x8000000000000000
    ∧ (ran (.divz sr) (withX (.divz sr) [(2, 5)])).getX 1 = -1 ∧ (ran (.rem sr) (withX (.rem sr) [(2, -5)])).getX 1 = -5
    ∧ (ran (.div sr) (withX (.div sr) [(2, 0x8000000000000000), (3, -1)])).getX 1 = 0x7FFFFFFFFFFFFFFF
    ∧ (ran (.rem sr) (withX (.rem sr) [(2, -7), (3, 2)])).getX 1 = -1 := by decide +kernel

/-- R229: counts at and beyond 64. -/
theorem test_r229 :
    (ran (.shl sr) (withX (.shl sr) [(2, 3), (3, 64)])).getX 1 = 0 ∧ (ran (.sha sr) (withX (.sha sr) [(2, -3), (3, 200)])).getX 1 = -1
    ∧ (ran (.rol sr) (withX (.rol sr) [(2, 3), (3, 65)])).getX 1 = 6 := by decide +kernel

/-- R232: the window base built by MOVI and LIH. -/
theorem test_r232 :
    (ran (.movi ⟨6, 0, 0, 0, 0x7F0⟩) (at1 (.movi ⟨6, 0, 0, 0, 0x7F0⟩))).getX 6 = 0x7F0
    ∧ (ran (.lih ⟨6, 0, 6, 0, 0⟩) (withX (.lih ⟨6, 0, 6, 0, 0⟩) [(6, 0x7F0000000)])).getX 6 = 0x7F0000000000 := by decide +kernel

/-- R240: three passes of the loop count. -/
theorem test_r240 :
    let i : Instr := .loop ⟨0, 0, 0⟩
    (ran i (withX i [(30, 3)])).getX 30 = 2 ∧ (ran i (withX i [(30, 3)])).pc = 0x1000 ∧ (ran i (withX i [(30, 1)])).getX 30 = 0
    ∧ (ran i (withX i [(30, 1)])).pc = 0x1000 + 16 ∧ (ran i (withX i [(30, 0)])).getX 30 = 0 := by decide +kernel

/-- R241: SVC enters the handler in supervisor mode with TSTAT TV 1, REP 0, SLOT 2. -/
theorem test_r241 :
    let i : Instr := .svc ⟨0, 0, 0, 0, 0, 5⟩
    let t := ran i { at1 i with sup := false }
    t.tcause = 0x38 ∧ t.tval = 5 ∧ t.tpc = 0x1000 ∧ t.tstat = 0x202 ∧ t.inh = true ∧ t.sup = true ∧ t.pc = 0x2000 := by decide +kernel

/-- The routines of R83 and R84: EXP2_Q16(-98304) is 23170 and LOG2_Q16(65536) is 0. -/
theorem test_routines : exp2Q16 (-98304) = (23170, false) ∧ log2Q16 65536 = (0, false) := by decide +kernel

/-- A word placed for the first step after reset runs. -/
theorem test_first_step :
    (match step (State.reset.withFetchWord 32 0x4B3007F0) with
     | .next t => ((t.pkg.strands.find? 0).getD {}).getX 6
     | _ => 0) = 0x7F0 := by decide +kernel

/-- The strand at the slot of i with v registers set. -/
def withV (i : Instr) (l : List (Nat × V)) : Strand := l.foldl (fun st e => st.setV e.1 e.2) (at1 i)

/-- The lanes of a list, from lane 0. -/
def lanes (w : Nat) (l : List Int) : V := ofLanes w (512 / w) (fun j => wrapBits w (l.getD j 0))

/-- The first lanes of a v register after i at its slot. -/
def out (t n : Nat) (st : Strand) (d : Nat) : List Int :=
  (List.range n).map (fun j => readFmt (tySigned t) (tyW t) (laneOf (st.getV d) (tyW t) j))

/-- R253, R267: VMULQ.s8 of 96 and -64 is -48, and of -128 and -128 is 127 with SATS; VPACK.z8 of 300, -4 and 255. -/
theorem test_r253_r267 :
    let q : Instr := .vmulq { vo with ty := 2, e := 7 }
    let t := ran q (withV q [(2, lanes 8 [96, -128]), (3, lanes 8 [-64, -128])])
    let p : Instr := .vpack { vo with ty := 3, e := 7 }
    let u := ran p (withV p [(2, lanes 16 [300, -4, 255])])
    out 2 2 t 1 = [-48, 127] ∧ (t.getE 7).getLsbD 15 = true ∧ out 3 3 u 1 = [255, 0, 255] ∧ (u.getE 7).getLsbD 15 = true := by decide +kernel

/-- R254, R268: VQUANT.s8 of 1000 by 3 is 125 with key 0, and of 1030 is 127 with SATS. -/
theorem test_r268 :
    let q : Instr := .vquant { vo with ty := 2, c := 4, e := 7 }
    let t := ran q (withV q [(2, lanes 32 [1000]), (3, lanes 32 [3])])
    let u := ran q (withV q [(2, lanes 32 [1030]), (3, lanes 32 [3])])
    out 6 1 t 1 = [125] ∧ (t.getE 7).getLsbD 15 = false ∧ out 6 1 u 1 = [127] ∧ (u.getE 7).getLsbD 15 = true := by decide +kernel

/-- R77, R78: the census of 3, -2, 12 and 0 in s8 is 3, and merges with a later 6. -/
theorem test_r78 :
    let i : Instr := .vcens { vo with ty := 2, d := 0, b := 0, e := 7, mask := 1 }
    let st (l : List Int) := (withV i [(2, lanes 8 l)]).setM 1 0xF
    ((ran i (st [3, -2, 12, 0])).getE 7) = 0x4300 ∧ ((ran i ((st [1, 1, 1, 1]).setE 7 0x4300)).getE 7) = 0x4300 := by decide +kernel

/-- R236: ECENS, EADD and EGET of the worked example. -/
theorem test_r236 :
    let a : Instr := .ecens ⟨6, 0, 7, 0, 0, 0, 0⟩
    let b : Instr := .eadd ⟨7, 0, 7, 0, 0, 7, 0⟩
    let c : Instr := .eget ⟨8, 0, 7, 0, 0, 0, 0⟩
    let t := ran a ((at1 a).setE 7 0x43FC)
    t.getX 6 = 3 ∧ t.getE 7 = 0x00FC ∧ (ran b ((withX b [(7, -3)]).setE 7 0x00FC)).getE 7 = 0x00F9
    ∧ (ran c ((at1 c).setE 7 0x00F9)).getX 8 = 0xF9 := by decide +kernel

/-- R262: VDIVQ.s32 of 1.0 by 4.0 in Q16, wanting Q30, is 2^28. -/
theorem test_r262 :
    let i : Instr := .vdivq { vo with c := 4, e := 7 }
    out 6 1 (ran i (withV i [(2, lanes 32 [65536]), (3, lanes 32 [262144]), (4, lanes 32 [30])])) 1 = [2 ^ 28] := by decide +kernel

/-- The gradient and the map of R266. -/
def v21 : V := lanes 32 ([4, 1, -2, 7, 3, 0, 5, 6] ++ List.replicate 8 1)
def v22 : V := lanes 8 ([0, 1, 0, 2, 3, 1, 2, 0] ++ List.replicate 8 1)

/-- R265, R266: dYrep and the counts. -/
theorem test_r266_sums :
    let a : Instr := .vsegsum ⟨6, 0, 30, 0, 21, 22, 1023, 0, 0, 0⟩
    let b : Instr := .vmapcnt ⟨6, 0, 31, 0, 0, 22, 1023, 0, 0, 0⟩
    out 6 5 (ran a (withV a [(21, v21), (22, v22)])) 30 = [8, 9, 12, 3, 0]
    ∧ out 6 5 (ran b (withV b [(22, v22)])) 31 = [3, 10, 2, 1, 0] := by decide +kernel

/-- R265, R266: SHARE and the first-row flags. -/
theorem test_r266_rows :
    let a : Instr := .vmapscat ⟨6, 0, 32, 0, 30, 22, 31, 0, 0, 16⟩
    let b : Instr := .vmapcntFirst ⟨6, 0, 33, 0, 0, 22, 34, 0, 0, 16⟩
    out 6 9 (ran a (withV a [(30, lanes 32 [8, 9, 12, 3]), (22, v22), (31, lanes 32 [3, 10, 2, 1])])) 32 = [3, 1, 3, 6, 3, 1, 6, 3, 1]
    ∧ out 6 9 (ran b (withV b [(22, v22), (34, lanes 32 [-1])])) 33 = [-1, -1, 0, -1, -1, 0, 0, 0, 0] := by decide +kernel

/-- R79, R80: the K-step of the worked example clamps in S32 and sets TSAT. -/
theorem test_r80 :
    let k : Core := { acc := [(0, 2147483548)], opnd := [(0, 10), (256, 100)], mxq := [{ num := 0, strand := 0, ent := .mma 0 0 1 1 false false 0b0100101#7 }] }
    let s := world {}
    let t := (after (.kStepExecute 0) (s.withPkg (s.pkg.setCore 0 k))).pkg.core 0
    t.acc.get 0 0 = 2147483647 ∧ t.tsat.get false 0 = true ∧ t.mxq = [] ∧ t.ksteps.get 0 0 = 1 := by decide +kernel

/-- R291, step 4: BDROP of the third of three members completes the phase and leaves it. -/
theorem test_r291 :
    let i : Instr := .bdrop ⟨0, 0, 0, 0, 0, 0, 0, 0, 0, 0⟩
    let s := world (at1 i)
    let s := s.withPkg (s.pkg.setCrew 0 { s.pkg.crew 0 with barriers := [(0, { mem := [1, 4, 0], arrived := [1, 4], drops := [], phase := 0 })] })
    let b := ((after i s).pkg.crew 0).barrier 0
    b.phase = 1 ∧ b.mem = [1, 4] ∧ b.arrived = [] ∧ b.drops = [] := by decide +kernel

/-! ### The hypotheses of the statements are met

For each statement with hypotheses, a state and operands that meet them together, and for a statement of several clauses one for each
clause, at a boundary of its range. -/

theorem test_meets_DecodeOfEncode : ∀ i ∈ [Instr.vmapcntFirst ⟨7, 7, 1023, 1, 1023, 1023, 1023, 7, 1, 31⟩, .enqX ⟨1, 0, 0, 0, 0, 0, 0, 0, 0, 0⟩],
    (slotClass i).isSome = true ∧ formOk i = true := by decide +kernel

theorem test_meets_EncodeOfDecode :
    (decodeWord .S 0x4B3007F0 = .ok (.movi ⟨6, 0, 0, 0, 0x7F0⟩) ∧ 0x4B3007F0 < 2 ^ SlotClass.S.size)
    ∧ (decodeWord .E 0x31FFFFFFFFFFFFFF = .ok .cgo ∧ 0x31FFFFFFFFFFFFFF < 2 ^ SlotClass.E.size)
    ∧ (decodeWord .E 0x3100000000000000 = .ok .cgo ∧ unusedBits .E 0x3100000000000000 .cgo = 0) := by decide +kernel

/-- Core 0 to act, its strand at a MOVI. -/
def moviState : State := { world (at1 (.movi ⟨6, 0, 0, 0, 0x7F0⟩)) with agenda := [.core 0] }

theorem test_meets_StepRunsTheDecodedSlot :
    let s := moviState
    let st := at1 (.movi ⟨6, 0, 0, 0, 0x7F0⟩)
    s.nextAction = .core 0 ∧ s.begin.frozen 0 = false ∧ (s.begin.pkg.core 0).service = .inService ∧ s.begin.pkg.issuing 0 = some (0, st)
    ∧ asyncReady s.begin.pkg st = false ∧ st.phase = .issue ∧ st.bun.cur.find? st.bun.slot = some 0x4B3007F0
    ∧ decodeWord (slotCls st.bun.slot) 0x4B3007F0 = .ok (.movi ⟨6, 0, 0, 0, 0x7F0⟩) := by decide +kernel

/-- A strand at 0x1000, whose page is cached at a ring address, with header h and a MOVI there. -/
def fetchState (h : Nat) : State :=
  let s := world { pc := 0x1000 }
  s.withPkg ({ s.pkg with tlb := [{ core := 0, launch := 0, va := 0, size := 65536, pa := 0x400000000000, flags := 8, frame := 0 }] } : Pkg)
    |> fun s => s.withPkg (s.pkg.write 0x400000001000 (Spec.bytes 4 h ++ Spec.bytes 4 0x4B3007F0))

/-- With no header wait, and with the wait that SYNC 1 asks for. -/
theorem test_meets_DecodeTakesTheBundleAtThePc : ∀ h ∈ [0x00000001, 0x00010001],
    let s := fetchState h
    let st : Strand := { pc := 0x1000 }
    let l := [h, 0x4B3007F0]
    s.focused st ∧ st.run = .ready ∧ st.phase = .boundary ∧ st.grant = none ∧ st.bun = {} ∧ l.head? = some h ∧ h < 2 ^ 32
    ∧ l.length = Spec.words h
    ∧ (∀ i < l.length, Spec.wordAt s st (st.pc + BitVec.ofNat 64 (4 * i)).toNat (l.getD i 0))
    ∧ illegalBundle (BitVec.ofNat 32 h) (slotWordsOf (BitVec.ofNat 32 h) (l.drop 1)) st.sticky = false := by
  intro h hh
  simp only [List.mem_cons, List.not_mem_nil, or_false] at hh
  rcases hh with rfl | rfl <;>
  · refine ⟨by decide +kernel, rfl, rfl, rfl, rfl, rfl, by decide, by decide +kernel, ?_, by decide +kernel⟩
    intro i hi
    have h2 : i = 0 ∨ i = 1 := by simp at hi; omega
    rcases h2 with rfl | rfl <;>
      exact ⟨by decide +kernel, by decide +kernel, by decide +kernel, ⟨0, 0, 0, 65536, 0x400000000000, 8, 0⟩, by decide +kernel,
        by decide +kernel, by decide +kernel, by decide +kernel, by decide +kernel, by decide +kernel⟩

/-- A slot followed by one two classes on, and the last slot of an issue that is repeated, with a V0 word that steps from 767. -/
def repeated : Strand :=
  { bun := { header := 0x00000104#32, words := [(2, 0x0440647E06400143)], slot := 2, cur := [(2, 0x0440647E06400143)] } }

theorem test_meets_IssuesGoInClassOrderAndStep :
    (let st : Strand := { bun := { slot := 0, cur := [(0, 0x4B3007F0), (2, 0x0440647E06400143)] } }
     st.bun.cur.sorted ∧ st.bun.slot < 2 ∧ (st.bun.cur.find? 2).isSome = true ∧ (∀ m, st.bun.slot < m → m < 2 → st.bun.cur.find? m = none))
    ∧ (repeated.bun.cur.sorted ∧ (∀ m, repeated.bun.slot < m → repeated.bun.cur.find? m = none) ∧ repeated.bun.rep < hdrRepeat repeated.bun.header
      ∧ (repeated.bun.words.find? 2).isSome = true ∧ ((repeated.bun.cur.find? 2).map (Spec.step 2)).isSome = true
      ∧ (∀ j < 8, ∀ w ∈ repeated.bun.cur.find? j, w < 2 ^ 64)) := by
  refine ⟨⟨by decide +kernel, by decide, by decide +kernel, ?_⟩, by decide +kernel, ?_, by decide +kernel, by decide +kernel, by decide +kernel, by decide +kernel⟩
  · intro m h1 h2
    have : m = 1 := by simp at h1; omega
    subst this
    decide +kernel
  · intro m h
    have h' : 2 < m := h
    simp only [repeated, RMap.find?]
    rw [if_neg (by omega)]

/-- A scalar instruction with a latch source and x0 as destination, ready. -/
theorem test_meets_ScalarResults :
    (let i : Instr := .add sr
     let s := world (at1 i)
     (Spec.scalar (at1 i) i).isSome = true ∧ ready i s (at1 i))
    ∧ (let i : Instr := .lih ⟨0, 1, 5, 1, 0xFFF⟩
       let st : Strand := { at1 i with bun := { (at1 i).bun with latch := [(5, 1)] } }
       (Spec.scalar st i).isSome = true ∧ ready i (world st) st) := by decide +kernel

theorem test_meets_ScalarFrame :
    (let i : Instr := .ecens ⟨1, 0, 7, 0, 0, 0, 31⟩
     ready i (world (at1 i)) (at1 i) ∧ (at1 i).pend ≠ some .eret ∧ moves i (world (at1 i))
     ∧ i.view = .sReg 0xB2 ⟨1, 0, 7, 0, 0, 0, 31⟩)
    ∧ (let i : Instr := .lih ⟨1, 1, 7, 0, 0xFFF⟩
     ready i (world (at1 i)) (at1 i) ∧ (at1 i).pend ≠ some .eret ∧ moves i (world (at1 i))
     ∧ i.view = .sImm 0x4C ⟨1, 1, 7, 0, 0xFFF⟩) := by decide +kernel

/-- A read of TVEC; a CSRS that writes nothing; a write of TVEC by the supervisor; the same in user mode; and a write of DIRTY, which is
read-only. -/
theorem test_meets_ControlRegisterAccess :
    let r : Instr := .csrr ⟨1, 0, 0, 0, 5⟩
    let n : Instr := .csrs ⟨1, 0, 0, 0, 5⟩
    let w : Instr := .csrw ⟨1, 0, 2, 0, 5⟩
    let d : Instr := .csrw ⟨1, 0, 2, 0, 8⟩
    (ready r (world (at1 r)) (at1 r) ∧ (Spec.csr (world (at1 r)).pkg (at1 r) 5).isSome = true
      ∧ Spec.csrNew r (csrRead (world (at1 r)).pkg (at1 r) 5) 0 = none)
    ∧ (ready n (world (at1 n)) (at1 n) ∧ Spec.csrNew n 0x2000 ((at1 n).src 0 0) = none)
    ∧ (ready w (world (at1 w)) (at1 w) ∧ Spec.csrNew w 0x2000 0 = some 0 ∧ Spec.csrAllowed (at1 w) 5 0)
    ∧ (ready w (world { at1 w with sup := false }) { at1 w with sup := false } ∧ ¬ Spec.csrAllowed { at1 w with sup := false } 5 0)
    ∧ (ready d (world (at1 d)) (at1 d) ∧ ¬ Spec.csrAllowed (at1 d) 8 0) := by decide +kernel

theorem test_meets_ScaleRegisterResults : ∀ i ∈ [Instr.eset ⟨31, 0, 2, 0, 0, 0, 0⟩, .ecopy ⟨31, 0, 2, 0, 0, 0, 0⟩, .eadd ⟨31, 0, 2, 0, 0, 3, 0⟩,
    .eget ⟨1, 1, 31, 0, 0, 0, 0⟩, .ecens ⟨1, 0, 31, 0, 0, 0, 63⟩], ready i (world (at1 i)) (at1 i) := by decide +kernel

/-- p0 as destination; a guard of p1 false and negated; and a slot whose guard is p0 negated. -/
theorem test_meets_PredicateResults :
    (let i : Instr := .cmplti ⟨1, 1, 0, 2, 0, 0x1FF⟩
     (Spec.predicate (at1 i) i).isSome = true ∧ ready i (world (at1 i)) (at1 i) ∧ Spec.guarded (at1 i) 1 1)
    ∧ (let i : Instr := .brl ⟨0, 1, 0⟩
       (∃ op o, i.view = .bOff op o ∧ o.g = 0 ∧ o.gn = 1) ∧ (world (at1 i)).focused (at1 i) ∧ WellFormed (at1 i).bun.lits i ∧ ¬ Spec.guarded (at1 i) 0 1)
    ∧ (let i : Instr := .jr ⟨7, 0, 0, 3, 0, 0⟩
       (∃ op o, i.view = .bPred op o ∧ o.g = 7 ∧ o.gn = 0) ∧ WellFormed (at1 i).bun.lits i ∧ ¬ Spec.guarded (at1 i) 7 0) :=
  ⟨by decide +kernel, ⟨⟨_, _, rfl, rfl, rfl⟩, by decide +kernel, by decide +kernel, by decide +kernel⟩,
    ⟨_, _, rfl, rfl, rfl⟩, by decide +kernel, by decide +kernel⟩

theorem test_meets_TransfersDecided :
    (∀ i ∈ [Instr.br ⟨0, 0, 0x200000⟩, .brl ⟨0, 0, 0⟩, .loop ⟨0, 0, 0⟩, .endTask ⟨0, 0, 0⟩, .idle ⟨0, 0, 0⟩, .yield ⟨0, 0, 0⟩, .jr ⟨0, 0, 0, 2, 0, 0⟩,
      .jrl ⟨0, 0, 0, 31, 0, 0⟩, .eret ⟨0, 0, 0⟩], ready i (world (at1 i)) (at1 i) ∧ Spec.guarded (at1 i) 0 0)
    ∧ (let i : Instr := .eret ⟨0, 0, 0⟩
       let st := { at1 i with inh := true }
       ready i (world st) st ∧ Spec.guarded st 0 0)
    ∧ (let i : Instr := .jrl ⟨0, 0, 0, 2, 0, 0⟩
       let st := withX i [(2, 3)]
       ready i (world st) st ∧ Spec.guarded st 0 0 ∧ (st.getX 2).toNat % 4 ≠ 0) := by decide +kernel

theorem test_meets_ControlFrame :
    (let i : Instr := .loop ⟨0, 0, 0⟩
     ready i (world (at1 i)) (at1 i) ∧ (at1 i).pend ≠ some .eret ∧ moves i (world (at1 i)) ∧ Spec.guarded (at1 i) 0 0)
    ∧ (let i : Instr := .jrl ⟨0, 0, 0, 31, 0, 0⟩
     ready i (world (at1 i)) (at1 i) ∧ moves i (world (at1 i))
     ∧ Spec.guarded (at1 i) 0 0 ∧ ((at1 i).getX 31).toNat % 4 = 0)
    ∧ (let i : Instr := .pmov ⟨0, 0, 0, 7, 0, 0⟩
     ready i (world (at1 i)) (at1 i) ∧ moves i (world (at1 i))
     ∧ (Spec.predicate (at1 i) i).isSome = true ∧ Spec.guarded (at1 i) 0 0) := by decide +kernel

/-- Slot 15 of issue 31; and two pops of q7 for a slot not yet committed. -/
theorem test_meets_SynchronousTrapEntry :
    (let st : Strand := { bun := { rep := 31 } }
     (15 : Nat) < 16 ∧ st.bun.rep < 32)
    ∧ (let c : Capt := { slot := 3, q := 7, pop := true, ent := some { val := 5 } }
       let st : Strand := { bun := { capt := [c, c] } }
       ∀ c ∈ st.bun.capt, c.pop = true ∧ c.q = 7 ∧ c.ent.isSome = true ∧ 3 ≤ c.slot) := by decide +kernel

theorem test_meets_DeliverableTrapIsTaken : Spec.Deliverable (world (at1 .cgo)) (at1 .cgo) ∧ ((world (at1 .cgo)).pkg.launch 0).first = none := by
  decide +kernel

theorem test_meets_DeliberateTraps : ∀ i ∈ [Instr.trap ⟨0, 0, 0, 0, 0, 511⟩, .svc ⟨0, 0, 0, 0, 0, 0⟩, .brk ⟨0, 0, 0, 0, 0, 1⟩],
    ready i (world (at1 i)) (at1 i) ∧ Spec.guarded (at1 i) 0 0 ∧ ¬ Spec.guarded (at1 i) 0 1 := by decide +kernel

/-- An illegal field; v64 outside a window of one unit; an invalid latch; and an empty queue. -/
theorem test_meets_RegisterChecksTrap :
    (let i : Instr := .vadd { vo with d := 768 }
     (world (at1 i)).focused (at1 i) ∧ (at1 i).untrapped ∧ (at1 i).wordClean i ∧ badFields (at1 i).bun.lits i ≠ [])
    ∧ (let i : Instr := .vadd { vo with a := 64 }
       (at1 i).wordClean i ∧ badFields (at1 i).bun.lits i = [] ∧ ∃ c ∈ vCodes i, isV c = true ∧ (at1 i).banks.length ≤ c.toNat / 64)
    ∧ (let i : Instr := .vadd { vo with a := 1017 }
       (at1 i).wordClean i ∧ badFields (at1 i).bun.lits i = [] ∧ (∀ c ∈ vCodes i, isV c = true → c.toNat / 64 < (at1 i).banks.length)
       ∧ ∃ n ∈ latchesRead (foot i) (sLatches i), (at1 i).bun.latch.find? n = none ∧ (n = 3 → (at1 i).bun.l3acc = none))
    ∧ (let i : Instr := .vadd { vo with a := 1015 }
       let st : Strand := { at1 i with bun := { (at1 i).bun with capt := [{ slot := 2, q := 7, pop := true, ent := none }] } }
       (world st).focused st ∧ st.untrapped ∧ st.wordClean i ∧ badFields st.bun.lits i = []
       ∧ (∀ c ∈ vCodes i, isV c = true → c.toNat / 64 < st.banks.length)
       ∧ (∀ n ∈ latchesRead (foot i) (sLatches i), (st.bun.latch.find? n).isSome = true) ∧ ∃ c ∈ st.slotCapt st.bun.slot, c.ent = none) := by
  decide +kernel

/-! #### The V slots -/

/-- The first and the last type a recording instruction takes, with queue, latch and discarded operands. -/
theorem test_meets_VectorRecordResults :
    (let i : Instr := .vadd { vo with ty := 0, mask := 1, d := 1023, nw := 1, a := 1023 }
     (Spec.vrec i).isSome = true ∧ ready i (world (at1 i)) (at1 i))
    ∧ (let i : Instr := .vquant { vo with ty := 5, d := 1015, a := 1016, c := 4, e := 31 }
       let st : Strand := { at1 i with bun := { (at1 i).bun with latch := [(0, 3)] } }
       (Spec.vrec i).isSome = true ∧ ready i (world st) st) := by decide +kernel

theorem test_meets_VectorRoutineResults : ∀ i ∈ [Instr.vexp2q { vo with b := 0 }, .vlog2q { vo with ty := 7, b := 0, e := 31 }, .vrcpq vo, .vrsqq vo,
    .vdivq { vo with c := 63 }], ready i (world (at1 i)) (at1 i) := by decide +kernel

theorem test_meets_VectorBitResults : ∀ i ∈ [Instr.vmov { vo with ty := 0, b := 0 }, .vperm { vo with ty := 7, c := 63, mask := 7 }, .viota { vo with b := 0, e := 31 },
    .vunzip { vo with e := 1 }], (Spec.vbits i).isSome = true ∧ ready i (world (at1 i)) (at1 i) := by decide +kernel

theorem test_meets_VectorCompareResults : ∀ i ∈ [Instr.vcmpeq { vo with ty := 0, e := 8 }, .vcmpne { vo with ty := 7, e := 15 }, .vcmplt vo, .vcmple { vo with e := 7 }],
    ready i (world (at1 i)) (at1 i) := by decide +kernel

theorem test_meets_VectorWholeResults : ∀ i ∈ [Instr.vext vo, .vredadd { vo with b := 0, c := 4, e := 31 }, .vredmax { vo with b := 0 }, .vredmin { vo with b := 0 },
    .vmcount { vo with a := 0, b := 0 }, .vhash { vo with ty := 5, c := 4, e := 0x1C }, .vsegsum { vo with c := 4, e := 15 },
    .vmapcnt { vo with a := 0, c := 4, ty := 2, e := 3 }, .vmapcntFirst { vo with a := 0, c := 4, e := 16 }, .vmapscat { vo with c := 4, e := 31 },
    .vmapscat { vo with c := 1023, e := 0 }, .vunpk { vo with ty := 5, b := 0, e := 1 }, .vnop ⟨0, 0, 0, 0, 0, 0, 0, 0, 0, 0⟩,
    .vcens { vo with d := 0, b := 0, e := 31 }], ready i (world (at1 i)) (at1 i) := by decide +kernel

theorem test_meets_VectorFrame :
    let i : Instr := .vcmplt { vo with e := 8 }
    ready i (world (at1 i)) (at1 i) ∧ (at1 i).pend ≠ some .eret ∧ i.view = .v 0x67 { vo with e := 8 } ∧ moves i (world (at1 i)) := by decide +kernel

/-! #### The M slot -/

theorem launch_world (st : Strand) : (world st).pkg.launch ((world st).pkg.crew 0).launch = launch1 := by
  simp [world, Pkg.launch, Pkg.crew, RMap.find?]

/-- Every access to the 16 KiB of either position is allowed. -/
theorem window_world (st : Strand) (hc : st.crew = 0) (k : AccKind) (va j off n : Nat) (hv : va = 0x7F0000000000 + j * 2 ^ 18 + off) (hj : j < 2)
    (hn : off + n ≤ 16384) : Spec.Accessible (world st).pkg st k va n := by
  have hl : launch1.cpc = 2 := by decide +kernel
  have hs : launch1.spad = 16384 := by decide +kernel
  subst hv
  refine ⟨fun a h1 h2 => .inr (.inl ⟨by omega, by omega, ?_, ?_⟩), fun r hr => by cases hr⟩
  · rw [hc, launch_world, hl]; omega
  · rw [hc, launch_world, hs]; omega

/-- A window address in x2, and strides in x3. -/
def inWin (i : Instr) (va stride : X) : Strand := withX i [(2, va), (3, stride)]

/-- The last 8 bytes of position 1; the last 64 bytes of position 0; and no active lane at a misaligned address. -/
theorem test_meets_LoadsIssue :
    (let i : Instr := .ldx { mo with nw := 1 }
     let st := inWin i (0x7F0000040000 + 16376) 0
     Spec.load st i = some ({ mo with nw := 1 }, 0x7F0000043FF8, 8, 0, 8, [⟨0x7F0000043FF8, 0, List.replicate 8 0⟩]) ∧ ready i (world st) st
       ∧ Spec.Accessible (world st).pkg st .load 0x7F0000043FF8 8)
    ∧ (let i : Instr := .ldvb { mo with data := 63 }
       let st := inWin i 0x7F0000003FFC 0
       Spec.load st i = some ({ mo with data := 63 }, 0x7F0000003FFC, 4, 0, 4, [⟨0x7F0000003FFC, 0, List.replicate 4 0⟩]) ∧ ready i (world st) st
         ∧ Spec.Accessible (world st).pkg st .load 0x7F0000003FFC 4)
    ∧ (let i : Instr := .ldvs { mo with mask := 1 }
       let st := inWin i 1 1
       Spec.load st i = some ({ mo with mask := 1 }, 1, 4, 1, 4, []) ∧ ready i (world st) st) :=
  ⟨⟨rfl, by decide +kernel, window_world _ rfl _ _ 1 16376 8 (by norm_num) (by norm_num) (by norm_num)⟩,
    ⟨rfl, by decide +kernel, window_world _ rfl _ _ 0 16380 4 (by norm_num) (by norm_num) (by norm_num)⟩,
    rfl, by decide +kernel⟩

theorem test_meets_StoresIssue :
    (let i : Instr := .stx mo
     let st := inWin i 0x7F0000000000 0
     Spec.store st i = some (mo, 0x7F0000000000, 8, 0, 8, [⟨0x7F0000000000, 0, List.replicate 8 0⟩]) ∧ ready i (world st) st
       ∧ Spec.Accessible (world st).pkg st .store 0x7F0000000000 8)
    ∧ (let i : Instr := .stvm { mo with mask := 1 }
       let st := inWin i 3 0
       Spec.store st i = some ({ mo with mask := 1 }, 3, 4, 0, 0, []) ∧ ready i (world st) st) :=
  ⟨⟨rfl, by decide +kernel, window_world _ rfl _ _ 0 0 8 (by norm_num) (by norm_num) (by norm_num)⟩, rfl, by decide +kernel⟩

theorem test_meets_AtomicsIssue :
    let i : Instr := .acas { mo with ty := 0, nw := 1, order := 3, scope := 6 }
    let st := inWin i 0x7F0000043FFF 0xFF
    Spec.atomic st i = some ({ mo with ty := 0, nw := 1, order := 3, scope := 6 }, 0x48, 0x7F0000043FFF) ∧ ready i (world st) st
      ∧ Spec.Accessible (world st).pkg st .atomic 0x7F0000043FFF 1 :=
  ⟨by decide +kernel, by decide +kernel, window_world _ rfl _ _ 1 16383 1 (by norm_num) (by norm_num) (by norm_num)⟩

/-- Each check at a boundary: a misaligned address; the first address outside every region; the last word of the notice area with one byte
too many, and a store there; the first address past an allocation, and the first position past the crew; a page without W, and a supervisor
page in user mode; the first byte of a range; and a page that is not cached. -/
theorem test_meets_ScalarAccessChecks :
    (let i : Instr := .ldx mo
     ready i (world (inWin i 0x7F0000000001 0)) (inWin i 0x7F0000000001 0) ∧ ready i (world (inWin i 0x7F0000601000 0)) (inWin i 0x7F0000601000 0)
     ∧ Spec.ea (inWin i 0x7F0000601000 0) mo = 0x7F0000601000
     ∧ ready i (world (inWin i 0x7F0000600248 0)) (inWin i 0x7F0000600248 0) ∧ Spec.ea (inWin i 0x7F0000600248 0) mo = 0x7F0000600248
     ∧ ready i (world (inWin i 0x7F0000004000 0)) (inWin i 0x7F0000004000 0) ∧ ready i (world (inWin i 0x7F0000080000 0)) (inWin i 0x7F0000080000 0)
     ∧ ready i (world (inWin i 0x7EFFFFFFFFF8 0)) (inWin i 0x7EFFFFFFFFF8 0) ∧ (world (at1 i)).pkg.tlbHit 0 0 0x7EFFFFFFFFF8 = none
     ∧ (world (at1 i)).pkg.launch 0 = launch1 ∧ launch1.cpc = 2 ∧ launch1.spad = 0x4000)
    ∧ (let i : Instr := .stx mo
       let st := inWin i 0x10000 0
       let s := (world st).withPkg { (world st).pkg with tlb := [{ core := 0, launch := 0, va := 0x10000, size := 65536, pa := 0x400000000000, flags := 0x402, frame := 1 }] }
       ready i (world (inWin i 0x7F0000600000 0)) (inWin i 0x7F0000600000 0) ∧ ready i s st ∧ Spec.ea st mo = 0x10000
       ∧ (s.pkg.tlbHit 0 0 0x10000).isSome = true ∧ (∀ t ∈ s.pkg.tlbHit 0 0 0x10000, t.flags.testBit 2 = false))
    ∧ (let i : Instr := .ldx mo
       let st := { inWin i 0x10000 0 with sup := false }
       let s := (world st).withPkg { (world st).pkg with tlb := [{ core := 0, launch := 0, va := 0x10000, size := 65536, pa := 0x400000000000, flags := 0x802, frame := 1 }] }
       ready i s st ∧ (s.pkg.tlbHit 0 0 0x10000).isSome = true ∧ (∀ t ∈ s.pkg.tlbHit 0 0 0x10000, t.flags.testBit 11 = true))
    ∧ (let i : Instr := .stx mo
       let st := inWin i 0x7F0000000040 0
       let r : Range := { base := 0x7F0000000040 / 64, units := 1, mode := 1, owner := 0, launch := 0, src := 0 }
       let s := (world st).withPkg { (world st).pkg with ranges := [r] }
       ready i s st ∧ r ∈ s.pkg.ranges ∧ Spec.Accessible { s.pkg with ranges := [] } st .store 0x7F0000000040 8 ∧ r.launch = 0
       ∧ r.base * 64 ≤ 0x7F0000000040 ∧ 0x7F0000000040 < (r.base + r.units) * 64) :=
  ⟨by decide +kernel, by decide +kernel, by decide +kernel, by decide +kernel, by decide +kernel,
    window_world _ rfl _ _ 0 64 8 (by norm_num) (by norm_num) (by norm_num), by decide +kernel, by decide +kernel, by decide +kernel⟩

/-- An access of one part in the scratchpad of core 0. -/
def oneAcc (k : AccKind) (n : Nat) (d : Dest) : Acc :=
  { strand := 0, core := 0, kind := k, dest := d, parts := [{ addr := spadKey 0 8, data := List.replicate n 0xA5, pos := 0, flags := 0, va := 0x7F0000000008 }] }

def accState (a : Acc) : State := (world {}).withPkg { (world {}).pkg with accs := [(7, a)], nextAcc := 8 }

theorem test_meets_LoadArrives :
    let a := oneAcc .load 8 (.x 31 6)
    let s := accState a
    ∀ q ∈ a.parts, s.pkg.accs.find? 7 = some a ∧ a.kind = .load ∧ a.parts = [q] ∧ s.pkg.mayPerform 7 0 6 = true ∧ refusal s.pkg s.host.pcieUp a q = none
      ∧ s.pkg.poisoned (s.pkg.physKey q.addr) q.len = none ∧ s.pkg.strands.find? a.strand = some {} := by decide +kernel

/-- Performed for every agent, or in the cluster, in the window; and at the first scope outside it. -/
theorem test_meets_StorePerforms :
    (let a := oneAcc .store 8 .none
     let s := accState a
     ∀ q ∈ a.parts, s.pkg.accs.find? 7 = some a ∧ a.kind = .store ∧ a.parts = [q] ∧ s.pkg.mayPerform 7 0 6 = true ∧ s.pkg.mayPerform 7 0 2 = true ∧ q.reached ≤ 2
       ∧ 2 ^ 48 ≤ q.addr ∧ refusal s.pkg s.host.pcieUp a q = none ∧ s.pkg.poisoned (s.pkg.physKey q.addr) q.len = none)
    ∧ (let q : Part := { addr := 0x400000000000, data := [1], pos := 0, flags := 0, va := 0x10000, reached := 0 }
       let a : Acc := { strand := 0, core := 0, kind := .store, parts := [q] }
       let s := accState a
       s.pkg.accs.find? 7 = some a ∧ s.pkg.mayPerform 7 0 0 = true ∧ q.reached ≤ 0 ∧ q.addr < 2 ^ 48) := by decide +kernel

theorem test_meets_AtomicPerforms :
    let a := { oneAcc .atomic 8 (.x 1 6) with op := 0x48, ty := 6, opnd := 1, cmp := 0 }
    let s := accState a
    ∀ q ∈ a.parts, s.pkg.accs.find? 7 = some a ∧ a.kind = .atomic ∧ a.parts = [q] ∧ a.ty ≤ 6 ∧ 0x40 ≤ a.op ∧ a.op ≤ 0x48 ∧ 8 * q.len = scW a.ty
      ∧ s.pkg.mayPerform 7 0 6 = true ∧ refusal s.pkg s.host.pcieUp a q = none ∧ s.pkg.poisoned (s.pkg.physKey q.addr) q.len = none
      ∧ s.pkg.strands.find? a.strand = some {} := by decide +kernel

/-! #### Fences, flags, galley words, rings, barriers -/

theorem test_meets_FencesAndRangeWaits :
    (∀ i ∈ [Instr.fence { m0 with base := 0, order := 3, scope := 6 }, .qfence { m0 with base := 0, data := 0, offset := 31 },
      .qfence { m0 with base := 0, data := 0, order := 3, offset := 1 }, .rwait { m0 with data := 0 }],
      ready i (world (at1 i)) (at1 i) ∧ (at1 i).grant = none ∧ (world (at1 i)).pkg.accs = [] ∧ (world (at1 i)).pkg.ranges = [])
    ∧ (let i : Instr := .rwait { m0 with data := 0, ix := 3 }
       let st := inWin i 0x7F0000000000 64
       let r : Range := { base := 0x7F0000000000 / 64 + 1, units := 1, mode := 2, owner := 0, launch := 0, src := 0 }
       let s := (world st).withPkg { (world st).pkg with ranges := [r] }
       ready i s st ∧ ∀ r ∈ s.pkg.ranges, (Spec.eaNoIx st { m0 with data := 0, ix := 3 }).toNat + 64 ≤ r.base * 64) := by decide +kernel

/-- A flag of the strand's own core, flag 31 of position 1, and no access that a release must follow. -/
theorem test_meets_FlagOperations :
    (∀ i ∈ [Instr.fget { m0 with base := 0, offset := 1024 }, .fset { m0 with base := 0, offset := 63 }, .fadd { m0 with base := 0, offset := 63 }],
      ready i (world (at1 i)) (at1 i) ∧ Spec.selector (world (at1 i)).pkg (at1 i) 1024 ∧ Spec.selector (world (at1 i)).pkg (at1 i) 63
      ∧ Spec.Released (world (at1 i)).pkg (at1 i) ∧ ((world (at1 i)).pkg.core 1).waits = [])
    ∧ (let w : FlagWait := { flag := 31, count := 5, who := .header 0 }
       w.count ≤ 5) := by decide +kernel

/-- The last galley word of position 1, with generation 0. -/
theorem test_meets_GalleyOperations :
    ∀ i ∈ [Instr.gwinit m0, .gwwait { m0 with ix := 3 }],
      let st := inWin i (0x7F0000040000 + 16368) 1
      Spec.Object (world st) st 0x7F0000043FF0 16 false ∧ st.grant = none ∧ ready i (world st) st ∧ (st.getX 1).toNat / 2 ^ 37 % 32 < launch1.cpc
      ∧ (world st).pkg.num (Spec.place (world st).pkg st 0x7F0000043FF0 + 8) 2 ≠ (st.getX 3).toNat % 2 ^ 16
      ∧ (world st).pkg.num (Spec.place (world st).pkg st 0x7F0000043FF0 + 8) 2 = (st.getX 0).toNat % 2 ^ 16 := by decide +kernel

/-- A ring of one 8-byte slot at the start of position 0, its slots 64 bytes on, in a state: HEAD, TAIL and flags. -/
def ringState (i : Instr) (head tail fl : Nat) : State :=
  let st := inWin i 0x7F0000000000 0
  let s := world st
  s.withPkg (s.pkg.write (spadKey 0 0) (Spec.bytes 8 0x7F0000000040 ++ Spec.bytes 4 head ++ Spec.bytes 4 tail ++ [0x30, BitVec.ofNat 8 fl]))

/-- Closed, with room, full; closed and empty, holding one, open and empty, at the wrap of TAIL. -/
theorem test_meets_RingOperations :
    ∀ c ∈ [(Instr.enqX { m0 with ty := 1 }, 0, 0, 3), (.enqV m0, 0xFFFFFFFF, 0xFFFFFFFF, 1), (.enqX { m0 with ty := 1 }, 0xFFFFFFFF, 0, 1), (.deqX { m0 with ty := 1 }, 5, 5, 3),
        (.deqV { m0 with data := 0 }, 0xFFFFFFFF, 0, 1), (.deqX { m0 with ty := 1 }, 5, 5, 1)],
      let s := ringState c.1 c.2.1 c.2.2.1 c.2.2.2
      let st := inWin c.1 0x7F0000000000 0
      ready c.1 s st ∧ st.grant = none ∧ Spec.Object s st 0x7F0000000000 32 false ∧ Spec.Ring s st 0x7F0000000000 (Spec.place s.pkg st 0x7F0000000000)
      ∧ Spec.cap s.pkg (spadKey 0 0) = 1 ∧ Spec.closed s.pkg (spadKey 0 0) = decide (c.2.2.2 = 3)
      ∧ (Spec.tail s.pkg (spadKey 0 0) + 2 ^ 32 - Spec.head s.pkg (spadKey 0 0)) % 2 ^ 32 = (c.2.2.1 + 2 ^ 32 - c.2.1) % 2 ^ 32 := by
  decide +kernel

theorem test_meets_RingsOpenAndClose :
    (let i : Instr := .rinit { m0 with ix := 3 }
     let st := withX i [(1, 0x7F0000001000), (2, 0x7F0000000000), (3, 0x66)]
     Spec.Object (world st) st 0x7F0000000000 32 false ∧ ready i (world st) st ∧ (st.getX 3).toNat % 256 / 16 = 6
     ∧ Spec.inWindow (world st) st ((st.getX 1).toNat % 2 ^ 48) (2 ^ 12))
    ∧ (let i : Instr := .rclose { m0 with data := 0 }
       let st := inWin i 0x7F0000000000 0
       ready i (ringState i 0 1 1) st ∧ Spec.Ring (ringState i 0 1 1) st 0x7F0000000000 (spadKey 0 0)) := by decide +kernel

/-- Barrier 3 with these members arrived. -/
def barState (i : Instr) (mem arrived : List Nat) : State :=
  let s := world (at1 i)
  s.withPkg (s.pkg.setCrew 0 { s.pkg.crew 0 with barriers := [(3, { mem := mem, arrived := arrived, drops := [], phase := 0xFFFF })] })

/-- A join; a drop and an arrival; an arrival that waits and completes the phase; and a wait for a phase that differs. -/
theorem test_meets_BarrierOperations :
    (∀ c ∈ [(Instr.bjoin { m0 with base := 0, data := 0, offset := 3 }, [], []), (.bdrop { m0 with base := 0, data := 0, offset := 3 }, [0, 1], []),
        (.barr { m0 with base := 0, offset := 3 }, [0, 1], []), (.barr { m0 with base := 0, offset := 35 }, [0, 1], [1])],
      let s := barState c.1 c.2.1 c.2.2
      ready c.1 s (at1 c.1) ∧ (3 : Nat) < launch1.barr ∧ (at1 c.1).grant = none ∧ Spec.Released s.pkg (at1 c.1)
      ∧ ((s.pkg.crew 0).barrier 3).mem = c.2.1 ∧ ((s.pkg.crew 0).barrier 3).arrived = c.2.2)
    ∧ (let i : Instr := .bwait { m0 with base := 0, ix := 3, offset := 3 }
       ready i (barState i [0] []) (at1 i) ∧ ((barState i [0] []).pkg.crew 0 |>.barrier 3).phase ≠ ((at1 i).getX 3).setWidth 16)
    ∧ (((barState .cgo [0, 1] [1]).pkg.crew 0 |>.barrier 3).mem.all (fun m => m == 0 || m == 1) = true) := by decide +kernel

/-! #### The P slots, the matrix engine and copies -/

/-- The state with core 0 changed. -/
def withCore (s : State) (f : Core → Core) : State := s.withPkg (s.pkg.setCore 0 (f (s.pkg.core 0)))

/-- Every access to the window of a crew of launch1 is allowed. -/
theorem window_any (p : Pkg) (st : Strand) (hp : p.launch (p.crew st.crew).launch = launch1) (hr : p.ranges ++ p.wanted = []) (k : AccKind) (va j off n : Nat)
    (hv : va = 0x7F0000000000 + j * 2 ^ 18 + off) (hj : j < 2) (hn : off + n ≤ 16384) : Spec.Accessible p st k va n := by
  have hl : launch1.cpc = 2 := by decide +kernel
  have hs : launch1.spad = 16384 := by decide +kernel
  subst hv
  refine ⟨fun a h1 h2 => .inr (.inl ⟨by omega, by omega, ?_, ?_⟩), fun r h => by rw [hr] at h; cases h⟩
  · rw [hp, hl]; omega
  · rw [hp, hs]; omega

theorem test_meets_TileReads :
    (∀ i ∈ [Instr.ard { po with tile := 15, row := 15, sub := 1 }, .ard po, .ardw { po with sub := 1 }, .ardh po, .acens { po with tile := 15, row := 15, vec := 0, dm := 15 }, .arq po],
      ready i (world (at1 i)) (at1 i))
    ∧ (∀ o ∈ [{ po with tile := 15, row := 15, sub := 1 }, po], Spec.TileReadable (world (at1 (.ard o))) (at1 (.ard o)) o)
    ∧ (at1 (.arq po)).bun.lits.getD 0 0 % 2 ^ 10 = 1023
    ∧ (let i : Instr := .arq { po with sub := 1 }
       let st := { at1 i with bun := { (at1 i).bun with lits := [0, 63, 5] , header := BitVec.ofNat 32 (2 ^ 5 + 3 * 2 ^ 14) } }
       ready i (world st) st ∧ st.bun.lits.getD 1 0 % 2 ^ 10 = 63 ∧ 63 / 64 < st.banks.length ∧ st.vpend = [] ∧ poisonV 0 63 ∉ (world st).pkg.poison) := by
  decide +kernel

theorem test_meets_TileWrites :
    (∀ i ∈ [Instr.awr { po with tile := 15, row := 15 }, .awr { po with sub := 3 }, .aaddv po, .azero { po with tile := 15, row := 0, vec := 0 }],
      ready i (world (at1 i)) (at1 i) ∧ ((world (at1 i)).pkg.core 0).mode = .direct ∧ ((world (at1 i)).pkg.core 0).mxq = [])
    ∧ (let i : Instr := .aaddv po
       let e : MxQ := { num := 0, strand := 0, ent := .mma 1 0 1 1 false false 0 }
       let s := withCore (world (at1 i)) (fun k => { k with mxq := [e] })
       ready i s (at1 i) ∧ ((s.pkg.core 0).mxq.contains e) = true ∧ (s.pkg.core 0).mode = .direct) := by decide +kernel

/-- Core 0 with slots 62 and 63 claimed by crew 0. -/
def claimed (i : Instr) : State := withCore (world (at1 i)) (fun k => { k with claim := [(62, 0), (63, 0)] })

theorem test_meets_MatrixCommands :
    (∀ i ∈ [Instr.mma ⟨0, 15, 62, 63, 1, 1⟩, .mchain ⟨0, 0, 62, 63, 0, 0⟩, .mseal ⟨0x8001⟩, .mzero ⟨0xFFFF⟩, .orelease ⟨0, 62, 1⟩,
        .ofill ⟨2, 3, 4, 0, 63⟩, .ofillv ⟨0, 48, 62⟩, .oclaim ⟨31, 62, 1⟩, .oclaim ⟨1, 0, 1⟩],
      ready i (claimed i) (at1 i) ∧ ((claimed i).pkg.core 0).mode = .direct ∧ ((claimed i).pkg.core 0).mxq.length < 16
      ∧ Spec.Claimed (claimed i) (at1 i) [62, 63] ∧ (claimed i).pkg.owed (at1 i) 6 = []
      ∧ ((claimed i).pkg.core 0).issued.get 0 15 + 1 ≤ ((claimed i).pkg.launch ((claimed i).pkg.crew 0).launch).maxSteps)
    ∧ (let i : Instr := .oclaim ⟨1, 62, 1⟩
       let s := withCore (claimed i) (fun k => { k with releasing := [63] })
       ready i s (at1 i) ∧ (s.pkg.core 0).claim.find? 63 = some 0 ∧ 63 ∈ (s.pkg.core 0).releasing)
    ∧ (let i : Instr := .mfmt ⟨4, 4, 1⟩
       ready i (world (at1 i)) (at1 i) ∧ ((world (at1 i)).pkg.core 0).mode = .direct ∧ (at1 i).fmtPipe = []) := by decide +kernel

/-- OFILL: sixteen rows of two-byte elements, 1 KiB apart, the last to the end of the allocation. -/
theorem test_meets_OfillRows :
    let i : Instr := .ofill ⟨2, 3, 4, 0, 63⟩
    let st := inWin i (0x7F0000040000 + 992) 1024
    let s := withCore (world st) (fun k => { k with claim := [(63, 0)] })
    ready i s st ∧ (992 : Nat) % 2 = 0 ∧ ∀ r < 16, Spec.Accessible { s.pkg with ranges := [] } st .load
      (st.getX 2 + (0 : BitVec 24).signExtend 64 + st.getX 3 * BitVec.ofNat 64 r).toNat 32 := by
  refine ⟨by decide +kernel, by decide, fun r hr => window_any _ _ (by decide +kernel) rfl _ _ 1 (992 + 1024 * r) 32 ?_ (by decide) (by omega)⟩
  interval_cases r <;> decide +kernel

def mxState (e : MxEnt) : State := withCore (world {}) (fun k => { k with mxq := [{ num := 0, strand := 0, ent := e }], claim := [(63, 0)], releasing := [63] })

theorem test_meets_MatrixEngineSteps :
    (∀ e ∈ [MxEnt.mma 15 0 63 1 true true 0x7F, .mma 0 0 1 32 false false 0, .ofillv 63 (List.replicate 256 0xFFFF), .mzero 0x8001, .mseal 0xFFFF, .orelease 63 1],
      ((mxState e).pkg.core 0).mxq = [{ num := 0, strand := 0, ent := e }] ∧ ((mxState e).pkg.core 0).mode = .direct
      ∧ ((mxState e).pkg.core 0).service = .inService ∧ (mxState e).pkg.held 0 0 0 = false ∧ (mxState e).pkg.sealStop 0 0 = false
      ∧ (mxState e).pkg.poison = [] ∧ ((mxState e).pkg.crew 0).st = .resident)
    ∧ (let s := mxState (.ofill 63 4 0x7F0000000000 32 true)
       (fillRows s.er 0 0 true 4 0x7F0000000000 32 s.pkg).2.2 = none) := by decide +kernel

/-- The shadow set of a legal strided copy of 4 words in position 0, from its start to byte 8192, with fields l on top. -/
def fields (l : List (Nat × X)) : RMap X := ([(0, 0x7F0000000000), (1, 0x7F0000002000), (3, 4)] ++ l).foldl (fun (m : RMap X) (e : Nat × X) => m.put e.1 e.2) []

def shadowed (i : Instr) (l : List (Nat × X)) : Strand := { at1 i with shadow := fields l }

def cmdOf (n : Nat) (l : List (Nat × X)) : CopyCmd := { num := n, strand := 0, crew := 0, fields := fields l }

theorem test_meets_CopyCommands :
    (∀ i ∈ [Instr.cset ⟨2, 0⟩, .cset ⟨0, 21⟩, .ccancel ⟨0xFFFF⟩], ready i (world (at1 i)) (at1 i))
    ∧ (∀ l ∈ [[], [(3, 0x1000000), (4, 65536), (5, 65536), (14, 2), (15, 0xFFFF003F), (16, 0x8000000000043FF0), (19, 2)], [(11, 65536), (12, 0x100000), (10, 4)],
        [(2, 4), (13, 4), (18, 0x8000000000003FC0), (20, 0x8000000000043FF8)]],
      let st := shadowed .cgo l
      ready .cgo (world st) st ∧ Spec.CopyLegal (fields l) false ∧ Spec.CopyInside (world st).pkg 0 (fields l) ∧ (world st).pkg.owed st 6 = []
      ∧ ((world st).pkg.core 0).copyq = [] ∧ ((world st).pkg.core 0).copyRun = none)
    ∧ (let st := shadowed .cgo []
       let s := withCore (world st) (fun k => { k with copyq := List.replicate 15 (cmdOf 0 []), copyRun := some { cmd := cmdOf 0 [] } })
       ready .cgo s st ∧ (s.pkg.core 0).copyq.length = 15 ∧ (s.pkg.core 0).copyRun.isSome = true ∧ s.pkg.owed st 6 = [])
    ∧ (let l : List (Nat × X) := [(17, 0x8000000000003FC0)]
       let st := shadowed .carm l
       let s := (world st).withPkg ((world st).pkg.write (spadKey 0 0x3FC6) [1, 0])
       ready .carm (world st) st ∧ ready .carm s st ∧ Spec.CopyLegal (fields l) true ∧ Spec.CopyInside s.pkg 0 (fields l) ∧ s.pkg.owed st 6 = []
       ∧ s.pkg.num (Spec.offAt s.pkg 0 0x3FC0 + 6) 2 = 1 ∧ (world st).pkg.num (Spec.offAt (world st).pkg 0 0x3FC0 + 6) 2 = 0
       ∧ (let s' := withCore s (fun k => { k with armed := List.replicate 16 { cmd := cmdOf 0 l } })
          ready .carm s' st ∧ (s'.pkg.core 0).armed.length = 16)) :=
  ⟨by decide +kernel, by decide +kernel, by decide +kernel, by decide +kernel⟩

theorem test_meets_CopyOfBytes :
    let i : Instr := .cpy ⟨1, 2, 3, 1, 31, 1, 0xFFFF⟩
    let st := withX i [(1, 0x7F0000040000 + 16383), (2, 0x7F0000000000), (3, 0x1000000)]
    ready i (world st) st ∧ (world st).pkg.owed st 6 = [] ∧ (1 : Nat) < launch1.cpc ∧ Spec.Reach (world st) st .load 0x7F0000000000 1
    ∧ Spec.Reach (world st) st .store (0x7F0000040000 + 16383) 1 :=
  ⟨by decide +kernel, by decide +kernel, by decide +kernel, window_any _ _ (launch_world _) rfl _ _ 0 0 1 rfl (by decide) (by decide),
    window_any _ _ (launch_world _) rfl _ _ 1 16383 1 rfl (by decide) (by decide)⟩

/-- The engine of core 0 in the middle of a command with fields l. -/
def copyState (done : Nat) (l : List (Nat × X)) (census : List Nat) : State :=
  withCore (world {}) (fun k => { k with copyRun := some { cmd := cmdOf 5 l, done := done, census := census } })

theorem test_meets_CopyEngineSteps :
    (let s := withCore (world {}) (fun k => { k with copyq := [cmdOf 5 [(19, 1)], cmdOf 6 []] })
     let s := s.withPkg { s.pkg with ranges := [{ base := 0, units := 1, mode := 1, owner := 0, launch := 0, src := 1, tok := 5 }] }
     (s.pkg.core 0).copyRun = none ∧ (s.pkg.core 0).service = .inService ∧ s.pkg.held 0 1 5 = false ∧ Spec.field (cmdOf 5 [(19, 1)]).fields 11 = 0
     ∧ (s.pkg.ranges.any (fun r => r.src == 1 && r.tok == 5)) = true)
    ∧ (∀ c ∈ [(0, []), (3, [(2, 6), (13, 2)]), (3, [(1, 0x7F0000043FF0), (13, 4)]), (31, [(4, 2), (5, 4), (6, 0xFFFFFFFFFF), (2, 3)])],
      let m := fields c.2
      let s := copyState c.1 c.2 []
      Spec.field m 11 = 0 ∧ Spec.field m 14 = 0 ∧ Spec.offset m 16 = none ∧ c.1 < Spec.field m 3 * Spec.field m 4 * Spec.field m 5
      ∧ Spec.Clean s.pkg 0 (Spec.source m [] c.1) (Spec.esOf (Spec.field m 2)) ∧ Spec.Clean s.pkg 0 (Spec.destOf m c.1 0) (Spec.esOf (Spec.field m 2)))
    ∧ (∀ l ∈ [[], [(20, 0x8000000000043FF8)], [(15, 0x10000)]],
      let m := fields l
      Spec.field m 11 = 0 ∧ Spec.field m 3 * Spec.field m 4 * Spec.field m 5 ≤ 4 ∧ Spec.offset m 18 = none
      ∧ (((copyState 4 l [0xFFFFFFFF]).pkg.core 0).copyRun).isSome = true ∧ ((copyState 4 l []).pkg.crew 0).isSaved = false)
    ∧ (let m := fields [(0, 0x7F0000601000)]
       let s := copyState 0 [(0, 0x7F0000601000)] []
       0x7F0000601000 ≤ Spec.source m [] 0 ∧ s.pkg.strands.find? 0 = some {} ∧ (({} : Strand).run ≠ .ended)) := by decide +kernel
/-! #### Formes and collectives -/

def words8 (l : List Nat) : List Byte := l.flatMap (Spec.bytes 8)

/-- A forme of 16 × 16 outputs of s8 from s8, its matrices in position 0; and the same with a reserved KIND. -/
def formeRec : List Byte := words8 [2 * 2 ^ 43 + 2 * 2 ^ 40, 16 * 2 ^ 48 + 1024, 16 * 2 ^ 48 + 1280, 16 * 2 ^ 48 + 2 * 2 ^ 45 + 1536, 0, 0, 0, 0]
def badForme : List Byte := words8 [3 * 2 ^ 46, 0, 0, 0, 0, 0, 0, 0]

def formeEnt (num : Nat) (ready : Bool) : FormeEnt := { num := num, strand := 0, crew := 0, off := 64, ready := ready }

/-- Cores 0 and 1 of the crew, core 1 SHARED, the record at byte 64 with counter n, two entries, and a pending decrement. -/
def formeState (st : Strand) (r : List Byte) (n : Nat) : State :=
  let s := world st
  let p := (s.pkg.setCore 1 { mode := .shared }).setCluster 0 { formes := [formeEnt 3 false, formeEnt 4 true] }
  s.withPkg ({ p with decs := [{ tok := 6, strand := 0, crew := 0, off := 64 }] }.write (spadKey 0 64) (r.take 6 ++ Spec.bytes 2 n ++ r.drop 8))

theorem test_meets_FormesAndDependenceCounters :
    (∀ i ∈ [Instr.ttask ⟨2, 0⟩, .tdep ⟨2, 0⟩],
      let st := inWin i (0x7F0000040000 + 16384 - 64) 0
      let s := (world st).withPkg ((world st).pkg.setCore 1 { mode := .shared })
      ready i s st ∧ s.pkg.owed st 2 = [] ∧ (s.pkg.core 1).mode = .shared ∧ 1 ∈ (s.pkg.crew 0).cores ∧ (s.pkg.cluster 0).formes = []
      ∧ Spec.inWindow s st (0x7F0000040000 + 16384 - 64) 64)
    ∧ (∀ n ∈ [1, 2, 0xFFFF],
      let s := formeState {} formeRec n
      s.pkg.decs.find? (fun e => e.tok == 6) = some { tok := 6, strand := 0, crew := 0, off := 64 } ∧ s.pkg.held 0 2 6 = false
      ∧ s.pkg.num (Spec.offAt s.pkg 0 64 + 6) 2 = n)
    ∧ (∀ r ∈ [formeRec, badForme],
      let s := formeState {} r 0
      (s.pkg.core 1).mode = .shared ∧ (s.pkg.core 1).forme = none ∧ (s.pkg.core 1).service = .inService
      ∧ (∀ n < 24, n ≠ 1 → (s.pkg.core (0 * 24 + n)).mode = .direct) ∧ (s.pkg.cluster 0).formes = [formeEnt 3 false] ++ formeEnt 4 true :: []
      ∧ ¬ Spec.Issuable s.pkg 1 (formeEnt 3 false) ∧ Spec.Issuable s.pkg 1 (formeEnt 4 true)
      ∧ s.pkg.poisoned (Spec.offAt s.pkg 0 64) 64 = none ∧ malformed s.pkg 0 (s.pkg.bytes (Spec.offAt s.pkg 0 64) 64) = (r == badForme))
    ∧ (let e : FormeEnt := { formeEnt 4 true with core := some 1, bytes := formeRec }
       let s := formeState {} formeRec 0
       let s := s.withPkg ((s.pkg.setCluster 0 { formes := [e] }).setCore 1 { mode := .shared, forme := some 4 })
       let f := formeOf formeRec
       (s.pkg.core 1).forme = some 4 ∧ (s.pkg.cluster 0).formes.find? (fun g => g.num == 4) = some e ∧ formeUpset s.pkg 0 f = none
       ∧ f.h = 0 ∧ f.cen = false ∧ f.dv0 = false ∧ f.dv1 = false ∧ f.postn = 0) :=
  ⟨by decide +kernel, by decide +kernel, by decide +kernel, by decide +kernel⟩

/-- COMM register 7: the two packages of X in a pod of two, this one at X = 1. -/
def pod (s : State) : State := { s with host := { s.host with podpos := 0x1001, comm := [(7, 0x80001000)], ready := 0xFFFFF } }

set_option synthInstance.maxSize 1024 in
theorem test_meets_CollectiveCommands :
    (∀ i ∈ [Instr.rtadd ⟨2, 3, 2, 0xFFFF⟩, .rtdel ⟨0⟩, .collq ⟨31, 7⟩, .coll ⟨2, 0⟩],
      let st := inWin i 0x7F0000000FC0 0x100000000
      let s := pod (world st)
      ready i s st ∧ s.pkg.owed st 6 = [] ∧ st.collq = [] ∧ s.pkg.colls = [] ∧ (s.host.comm.get 0 7).getLsbD 31 = true
      ∧ (0x7F0000000FC0 + 0x100000000 - 1) / 64 + 1 - 0x7F0000000FC0 / 64 ≤ 2 ^ 26)
    ∧ (∀ x ∈ [CollCmd.rtadd 64 (2 ^ 32) 2 9, .rtdel 9, .coll 0x7F0000000000 true []], ∀ t ∈ [4, 5],
      let st : Strand := { collq := [(5, x), (6, .rtdel 1)] }
      let s := pod (world st)
      let s := s.withPkg { s.pkg.write (spadKey 0 6) [7] with ranges := [{ base := 1, units := 1, mode := 2, owner := 9, launch := 0, src := 0, tok := t }] }
      s.pkg.strands.find? 0 = some st ∧ s.pkg.held 0 3 5 = false ∧ (s.pkg.crew 0).isSaved = false ∧ s.pkg.ranges.length < 512
      ∧ ((∃ r ∈ s.pkg.ranges, r.src = 0 ∧ r.tok = 5) ↔ t = 5) ∧ Spec.Clean s.pkg 0 0x7F0000000000 128) :=
  ⟨by decide +kernel, by decide +kernel⟩

set_option synthInstance.maxSize 4096 in
set_option synthInstance.maxHeartbeats 200000 in
theorem test_meets_PortsReady : Spec.PortsReady (pod (world {})) 7 ∧ Spec.CommOk (pod (world {})) 7 ∧ ¬ Spec.CommOk (pod (world {})) 8 := by
  decide +kernel

/-- An ALLREDUCE of n s32 elements from byte 512 to byte 8192 of position 0 in chunks of 4 KiB, its block at byte 0, at rank 1 of 2. -/
def reduceBlock (n timer : Nat) : List Byte :=
  words8 ([6 * 2 ^ 56 + 7 * 2 ^ 48 + 12 * 2 ^ 37, 0x7F0000000200, 0x7F0000002000, n, timer, 0, 3] ++ List.replicate 9 0)

def reduce (n timer stage chunk : Nat) (data : List Byte) : Coll :=
  { num := 2, m := 0, strand := 0, crew := 0, launch := 0, va := 0x7F0000000000, comm := 7, rank := 1, ranks := 2, sup := true, block := reduceBlock n timer
    stage := stage, chunk := chunk, data := data, timer := 2 ^ 26 }

def collState (c : Coll) (msgs : List PeerMsg) : State :=
  let s := pod (world {})
  s.withPkg { s.pkg with colls := [c], inbox := msgs }

/-- A COLL at the end of the window; and one of a legal block at its start, with room for its two ranges. -/
theorem test_meets_CollBlock :
    let i : Instr := .coll ⟨2, 0⟩
    let st := inWin i 0x7F0000003F80 0
    ready i (world st) st ∧ Spec.Reach (world st) st .load 0x7F0000003F80 128 ∧ Spec.Reach (world st) st .store (0x7F0000003F80 + 52) 4 :=
  ⟨by decide +kernel, window_any _ _ (launch_world _) rfl _ _ 0 0x3F80 128 rfl (by decide) (by decide),
    window_any _ _ (launch_world _) rfl _ _ 0 (0x3F80 + 52) 4 rfl (by decide) (by decide)⟩

theorem test_meets_CollRanges :
    let i : Instr := .coll ⟨2, 0⟩
    let st := inWin i 0x7F0000000000 0
    let s := pod ((world st).withPkg ((world st).pkg.write (spadKey 0 0) (reduceBlock 2048 1)))
    let x := Spec.collFor s s.focus s.pkg.nextNum st 0x7F0000000000 st.sup (s.pkg.bytes (Spec.offAt s.pkg st.crew 0) 128)
    ready i s st ∧ Spec.Clean s.pkg st.crew 0x7F0000000000 128 ∧ Spec.CommOk s x.comm ∧ Spec.BlockLegal s.pkg x ∧ x.ranges.length = 2
    ∧ s.pkg.ranges.length + x.ranges.length ≤ 512 := by decide +kernel

/-- An ALLGATHER of 513 s32 elements of each rank. -/
def gatherBlock : List Byte :=
  words8 ([2 * 2 ^ 61 + 6 * 2 ^ 56 + 7 * 2 ^ 48 + 12 * 2 ^ 37, 0x7F0000000200, 0x7F0000002000, 513, 1, 0, 3] ++ List.replicate 9 0)

/-- The one collective of the package, whose buffers are free, is picked when its data are here, whatever number of buffers it takes. -/
theorem pick_one (s : State) (c : Coll) (hl : s.pkg.colls = [c]) (hst : c.stage = 2) (hb : c.bufs = 0) (hof : s.pkg.collOf c.comm = some c)
    (hg : (c.chunk == 0 || c.recvN == 0 || (s.pkg.allGiven c).isSome) = true) : s.pickColl = some c := by
  have hn : c.need ≤ s.buffers (s.channel c.comm) := by
    have hbuf : s.buffers (s.channel c.comm) = 4 := by simp [State.buffers, hl, hb]
    have := Nat.mod_lt (Config.chunkNeed (fieldN (c.w 0) 47 45)) (show 0 < 4 by decide)
    rw [hbuf]
    simp only [Coll.need]
    omega
  have hc : c.canStep s = true := by simp [Coll.canStep, hst, hn, hg]
  simp [State.pickColl, hl, hof, hc]

set_option synthInstance.maxSize 1024 in
/-- A legal block and one with a reserved DTYPE; agreement and a COUNT that differs; a chunk before the last; the end; and the messages. -/
theorem test_meets_CollectiveSteps :
    (let c := reduce 2048 1 0 0 []
     let b : Coll := { c with block := words8 [2 ^ 56] }
     let put (t : Nat) : Pkg := { (collState c []).pkg with ranges := [{ base := 8, units := 1, mode := 1, owner := 7, launch := 0, src := 2, tok := t }] }
     (collState c []).pkg.collOf 7 = some c ∧ Spec.BlockLegal (put 2) c ∧ (put 1).ranges.length + c.ranges.length ≤ 512
     ∧ (∃ r ∈ (put 2).ranges, r.src = 2 ∧ r.tok = c.num) ∧ (∀ r ∈ (put 1).ranges, ¬(r.src = 2 ∧ r.tok = c.num))
     ∧ ¬ Spec.BlockLegal (collState b []).pkg b)
    ∧ (∀ n ∈ [2048, 2047],
      let c := reduce 2048 1 1 0 []
      let r : PeerMsg := { comm := 7, rank := 0, num := 0, block := reduceBlock n 1 }
      let s := collState c [r]
      s.pkg.collOf 7 = some c ∧ c.others = [0] ∧ s.pkg.peer c 0 (fun m => m.block != []) = some r
      ∧ (checkFields r.block = checkFields c.block ↔ n = 2048) ∧ (∀ k < 6, (checkFields r.block).getD k 0 = (checkFields c.block).getD k 0))
    ∧ (let c := { reduce 1 1 2 1 (List.replicate 2052 0) with block := gatherBlock }
       let r : PeerMsg := { comm := 7, rank := 0, num := 0, data := List.replicate 2052 0xFF }
       let s := collState c [r]
       s.boundary.pkg.colls = [{ c with bufs := 0 }] ∧ s.boundary.pkg.collOf 7 = some { c with bufs := 0 } ∧ s.pkg.collOf 7 = some c ∧ (s.pkg.allGiven c).isSome = true ∧ Spec.Clean s.pkg 0 0x7F0000002000 4096 ∧ 2 ^ c.clog / c.size < c.recvN)
    ∧ (let c := reduce 2048 1 3 2 []
       let r : PeerMsg := { comm := 7, rank := 0, num := 0, status := some 0x80000001 }
       let s := collState c [r]
       s.pkg.collOf 7 = some c ∧ s.pkg.peer c 0 (fun m => m.status.isSome) = some r ∧ c.cmode = 0 ∧ c.statin = 3 ∧ Spec.Clean s.pkg 0 (c.va + 52) 4)
    ∧ (let c := reduce 2048 0xFFFF 1 0 []
       let r : PeerMsg := { comm := 7, rank := 0, num := 0, abandon := true }
       let s := collState c [r]
       s.pkg.collOf 7 = some c ∧ s.pkg.inbox.find? (fun m => m.comm == 7 && m.rank == 0 && m.abandon) = some r
       ∧ s.pkg.colls.find? (fun d => d.comm == 7 && d.m == 0) = some c ∧ c.timerLimit = 0xFFFF ∧ c.timerLimit * 1024 ≤ c.timer
       ∧ c.awaited s.pkg = [0] ∧ s.pkg.holdsIn = []) :=
  ⟨by decide +kernel, by decide +kernel, by decide +kernel, by decide +kernel, by decide +kernel⟩

/-- A first step that sends, and a chunk before the last. -/
theorem test_meets_CollChunk :
    (let c := reduce 2048 1 2 0 []
     let s := collState c []
     s.pkg.collOf 7 = some c ∧ s.boundary.pickColl = some { c with bufs := 0 } ∧ c.gives c.rank = true
       ∧ Spec.CleanRun s.pkg 0 c.send (c.sendN * c.size))
    ∧ (let c := { reduce 1 1 2 1 (List.replicate 2052 0) with block := gatherBlock }
       let r : PeerMsg := { comm := 7, rank := 0, num := 0, data := List.replicate 2052 0xFF }
       let s := collState c [r]
       s.boundary.pickColl = some { c with bufs := 0 }
       ∧ ∀ i < 2, i ∉ c.filled ∧ Spec.CleanRun s.pkg 0 (c.recv + i * 4096) (min 1024 (c.recvN - i * 1024) * c.size)) :=
  ⟨⟨by decide +kernel, pick_one _ _ rfl rfl rfl (by decide +kernel) rfl, by decide +kernel, by decide +kernel⟩,
    pick_one _ _ rfl rfl rfl (by decide +kernel) (by decide +kernel), by decide +kernel⟩
/-! #### Spore pools -/

/-- Parameters of a LIFO pool of 16 elements of 2 ^ e bytes and 8 waiters with a budget of 7 steps. -/
def poolWord (e : Nat) : Nat := (e - 3) * 2 ^ 27 + 7 * 2 ^ 15 + 4 * 2 ^ 4 + 3

/-- A descriptor with count elements, at the start of position 0, its storage at byte 4096 and its waiting list at byte 12288. -/
def poolBytes (e count : Nat) : List Byte :=
  Spec.bytes 4 count ++ Spec.bytes 4 (poolWord e) ++ Spec.bytes 8 0x7F0000001000 ++ Spec.bytes 8 0x7F0000003000 ++ List.replicate 40 0

def poolAt (i : Instr) : Strand := withX i [(1, 0x4000), (2, 0x7F0000000000), (3, 0x7F0000000100), (4, 0x7F0000003000), (5, 0x3800000F)]

def poolWorld (i : Instr) (e count : Nat) : State :=
  (world (poolAt i)).withPkg ((world (poolAt i)).pkg.write (spadKey 0 0) (poolBytes e count))

theorem test_meets_PoolCommands :
    ∀ c ∈ [(Instr.poolpushReg ⟨0, 2, 3⟩, 3), (.poolpushMem ⟨1, 2, 3⟩, 8), (.poolpushMem ⟨1, 2, 3⟩, 3), (.poolpopReg ⟨1, 2, 0, 0xFFFF⟩, 3), (.poolpopwReg ⟨1, 2, 31, 0⟩, 3),
        (.poolpopMem ⟨1, 2, 3, 1⟩, 8), (.poolpopwMem ⟨0, 2, 3, 1⟩, 3), (.poolfence ⟨2⟩, 5), (.spawnp ⟨1, 2, 7, 0x0001FFFE⟩, 8), (.steal ⟨31, 2⟩, 8)],
      let s := poolWorld c.1 c.2 16
      let st := poolAt c.1
      ready c.1 s st ∧ Spec.Desc s st 0x7F0000000000 (poolWord c.2) ∧ Spec.PoolFree s st 0x7F0000000000 ∧ Spec.elog (poolWord c.2) = c.2 ∧ s.pkg.pools = []
      ∧ s.pkg.pairs = [] ∧ st.grant = none := by
  intro c hc
  simp only [List.mem_cons, List.not_mem_nil, or_false] at hc
  rcases hc with rfl | rfl | rfl | rfl | rfl | rfl | rfl | rfl | rfl | rfl <;>
  · refine ⟨by decide +kernel, ⟨by decide, window_any _ _ (by decide +kernel) (by decide +kernel) _ _ 0 0 64 rfl (by decide) (by decide), .inl (by decide),
      .inr (by decide +kernel)⟩, by decide +kernel, by decide +kernel, by decide +kernel, by decide +kernel, by decide +kernel⟩

theorem test_meets_PoolElementAndInit :
    (let s := poolWorld (.poolpushMem ⟨1, 2, 3⟩) 8 0
     Spec.Clean s.pkg 0 0x7F0000000100 256 ∧ Spec.Reach s (poolAt (.poolpopMem ⟨1, 2, 3, 1⟩)) .store 0x7F0000000100 256)
    ∧ (let i : Instr := .poolinit ⟨2, 1, 3, 4⟩
       let st := { poolAt i with x := [(1, BitVec.ofNat 64 (poolWord 8)), (2, 0x7F0000000000), (3, 0x7F0000001000), (4, 0x7F0000003000)] }
       ready i (world st) st ∧ Spec.PoolLegal (poolWord 8) ∧ Spec.Reach (world st) st .store 0x7F0000000000 64 ∧ Spec.PoolPlace (world st) st 0x7F0000000000
       ∧ Spec.PoolFree (world st) st 0x7F0000000000)
    ∧ (let i : Instr := .poolfence ⟨2⟩
       let s := poolWorld i 3 0
       let op : PoolOp := { num := 4, kind := .push, strand := 0, crew := 0, core := 0, sn := 0, desc := 0x7F0000000000, home := spadKey 0 0, params := poolWord 3 }
       let s := s.withPkg { s.pkg with pools := [(4, op)] }
       ready i s (poolAt i) ∧ poolUsed s.pkg 0 < 32 ∧ op.home = s.pkg.physKey (Spec.place s.pkg (poolAt i) 0x7F0000000000))
    ∧ (∀ g ∈ [Grant.num 0, .num 0xFFFFFFFF, .rslot 511],
      let i : Instr := .steal ⟨31, 2⟩
      let st := { poolAt i with grant := some g }
      let op : PoolOp := { num := 4, kind := .pop, strand := 0, crew := 0, core := 0, sn := 0, desc := 0, home := 0, params := 0, steal := true, joined := true,
                           answer := some (0, List.replicate 256 0) }
      let s := (world st).withPkg { (world st).pkg with pools := [(4, op)] }
      ready i s st ∧ s.pkg.pools.find? 4 = some op) :=
  ⟨⟨by decide +kernel, window_any _ _ (by decide +kernel) (by decide +kernel) _ _ 0 256 256 rfl (by decide) (by decide)⟩,
    ⟨by decide +kernel, by decide +kernel, window_any _ _ (launch_world _) rfl _ _ 0 0 64 rfl (by decide) (by decide), .inl (by decide), by decide +kernel⟩,
    by decide +kernel, by decide +kernel⟩

/-- An operation on the pool of poolWorld, with these held beside it. -/
def poolOp (n : Nat) (k : PoolKind) : PoolOp :=
  { num := n, kind := k, strand := 0, crew := 0, core := 0, sn := 0, desc := 0x7F0000000000, home := spadKey 0 0, params := poolWord 3, elem := Spec.bytes 8 0xAB }

def travel (op : PoolOp) (l : List PoolOp) (count : Nat) : State :=
  let s := poolWorld .cgo 3 count
  s.withPkg { s.pkg with pools := (op :: l).map (fun o => (o.num, o)), pairs := [{ home := spadKey 0 0, push := 0, pop := 0 }] }

/-- At a switch with budget 1 and 0, alone and with a mate of the other kind; at the home with no room, room for one, one element and none;
and its answer. -/
theorem test_meets_PoolOperationsTravel :
    (∀ b ∈ [0, 1],
      let op := { poolOp 4 .push with path := [192], budget := b }
      let s := travel op [] 0
      s.pkg.pools.find? 4 = some op ∧ op.moving s.pkg = true ∧ op.inOrder s.pkg = true
      ∧ (s.pkg.pools.filter (fun e => e.2.held && e.2.path.head? == some 192)).length < 32)
    ∧ (let op := { poolOp 4 .popw with path := [192] }
       let o := { poolOp 5 .push with path := [192], held := true }
       let s := travel op [o] 0
       s.pkg.pools.find? 4 = some op ∧ op.moving s.pkg = true ∧ op.inOrder s.pkg = true ∧ s.pkg.pools.contains (5, o) ∧ o.home = op.home
       ∧ Spec.elog o.params = Spec.elog op.params)
    ∧ (∀ c ∈ [(PoolKind.push, 16), (.push, 15), (.pop, 1), (.pop, 0), (.init, 0)],
      let op := poolOp 4 c.1
      let s := travel op [] c.2
      s.pkg.pools.find? 4 = some op ∧ op.moving s.pkg = true ∧ op.inOrder s.pkg = true ∧ s.pkg.poisoned op.home 64 = none ∧ homeBad s.pkg op = false
      ∧ s.pkg.num (op.home + 24) 4 = s.pkg.num (op.home + 28) 4 ∧ s.pkg.num op.home 4 = c.2
      ∧ Spec.Clean s.pkg 0 (s.pkg.num (op.home + 8) 8 + (c.2 - 1) * 8) 8 ∧ op.elem.length = 2 ^ Spec.elog (s.pkg.num (op.home + 4) 4))
    ∧ (∀ c ∈ [(PoolKind.push, none), (.pop, some 31)],
      let op := { poolOp 4 c.1 with answer := some (0, Spec.bytes 8 7), xd := 1, xe := c.2 }
      let st : Strand := { xpend := [(31, 2 ^ 40 + 4), (1, 2 ^ 40 + 4)] }
      let s := travel op [] 0
      let s := s.withPkg (s.pkg.setStrand 0 st)
      s.pkg.pools.find? 4 = some op ∧ (s.pkg.crew 0).st = .resident ∧ s.pkg.strands.find? 0 = some st) :=
  ⟨by decide +kernel, by decide +kernel, by decide +kernel, by decide +kernel⟩
/-! #### Tasks, system instructions and the running of strands -/

/-- The run queue of cluster 0. -/
def withRq (s : State) (l : RMap RqSlot) : State := s.withPkg (s.pkg.setCluster 0 { rq := l, age := 0xFFFFFFFF })

def heldSlot : RqSlot := { crew := 0, st := .parked }

theorem test_meets_SpawnTakesASlot :
    (∀ c ∈ [(some (Grant.rslot 511), []), (none, []), (none, [(0, heldSlot)]), (none, [(0, heldSlot), (513, heldSlot)])],
      let i : Instr := .spawn ⟨1, 0xFFFF0000⟩
      let st := { withX i [(1, 0xFFFFFFFFFFFC)] with grant := c.1 }
      let s := withRq (world st) c.2
      ready i s st ∧ s.pkg.owed st 2 = [] ∧ st.depth < 32 ∧ (s.pkg.launch (s.pkg.crew 0).launch).gcap = 1
      ∧ (((s.pkg.cluster 0).rq.filter (fun e => decide (e.1 < 512) && e.2.crew == 0)).length < 1 ↔ c.2 = [])
      ∧ ((s.pkg.cluster 0).rq.find? 513 = none ↔ c.2.length < 2))
    ∧ (let i : Instr := .spawn ⟨1, 0⟩
       let st := { withX i [(1, 0x4000)] with depth := 31 }
       ready i (world st) st ∧ st.depth < 32) := by decide +kernel

theorem test_meets_TasksAndSystemInstructions :
    (∀ c ∈ [(0, 0), (1, 2 ^ 32 + 2 ^ 5 + 31), (2, 0x7F0000000000 + 16368), (3, 65535)],
      let i : Instr := .park ⟨2, BitVec.ofNat 2 c.1, 0⟩
      let st := inWin i (BitVec.ofNat 64 c.2) 0
      ready i (world st) st ∧ (∀ v ∈ [0, c.2, c.2 / 2 ^ 10 % 2 ^ 22, c.2 % 2 ^ 4, c.2 / 2 ^ 16], ¬ Spec.WaitBad c.1 c.2 v))
    ∧ (∀ tail ∈ [31, 32],
      let i : Instr := .note ⟨31, 0xFFFF⟩
      let s := world (at1 i)
      let s := s.withPkg (s.pkg.write (2 ^ 52 + 12) (Spec.bytes 4 tail))
      ready i s (at1 i) ∧ s.pkg.num (2 ^ 52 + 12) 4 = tail ∧ s.pkg.num (2 ^ 52 + 8) 4 = 0 ∧ s.pkg.unitWaits = [])
    ∧ (∀ g ∈ [none, some Grant.ok],
      let i : Instr := .tlbinv ⟨2, 3⟩
      let st := { inWin i 0x10000 0x10000 with grant := g }
      ready i (world st) st ∧ st.sup = true)
    ∧ (let i : Instr := .ctxsave ⟨2⟩
       let st := inWin i (0x7F0000000000 + 4096) 0
       ready i (world st) st ∧ st.sup = true ∧ st.awaited = [] ∧ (world st).pkg.owed st 6 = [] ∧ st.banks.length = 1
       ∧ Spec.Clean (world st).pkg 0 (0x7F0000000000 + 4096) 12288)
    ∧ (∀ i ∈ [Instr.tlbinv ⟨2, 3⟩, .ctxsave ⟨2⟩, .ctxload ⟨2⟩],
      let st := { at1 i with sup := false }
      ready i (world st) st) :=
  ⟨by decide +kernel, by decide +kernel, by decide +kernel, by decide +kernel, by decide +kernel⟩

theorem test_meets_Ctxload :
    let i : Instr := .ctxload ⟨2⟩
    let st := inWin i (0x7F0000000000 + 4096) 0
    ready i (world st) st ∧ st.sup = true ∧ (world st).pkg.ctx = [] ∧ Spec.Reach (world st) st .load (0x7F0000000000 + 4096) (8192 + 4096 * st.banks.length) :=
  ⟨by decide +kernel, rfl, rfl, window_any _ _ (launch_world _) rfl _ _ 0 4096 12288 rfl (by decide) (by decide)⟩

/-- A record at 0x4000 of depth 32, with p1 and p7, and x1 and x31 live. -/
def rec160 : List Byte := Spec.bytes 8 0x4000 ++ Spec.bytes 4 0x80000002 ++ [32, 0, 0x82, 0] ++ List.replicate 16 0 ++ Spec.bytes 8 7 ++ Spec.bytes 8 9 ++ List.replicate 112 0

def readySlot (age : Nat) : RqSlot := { crew := 0, st := .ready none, bytes := rec160, age := BitVec.ofNat 32 age }

/-- The older of two records, whose AGEs wrap; a strand handed it; and a TLBINV of no bytes. -/
theorem test_meets_TasksStart :
    (let st : Strand := { run := .idle }
     let q : RMap RqSlot := [(5, readySlot 0), (7, readySlot 0xFFFFFFFF)]
     let s := withRq (world st) q
     crewsIn s.pkg 0 = [(0, s.pkg.crew 0)] ∧ s.pkg.strands.filter (fun e => e.2.crew == 0 && wantsTask s.pkg e.2) = [(0, st)]
     ∧ (s.pkg.cluster 0).rq = q ∧ ((0 : Word32) - 0xFFFFFFFF).toNat < 2 ^ 31 ∧ 2 ^ 31 ≤ ((0xFFFFFFFF : Word32) - 0).toNat)
    ∧ (let st : Strand := { run := .starting 511, sup := false, inh := true }
       let s := withRq (world st) [(511, readySlot 0)]
       s.pkg.strands.find? 0 = some st ∧ (s.pkg.cluster (st.core / 24)).rq.find? 511 = some (readySlot 0)
       ∧ (ofBytes ((rec160.drop 8).take 4)).testBit 0 = false)
    ∧ (let st : Strand := { run := .blocked (.tlbinv 0x10000 0) }
       (world st).pkg.strands.find? 0 = some st ∧ (world st).pkg.accs = []) := by decide +kernel

/-- A header that waits for 511 on flag 31, and one that waits for nothing. -/
def waiting (phase : Phase) (n : Nat) (g : Option Grant) : Strand := { phase := phase, grant := g, bun := { header := BitVec.ofNat 32 (n * 2 ^ 23 + 31 * 2 ^ 18) } }

theorem test_meets_StrandsAreScheduled :
    (let st : Strand := {}
     let s := withCore (world st) (fun k => { k with res := [(3, 0)], cur := none, lastIssuer := some 3 })
     (s.pkg.core 0).res.find? 3 = some 0 ∧ s.pkg.strands.find? 0 = some st ∧ s.pkg.runnable 0 st = true ∧ s.pkg.stopped st = false
     ∧ (∀ m < 3, (s.pkg.core 0).res.find? m = none) ∧ (s.pkg.core 0).cur = none ∧ (s.pkg.core 0).service = .inService)
    ∧ (∀ c ∈ [(Phase.wait, 511, 511, none), (.wait, 511, 510, none), (.wait, 0, 0, none), (.wait, 511, 0, some Grant.ok), (.post, 511, 0, none), (.post, 0, 0, none)],
      let st := waiting c.1 c.2.1 c.2.2.2
      let s := withCore (world st) (fun k => { k with flags := [(31, BitVec.ofNat 32 c.2.2.1)] })
      s.focused st ∧ st.run = .ready ∧ st.bun.header.toNat / 2 ^ 23 = c.2.1 ∧ st.bun.header.toNat / 2 ^ 18 % 2 ^ 5 = 31 ∧ Spec.flag s.pkg 0 31 = c.2.2.1
      ∧ (s.pkg.core 0).waits = [] ∧ s.pkg.owed st 2 = [] ∧ s.pkg.accs = [])
    ∧ (∀ r ∈ [Run.idle, .ready],
      let a : ATrap := { cause := 0xFF, tval := 5 }
      let st : Strand := { tvec := 0x2000, run := r, async := [a], phase := .wait, bun := { pc := 0x1000, rep := 0 } }
      let s := world st
      s.pkg.strands.find? 0 = some st ∧ asyncReady s.pkg st = true ∧ Spec.Deliverable s st ∧ st.bun.rep < 32)
    ∧ (∀ c ∈ [(0, Run.ready, false), (0x2000, .blocked .ring, false), (0, .ready, true)],
      let st : Strand := { tvec := c.1, phase := .issue, run := c.2.1, inh := c.2.2, bun := { slot := 7, rep := 31 } }
      let s := world st
      let p : Pkg := { s.pkg with launches := [(0, { launch1 with failed := true })], strands := s.pkg.strands ++ [(1, {})], time := 100000 }
      p.strands.find? 0 = some st ∧ (p.launch (p.crew 0).launch).failed = true ∧ st.grace = none ∧ st.run ≠ .ended
      ∧ (p.launch (p.crew 0).launch).failTime + s.host.ygrace.toNat ≤ p.time) :=
  ⟨by decide +kernel, by decide +kernel, by decide +kernel, by decide +kernel⟩
/-! #### The host interface, placement and saving -/

/-- Table words for the first 512 MiB of addresses: they lie at the start of the ring's frames, read and written. -/
def tableRoot : Nat := 0x40000000
def pte1 : Nat := 0x400000010001
def pte2 : Nat := 0x400000000687

def tables (p : Pkg) : Pkg := (p.write 0x400000000000 (Spec.bytes 8 pte1)).write 0x400000010000 (Spec.bytes 8 pte2)

/-- A host whose link is up, every function ready, with queue 8191. -/
def hosted (s : State) (k : HQueue) : State :=
  { s with host := { s.host with pcieUp := true, ready := 0xFFFFF, explicitRing := 64, queues := [(8191, k)], queuePtr := 8191, clusterPtr := 191 } }

theorem test_meets_HostRegisterWrites :
    (∀ c ∈ [(true, 0x10), (true, 0), (false, 0x1C), (false, 0x10), (false, 0x1D), (false, 0)],
      let s := hosted State.reset { en := c.1 }
      s.host.pcieUp = true ∧ (s.host.queue 8191).en = c.1 ∧ (s.host.queue 8191).base.toNat % 64 = 0 ∧ (s.pkg.launches.any (fun e => !e.2.recorded)) = false)
    ∧ ((hosted (world {}) {}).pkg.launches.any (fun e => !e.2.recorded)) = true := by decide +kernel

/-- A packet: 2 cores for each of n crews, 4 barriers, 16 KiB of window, a save area of 256 KiB at 0x200000, its record at 0x100040 and its
flag at 0x100008. -/
def packet (n : Nat) : List Byte :=
  words8 [0x1000, 0x5555, n + 7 * 2 ^ 32, 2 ^ 57 + 16 * 2 ^ 44 + 4 * 2 ^ 38, 255 * 2 ^ 56 + 2 ^ 52, 0x100008, 0x100040, 4 * 2 ^ 48 + 0x20 * 2 ^ 16]

def packetState (n : Nat) : State :=
  let s := hosted State.reset { base := 0x400000030000, root := tableRoot, qlog := 12, en := true, head := 0xFFFFFFFF, tail := 0 }
  s.withPkg ((tables s.pkg).write (0x400000030000 + 64 * 4095) (packet n))

/-- A legal packet, and one of no crews. -/
theorem test_meets_PacketFetch : ∀ n ∈ [0xFFFFFFFF, 0],
    let s := packetState n
    let k := s.host.queue 8191
    let pa := k.base.toNat + 64 * (k.head.toNat % 2 ^ k.qlog)
    let l : Launch := { queue := 8191, packet := s.pkg.bytes (s.pkg.physKey pa) 64, fetched := s.pkg.time, root := k.root }
    s.pkg.launches = [] ∧ k.en = true ∧ k.tail ≠ k.head ∧ s.host.ready.getLsbD 10 = true ∧ s.host.ready.getLsbD 11 = true ∧ tierOf pa = 1
    ∧ s.pkg.poisoned (s.pkg.physKey pa) 64 = none ∧ l.sigm = true
    ∧ (match s.pkg.holdPa s.er k.root l.compl 64 with
       | .ok (a, p) => a == some 0x400000100040 && (match p.holdPa s.er k.root l.sigva 8 with
         | .ok (b, _) => b == some 0x400000100008
         | _ => false)
       | _ => false) = true
    ∧ l.bad true true = (if n = 0 then some 16 else none) ∧ l.overLink (some 0x400000100040) (some 0x400000100008) = false := by decide +kernel

theorem test_meets_DispatchRound :
    let s := hosted State.reset {}
    let s := s.withPkg { s.pkg with launches := [(0, { queue := 8191, packet := packet 1 })], nextLaunch := 1 }
    s.host.ready.getLsbD 10 = true ∧ s.pickQueue = some (8191, 0, none)
    ∧ ((s.clusterOrder.filter s.dieReady).findSome? (fun cl => ((s.pkg.fits (s.pkg.launch 0) none cl).map (fun x => (cl, x))))).any
        (fun x => x.1 == 191 && x.2.length == 2) = true := by decide +kernel

theorem test_meets_CompletionRecord :
    let l : Launch := { queue := 0, packet := packet1, placing := false, nextCrew := 1, complPa := some 0x400000100040 }
    let s := hosted State.reset {}
    let s := s.withPkg { s.pkg with launches := [(0, l)], crews := [(0, { launch := 0, index := 0, cluster := 0, cores := [0, 1], spad := [0, 0], st := .ended })] }
    s.pkg.launches.find? 0 = some l ∧ s.pkg.launchQuiet 0 = true ∧ s.host.pcieUp = true ∧ l.sigm = false := by decide +kernel

/-- Crew 0 in a state, its launch with a save area, the tables of the launch and a save header in memory. -/
def crewState (x : CrewSt) (valid : Nat) : State :=
  let s := hosted (world { run := .ended }) {}
  let p := tables { s.pkg with launches := [(0, { launch1 with packet := packet 1, root := tableRoot })] }
  let p := p.write 0x400000200000 (Spec.bytes 8 (valid * 2 ^ 63) ++ Spec.bytes 4 0 ++ Spec.bytes 4 7)
  s.withPkg (p.setCrew 0 { p.crew 0 with st := x, req := true, deadline := 0, sealed := [1], resumed := 0 })

/-- The tables as they must stand for the save area to be written, whatever else memory holds. -/
def Mapped (p : Pkg) : Prop :=
  p.num 0x400000000000 8 = pte1 ∧ p.num 0x400000010000 8 = pte2 ∧ p.granules = [] ∧ p.poison = [] ∧ p.accs = []
    ∧ (p.launch (p.crew 0).launch).root = tableRoot ∧ (p.crew 0).cluster = 0

theorem num_write_out (p : Pkg) (k : Nat) (bs : List Byte) (a n : Nat) (h : a + n ≤ k ∨ k + bs.length ≤ a) : (p.write k bs).num a n = p.num a n := by
  unfold Pkg.num Pkg.bytes
  congr 1
  exact List.map_congr_left fun i hi => Pkg.byte_write_out p k bs _ (by have := List.mem_range.1 hi; omega)

theorem num_write_in (p : Pkg) (k : Nat) (bs : List Byte) : (p.write k bs).num k bs.length = ofBytes bs := by
  unfold Pkg.num Pkg.bytes
  congr 1
  refine List.ext_getElem (by simp) fun i h1 h2 => ?_
  simp only [List.getElem_map, List.getElem_range]
  rw [Pkg.byte_write_in p k bs i h2]
  simp [h2]

theorem writeOver_settled (p : Pkg) (see : Acc → Part → Bool) (k : Nat) (bs : List Byte) (h : p.accs = []) :
    p.writeOver see k bs = p.write (p.physKey k) bs := by
  cases p
  simp only at h
  subst h
  rfl

theorem seen_settled (p : Pkg) (see : Hit → Bool) (k : Nat) (h : p.accs = []) : p.seenByte see k = p.byte (p.physKey k) := by
  simp [Pkg.seenByte, Pkg.hits, h]

theorem mapped_write (p : Pkg) (k : Nat) (bs : List Byte) (h : Mapped p) (hk : 0x400000020000 ≤ k) : Mapped (p.write k bs) := by
  obtain ⟨h1, h2, h3, h4, h5, h6, h7⟩ := h
  exact ⟨by rw [num_write_out _ _ _ _ _ (by omega), h1], by rw [num_write_out _ _ _ _ _ (by omega), h2], h3, h4, h5, h6, h7⟩

theorem mapped_table (p : Pkg) (h : Mapped p) : Mapped (p.write 0x400000010000 (toBytes 8 pte2)) := by
  obtain ⟨h1, h2, h3, h4, h5, h6, h7⟩ := h
  refine ⟨by rw [num_write_out _ _ _ _ _ (by simp), h1], ?_, h3, h4, h5, h6, h7⟩
  have hl : (toBytes 8 pte2).length = 8 := by decide +kernel
  have := num_write_in p 0x400000010000 (toBytes 8 pte2)
  rw [hl] at this
  rw [this]
  decide +kernel

theorem key_mapped (p : Pkg) (h : Mapped p) (a : Nat) : p.physKey a = a := by simp [Pkg.physKey, h.2.2.1, RMap.find?]

theorem pte_mapped (p : Pkg) (h : Mapped p) (a : Nat) : p.pte a = p.num a 8 := by
  simp [Pkg.pte, Pkg.num, Pkg.bytes, Pkg.pkgByte, seen_settled p _ _ h.2.2.2.2.1, key_mapped p h]

theorem walk_mapped (p : Pkg) (va acc : Nat) (h : Mapped p) (hv : va < 0x1000000) (ha : acc ≤ 1) :
    p.walk 64 tableRoot va acc true = some (.ok ({
        pte := 0x400000010000, e := pte2 ||| 0x200 ||| (if acc = 1 ∨ acc = 2 then 0x400 else 0), va := 0, pa := 0x400000000000, size := 2 ^ 29 },
      p.write 0x400000010000 (toBytes 8 (pte2 ||| 0x200 ||| (if acc = 1 ∨ acc = 2 then 0x400 else 0))))) := by
  have key := key_mapped p h
  have e1 := pte_mapped p h 0x400000000000
  have e2 := pte_mapped p h 0x400000010000
  obtain ⟨h1, h2, h3, h4, h5, -, -⟩ := h
  rw [h1] at e1
  rw [h2] at e2
  have stop (a : Nat) : p.pteStop a = none := by simp [Pkg.pteStop, Pkg.moving, Pkg.poisoned, h3, h4, RMap.find?]
  have f1 : fieldN va 47 39 = 0 := by simp [fieldN]; omega
  have f2 : fieldN va 38 29 = 0 := by simp [fieldN]; omega
  have f3 : va / 2 ^ 29 = 0 := by omega
  have hd : ptePtr pte1 = true ∧ pteFrame pte1 = 0x400000010000 ∧ pteV pte2 = true ∧ pteLeaf pte2 = true ∧ pteFrame pte2 = 0x400000000000
      ∧ tableTier 0x400000000000 = true ∧ tableRoot * 65536 = 0x400000000000 ∧ (∀ x ≤ 1, permOk true pte2 x = true) := by decide +kernel
  obtain ⟨d1, d2, d3, d4, d5, d6, d7, d8⟩ := hd
  have ok : pteLeafOk 64 pte2 (0x400000000000 + fieldN va 28 0) = true := by
    have hr : fieldN va 28 0 < 0x1000000 := by simp [fieldN]; omega
    have ht : tierOf (0x400000000000 + fieldN va 28 0) = 1 := by
      have hc : ¬(0x400000000000 + fieldN va 28 0 < 0x018000000000) := by omega
      simp only [tierOf, hc, false_and, if_false]
      rw [if_pos (by omega)]
    have e : pteReserved pte2 = false ∧ fieldN pte2 5 4 = 0 ∧ fieldN pte2 8 7 = 1 := by decide +kernel
    obtain ⟨e1, e2, e3⟩ := e
    simp only [pteLeafOk, d3, d4, e1, e2, e3, ht]
    have := Nat.mod_lt ((0x400000000000 + fieldN va 28 0) / 65536) (show 0 < 64 by decide)
    simp [this]
  have fr : fieldN (0x400000000000 : Nat) 28 16 = 0 := by decide +kernel
  have hl : p.walkLeaf 64 tableRoot va = .leaf { pte := 0x400000010000, e := pte2, va := 0, pa := 0x400000000000, size := 2 ^ 29 } := by
    simp only [Pkg.walkLeaf, f1, f2, f3, d6, d7, stop, e1, e2, d1, d2, d3, d4, d5, ok, fr, Nat.zero_mul, Nat.add_zero]
    simp
  simp only [Pkg.walk, hl, d8 acc ha, if_true]
  rw [writeOver_settled _ _ _ _ h5, key]

theorem moving_mapped (p : Pkg) (h : Mapped p) (a : Nat) : p.moving a = false := by simp [Pkg.moving, h.2.2.1, RMap.find?]

/-- The package after a walk of the one leaf. -/
def walked (p : Pkg) (acc : Nat) : Pkg := p.write 0x400000010000 (toBytes 8 (pte2 ||| 0x200 ||| (if acc = 1 ∨ acc = 2 then 0x400 else 0)))

theorem mapped_walked (p : Pkg) (acc : Nat) (h : Mapped p) : Mapped (walked p acc) := by
  have e : ∀ acc, walked p acc = p.write 0x400000010000 (toBytes 8 pte2) := by
    have e1 : pte2 ||| 0x200 ||| 0x400 = pte2 := by decide +kernel
    have e2 : pte2 ||| 0x200 ||| 0 = pte2 := by decide +kernel
    intro acc
    simp only [walked]
    split <;> simp only [e1, e2]
  rw [e]
  exact mapped_table p h

theorem key_general (p : Pkg) (c va n acc : Nat) (h : Mapped p) (ha : acc ≤ 1) (hv : va < 0x1000000) :
    p.engKey 64 c 0 true va n acc = .ok (0x400000000000 + va, walked p acc) := by
  have loc : locOf va = .general := if_pos (show va < windowBase by unfold windowBase; omega)
  have hf (x : Nat) : fieldN (pte2 ||| 0x200 ||| (if x = 1 ∨ x = 2 then 0x400 else 0)) 8 7 ≠ 0 := by split <;> decide +kernel
  simp only [Pkg.engKey, loc, h.2.2.2.2.2.1, walk_mapped p va acc h hv ha, Pkg.touch, moving_mapped p h, Nat.sub_zero]
  rw [if_neg (by simp), if_pos (.inl (hf acc))]
  rfl

theorem parts_one (va m : Nat) (h0 : 0 < m) (hm : va % 65536 + m ≤ 65536) : pageParts va m = [(va, m)] := by
  simp only [pageParts, framesFrom]
  rw [if_neg (by omega), show min m (65536 - va % 65536) = m by omega, Nat.sub_self]
  rfl

theorem read_mapped (p : Pkg) (c va n : Nat) (h : Mapped p) (hv : va < 0x1000000) (h0 : 0 < n) (hb : va % 65536 + n ≤ 65536) :
    ∃ bs q, p.engRead 64 c 0 true va n = .ok (bs, q) ∧ Mapped q := by
  have hm := mapped_walked p 0 h
  have hp : (walked p 0).poisoned (0x400000000000 + va) n = none := by simp [Pkg.poisoned, hm.2.2.2.1]
  simp only [Pkg.engRead, parts_one va n h0 hb, List.foldl_cons, List.foldl_nil, key_general p c va n 0 h (by decide) hv, key_mapped _ hm, hp]
  exact ⟨_, _, rfl, hm⟩

theorem write_mapped (p : Pkg) (c va : Nat) (bs : List Byte) (h : Mapped p) (hv : 0x100000 ≤ va) (hv2 : va < 0x1000000) (h0 : 0 < bs.length)
    (hb : va % 65536 + bs.length ≤ 65536) : ∃ q, p.engWrite 64 c 0 true va bs = .ok q ∧ Mapped q := by
  have hm := mapped_walked p 1 h
  have hpo : (walked p 1).partlyHit (0x400000000000 + va) bs.length = none := by
    show (List.filter _ (walked p 1).poison).min? = none
    rw [hm.2.2.2.1]
    rfl
  simp only [Pkg.engWrite, parts_one va _ h0 hb, List.foldl_cons, List.foldl_nil, key_general p c va _ 1 h (by decide) hv2, key_mapped _ hm, hpo]
  refine ⟨_, rfl, ?_⟩
  obtain ⟨g1, g2, g3, g4, g5, g6, g7⟩ := hm
  have hw := writeOver_settled ((walked p 1).logCode none c [] (0x400000000000 + va) (List.take bs.length (List.drop (va - va) bs)).length)
    (fun a q => decide (common a.core c < q.reached)) (0x400000000000 + va) (List.take bs.length (List.drop (va - va) bs)) g5
  simp only [Pkg.agentWrite, List.nil_append, List.foldl_cons, List.foldl_nil]
  rw [hw]
  have hk : ((walked p 1).logCode none c [] (0x400000000000 + va) (List.take bs.length (List.drop (va - va) bs)).length).physKey
      (0x400000000000 + va) = 0x400000000000 + va := key_mapped (walked p 1) ⟨g1, g2, g3, g4, g5, g6, g7⟩ _
  rw [hk]
  obtain ⟨m1, m2, m3, m4, m5, m6, m7⟩ := mapped_write (walked p 1) (0x400000000000 + va) (List.take bs.length (List.drop (va - va) bs))
    ⟨g1, g2, g3, g4, g5, g6, g7⟩ (by omega)
  refine ⟨m1, m2, m3, ?_, m5, m6, m7⟩
  show List.filter _ (walked p 1).poison = []
  rw [g4]
  rfl

theorem savePage_mapped (p : Pkg) (va n : Nat) (new : Nat → Option Byte) (h : Mapped p) (hv : 0x100000 ≤ va) (hv2 : va < 0x1000000) (hl : 0 < n)
    (hb : va % 65536 + n ≤ 65536) : ∃ q, savePage 64 true 0 p va n new = some q ∧ Mapped q := by
  have ht : tierOf (0x400000000000 + va) = 1 := by
    simp only [tierOf]
    rw [if_neg (by omega), if_pos (by omega)]
  obtain ⟨q, e, hq⟩ := write_mapped p (saveAgent (p.crew 0).cluster) va
    ((List.range n).map (fun i => (new i).getD (p.engByte (saveAgent (p.crew 0).cluster) (0x400000000000 + va + i)))) h hv hv2
    (by simpa using hl) (by simpa using hb)
  obtain ⟨m1, m2, m3, -, m5, m6, m7⟩ := hq
  simp only [savePage, key_general p _ va n 1 h (by decide) hv2, ht, e]
  rw [if_neg (by simp)]
  refine ⟨_, rfl, m1, m2, m3, ?_, m5, m6, m7⟩
  show List.filter _ p.poison = []
  rw [h.2.2.2.1]
  rfl

theorem saveBody_mapped (p : Pkg) (n : Nat) (hn : n ≤ 16) (h : Mapped p) : ∃ q, saveBody 64 true 0 0x200000 (65536 * n) p = (q, true) ∧ Mapped q := by
  have hr (new : Nat → Option Byte) : ∀ l : List Nat, (∀ i ∈ l, i < 16) → ∀ q, Mapped q → ∃ q', l.foldl (fun (r : Pkg × Bool) i =>
      if !r.2 then r
      else
        let off := if i = 0 then 64 else 0
        match savePage 64 true 0 r.1 (0x200000 + 65536 * i + off) (65536 - off) (fun b => new (65536 * i + off + b)) with
        | some q => (q, true)
        | none => (r.1, false)) (q, true) = (q', true) ∧ Mapped q' := by
    intro l
    induction l with
    | nil => exact fun _ q hq => ⟨q, rfl, hq⟩
    | cons i l ih =>
      intro hl q hq
      have hi := hl i (List.mem_cons_self ..)
      have ho : (if i = 0 then 64 else 0 : Nat) = 0 ∨ (if i = 0 then 64 else 0 : Nat) = 64 := by split <;> simp
      obtain ⟨q1, h1, h2⟩ := savePage_mapped q (0x200000 + 65536 * i + if i = 0 then 64 else 0) (65536 - if i = 0 then 64 else 0)
        (fun b => new (65536 * i + (if i = 0 then 64 else 0) + b)) hq (by omega) (by omega) (by omega) (by omega)
      obtain ⟨q2, h3, h4⟩ := ih (fun j hj => hl j (List.mem_cons_of_mem _ hj)) q1 h2
      refine ⟨q2, ?_, h4⟩
      rw [List.foldl_cons]
      simp only [Bool.not_true, Bool.false_eq_true, if_false, h1]
      exact h3
  have hd : 65536 * n / 65536 = n := by omega
  obtain ⟨q, h1, h2⟩ := hr (fun off => if (p.launch (p.crew 0).launch).saveWrites (fun k => (p.strands.find? (96 * 0 + k)).elim 0 (fun st => st.dirty)) off
    then some (Config.saveByte (p.imageOf 0) (((p.strands.filter (fun e => e.2.crew == 0)).map (fun e => e.2)).map Strand.image) off) else none)
    (List.range n) (fun i hi => by have := List.mem_range.1 hi; omega) p h
  refine ⟨q, Eq.trans ?_ h1, h2⟩
  unfold saveBody
  rw [hd] <;> rfl

theorem slotBusy_mapped (p : Pkg) (n acc : Nat) (h : Mapped p) (hs : p.slotOf 0 = 0x200000) (hn : n ≤ 16) (ha : acc ≤ 1) :
    p.slotBusy 64 0 n acc = false := by
  simp only [Pkg.slotBusy, List.any_eq_false, List.mem_range, hs]
  intro i hi
  rw [key_general p _ _ 1 acc h ha (by omega)]
  simp

/-- A crew that has drained, its record written to its save area; and one whose page of the record cannot be written. -/
theorem test_meets_CrewSave : ∀ forced : Bool,
    let s := crewState (.saving forced) 0
    let l := s.pkg.launch (s.pkg.crew 0).launch
    let head := Spec.bytes 8 (2 ^ 63 + (if forced then 1 else 0)) ++ Spec.bytes 4 (s.pkg.crew 0).index ++ Spec.bytes 4 l.lid ++ Spec.bytes 8 s.pkg.time
        ++ Spec.bytes 40 0
    (s.pkg.crew 0).st = .saving forced ∧ l.failed = false ∧ s.pkg.drained 0 = true ∧ s.pkg.crewUpset 0 = none ∧ l.savesz ≠ 0 ∧ l.nslot ≠ 0
    ∧ s.pkg.slotValid s.er 0 = false ∧ s.pkg.slotBusy s.er 0 (l.recSize / 65536) 1 = false
    ∧ ∃ p1 p2, saveBody s.er s.host.pcieUp 0 (s.pkg.slotOf 0) l.recSize (s.pkg.wakeDirty 0) = (p1, true)
      ∧ savePage s.er s.host.pcieUp 0 p1 (s.pkg.slotOf 0) 64 (fun n => head[n]?) = some p2 := by
  intro forced s l head
  have hs : ∀ f : Bool, let s := crewState (.saving f) 0
      let l := s.pkg.launch (s.pkg.crew 0).launch
      (s.pkg.crew 0).st = .saving f ∧ l.failed = false ∧ s.pkg.drained 0 = true ∧ s.pkg.crewUpset 0 = none ∧ l.savesz ≠ 0 ∧ l.nslot ≠ 0
      ∧ s.pkg.slotValid s.er 0 = false
      ∧ l.recSize = 65536 * 4 ∧ s.pkg.slotOf 0 = 0x200000 ∧ s.er = 64 ∧ s.host.pcieUp = true
      ∧ s.pkg.num 0x400000000000 8 = pte1 ∧ s.pkg.num 0x400000010000 8 = pte2 ∧ s.pkg.granules = [] ∧ s.pkg.poison = [] ∧ s.pkg.accs = [] ∧ l.root = tableRoot
      ∧ (s.pkg.crew 0).cluster = 0 := by decide +kernel
  obtain ⟨h1, h2, h3, h4, h5, h6, h6', h7, h8, h9, h10, h11, h12, h13, h14, h14', h15, h16⟩ := hs forced
  have hm : Mapped s.pkg := ⟨h11, h12, h13, h14, h14', h15, h16⟩
  have hw : Mapped (s.pkg.wakeDirty 0) := by
    have e : ∀ f : Bool, let p := (crewState (.saving f) 0).pkg
        let q := p.wakeDirty 0
        q.num 0x400000000000 8 = pte1 ∧ q.num 0x400000010000 8 = pte2 ∧ q.granules = [] ∧ q.poison = [] ∧ q.accs = []
          ∧ (q.launch (q.crew 0).launch).root = tableRoot ∧ (q.crew 0).cluster = 0 := by decide +kernel
    exact e forced
  obtain ⟨p1, b1, b2⟩ := saveBody_mapped (s.pkg.wakeDirty 0) 4 (by decide) hw
  obtain ⟨p2, c1, -⟩ := savePage_mapped p1 0x200000 64 (fun n => head[n]?) b2 (by decide) (by decide) (by decide) (by decide)
  exact ⟨h1, h2, h3, h4, h5, h6, h6', by rw [h7, h9]; exact slotBusy_mapped s.pkg 4 1 hm h8 (by decide) (by decide), p1, p2,
    by rw [h7, h8, h9, h10]; exact b1, by rw [h8, h9, h10]; exact c1⟩

theorem readRecord_mapped (p q : Pkg) (n : Nat) (hn : n ≤ 16) (bs : List Byte) (h : Mapped p) (hs : p.slotOf 0 = 0x200000)
    (hr : (p.launch (p.crew 0).launch).recSize = 65536 * n)
    (e0 : p.engRead 64 (saveAgent (p.crew 0).cluster) 0 true 0x200000 64 = .ok (bs, q)) :
    let bad : Prop := recN bs 0 8 / 2 ^ 63 = 0 ∨ recN bs 12 4 ≠ (p.launch (p.crew 0).launch).lid ∨ recN bs 8 4 ≠ (p.crew 0).index
    (¬ bad → ∃ q, p.readRecord 64 0 = .ok q) ∧ (bad → p.readRecord 64 0 = .error 0x02) := by
  intro bad
  have go : ∀ l : List Nat, (∀ i ∈ l, i < 16) → ∀ q, Mapped q → ∃ q', l.foldl (fun (r : Except Nat Pkg) i =>
      match r with
      | .error e => .error e
      | .ok p1 => match p1.engRead 64 (saveAgent (p.crew 0).cluster) 0 true (0x200000 + 65536 * i) 65536 with
        | .error e => .error e.1
        | .ok (_, p) => .ok p) (.ok q) = .ok q' := by
    intro l
    induction l with
    | nil => exact fun _ q _ => ⟨q, rfl⟩
    | cons i l ih =>
      intro hl q hq
      have hi := hl i (List.mem_cons_self ..)
      obtain ⟨_, q1, e1, g1⟩ := read_mapped q (saveAgent (p.crew 0).cluster) (0x200000 + 65536 * i) 65536 hq (by omega) (by omega) (by omega)
      obtain ⟨q2, e2⟩ := ih (fun j hj => hl j (List.mem_cons_of_mem _ hj)) q1 g1
      refine ⟨q2, ?_⟩
      rw [List.foldl_cons]
      simp only [e1]
      exact e2
  have hd : 65536 * n / 65536 = n := by omega
  constructor
  · intro hb
    obtain ⟨q, e⟩ := go (List.range n) (fun i hi => by have := List.mem_range.1 hi; omega) p h
    refine ⟨q, ?_⟩
    rw [Pkg.readRecord, hs, e0]
    refine (if_neg hb).trans ((if_neg ?_).trans ?_)
    · simp [h.2.2.2.1]
    · rw [hr, hd]
      exact e
  · intro hb
    rw [Pkg.readRecord, hs, e0]
    exact if_pos hb

/-- A placed crew with a record that is VALID, and with one that is not. -/
theorem test_meets_CrewRestore : ∀ v ∈ [1, 0],
    let s := crewState .restoring v
    let l := s.pkg.launch (s.pkg.crew 0).launch
    (s.pkg.crew 0).st = .restoring ∧ s.pkg.slotBusy s.er 0 (l.recSize / 65536) 0 = false ∧ (s.pkg.crew 0).image.answers = [] ∧ l.failed = false
    ∧ (if v = 1 then ∃ p, s.pkg.readRecord s.er 0 = .ok p else s.pkg.readRecord s.er 0 = .error 0x02) := by
  intro v hv s l
  have hs : ∀ v ∈ [1, 0], let s := crewState .restoring v
      let l := s.pkg.launch (s.pkg.crew 0).launch
      (s.pkg.crew 0).st = .restoring ∧ (s.pkg.crew 0).image.answers = [] ∧ l.failed = false
      ∧ l.recSize = 65536 * 4 ∧ s.pkg.slotOf 0 = 0x200000 ∧ s.er = 64
      ∧ s.pkg.num 0x400000000000 8 = pte1 ∧ s.pkg.num 0x400000010000 8 = pte2 ∧ s.pkg.granules = [] ∧ s.pkg.poison = [] ∧ s.pkg.accs = [] ∧ l.root = tableRoot
      ∧ (s.pkg.crew 0).cluster = 0
      ∧ (match s.pkg.engRead 64 (saveAgent (s.pkg.crew 0).cluster) 0 true 0x200000 64 with
          | .ok (h, _) => decide (recN h 0 8 / 2 ^ 63 = 0 ∨ recN h 12 4 ≠ l.lid ∨ recN h 8 4 ≠ (s.pkg.crew 0).index) == (v == 0)
          | _ => false) = true := by decide +kernel
  obtain ⟨h1, h2, h3, h7, h8, h9, h11, h12, h13, h14, h14', h15, h16, hh⟩ := hs v hv
  have hm : Mapped s.pkg := ⟨h11, h12, h13, h14, h14', h15, h16⟩
  obtain ⟨bs, q0, e0, -⟩ := read_mapped s.pkg (saveAgent (s.pkg.crew 0).cluster) 0x200000 64 hm (by decide) (by decide) (by decide)
  obtain ⟨r1, r2⟩ := readRecord_mapped s.pkg q0 4 (by decide) bs hm h8 h7 e0
  refine ⟨h1, by rw [h7, h9]; exact slotBusy_mapped s.pkg 4 0 hm h8 (by decide) (by decide), h2, h3, ?_⟩
  rw [show (crewState .restoring v).pkg = s.pkg from rfl, e0] at hh
  rw [show s.er = 64 from h9]
  split
  · next hv1 => subst hv1; exact r1 (by simpa using hh)
  · next hv1 =>
    have hv0 : v = 0 := by simp at hv; omega
    subst hv0
    exact r2 (by simpa using hh)

/-- An overdue request; a retry; and a contained core. -/
theorem test_meets_CrewsAreSavedAndRestored :
    (∀ x ∈ [CrewSt.resident, .retry true],
      let s := crewState x 0
      s.host.islands.get .running ((s.pkg.crew 0).cluster / 12) ≠ .stopped ∧ (s.pkg.crew 0).st = x ∧ (s.pkg.crew 0).req = true
      ∧ (s.pkg.crew 0).deadline ≤ s.pkg.time ∧ (s.pkg.launch 0).failed = false ∧ (s.pkg.crew 0).sealed ≠ [])
    ∧ (((withCore (world {}) (fun k => { k with service := .contained })).pkg.core 0).service = .contained) :=
  ⟨by decide +kernel, by decide +kernel⟩
/-! #### Functions, islands, links and memory events -/

def gone (n : Nat) : State :=
  let s := pod (hosted (world {}) {})
  { s with host := { s.host with ready := 0xFFFFF &&& ~~~(BitVec.ofNat 20 (2 ^ n)) } }

/-- Every function with a bit of READY: not ready, and ready. -/
theorem test_meets_FunctionsComeAndGo :
    (∀ n ∈ [2, 9, 10, 11, 12, 13], (gone n).host.ready.getLsbD n = false)
    ∧ (∀ n ∈ [2, 9, 10, 11, 13, 14, 19], (hosted (world {}) {}).host.ready.getLsbD n = true)
    ∧ ((hosted (world {}) {}).pkg.launches.any (fun e => !e.2.recorded)) = true
    ∧ (let c := reduce 2048 1 0 0 []
       let s := collState c []
       s.pkg.colls = [c] ∧ (s.box 7).ports = [14] ∧ s.host.ready.getLsbD 14 = true) := by decide +kernel

/-- The package with the tables, a walk of core 4607 for va of a kind, and its strand in user mode or not. -/
def walkState (va acc : Nat) (sup : Bool) : State :=
  let st : Strand := { run := .blocked (.walk va acc), sup := sup }
  let s := hosted (world st) {}
  let p := tables { s.pkg with launches := [(0, { launch1 with root := tableRoot })], walks := [{ strand := 0, core := 4607, va := va, acc := acc }] }
  s.withPkg (p.write 0x400000010008 (Spec.bytes 8 (0x400020000000 + 0x882)))

theorem test_meets_PageWalk :
    (∀ c ∈ [(0x8000000000, 0), (0x1FFFFFFF, 3), (0x1FFFFFFF, 2)],
      let s := walkState c.1 c.2 true
      s.pkg.walkTurn 7 = some { strand := 0, core := 4607, va := c.1, acc := c.2 } ∧ (∃ w ∈ s.pkg.walks, w.core / 576 = 7)
      ∧ s.pkg.strands.find? 0 = some { run := .blocked (.walk c.1 c.2) } ∧ tableRoot = (s.pkg.launch (s.pkg.crew 0).launch).root)
    ∧ (walkState 0x8000000000 0 true).pkg.walkLeaf 64 tableRoot 0x8000000000 = .missing
    ∧ (walkState 0x1FFFFFFF 3 true).pkg.walkLeaf 64 tableRoot 0x1FFFFFFF = .leaf { pte := 0x400000010000, e := pte2, va := 0, pa := 0x400000000000, size := 2 ^ 29 }
    ∧ permOk true pte2 3 = false ∧ permOk true pte2 2 = true ∧ pte2 < 2 ^ 48 ∧ (walkState 0 0 true).er = 64 := by decide +kernel

theorem test_meets_IslandsLinksAndMemoryEvents :
    (let s := hosted (world {}) {}
     (∀ i < 18, s.host.islands.get .running i ≠ .stopped) ∧ (∀ p < 6, s.host.ready.getLsbD (14 + p) = true) ∧ s.host.retraining = []
     ∧ s.pkg.accs = [] ∧ s.host.ready.getLsbD 13 = true ∧ State.reset.host.ready.getLsbD 13 = false)
    ∧ (let s := hosted (world {}) {}
       let h := { s.host with islands := [(15, .stopped)], retraining := [(5, 7)] }
       h.islands.get .running 15 = .stopped ∧ h.retraining.find? (fun x => x.1 == 5) = some (5, 7))
    ∧ (let st : Strand := { retn := true, banks := [15] }
       let s := withCore (world st) (fun k => { k with res := [(0, 0)] })
       (s.pkg.core 0).res = [(0, 0)] ∧ s.pkg.strands.find? 0 = some st ∧ st.retn = true ∧ 15 ∈ st.banks ∧ (s.pkg.core 0).retained = [])
    ∧ (let m : RMap Granule := [(3, { count := 255 }), (4, { count := 256, moving := some (some 9) }), (5, { place := some 8, moving := some none })]
       let s := (world {}).withPkg { (world {}).pkg with granules := m }
       s.pkg.granules.sorted ∧ s.canonical ∧ s.pkg.granules.find? 4 = some { count := 256, moving := some (some 9) }
       ∧ s.pkg.granules.find? 5 = some { place := some 8, moving := some none } ∧ s.pkg.poison = []
       ∧ (∀ e ∈ s.pkg.granules, e.1 ≠ 5 → e.2.place ≠ some 5) ∧ (∀ e ∈ s.pkg.granules, e.1 ≠ 4 → e.2.place ≠ some 9)) := by decide +kernel

/-- The reset memory is canonical, and a step from it answers. -/
theorem test_meets_MemoryStaysCanonical : State.reset.canonical := reset_canonical

/-! #### Further clauses -/

/-- Crew 0 with two strands, the one in focus at its bundle's end with a transfer pending. -/
def ending (t : Transfer) : Strand := { tvec := 0x2000, phase := .transfer, pend := some t, rslot := some 511, bun := { pc := 0x1000, header := 1#32 }, e := [(7, 0x8000)] }

def endState (t : Transfer) (mate : Run) : State :=
  let s := withRq (world (ending t)) [(511, { crew := 0, st := .running 0 })]
  s.withPkg ((s.pkg.setCore 0 { s.pkg.core 0 with res := [(0, 0), (1, 1)] }).setStrand 1 { idx := 1, sn := 1, run := mate })

/-- END with another strand running, and of the last; IDLE; PARK of each kind; YIELD granted, with another strand able to issue and without. -/
theorem test_meets_BundleEnd :
    (∀ m ∈ [Run.ready, .ended],
      let s := endState .endTask m
      let st := ending .endTask
      s.focused st ∧ st.run = .ready ∧ st.phase = .transfer ∧ st.uid = s.focus ∧ s.pkg.owed st 2 = [] ∧ s.pkg.accs = []
      ∧ (s.pkg.launch (s.pkg.crew st.crew).launch).failed = false ∧ (s.pkg.crew st.crew).st = .resident ∧ st.async = []
      ∧ (s.pkg.cluster 0).rqWaits = [] ∧ (s.pkg.crew st.crew).barriers = []
      ∧ ((∃ e ∈ s.pkg.strands, e.1 ≠ s.focus ∧ e.2.crew = st.crew ∧ e.2.run ≠ .ended) ↔ m = .ready))
    ∧ (∀ t ∈ [Transfer.idle, .park 0xFFFF 0 0, .park 2 1 0x3800000F, .park 2 2 0x7F0000000000, .park 2 3 65535, .yield true true, .yield false false],
      (endState t .ready).focused (ending t) ∧ (ending t).run = .ready ∧ (ending t).awaited = [] ∧ (endState t .ready).pkg.owed (ending t) 2 = [])
    ∧ (endState (.yield false false) .ready).pkg.othersReady 0 (ending (.yield false false)) = true
    ∧ (endState (.yield false false) .ended).pkg.othersReady 0 (ending (.yield false false)) = false := by decide +kernel

/-- A push to a queue register of 8 entries. -/
theorem test_meets_PushOverflow :
    let i : Instr := .vadd { vo with d := 1015 }
    let st := { at1 i with q := [(7, List.replicate 8 {})] }
    (world st).focused st ∧ st.untrapped ∧ st.wordClean i ∧ (foot i).vw = some 1015 ∧ isQ 1015 = true ∧ (foot i).nw = false
    ∧ (st.getQ ((1015 : BitVec 10).toNat - 1008)).length = 8 ∧ WellFormed st.bun.lits i
    ∧ (vCodes i).all (fun c => !isV c || decide (c.toNat / 64 < st.banks.length)) = true ∧ latchesRead (foot i) (sLatches i) = []
    ∧ st.slotCapt st.bun.slot = [] ∧ st.waits (foot i) (sLatches i) = [] ∧ (world st).pkg.poison = [] := by decide +kernel

/-- Two stores to one byte that a load's strand sees, the second later; and one of its own that it does not see. -/
theorem test_meets_LoadSees :
    let q (b : Byte) (r t : Nat) : Part := { addr := 0x400000000000, data := [b], pos := 0, flags := 0, va := 0, reached := r, shown := [(r, t)] }
    let a (u : Nat) (x : Part) : Acc := { strand := u, core := u, kind := .store, parts := [x] }
    let x := (4, a 1 (q 1 3 9))
    let y := (5, a 2 (q 2 3 10))
    Spec.sees 0 0 7 4 x.2 (q 1 3 9) ∧ Spec.sees 0 0 7 5 y.2 (q 2 3 10) ∧ ¬ Spec.sees 0 0 7 8 (a 0 (q 3 0 0)) (q 3 0 0)
    ∧ Spec.later 5 0 y.2 (q 2 3 10) 4 0 x.2 (q 1 3 9) ∧ ¬ Spec.later 4 0 x.2 (q 1 3 9) 5 0 y.2 (q 2 3 10) := by decide +kernel

/-- One access of one part, at its lowest scope and at the highest; a list of accesses in order. -/
theorem test_meets_MayPerform :
    let a := oneAcc .store 8 .none
    (accState a).pkg.accs.find? 7 = some a ∧ (∃ q, a.parts = [q]) ∧ (accState a).pkg.accs.sorted := by
  exact ⟨by decide +kernel, ⟨_, rfl⟩, by decide +kernel⟩

/-- A vector access of one lane where each check stands in its way. -/
theorem test_meets_VectorAccessChecks :
    ∀ va ∈ [0x7F0000601000, 0x7F0000600248, 0x7F0000004000, 0x7EFFFFFFFFF8, 1],
      let i : Instr := .ldvs { mo with mask := 1 }
      let st := (inWin i (BitVec.ofNat 64 va) 4).setM 1 8
      ready i (world st) st ∧ (Spec.load st i).any (fun l => l.2.2.2.2.2.length == 1) = true := by decide +kernel

/-- A selector with bit 11, and of a position beyond the crew; a flag about to saturate, with a notice slot free; a load of flag 31 of core 1. -/
theorem test_meets_FlagTraps :
    (∀ c ∈ [(0x800, 0x800, false), (64, 64, false)],
      let i : Instr := .fset { m0 with base := 0, offset := BitVec.ofNat 22 c.1 }
      ready i (world (at1 i)) (at1 i) ∧ (Spec.eaNoIx (at1 i) { m0 with base := 0, offset := BitVec.ofNat 22 c.1 }).toNat = c.2.1
      ∧ decide (Spec.selector (world (at1 i)).pkg (at1 i) c.2.1) = c.2.2)
    ∧ (let s := withCore (world {}) (fun k => { k with flags := [(31, 0xFFFFFFFF)] })
       2 ^ 32 ≤ Spec.flag s.pkg 0 31 + 1 ∧ (s.pkg.core 0).waits = [] ∧ s.pkg.unitWaits = [] ∧ s.pkg.num (2 ^ 52 + 12) 4 = 0)
    ∧ (let q : Part := { addr := 2 ^ 53 + 4 * 63, data := List.replicate 4 0, pos := 0, flags := 0, va := 63 }
       let a : Acc := { strand := 0, core := 0, kind := .load, dest := .x 31 4, parts := [q] }
       let st : Strand := { xpend := [(31, 7)] }
       let s := (world st).withPkg { (world st).pkg with accs := [(7, a)], nextAcc := 8 }
       s.pkg.accs.find? 7 = some a ∧ q.addr = 2 ^ 53 + 4 * (32 * 1 + 31) ∧ s.pkg.mayPerform 7 0 6 = true ∧ s.pkg.strands.find? 0 = some st
       ∧ s.pkg.poisoned (s.pkg.physKey q.addr) 4 = none) := by decide +kernel

/-- Addresses at which the unit operations trap: misaligned, outside every region, outside the allocation; GWINIT of a position beyond the crew;
descriptors that are not legal, and slots outside the crew; and RINIT of illegal values. -/
theorem test_meets_ObjectTraps :
    (∀ i ∈ [Instr.gwinit m0, .gwwait { m0 with ix := 3 }, .enqX { m0 with ty := 1 }, .deqX { m0 with ty := 1 }, .enqV m0, .rclose { m0 with data := 0 }],
      ∀ va ∈ [0x7F0000000001, 0x7F0000601000, 0x7F0000004000],
      ready i (world (inWin i (BitVec.ofNat 64 va) 0)) (inWin i (BitVec.ofNat 64 va) 0))
    ∧ (let i : Instr := .gwinit m0
       let st := withX i [(2, 0x7F0000000000), (1, 2 * 2 ^ 37)]
       ready i (world st) st ∧ launch1.cpc ≤ (st.getX 1).toNat / 2 ^ 37 % 32)
    ∧ (let i : Instr := .deqX { m0 with ty := 1 }
       let s := ringState i 0 0 1
       let s' := s.withPkg (s.pkg.write (spadKey 0 0) (Spec.bytes 8 0x7F0000004000))
       let s2 := ringState i 0 0 4
       ready i s' (inWin i 0x7F0000000000 0) ∧ Spec.RingLegal s'.pkg (spadKey 0 0) ∧ s'.pkg.num (spadKey 0 0) 8 = 0x7F0000004000
       ∧ ¬ Spec.RingLegal s2.pkg (spadKey 0 0))
    ∧ (∀ c ∈ [(0x7F0000001000, 0x27), (0x7F0000001000, 0x6D), (0x7F0000001001, 0x30), (0x7F0000004000, 0x60)],
      let i : Instr := .rinit { m0 with ix := 3 }
      let st := withX i [(1, BitVec.ofNat 64 c.1), (2, 0x7F0000000000), (3, BitVec.ofNat 64 c.2)]
      ready i (world st) st) := by decide +kernel

/-- A barrier the launch does not have; a strand outside the member set; one that has arrived; the last arrival while another waits for the next phase. -/
theorem test_meets_BarrierTraps :
    (∀ i ∈ [Instr.bjoin { m0 with base := 0, data := 0, offset := 4 }, .barr { m0 with base := 0, offset := 31 }, .bdrop { m0 with base := 0, data := 0, offset := 3 }],
      ready i (barState i [1] []) (at1 i) ∧ launch1.barr = 4 ∧ (at1 i).idx ∉ ((barState i [1] []).pkg.crew 0 |>.barrier 3).mem)
    ∧ (let i : Instr := .barr { m0 with base := 0, offset := 3 }
       ready i (barState i [0, 1] [0]) (at1 i) ∧ Spec.Released (barState i [0, 1] [0]).pkg (at1 i))
    ∧ (let w : UnitWait := { strand := 1, key := 2 ^ 56 + 3, va := 3, kind := 6, gen := 0xFFFF }
       let s := barState .cgo [0, 1] [1]
       let s := s.withPkg { s.pkg with unitWaits := [w] }
       s.pkg.unitWaits.filter (fun w => w.key == 2 ^ 56 + 0 * 64 + 3 && w.kind == 6) = [w]
       ∧ w.gen = ((s.pkg.crew 0).barrier 3).phase.toNat ∧ w.strand % 96 ∈ ((s.pkg.crew 0).barrier 3).mem
       ∧ w.strand % 96 ∉ ((s.pkg.crew 0).barrier 3).drops ∧ (∀ m ∈ ((s.pkg.crew 0).barrier 3).mem, m = 0 ∨ m ∈ ((s.pkg.crew 0).barrier 3).arrived)) := by
  decide +kernel

/-- Every command on a SHARED core; slots not claimed; a step beyond the launch's depth; a full queue; and an access in flight. -/
theorem test_meets_MatrixStops :
    (∀ i ∈ [Instr.ard po, .ardw po, .ardh po, .awr po, .aaddv po, .azero { po with row := 0, vec := 0 }, .acens { po with vec := 0 },
        .mfmt ⟨4, 4, 1⟩, .mma ⟨0, 15, 62, 63, 1, 1⟩, .mchain ⟨0, 0, 62, 63, 0, 0⟩, .mseal ⟨1⟩, .mzero ⟨1⟩, .oclaim ⟨31, 62, 1⟩, .orelease ⟨0, 62, 1⟩,
        .ofillv ⟨0, 48, 62⟩, .ofill ⟨2, 3, 4, 0, 63⟩],
      let s := withCore (world (at1 i)) (fun k => { k with mode := .shared })
      ready i s (at1 i) ∧ (s.pkg.core 0).mode = .shared)
    ∧ (let i : Instr := .mma ⟨0, 15, 62, 63, 1, 1⟩
       ready i (world (at1 i)) (at1 i) ∧ ¬ Spec.Claimed (world (at1 i)) (at1 i) [62, 63] ∧ ((world (at1 i)).pkg.core 0).mode = .direct)
    ∧ (let i : Instr := .mchain ⟨1, 0, 62, 62, 0, 0⟩
       let s := withCore (claimed i) (fun k => { k with issued := [(0, 255)] })
       ready i s (at1 i) ∧ (s.pkg.launch (s.pkg.crew 0).launch).maxSteps < (s.pkg.core 0).issued.get 0 0 + 2)
    ∧ (let i : Instr := .mzero ⟨1⟩
       let e : MxQ := { num := 0, strand := 0, ent := .mseal 1 }
       let s := withCore (claimed i) (fun k => { k with mxq := List.replicate 16 e })
       let t := (claimed i).withPkg { (claimed i).pkg with accs := [(7, oneAcc .load 8 .none)], nextAcc := 8 }
       ready i s (at1 i) ∧ 16 ≤ (s.pkg.core 0).mxq.length ∧ ready i t (at1 i) ∧ t.pkg.owed (at1 i) 6 = [7] ∧ t.pkg.pools = []) := by decide +kernel

/-- Commands of formes and counters where they trap or wait; a counter already 0. -/
theorem test_meets_FormeStops :
    (∀ i ∈ [Instr.ttask ⟨2, 0⟩, .tdep ⟨2, 0⟩], ∀ va ∈ [0x7F0000000001, 0x7F0000004000],
      ready i (world (inWin i (BitVec.ofNat 64 va) 0)) (inWin i (BitVec.ofNat 64 va) 0))
    ∧ (let i : Instr := .ttask ⟨2, 0⟩
       let st := inWin i 0x7F0000000000 0
       ready i (world st) st ∧ Spec.inWindow (world st) st 0x7F0000000000 64 ∧ (∀ c ∈ ((world st).pkg.crew 0).cores, ((world st).pkg.core c).mode = .direct))
    ∧ (let s := formeState {} formeRec 0
       s.pkg.num (Spec.offAt s.pkg 0 64 + 6) 2 = 0 ∧ s.pkg.strands.find? 0 = some {}) := by decide +kernel

/-- The record of test_meets_FormesAndDependenceCounters is a legal forme, and the other is not; its output rows lie apart. -/
theorem test_meets_FormeLegal :
    Spec.FormeLegal (formeState {} formeRec 0).pkg 0 formeRec ∧ ¬ Spec.FormeLegal (formeState {} badForme 0).pkg 0 badForme
    ∧ (let f := formeOf formeRec
       f.h = 0 ∧ f.men = false ∧ ∀ i < f.m, (f.ooff + i * f.ostride) % 2 ^ 18 + f.n * tyW f.otype / 8 ≤ 2 ^ 18) := by decide +kernel

/-- A misaligned block; RTADD of no byte and of 2^26 + 1 units; COLLQ of a communicator that is not valid; a full queue. -/
theorem test_meets_CollectiveStops :
    (let i : Instr := .coll ⟨2, 0⟩
     ready i (world (inWin i 0x7F0000000020 0)) (inWin i 0x7F0000000020 0))
    ∧ (∀ n ∈ [0, 0x100000001],
      let i : Instr := .rtadd ⟨2, 3, 2, 0xFFFF⟩
      let st := inWin i 0 (BitVec.ofNat 64 n)
      ready i (world st) st ∧ ¬((st.getX 3).toNat ≠ 0 ∧ ((st.getX 2).toNat + (st.getX 3).toNat - 1) / 64 + 1 - (st.getX 2).toNat / 64 ≤ 2 ^ 26))
    ∧ (let i : Instr := .collq ⟨31, 8⟩
       ready i (pod (world (at1 i))) (at1 i) ∧ ((pod (world (at1 i))).host.comm.get 0 8).getLsbD 31 = false)
    ∧ (let i : Instr := .rtdel ⟨0⟩
       let st := { at1 i with collq := List.replicate 8 (1, .rtdel 1) }
       ready i (world st) st ∧ (world st).pkg.owed st 6 = [] ∧ st.collq.length = 8) := by decide +kernel

/-- The engine without READY.COLL; a block that cannot be read; a communicator that cannot hold this package. -/
theorem test_meets_CollAcceptStops :
    ∀ x ∈ [CollCmd.coll 0x7F0000601000 true [], .coll 0x7F0000000000 true []],
      let st : Strand := { collq := [(5, x)] }
      let s := pod (world st)
      let s := s.withPkg (s.pkg.write (spadKey 0 6) [8])
      s.pkg.strands.find? 0 = some st ∧ s.pkg.held 0 3 5 = false ∧ s.host.ready.getLsbD 12 = true ∧ (s.pkg.crew st.crew).isSaved = false
      ∧ (({ s with host := { s.host with ready := 0 } } : State).host.ready.getLsbD 12) = false
      ∧ (match s.pkg.engRead s.er baseAgent 0 true 0x7F0000601000 128 with | .error (0x10, _) => true | _ => false) = true
      ∧ (s.pkg.bytes (Spec.offAt s.pkg 0 0) 128).getD 6 0 = 8 ∧ (s.host.comm.get 0 8).getLsbD 31 = false := by decide +kernel

/-- A range table with no room for a collective's ranges. -/
theorem test_meets_CollNoRoom :
    let c := reduce 2048 1 0 0 []
    let r : Range := { base := 0, units := 1, mode := 1, owner := 0, launch := 1, src := 0, tok := 9 }
    let s := collState c []
    let s := s.withPkg { s.pkg with ranges := List.replicate 511 r }
    c.ranges.length = 2 ∧ ¬ Spec.Room s.pkg 2 c.num c.ranges ∧ s.pkg.collOf 7 = some c := by decide +kernel

/-! #### Further clauses: pools, tasks, scheduling and the host -/

/-- poolWorld with 8 bytes written at an offset of the descriptor. -/
def poolWith (i : Instr) (e off v : Nat) : State :=
  let s := poolWorld i e 0
  s.withPkg (s.pkg.write (spadKey 0 off) (Spec.bytes 8 v))

/-- A misaligned pointer; a page of TIER 00; an illegal descriptor, by KIND and by a reserved bit; an element size that the form does not take;
and no room. -/
theorem test_meets_PoolStops :
    (∀ i ∈ [Instr.poolpushReg ⟨0, 2, 3⟩, .poolpopMem ⟨1, 2, 3, 1⟩, .poolfence ⟨2⟩, .steal ⟨31, 2⟩, .spawnp ⟨1, 2, 7, 0x0001FFFE⟩],
      let st := (poolAt i).setX 2 0x7F0000000020
      ready i (world st) st)
    ∧ (let i : Instr := .poolpushReg ⟨0, 2, 3⟩
       let st := (poolAt i).setX 2 0x10000
       let s := (world st).withPkg { (world st).pkg with
         tlb := [{ core := 0, launch := 0, va := 0x10000, size := 65536, pa := 0x10000, flags := 0x406, frame := 1 }] }
       ready i s st ∧ Spec.PoolNext s st 0x10000 ∧ (∀ t ∈ s.pkg.tlbHit 0 0 0x10000, t.flags / 2 ^ 7 % 4 = 0) ∧ (s.pkg.tlbHit 0 0 0x10000).isSome = true)
    ∧ (∀ c ∈ [(4, poolWord 3 + 2 ^ 31), (48, 1), (20, 2 ^ 16)],
      let i : Instr := .poolpushReg ⟨0, 2, 3⟩
      let s := poolWith i 3 c.1 c.2
      ready i s (poolAt i) ∧ Spec.PoolNext s (poolAt i) 0x7F0000000000 ∧ (s.pkg.core 0).poolCache = []
      ∧ ¬(Spec.PoolLegal (s.pkg.num (spadKey 0 4) 4) ∧ Spec.DescClear s.pkg (spadKey 0 0)))
    ∧ (let i : Instr := .poolpushReg ⟨0, 2, 3⟩
       let s := poolWorld i 3 0
       let op (n : Nat) : PoolOp := { num := n, kind := .push, strand := 0, crew := 0, core := 0, sn := 0, desc := 0, home := 0, params := 0 }
       let s := s.withPkg { s.pkg with pools := (List.range 32).map (fun n => (n, op n)) }
       ready i s (poolAt i) ∧ 32 ≤ poolUsed s.pkg 0 ∧ Spec.PoolNext s (poolAt i) 0x7F0000000000 ∧ (poolAt i).depth < 32)
    ∧ Spec.elog (poolWord 8) ≠ 3 := by decide +kernel

/-- POOLINIT of an illegal KIND, and of a misaligned descriptor; SPAWNP of a misaligned target, and at depth 32; POOLFENCE behind a join. -/
theorem test_meets_PoolInitStops :
    (∀ c ∈ [(poolWord 8 + 2 ^ 31, 0x7F0000000000), (poolWord 8, 0x7F0000000020)],
      let i : Instr := .poolinit ⟨2, 1, 3, 4⟩
      let st := { poolAt i with x := [(1, BitVec.ofNat 64 c.1), (2, BitVec.ofNat 64 c.2), (3, 0x7F0000001000), (4, 0x7F0000003000)] }
      ready i (world st) st ∧ (Spec.PoolLegal c.1 ↔ c.1 = poolWord 8))
    ∧ (∀ c ∈ [(0x4002, 0), (0x4000, 32)],
      let i : Instr := .spawnp ⟨1, 2, 1, 0x0001FFFE⟩
      let st := { (poolAt i).setX 1 (BitVec.ofNat 64 c.1) with depth := c.2 }
      let s := (world st).withPkg ((world st).pkg.write (spadKey 0 0) (poolBytes 8 0))
      ready i s st ∧ Spec.PoolNext s st 0x7F0000000000)
    ∧ (let i : Instr := .poolfence ⟨2⟩
       let s := poolWorld i 3 0
       let s := s.withPkg { s.pkg with joins := [{ num := 0, strand := 0, mask := 31 }], nextNum := 5, colls := [], decs := [{ tok := 0, strand := 0, crew := 0, off := 0 }] }
       ready i s (poolAt i) ∧ poolUsed s.pkg 0 < 32 ∧ s.pkg.pools = []) := by decide +kernel

/-- A push that pairs with a held pop of its pool; one whose element lies in memory; a BAG; a waiter named by the list. -/
theorem test_meets_PoolPairs :
    (let op := { poolOp 4 .push with path := [0, 192], port := 2 }
     let o := { poolOp 5 .popw with path := [0], held := true, till := 9, arrival := 3 }
     let s := travel op [o] 0
     s.pkg.pools.find? 4 = some op ∧ Spec.Travels s.pkg op ∧ s.pkg.swPorts = [] ∧ s.pkg.swcyc < o.till ∧ o.home = op.home
     ∧ op.elem.length = 2 ^ Spec.elog o.params)
    ∧ (let op := { poolOp 4 .push with mem := some 0x7F0000000100, elem := [] }
       op.elem = [] ∧ Spec.CleanRun (travel op [] 0).pkg 0 0x7F0000000100 8)
    ∧ (let op := { poolOp 4 .pop with params := poolWord 3 + 2 ^ 30 }
       let s := travel op [] 3
       let s := s.withPkg (s.pkg.write (spadKey 0 4) (Spec.bytes 4 (poolWord 3 + 2 ^ 30)))
       s.pkg.pools.find? 4 = some op ∧ Spec.HomeLegal s.pkg op ∧ Spec.Travels s.pkg op ∧ s.pkg.num (spadKey 0 4) 4 / 2 ^ 30 % 4 ≠ 0)
    ∧ (let op := poolOp 4 .push
       let o := { poolOp 5 .popw with joined := true, tag := 0xABCD, sn := 3 }
       let s := travel op [o] 0
       let s := s.withPkg (s.pkg.write (spadKey 0 24) (Spec.bytes 4 5 ++ Spec.bytes 4 6) |>.write (spadKey 0 (0x3000 + 40)) (Spec.bytes 8 (0xABCD + 3 * 2 ^ 29)));
       (Spec.HomeLegal s.pkg op ∧ Spec.Travels s.pkg op) ∧ s.pkg.num (spadKey 0 24) 4 ≠ s.pkg.num (spadKey 0 28) 4 ∧ Spec.Clean s.pkg 0 (0x7F0000003000 + 40) 8
       ∧ o.tag = s.pkg.num (spadKey 0 (0x3000 + 40)) 8 % 2 ^ 16) := 
  ⟨by decide +kernel, by decide +kernel, by decide +kernel, ⟨by decide +kernel, by decide +kernel⟩, by decide +kernel⟩

/-- Answers: of a saved crew, of one that has ended, and to memory. -/
theorem test_meets_PoolAnswers :
    ∀ c ∈ [(CrewSt.saved false, none), (.ended, none), (.resident, some 0x7F0000000100)],
      let op := { poolOp 4 .pop with answer := some (0, Spec.bytes 8 7), xd := 1, mem := c.2 }
      let s := travel op [] 0
      let s := s.withPkg (s.pkg.setCrew 0 { s.pkg.crew 0 with st := c.1 })
      s.pkg.pools.find? 4 = some op ∧ (s.pkg.crew 0).st = c.1 ∧ ((s.pkg.crew 0).isSaved = true ↔ c.1 = .saved false)
      ∧ (s.pkg.strands.find? op.strand).isSome = true ∧ Spec.CleanRun s.pkg 0 0x7F0000000100 8 := by decide +kernel

/-- SPAWN of a misaligned target, at depth 32, and behind an access; PARK with an illegal field of each kind and of a place beyond the crew;
NOTE behind an access; CTXSAVE of a misaligned block and with a register pending. -/
theorem test_meets_TaskStops :
    (∀ c ∈ [(0x4002, 0), (0x1000000000000, 0), (0x4000, 32)],
      let i : Instr := .spawn ⟨1, 0⟩
      let st := { withX i [(1, BitVec.ofNat 64 c.1)] with depth := c.2 }
      ready i (world st) st)
    ∧ (∀ c ∈ [(0, 1, 1), (1, 5, 0), (1, 2 ^ 32 + 2 ^ 10, 1), (2, 0x7F0000000001, 1), (3, 65536, 1)],
      let i : Instr := .park ⟨2, BitVec.ofNat 2 c.1, 0⟩
      let st := inWin i (BitVec.ofNat 64 c.2.1) 0
      ready i (world st) st ∧ Spec.WaitBad c.1 c.2.1 c.2.2)
    ∧ (∀ c ∈ [(1, 2 ^ 32 + 2 * 2 ^ 5, 2), (2, 0x7F0000004000, 0x7F0000004000)],
      let i : Instr := .park ⟨2, BitVec.ofNat 2 c.1, 0⟩
      let st := inWin i (BitVec.ofNat 64 c.2.1) 0
      ready i (world st) st ∧ Spec.WaitAway (world st) st c.1 c.2.1 c.2.2 ∧ (∀ v ∈ [0, 1, c.2.1], ¬ Spec.WaitBad c.1 c.2.1 v))
    ∧ (∀ i ∈ [Instr.note ⟨31, 0⟩, .tlbinv ⟨2, 3⟩],
      let s := (world (at1 i)).withPkg { (world (at1 i)).pkg with accs := [(7, oneAcc .load 8 .none)], nextAcc := 8 }
      ready i s (at1 i) ∧ Spec.Waits s (at1 i) 6)
    ∧ (let i : Instr := .ctxsave ⟨2⟩
       let st := inWin i 0x7F0000000020 0
       let st2 := { inWin i 0x7F0000000000 0 with xpend := [(31, 7)] }
       ready i (world st) st ∧ ready i (world st2) st2 ∧ st2.awaited ≠ []) := by decide +kernel

/-- The premises of TASK_SCHEDULER_ROUND, met with two ready records whose AGEs wrap. -/
theorem test_meets_TaskRound :
    let s := withRq (world { run := .idle }) [(5, readySlot 0), (7, readySlot 0xFFFFFFFF)]
    Spec.Ascending s.pkg.strands ∧ Spec.Ascending s.pkg.crews ∧ Spec.Ascending (s.pkg.cluster 0).rq
    ∧ (∀ e ∈ (s.pkg.cluster 0).rq, (e.2.age - 0xFFFFFFFF).toNat < 2 ^ 31) ∧ Spec.CanStart s.pkg 0 0 0 5 := by
  refine ⟨by decide +kernel, by decide +kernel, by decide +kernel, by decide +kernel, ⟨_, rfl, rfl, .inl rfl⟩, ⟨_, rfl, rfl, rfl, .inl rfl⟩, ⟨_, rfl, rfl, rfl⟩⟩

/-- A hold and a POOLFENCE that have ended; a header post behind an access. -/
theorem test_meets_SwitchAndPost :
    (∀ r ∈ [Run.blocked (.hold 3), .blocked (.poolfence 4)],
      let st : Strand := { run := r }
      let s := withCore (world st) (fun k => { k with cur := none, lastIssuer := some 1 })
      (s.pkg.core 0).res.find? 0 = some 0 ∧ s.pkg.runnable 0 st = true ∧ s.pkg.stopped st = false ∧ ((s.pkg.core 0).res.find? 2) = none
      ∧ ((s.pkg.core 0).res.find? 3) = none)
    ∧ (let st := waiting .post 511 none
       let s := (world st).withPkg { (world st).pkg with accs := [(7, oneAcc .store 8 .none)], nextAcc := 8 }
       s.focused st ∧ st.run = .ready ∧ Spec.Waits s st 2) := by decide +kernel

/-- A pending trap at a bundle's boundary, and at its wait with the count granted. -/
theorem test_meets_AsyncTrapPlaces :
    ∀ c ∈ [(Run.ready, Phase.boundary, none), (.blocked (.walk 5 3), .boundary, none), (.ready, .wait, some Grant.ok), (.blocked .flag, .wait, none)],
      let st : Strand := { tvec := 0x2000, run := c.1, phase := c.2.1, grant := c.2.2, async := [{ cause := 0xFF, tval := 5 }],
                           bun := if c.2.1 = .wait then { pc := 0x1000, header := BitVec.ofNat 32 (2 ^ 32 - 2 ^ 18) } else {} }
      let s := world st
      s.pkg.strands.find? 0 = some st ∧ (s.pkg.crew 0).st = .resident ∧ Spec.Deliverable s st ∧ st.bun.rep < 32 ∧ st.bun.started = false
      ∧ (s.pkg.core 0).waits = [] := by decide +kernel

/-- Strands of a failed launch: ready, given a record, at each kind of wait, and at a barrier with a lost member and without. -/
theorem test_meets_FailedLaunch :
    ∀ c ∈ [(Run.ready, Phase.issue, false), (.starting 5, .boundary, false), (.blocked .ring, .issue, false), (.blocked (.barrier 3), .issue, true),
        (.blocked (.barrier 3), .issue, false), (.blocked .flag, .wait, false), (.blocked (.walk 5 3), .boundary, false), (.blocked (.pending [4]), .transfer, false)],
      let st : Strand := { tvec := 0x2000, run := c.1, phase := c.2.1, pend := if c.2.1 = .transfer then some (.park 0 1 (2 ^ 32)) else none, bun := { slot := 7, rep := 31 } }
      let s := (barState .cgo [0, 1] []).withPkg { (barState .cgo [0, 1] []).pkg with
        launches := [(0, { launch1 with failed := true, failCore := 5 })], strands := [(0, st), (1, { idx := 1, run := .ended, lost := true, contained := c.2.2 })] }
      s.pkg.strands.find? 0 = some st ∧ (s.pkg.launch (s.pkg.crew 0).launch).failed = true ∧ st.grace = none ∧ st.inh = false ∧ st.tvec ≠ 0
      ∧ (((s.pkg.strands.find? (96 * 0 + 1)).any (fun x => x.contained)) = c.2.2) := by decide +kernel

/-- A vector masked, and one that is not; a host whose link is down. -/
theorem test_meets_Msix :
    Spec.masked State.reset.host 7 = true ∧ Spec.masked { State.reset.host with msix := [(15, 0)] } 7 = false ∧ State.reset.host.pcieUp = false
    ∧ (hosted State.reset {}).host.pcieUp = true ∧ (hosted State.reset {}).host.ready.getLsbD 11 = true := by decide +kernel

/-- A queue at a reserved address, with an uncorrectable word, and with its granule on the move. -/
theorem test_meets_FetchStops :
    (let s := hosted State.reset { base := 0x018000000000, qlog := 1, en := true, tail := 1 }
     tierOf 0x018000000000 = 0 ∧ s.pkg.moving 0x018000000000 = false ∧ s.pkg.launches = [] ∧ (s.host.queue 8191).en = true)
    ∧ (let s := hosted State.reset { base := 0x400000030000, qlog := 1, en := true, tail := 1 }
       let s := s.withPkg { s.pkg with poison := [0x400000030008] }
       tierOf 0x400000030000 = 1 ∧ (s.pkg.poisoned (s.pkg.physKey 0x400000030000) 64).isSome = true ∧ s.pkg.moving 0x400000030000 = false)
    ∧ (let s := hosted State.reset { base := 0x10000, qlog := 1, en := true, tail := 1 }
       let s := s.withPkg { s.pkg with granules := [(1, { moving := some none })] }
       s.pkg.moving 0x10000 = true) := by decide +kernel

/-- A saved crew that is placed again; a crew with no room and one victim. -/
theorem test_meets_Placement :
    (let s := hosted State.reset {}
     let l : Launch := { queue := 8191, packet := packet 1, nextCrew := 1 }
     let c : Crew := { launch := 0, index := 0, cluster := 3, cores := [100, 101], spad := [0, 0], st := .saved true }
     let s := s.withPkg { s.pkg with launches := [(0, l)], nextLaunch := 1, crews := [(0, c)], nextCrew := 1, strands := [(0, {}), (1, { idx := 1 })] }
     s.pickQueue = some (8191, 0, some 0) ∧ (s.pkg.crew 0).launch = 0
     ∧ ((s.clusterOrder.filter s.dieReady).findSome? (fun cl => ((s.pkg.fits (s.pkg.launch 0) (some (s.pkg.crew 0)) cl).map (fun x => (cl, x))))).any
        (fun x => x.1 == 191 && x.2.length == 2) = true) := by decide +kernel

/-- An overdue crew with a YIELD issued; one whose slot is VALID; a retry whose time has not come. -/
theorem test_meets_CrewStops :
    (let s := crewState .resident 0
     let s := s.withPkg (s.pkg.setStrand 0 { pend := some (.yield true false) })
     (∃ e ∈ s.pkg.strands, e.2.crew = 0 ∧ e.2.pend = some (.yield true false)) ∧ (s.pkg.crew 0).req = true)
    ∧ (let s := crewState (.saving true) 1
       (s.pkg.crew 0).st = .saving true ∧ s.pkg.slotValid s.er 0 = true ∧ s.pkg.drained 0 = true ∧ s.pkg.crewUpset 0 = none)
    ∧ (let s := crewState (.retry true) 0
       let s := s.withPkg (s.pkg.setCrew 0 { s.pkg.crew 0 with sealed := [], resumed := 1 })
       (s.pkg.crew 0).st = .retry true ∧ s.pkg.cycs.get 0 0 < (s.pkg.crew 0).resumed + 65536) := by decide +kernel
/-! #### Clauses added for the second review -/

/-- END of a strand that has joined barrier 3, as the last member to arrive and before another. -/
theorem test_meets_EndDropsBarriers : ∀ c ∈ [[1], []],
    let k : Barrier := { mem := [0, 1], arrived := c, drops := [], phase := 0xFFFF }
    let s := endState .endTask .ready
    let s := s.withPkg (s.pkg.setCrew 0 { s.pkg.crew 0 with barriers := [(3, k)] })
    let st := ending .endTask
    s.focused st ∧ st.run = .ready ∧ st.phase = .transfer ∧ st.pend = some .endTask ∧ st.uid = s.focus ∧ s.pkg.owed st 2 = [] ∧ s.pkg.accs = []
    ∧ (∃ e ∈ s.pkg.strands, e.1 ≠ s.focus ∧ e.2.crew = st.crew ∧ e.2.run ≠ .ended) ∧ st.async = [] ∧ (s.pkg.cluster 0).rqWaits = []
    ∧ (s.pkg.crew 0).barriers.sorted ∧ (s.pkg.crew 0).barriers.find? 3 = some k ∧ st.idx ∈ k.mem ∧ s.pkg.unitWaits = []
    ∧ ((∀ i ∈ k.mem, i = 0 ∨ i ∈ k.arrived) ↔ c = [1]) := by decide +kernel

/-- The state with a load of 8 bytes in flight. -/
def loading (s : State) : State := s.withPkg { s.pkg with accs := [(7, oneAcc .load 8 .none)], nextAcc := 8 }

/-- A FENCE behind a load; a hold that is released; and an RWAIT that a range of its first byte stops. -/
theorem test_meets_FencesThatWait :
    (let i : Instr := .fence { m0 with base := 0, order := 3, scope := 0 }
     ready i (loading (world (at1 i))) (at1 i)
     ∧ ∃ e ∈ (loading (world (at1 i))).pkg.accs, e.2.strand = 0 ∧ e.2.kind = .load ∧ ∃ q ∈ e.2.parts, q.reached ≠ 7)
    ∧ (let i : Instr := .qfence { m0 with base := 0, data := 0, order := 3, offset := 1 }
       ready i (world { at1 i with grant := some .ok }) { at1 i with grant := some .ok })
    ∧ (let i : Instr := .rwait { m0 with data := 0, ix := 3 }
       let st := inWin i 0x7F0000000000 1
       let r : Range := { base := 0x7F0000000000 / 64, units := 1, mode := 2, owner := 0, launch := 0, src := 0 }
       let s := (world st).withPkg { (world st).pkg with wanted := [r] }
       ready i s st ∧ ∃ r ∈ s.pkg.ranges ++ s.pkg.wanted, r.launch = 0 ∧ r.base * 64 < (Spec.eaNoIx st { m0 with data := 0, ix := 3 }).toNat + 1
         ∧ (Spec.eaNoIx st { m0 with data := 0, ix := 3 }).toNat < (r.base + r.units) * 64) := by decide +kernel

/-- An ARQ on a SHARED core. -/
theorem test_meets_ArqShared :
    let i : Instr := .arq po
    let s := withCore (world (at1 i)) (fun k => { k with mode := .shared })
    ready i s (at1 i) ∧ (s.pkg.core 0).mode = .shared ∧ Spec.Multiplier s (at1 i) ((at1 i).bun.lits.getD (po.sub.toNat % 4) 0 % 2 ^ 10) := by
  decide +kernel

/-- An OFILL whose sixteen rows can be read, and one whose first row lies outside every region. -/
theorem test_meets_OfillElements :
    (∀ i < 16, ∃ bs, (mxState (.ofill 63 4 0x7F0000000000 32 true)).pkg.engRead (mxState (.ofill 63 4 0x7F0000000000 32 true)).er 0 0 true
        (0x7F0000000000 + 32 * BitVec.ofNat 64 i : X).toNat (2 * tyW 4) = .ok (bs, (mxState (.ofill 63 4 0x7F0000000000 32 true)).pkg))
    ∧ (∃ v, (mxState (.ofill 63 4 0x7F0000601000 32 true)).pkg.engRead (mxState (.ofill 63 4 0x7F0000601000 32 true)).er 0 0 true
        0x7F0000601000 (2 * tyW 4) = .error (0x10, v)) := by
  refine ⟨fun i hi => ?_, 0x7F0000601000, by decide +kernel⟩
  interval_cases i <;> exact ⟨_, rfl⟩

/-- Copies with a field at the first value beyond each limit; a position and an offset outside the crew; and a legal one behind a load. -/
theorem test_meets_CopyTraps :
    (∀ l ∈ [[(3, 0x1000001)], [(4, 0)], [(5, 65537)], [(11, 65537)], [(11, 1), (12, 0)], [(11, 1), (12, 4), (10, 2)], [(13, 5)], [(13, 1), (2, 3)],
        [(14, 1), (1, 0x7F0000600000)], [(15, 2 ^ 10)], [(19, 3)], [(17, 2 ^ 63)], [(16, 2 ^ 63 + 8)], [(20, 2 ^ 63 + 4)]],
      let st := shadowed .cgo l
      ready .cgo (world st) st ∧ Spec.field st.shadow 2 < 8 ∧ ¬ Spec.CopyLegal st.shadow false)
    ∧ Spec.CopyBreaks (fields [(3, 0x1000001)]) false 3 ∧ Spec.CopyBreaks (fields [(20, 2 ^ 63 + 4)]) false 20
    ∧ (∀ l ∈ [[(15, 2 * 2 ^ 5)], [(14, 4)], [(20, 2 ^ 63 + 0x4000)]],
      let st := shadowed .cgo l
      ready .cgo (world st) st ∧ Spec.CopyLegal st.shadow false ∧ ¬ Spec.CopyInside (world st).pkg 0 st.shadow)
    ∧ Spec.CopyOutside (world (at1 .cgo)).pkg 0 (fields [(15, 2 * 2 ^ 5)]) 2 ∧ Spec.CopyOutside (world (at1 .cgo)).pkg 0 (fields [(14, 4)]) 2
    ∧ (∀ i ∈ [Instr.cgo, .carm],
      let st := shadowed i (if i = .carm then [(17, 0x8000000000003FC0)] else [])
      let s := loading (world st)
      ready i s st ∧ Spec.CopyLegal st.shadow (i == .carm) ∧ Spec.CopyInside s.pkg 0 st.shadow ∧ s.pkg.owed st 6 ≠ [] ∧ s.pkg.pools = []) := by
  refine ⟨by decide +kernel, ?_, ?_, by decide +kernel, ?_, ?_, by decide +kernel⟩
  · unfold Spec.CopyBreaks; decide +kernel
  · unfold Spec.CopyBreaks; decide +kernel
  · unfold Spec.CopyOutside; decide +kernel
  · unfold Spec.CopyOutside; decide +kernel

/-- A copy's strand: destination, source and number of bytes. -/
def cpyAt (i : Instr) (d v n : Nat) : Strand := withX i [(1, BitVec.ofNat 64 d), (2, BitVec.ofNat 64 v), (3, BitVec.ofNat 64 n)]

/-- A copy of one byte too many; sources and destinations where one byte stops; an FCORE beyond the crew; and a copy behind a load. -/
theorem test_meets_CopyOfBytesTraps :
    (∀ e ∈ ([(0x7F0000000000, 0x7F0000000000, 0x1000001), (0x7F0000000000, 0x7F0000601000, 1), (0x7F0000000000, 0x7F0000600248, 1),
        (0x7F0000000000, 0x7F0000004000, 1), (0x7F0000000000, 0x7EFFFFFFFFFF, 1), (0x7F0000601000, 0x7F0000000000, 1),
        (0x7F0000600248, 0x7F0000000000, 1), (0x7F0000004000, 0x7F0000000000, 1), (0x7EFFFFFFFFFF, 0x7F0000000000, 1),
        (0x7F0000000000, 0x7F0000000000, 1)] : List (Nat × Nat × Nat)),
      let i : Instr := .cpy ⟨1, 2, 3, 1, 31, 2, 0xFFFF⟩
      ready i (world (cpyAt i e.1 e.2.1 e.2.2)) (cpyAt i e.1 e.2.1 e.2.2))
    ∧ (let i : Instr := .cpy ⟨1, 2, 3, 0, 0, 0, 0⟩
       let st := cpyAt i 0x7F0000000000 0x7F0000000000 1
       ready i (loading (world st)) st ∧ (loading (world st)).pkg.owed st 6 ≠ [] ∧ (loading (world st)).pkg.pools = []) := by decide +kernel

/-- The byte that both copies read and write is the crew's. -/
theorem test_meets_CopyOfBytesReach (st : Strand) (hc : st.crew = 0) (k : AccKind) :
    Spec.Reach (world st) st k 0x7F0000000000 1 ∧ Spec.Reach (loading (world st)) st k 0x7F0000000000 1 := by
  constructor
  · exact window_any _ _ (by rw [hc]; exact launch_world st) rfl _ _ 0 0 1 rfl (by decide) (by decide)
  · refine window_any _ _ ?_ rfl _ _ 0 0 1 rfl (by decide) (by decide)
    rw [hc]; exact launch_world st

/-- The engine at the last element of a command whose galley word at byte 0x3000 then reaches its TARGET: with one destination, at the first of
two, and at the last of one with a census block; and a command that has left its table already. -/
theorem test_meets_CopyGeneration :
    (∀ c ∈ [([(3, 1), (16, 0x8000000000003000), (20, 0x8000000000003800)], 0), ([(3, 1), (14, 3), (16, 0x8000000000003000)], 0)],
      let m := fields c.1
      let s := copyState 0 c.1 []
      let s := s.withPkg ((s.pkg.write (spadKey 0 0x3000) (Spec.bytes 4 1)).write (spadKey 1 0x3000) (Spec.bytes 4 1))
      Spec.field m 11 = 0 ∧ Spec.total m ≤ 1 ∧ ((s.pkg.core 0).copyRun.map (fun r => r.late)) = some [] ∧ Spec.offset m 16 = some 0x3000
      ∧ Spec.Clean s.pkg 0 (Spec.source m [] 0) 1 ∧ Spec.Clean s.pkg 0 (Spec.destOf m 0 0) 1
      ∧ Spec.Galley s.pkg (Spec.offAt s.pkg 0 0x3000) ∧ s.pkg.num (Spec.offAt s.pkg 0 0x3000) 4 = 1 ∧ s.pkg.num (Spec.offAt s.pkg 0 0x3004) 4 = 0
      ∧ (Spec.castTo m).length ≠ 1)
    ∧ (let s := withCore (world {}) (fun k => { k with copyRun := some { cmd := cmdOf 5 [(3, 1)], done := 1, merged := true } })
       Spec.total (fields [(3, 1)]) ≤ 1 ∧ ((s.pkg.core 0).copyRun.map (fun r => r.merged)) = some true ∧ Spec.offset (fields [(3, 1)]) 18 = none) := by
  decide +kernel

/-- TTASK and TDEP behind an access. -/
theorem test_meets_FormesWait : ∀ i ∈ [Instr.ttask ⟨2, 0⟩, .tdep ⟨2, 0⟩],
    let st := inWin i 0x7F0000000000 0
    let s := loading ((world st).withPkg ((world st).pkg.setCore 1 { mode := .shared }))
    ready i s st ∧ (s.pkg.core 1).mode = .shared ∧ 1 ∈ (s.pkg.crew 0).cores ∧ Spec.inWindow s st 0x7F0000000000 64 ∧ s.pkg.owed st 2 ≠ []
    ∧ s.pkg.pools = [] := by decide +kernel

set_option synthInstance.maxSize 1024 in
/-- A COLL behind a join of every queue on a decrement that is pending. -/
theorem test_meets_CollBehindAJoin :
    let i : Instr := .coll ⟨2, 0⟩
    let st := inWin i 0x7F0000000000 0
    let s := pod ((world st).withPkg ((world st).pkg.write (spadKey 0 0) (reduceBlock 2048 1)))
    let s := s.withPkg { s.pkg with joins := [{ num := 2, strand := 0, mask := 31 }], nextNum := 5, decs := [{ tok := 0, strand := 0, crew := 0, off := 0 }] }
    ready i s st ∧ Spec.Clean s.pkg st.crew 0x7F0000000000 128 ∧ s.pkg.held 0 3 5 = true ∧ s.pkg.owed st 6 = [] := by decide +kernel

/-- Every pool form behind an access. -/
theorem test_meets_PoolFormsWait :
    ∀ i ∈ [Instr.poolpushReg ⟨0, 2, 3⟩, .poolpushMem ⟨1, 2, 3⟩, .poolpopReg ⟨1, 2, 0, 0xFFFF⟩, .poolpopwReg ⟨1, 2, 31, 0⟩, .poolpopMem ⟨1, 2, 3, 1⟩,
        .poolpopwMem ⟨0, 2, 3, 1⟩, .poolfence ⟨2⟩, .spawnp ⟨1, 2, 7, 0x0001FFFE⟩, .steal ⟨31, 2⟩],
      let st := poolAt i
      let s := loading (poolWorld i 3 16)
      ready i s st ∧ Spec.Waits s st 6 ∧ (st.getX 2).toNat = 0x7F0000000000 ∧ (st.getX 1).toNat % 4 = 0 ∧ st.grant = none := by decide +kernel

/-- Thirty-two operations outstanding at a POOLINIT and at a POOLFENCE; a POOLINIT behind an access. -/
theorem test_meets_PoolRoom :
    (∀ i ∈ [Instr.poolinit ⟨2, 1, 3, 4⟩, .poolfence ⟨2⟩],
      let st := { poolAt i with x := [(1, BitVec.ofNat 64 (poolWord 8)), (2, 0x7F0000000000), (3, 0x7F0000001000), (4, 0x7F0000003000)] }
      let op (n : Nat) : PoolOp := { num := n, kind := .push, strand := 0, crew := 0, core := 0, sn := 0, desc := 0, home := 0, params := 0 }
      let s := (world st).withPkg ((world st).pkg.write (spadKey 0 0) (poolBytes 8 0))
      let s := s.withPkg { s.pkg with pools := (List.range 32).map (fun n => (n, op n)) }
      ready i s st ∧ 32 ≤ poolUsed s.pkg 0 ∧ Spec.PoolNext s st 0x7F0000000000)
    ∧ (let i : Instr := .poolinit ⟨2, 1, 3, 4⟩
       let st := { poolAt i with x := [(1, BitVec.ofNat 64 (poolWord 8)), (2, 0x7F0000000000), (3, 0x7F0000001000), (4, 0x7F0000003000)] }
       ready i (loading (world st)) st ∧ Spec.Waits (loading (world st)) st 6 ∧ Spec.PoolLegal (poolWord 8)) := by decide +kernel

/-- The answers of a STEAL: a record that runs, with a slot free and with none, and one of depth 33. -/
theorem test_meets_StealAnswers :
    ∀ c ∈ [(32, []), (32, [(0, heldSlot), (544, heldSlot)]), (33, [])],
      let st : Strand := { run := .blocked (.answer 4) }
      let elem := Spec.bytes 8 0x4000 ++ Spec.bytes 4 0x80000002 ++ [c.1, 0, 0x82, 0] ++ List.replicate 240 0
      let op := { poolOp 4 .pop with params := poolWord 8, elem := [], steal := true, xd := 1, answer := some (0, elem) }
      let s := withRq (world st) c.2
      let s := s.withPkg { s.pkg with pools := [(4, op)] }
      s.pkg.pools.find? 4 = some op ∧ s.pkg.strands.find? 0 = some st ∧ (s.pkg.crew 0).st = .resident ∧ op.joined = false ∧ op.answer = some (0, elem)
      ∧ elem.length = 256 ∧ (s.pkg.takeSlot 0 0 32 = none ↔ c.2 ≠ []) ∧ (ofBytes ((elem.drop 12).take 1) ≤ 32 ↔ c.1 = 32) := by decide +kernel

/-- SPAWN and CTXSAVE behind an access, CTXSAVE with a register still to arrive, and a NOTE behind an access. -/
theorem test_meets_TasksWait :
    (let i : Instr := .spawn ⟨1, 0⟩
     let st := withX i [(1, 0x4000)]
     ready i (loading (world st)) st ∧ Spec.Waits (loading (world st)) st 2 ∧ st.grant = none)
    ∧ (let i : Instr := .ctxsave ⟨2⟩
       let st := inWin i 0x7F0000000000 0
       ready i (loading (world st)) st ∧ Spec.Waits (loading (world st)) st 6 ∧ st.unarrived = []
       ∧ st.upsetIn 0 (world st).pkg.poison (fun u => st.vused (64 * u)) true = false
       ∧ ({ st with xpend := [(31, 7)] } : Strand).unarrived ≠ [])
    ∧ (let i : Instr := .note ⟨31, 0⟩
       ready i (loading (world (at1 i))) (at1 i) ∧ (loading (world (at1 i))).pkg.owed (at1 i) 6 ≠ []) := by decide +kernel

/-- A record to read or to write a page of whose slot is on the move; and one to write none of which is. -/
theorem test_meets_SlotOnTheMove :
    let s := crewState .restoring 1
    let s := s.withPkg { s.pkg with granules := [(0x40000020, { moving := some none })] }
    (s.pkg.crew 0).st = .restoring ∧ s.pkg.slotBusy s.er 0 ((s.pkg.launch (s.pkg.crew 0).launch).recSize / 65536) 0 = true := by decide +kernel

/-- A collective whose port has lost its link, and one of another port. -/
theorem test_meets_PortLost :
    let c := reduce 2048 1 0 0 []
    let s := collState c []
    s.pkg.colls = [c] ∧ 14 ∈ (s.box c.comm).ports ∧ 16 ∉ (s.box c.comm).ports ∧ s.host.ready.getLsbD 14 = true ∧ s.host.ready.getLsbD 16 = true
    ∧ (s.pkg.strands.find? c.strand).isSome = true := by decide +kernel
end Sys2Proof.Tests
end

section
/-! SUPPORT. Further laws of the sparse tables, of byte strings and of memory, and what an engine reads and writes in a crew's window. -/

namespace Sys2Proof.Machine

/-! ### Sparse tables -/

theorem RMap.find?_put {α : Type} (m : RMap α) (k j : Nat) (v : α) :
    (m.put k v).find? j = if j = k then some v else m.find? j := by
  by_cases h : j = k
  · rw [if_pos h, h, RMap.find?_put_same]
  · rw [if_neg h, RMap.find?_put_ne _ _ _ _ h]

theorem RMap.find?_mapVals {α : Type} (m : RMap α) (f : α → α) (k : Nat) : (m.mapVals f).find? k = (m.find? k).map f := by
  induction m with
  | nil => rfl
  | cons e m ih =>
    by_cases h : k = e.1
    · simp [mapVals, find?, h]
    · simpa [mapVals, find?, h] using ih

theorem RMap.mem_of_find? {α : Type} {m : RMap α} {k : Nat} {v : α} (h : m.find? k = some v) : (k, v) ∈ m := by
  induction m with
  | nil => simp [find?] at h
  | cons e m ih =>
    by_cases hk : k = e.1
    · simp only [find?, hk, if_true, Option.some.injEq] at h
      simp [hk, ← h]
    · rw [find?, if_neg hk] at h
      exact List.mem_cons_of_mem _ (ih h)

theorem RMap.find?_of_mem {α : Type} {m : RMap α} {k : Nat} {v : α} (hs : m.sorted) (h : (k, v) ∈ m) : m.find? k = some v := by
  induction m with
  | nil => simp at h
  | cons e m ih =>
    obtain ⟨hlt, hs⟩ := List.pairwise_cons.mp hs
    rcases List.mem_cons.mp h with rfl | h
    · simp [find?]
    · have : e.1 < k := hlt _ h
      rw [find?, if_neg (by omega), ih hs h]

theorem RMap.mem_vals {α : Type} {m : RMap α} {v : α} : v ∈ m.vals ↔ ∃ k, (k, v) ∈ m := by
  simp [vals]

/-! ### Bytes of a word -/

@[simp] theorem toBytes_length (n v : Nat) : (toBytes n v).length = n := by
  induction n generalizing v with
  | zero => rfl
  | succ n ih => simp [toBytes, ih]

theorem ofBytes_lt (l : List Byte) : ofBytes l < 256 ^ l.length := by
  induction l with
  | nil => simp [ofBytes]
  | cons b l ih =>
    have := b.isLt
    simp only [ofBytes, List.length_cons, Nat.pow_succ]
    omega

theorem ofBytes_toBytes (n v : Nat) : ofBytes (toBytes n v) = v % 256 ^ n := by
  induction n generalizing v with
  | zero => simp [toBytes, ofBytes, Nat.mod_one]
  | succ n ih =>
    rw [toBytes, ofBytes, ih, Nat.pow_succ', Nat.mod_mul]
    simp

/-- The bytes of the statements are those of the model. -/
theorem bytes_eq_toBytes (n v : Nat) : Spec.bytes n v = toBytes n v := by
  induction n generalizing v with
  | zero => rfl
  | succ n ih =>
    rw [toBytes, ← ih, Spec.bytes, List.range_succ_eq_map, List.map_cons, List.map_map]
    simp only [Nat.mul_zero, Nat.pow_zero, Nat.div_one, Spec.bytes, List.cons.injEq, true_and]
    refine List.map_congr_left fun j _ => ?_
    simp only [Function.comp_apply, Nat.div_div_eq_div_mul]
    rw [show 2 ^ (8 * j.succ) = 256 * 2 ^ (8 * j) by rw [Nat.mul_succ, Nat.pow_add]; ring]

/-! ### Memory -/

@[simp] theorem Pkg.bytes_length (p : Pkg) (k n : Nat) : (p.bytes k n).length = n := by simp [bytes]

theorem Pkg.num_lt (p : Pkg) (k n : Nat) : p.num k n < 256 ^ n := by
  simpa [num] using ofBytes_lt (p.bytes k n)

/-- Reads of equal bytes are equal. -/
theorem Pkg.bytes_congr {p q : Pkg} {k n : Nat} (h : ∀ x, k ≤ x → x < k + n → p.byte x = q.byte x) : p.bytes k n = q.bytes k n :=
  List.map_congr_left fun i hi => h _ (by omega) (by have := List.mem_range.1 hi; omega)

theorem Pkg.num_congr {p q : Pkg} {k n : Nat} (h : ∀ x, k ≤ x → x < k + n → p.byte x = q.byte x) : p.num k n = q.num k n := by
  rw [num, num, bytes_congr h]

theorem Pkg.byte_of_mem {p q : Pkg} (h : p.mem = q.mem) (k : Nat) : p.byte k = q.byte k := by rw [byte, byte, h]

theorem Pkg.bytes_append (p : Pkg) (k a b : Nat) : p.bytes k a ++ p.bytes (k + a) b = p.bytes k (a + b) := by
  simp only [bytes, List.range_add, List.map_append, List.map_map]
  simp [Function.comp_def, Nat.add_assoc]

theorem Pkg.bytes_write_same (p : Pkg) (k : Nat) (bs : List Byte) : (p.write k bs).bytes k bs.length = bs := by
  refine List.ext_getElem (by simp) fun i _ h => ?_
  simp only [bytes, List.getElem_map, List.getElem_range]
  rw [byte_write_in p k bs i h]
  simp [h]

theorem Pkg.num_write_same (p : Pkg) (k n v : Nat) : (p.write k (toBytes n v)).num k n = v % 256 ^ n := by
  have h := p.bytes_write_same k (toBytes n v)
  rw [toBytes_length] at h
  rw [num, h, ofBytes_toBytes]

theorem Pkg.num_write_apart (p : Pkg) (k : Nat) (bs : List Byte) (a n : Nat) (h : a + n ≤ k ∨ k + bs.length ≤ a) :
    (p.write k bs).num a n = p.num a n :=
  num_congr fun x _ _ => byte_write_out p k bs x (by omega)

theorem memWrite_append (m : RMap Byte) (k : Nat) (a b : List Byte) :
    memWrite m k (a ++ b) = memWrite (memWrite m k a) (k + a.length) b := by
  induction a generalizing m k with
  | nil => rfl
  | cons x a ih =>
    rw [List.cons_append, memWrite, ih, memWrite, List.length_cons, Nat.add_assoc, Nat.add_comm 1]

/-! ### Counters of a descriptor -/

theorem Pkg.num_bump_same (p : Pkg) (k : Nat) : (p.bump k).num k 4 = (p.num k 4 + 1) % 2 ^ 32 := p.num_write_same k 4 _

theorem Pkg.byte_bump_out (p : Pkg) (k x : Nat) (h : ¬(k ≤ x ∧ x < k + 4)) : (p.bump k).byte x = p.byte x :=
  byte_write_out p k _ x (by rwa [toBytes_length])

theorem Pkg.num_bump_apart (p : Pkg) (k a n : Nat) (h : a + n ≤ k ∨ k + 4 ≤ a) : (p.bump k).num a n = p.num a n :=
  num_congr fun x _ _ => byte_bump_out p k x (by omega)

/-! ### What an engine reads and writes in a window -/

/-- The key of a window address of crew cu. -/
def winAt (p : Pkg) (cu va : Nat) : Nat := Spec.offAt p cu (va - 0x7F0000000000)

theorem winAt_ge (p : Pkg) (cu va : Nat) : 2 ^ 48 ≤ winAt p cu va := by unfold winAt Spec.offAt; omega

theorem Pkg.hits_eq_nil {p : Pkg} (h : ∀ e ∈ p.accs, e.2.kind ≠ .store) (sel : Part → Bool) : p.hits sel = [] := by
  unfold hits
  rw [List.flatMap_eq_nil_iff]
  intro e he
  rw [if_neg (h e he)]

/-- With no store in flight every agent reads memory itself. -/
theorem Pkg.engByte_settled {p : Pkg} (h : Spec.Settled p) (c k : Nat) : p.engByte c k = p.byte (p.physKey k) := by
  simp [engByte, seenByte, hits_eq_nil h.1]

/-- Scratchpad bytes lie where their keys say. -/
theorem Pkg.physKey_settled {p : Pkg} (h : Spec.Settled p) {k : Nat} (hk : 2 ^ 48 ≤ k) : p.physKey k = k := by
  unfold physKey
  cases hf : p.granules.find? (k / 65536) with
  | none => rfl
  | some g =>
    have : k / 65536 < 2 ^ 32 := h.2 _ (RMap.mem_of_find? hf)
    omega

/-- A write over what an agent sees is a write of memory when no store is in flight. -/
theorem Pkg.writeOver_of_settled {p : Pkg} (h : Spec.Settled p) (see : Acc → Part → Bool) (k : Nat) (bs : List Byte) :
    p.writeOver see k bs = p.write (p.physKey k) bs := by
  have ha : p.accs.mapVals (fun a => if a.kind = .store then
      { a with parts := a.parts.map fun q => if q.reached < 7 && see a q && q.meets k bs.length then q.overlay k bs else q } else a) = p.accs := by
    refine (List.map_congr_left fun e he => ?_).trans (List.map_id _)
    dsimp only
    rw [if_neg (h.1 e he)]
    rfl
  unfold writeOver
  simp only [ha]
  rfl

theorem Pkg.poisoned_part {p : Pkg} {k n a m : Nat} (h : p.poisoned k n = none) (ha : k ≤ a) (hm : a + m ≤ k + n) : p.poisoned a m = none := by
  simp only [poisoned, List.min?_eq_none_iff, List.filter_eq_nil_iff] at h ⊢
  intro q hq
  have := h q hq
  simp only [Bool.and_eq_true, decide_eq_true_eq] at this ⊢
  omega

theorem Pkg.partlyHit_of_poisoned {p : Pkg} {k n : Nat} (h : p.poisoned k n = none) : p.partlyHit k n = none := by
  simp only [poisoned, partlyHit, List.min?_eq_none_iff, List.filter_eq_nil_iff] at h ⊢
  intro q hq hb
  rw [Bool.and_eq_true] at hb
  exact h q hq hb.1

/-- The parts of a run of bytes, one after the other, are the run: what holds at its start, and goes on over each part, holds at its
end. -/
theorem framesFrom_foldl {σ : Type} (g : σ → Nat × Nat → σ) (P : Nat → σ → Prop) {f va n : Nat} {x : σ} (hf : n = 0 ∨ va % 65536 + n ≤ 65536 * f)
    (hx : P va x) (hg : ∀ y a m, 0 < m → va ≤ a → a + m ≤ va + n → P a y → P (a + m) (g y (a, m))) :
    P (va + n) ((framesFrom f va n).foldl g x) := by
  induction f generalizing va n x with
  | zero =>
    have : n = 0 := by omega
    simpa [framesFrom, this] using hx
  | succ f ih =>
    unfold framesFrom
    by_cases hn : n = 0
    · simpa [hn] using hx
    · rw [if_neg hn]
      obtain ⟨m, hm⟩ : ∃ m, m = min n (65536 - va % 65536) := ⟨_, rfl⟩
      simp only [← hm, List.foldl_cons]
      have hmn : m ≤ n ∧ 0 < m ∧ (n - m = 0 ∨ (va + m) % 65536 + (n - m) ≤ 65536 * f) := by
        rcases Nat.le_total n (65536 - va % 65536) with hle | hle
        · rw [Nat.min_eq_left hle] at hm; omega
        · rw [Nat.min_eq_right hle] at hm; omega
      have h := ih hmn.2.2 (hg x va m hmn.2.1 (Nat.le_refl _) (by omega) hx) (fun y a k h0 h1 h2 => hg y a k h0 (by omega) (by omega))
      rwa [Nat.add_assoc, Nat.add_sub_cancel' hmn.1] at h

theorem pageParts_foldl {σ : Type} (g : σ → Nat × Nat → σ) (P : Nat → σ → Prop) {va n : Nat} {x : σ}
    (hx : P va x) (hg : ∀ y a m, 0 < m → va ≤ a → a + m ≤ va + n → P a y → P (a + m) (g y (a, m))) :
    P (va + n) ((pageParts va n).foldl g x) :=
  framesFrom_foldl g P (by omega) hx hg

/-- The key of a part of a clean run, as an engine finds it. -/
theorem Pkg.engKey_run {p : Pkg} {cu va n : Nat} (h : Spec.CleanRun p cu va n) (er c : Nat) (sup : Bool) {a m : Nat} (acc : Nat)
    (skip : Option Nat) (h0 : 0 < m) (ha : va ≤ a) (hm : a + m ≤ va + n) :
    p.engKey er c cu sup a m acc skip = .ok (winAt p cu va + (a - va), p) := by
  obtain ⟨h1, h2, ⟨h3, h4⟩, h5, -, -⟩ := h
  have hj : (a - 0x7F0000000000) / 2 ^ 18 = (va - 0x7F0000000000) / 2 ^ 18 := by omega
  have ho : (a - 0x7F0000000000) % 2 ^ 18 = (va - 0x7F0000000000) % 2 ^ 18 + (a - va) := by omega
  have hl : locOf a = .window ((va - 0x7F0000000000) / 2 ^ 18) ((va - 0x7F0000000000) % 2 ^ 18 + (a - va)) := by
    unfold locOf windowBase noticeBase
    rw [if_neg (by omega), if_pos (by omega), hj, ho]
  have hw : p.inWin cu ((va - 0x7F0000000000) / 2 ^ 18) ((va - 0x7F0000000000) % 2 ^ 18 + (a - va)) m = true := by
    simp only [inWin, Bool.and_eq_true, decide_eq_true_eq]
    exact ⟨h3, by omega⟩
  unfold engKey
  rw [hl]
  dsimp only
  rw [if_pos hw]
  simp only [Crew.winKey, spadKey, winAt, Spec.offAt, Except.ok.injEq, Prod.mk.injEq, and_true]
  omega

theorem Pkg.settled_of_run {p : Pkg} {cu va n : Nat} (h : Spec.CleanRun p cu va n) : Spec.Settled p := by
  obtain ⟨-, -, -, -, -, hs⟩ := h
  exact hs

/-- A part of a clean run: its key is its place, and it holds no error. -/
theorem Pkg.part_of_run {p : Pkg} {cu va n : Nat} (h : Spec.CleanRun p cu va n) {a m : Nat} (ha : va ≤ a) (hm : a + m ≤ va + n) :
    (∀ i, p.physKey (winAt p cu va + i) = winAt p cu va + i)
    ∧ p.poisoned (winAt p cu va + (a - va)) m = none := by
  obtain ⟨-, -, -, -, hp, hs⟩ := h
  change p.poisoned (winAt p cu va) n = none at hp
  exact ⟨fun i => physKey_settled hs (by have := winAt_ge p cu va; omega), poisoned_part hp (by omega) (by omega)⟩

/-- An engine reads a clean run as it stands in memory. -/
theorem Pkg.engRead_run {p : Pkg} {cu va n : Nat} (h : Spec.CleanRun p cu va n) (er c : Nat) (sup : Bool) (skip : Option Nat := none) :
    p.engRead er c cu sup va n skip = .ok (p.bytes (winAt p cu va) n, p) := by
  suffices hn : p.engRead er c cu sup va n skip = .ok (p.bytes (winAt p cu va) (va + n - va), p) by
    rwa [Nat.add_sub_cancel_left] at hn
  refine pageParts_foldl _ (fun a (r : Except (Nat × Nat) (List Byte × Pkg)) => r = .ok (p.bytes (winAt p cu va) (a - va), p)) (by simp [bytes]) ?_
  rintro y a m h0 ha hm rfl
  obtain ⟨hphys, hq⟩ := part_of_run h ha hm
  simp only [engKey_run h er c sup 0 skip h0 ha hm, hphys, hq, engByte_settled (settled_of_run h), Nat.add_assoc]
  rw [show a + m - va = a - va + m by omega, ← bytes_append]
  simp only [bytes, Nat.add_assoc]

/-- Package q is p after an agent other than a strand has written bytes bs at key k: nothing else that a pool speaks of has changed. -/
def Pkg.Wrote (p q : Pkg) (k : Nat) (bs : List Byte) : Prop :=
  q.mem = (p.write k bs).mem ∧ q = { p with mem := q.mem, poison := q.poison, early := q.early, codeLog := q.codeLog }

theorem Pkg.Wrote.settled {p q : Pkg} {k : Nat} {bs : List Byte} (h : p.Wrote q k bs) (hs : Spec.Settled p) : Spec.Settled q := by
  rw [h.2]; exact hs

theorem Pkg.Wrote.trans {p q r : Pkg} {k : Nat} {a b : List Byte} (h : p.Wrote q k a) (h' : q.Wrote r (k + a.length) b) : p.Wrote r k (a ++ b) := by
  obtain ⟨hm, hq⟩ := h
  obtain ⟨hm', hr⟩ := h'
  refine ⟨?_, ?_⟩
  · rw [hm', write_mem, hm, write_mem, write_mem, memWrite_append]
  · rw [hq] at hr
    exact hr

theorem Pkg.agentWrite_wrote {p : Pkg} (h : Spec.Settled p) (c k : Nat) (see : Acc → Part → Bool) (bs : List Byte) (hk : 2 ^ 48 ≤ k) :
    p.Wrote (p.agentWrite c see k bs) k bs := by
  have hs : Spec.Settled (p.logCode none c [] k bs.length) := h
  unfold agentWrite
  rw [writeOver_of_settled hs, physKey_settled hs hk]
  exact ⟨rfl, rfl⟩

/-- What an engine's write of a run has collected up to address a: parts that, once written, write the beginning of the run. -/
def Pkg.Collected (p : Pkg) (c cu va : Nat) (bs : List Byte) (a : Nat) (r : Except (Nat × Nat) (List (Nat × Nat × Nat) × Pkg)) : Prop :=
  ∃ ks, r = .ok (ks, p)
    ∧ p.Wrote (ks.foldl (fun p k => p.agentWrite c (fun a q => common a.core c < q.reached) k.1 ((bs.drop k.2.1).take k.2.2)) p)
        (winAt p cu va) (bs.take (a - va))

theorem Pkg.Collected.write_part {p : Pkg} {c cu va : Nat} {bs : List Byte} {a m : Nat} {ks : List (Nat × Nat × Nat)}
    (h : p.Collected c cu va bs a (.ok (ks, p))) (hs : Spec.Settled p) (hm : a + m ≤ va + bs.length) (ha : va ≤ a) :
    p.Collected c cu va bs (a + m) (.ok (ks ++ [(winAt p cu va + (a - va), a - va, m)], p)) := by
  obtain ⟨_, hks, hw⟩ := h
  cases hks
  refine ⟨_, rfl, ?_⟩
  rw [List.foldl_append, List.foldl_cons, List.foldl_nil, show a + m - va = a - va + m by omega, List.take_add]
  have hlen : (bs.take (a - va)).length = a - va := by rw [List.length_take]; omega
  refine hw.trans ?_
  rw [hlen]
  exact agentWrite_wrote (hw.settled hs) _ _ _ _ (by have := winAt_ge p cu va; omega)

/-- An engine writes a clean run. -/
theorem Pkg.engWrite_run {p : Pkg} {cu va : Nat} {bs : List Byte} (h : Spec.CleanRun p cu va bs.length) (er c : Nat) (sup : Bool)
    (skip : Option Nat := none) :
    ∃ q, p.engWrite er c cu sup va bs skip = .ok q ∧ p.Wrote q (winAt p cu va) bs := by
  unfold engWrite
  dsimp only
  generalize hr : List.foldl _ (Except.ok ([], p)) (pageParts va bs.length) = r
  have hc : p.Collected c cu va bs (va + bs.length) r := by
    rw [← hr]
    refine pageParts_foldl _ (p.Collected c cu va bs) ⟨[], rfl, by simp [Wrote, write, memWrite]⟩ fun y a m h0 ha hm hy => ?_
    obtain ⟨ks, rfl, -⟩ := id hy
    obtain ⟨hphys, hq⟩ := part_of_run h ha hm
    simp only [engKey_run h er c sup 1 skip h0 ha hm, hphys, partlyHit_of_poisoned hq]
    exact hy.write_part (settled_of_run h) hm ha
  obtain ⟨ks, rfl, hw⟩ := hc
  rw [Nat.add_sub_cancel_left, List.take_length] at hw
  exact ⟨_, rfl, hw⟩

/-- A run within one unit of 64 KiB is a run. -/
theorem Pkg.run_of_clean {p : Pkg} {cu va n : Nat} (h : Spec.Clean p cu va n) : Spec.CleanRun p cu va n := by
  obtain ⟨h1, h2, h3, h4, h5, h6⟩ := h
  exact ⟨h1, h2, h3, by omega, h5, h6⟩

end Sys2Proof.Machine
end

section
/-! SUPPORT. Pool operations on their way (R125, R126, R167, R168): when one may move, what leaves its core, and what a switch makes of an
arrival. -/

namespace Sys2Proof.Machine

theorem poolElog_eq (w : Nat) : poolElog w = Spec.elog w := rfl

/-! ### The table of operations -/

theorem Pkg.find?_setOp (p : Pkg) (op : PoolOp) (m : Nat) :
    (p.setOp op).pools.find? m = if m = op.num then some op else p.pools.find? m := RMap.find?_put _ _ _ _

/-- Package q lists the operations that p lists, but for those numbered in l. -/
def Pkg.KeepsOps (p q : Pkg) (l : List Nat) : Prop := ∀ m, m ∉ l → q.pools.find? m = p.pools.find? m

theorem Pkg.keepsOps_setOp {p q : Pkg} {op : PoolOp} {n : Nat} (hn : op.num = n) (h : q.pools = p.pools) : p.KeepsOps (q.setOp op) [n] := by
  intro m hm
  rw [find?_setOp, if_neg (by simpa [hn] using hm), h]

theorem Pkg.find?_setOp_same (p : Pkg) (op : PoolOp) : (p.setOp op).pools.find? op.num = some op := by
  rw [find?_setOp, if_pos rfl]

/-! ### Moving and leaving -/

theorem PoolOp.moving_of_travels {p : Pkg} {op : PoolOp} (h : Spec.Travels p op) : op.moving p = true := by
  obtain ⟨hk, ha, hj, hh, hs, -⟩ := h
  rcases hs with hs | hs <;> simp [moving, hk, ha, hj, hh, hs]

theorem PoolOp.inOrder_of_travels {p : Pkg} {op : PoolOp} (h : Spec.Travels p op) : op.inOrder p = true := by
  obtain ⟨-, -, -, -, -, ho⟩ := h
  unfold inOrder
  rw [List.all_eq_true]
  intro e he
  by_cases hp : e.2.pending = true ∧ e.2.num < op.num
  · obtain ⟨hp, hn⟩ := hp
    simp only [pending, Bool.and_eq_true, bne_iff_ne, ne_eq, Option.isNone_iff_eq_none, Bool.not_eq_true'] at hp
    obtain ⟨⟨⟨hk, ha⟩, hj⟩, hr⟩ := hp
    obtain ⟨hs, hc⟩ := ho e he hn hk ha hj hr
    simp only [beq_false_of_ne hs, Bool.false_or, Bool.not_eq_true', Bool.and_eq_false_iff, beq_eq_false_iff_ne, Bool.not_eq_false']
    tauto
  · simp only [not_and_or, Bool.not_eq_true] at hp
    rcases hp with hp | hp <;> simp [hp]

/-- An operation that has left its core differs from what it was in that, and in the element that a push has read. -/
theorem PoolOp.of_departs {p : Pkg} {op op' : PoolOp} (h : Spec.Departs p op op') :
    (∃ e, op' = { op with sent := true, elem := e }) ∧ (op.kind ≠ .push → op' = { op with sent := true }) := by
  obtain ⟨hread, helse⟩ := h
  refine ⟨?_, fun hk => helse (.inr (.inl hk))⟩
  by_cases hc : op.mem = none ∨ op.kind ≠ .push ∨ op.elem ≠ []
  · exact ⟨op.elem, helse hc⟩
  · simp only [not_or, not_not] at hc
    obtain ⟨hm, hk, he⟩ := hc
    obtain ⟨va, hva⟩ := Option.ne_none_iff_exists'.mp hm
    exact ⟨_, (hread va hva hk he).2⟩

theorem depart_of_departs {p : Pkg} {op op' : PoolOp} (h : Spec.Departs p op op') (er : Nat) : depart er p op = .ok p op' := by
  obtain ⟨hread, helse⟩ := h
  unfold depart
  cases hm : op.mem with
  | none => simp only [hm, helse (.inl hm)]
  | some va =>
    by_cases hc : op.kind ≠ .push ∨ op.elem ≠ []
    · simp only [hm, if_pos hc, helse (.inr hc)]
    · have hc' := hc
      simp only [not_or, not_not] at hc'
      obtain ⟨hrun, rfl⟩ := hread va hm hc'.1 hc'.2
      simp only [hm, if_neg hc, poolElog_eq, Pkg.engRead_run hrun, winAt]

/-! ### Arrival at a switch (R167) -/

theorem inPort_eq (a b : Nat) : inPort a b = Spec.inPort a b := by
  unfold inPort Spec.inPort
  have : (a % 24 = (b % 24 + 23) % 24) = (b % 24 = (a % 24 + 1) % 24) := by
    rw [eq_iff_iff]; omega
  simp only [this]

/-- The input port by which an operation from switch sw arrives at the next switch of its path, if there is one. -/
def portAfter (sw port : Nat) : List Nat → Nat
  | b :: _ => Spec.inPort sw b
  | [] => port

/-- An operation goes on from switch sw along the rest of its path. -/
theorem PoolOp.forward_eq {op : PoolOp} {sw : Nat} {rest : List Nat} (h : op.path = sw :: rest) :
    op.forward = { op with held := false, path := rest, port := portAfter sw op.port rest } := by
  unfold forward
  rw [h]
  cases rest with
  | nil => rfl
  | cons b rest => simp only [inPort_eq, portAfter]

/-- The arrival at switch sw by a port is noted. -/
def Pkg.atPort (p : Pkg) (sw port : Nat) : Pkg := { p with swPorts := RMap.put p.swPorts sw (p.swcyc, port) }

/-- The held operations at a switch that op may pair with. -/
def Pkg.mates (p : Pkg) (sw : Nat) (op : PoolOp) : List PoolOp :=
  (p.heldAt sw).filter (fun o => o.home == op.home && (o.kind == .push) != (op.kind == .push))

theorem Pkg.mem_heldAt {p : Pkg} {sw : Nat} {o : PoolOp} :
    o ∈ p.heldAt sw ↔ (∃ m, (m, o) ∈ p.pools) ∧ o.held = true ∧ p.swcyc < o.till ∧ o.path.head? = some sw := by
  simp [heldAt, RMap.mem_vals, and_assoc]

theorem Pkg.mem_mates {p : Pkg} {sw : Nat} {op o : PoolOp} :
    o ∈ p.mates sw op ↔ ((∃ m, (m, o) ∈ p.pools) ∧ o.held = true ∧ p.swcyc < o.till ∧ o.path.head? = some sw)
      ∧ o.home = op.home ∧ (o.kind = .push ↔ op.kind ≠ .push) := by
  rw [mates, List.mem_filter, mem_heldAt]
  by_cases h1 : o.kind = .push <;> by_cases h2 : op.kind = .push <;> simp [h1, h2]

/-- The older of the oldest operation so far and another, by arrival and then by port. -/
def older (b : Option PoolOp) (o : PoolOp) : Option PoolOp :=
  match b with
  | none => some o
  | some b => if o.arrival < b.arrival ∨ (o.arrival = b.arrival ∧ o.port < b.port) then some o else some b

/-- The oldest of a list is the one that comes before every other. -/
theorem foldl_older {l : List PoolOp} {o : PoolOp}
    (hmin : ∀ x ∈ l, x ≠ o → o.arrival < x.arrival ∨ (o.arrival = x.arrival ∧ o.port < x.port)) {b : Option PoolOp}
    (hb : ∀ x ∈ b, x ≠ o → o.arrival < x.arrival ∨ (o.arrival = x.arrival ∧ o.port < x.port)) (ho : o ∈ l ∨ b = some o) :
    l.foldl older b = some o := by
  induction l generalizing b with
  | nil => simpa using ho
  | cons x l ih =>
    rw [List.foldl_cons]
    have hx := hmin x (by simp)
    refine ih (fun y hy => hmin y (by simp [hy])) ?_ ?_
    · intro y hy hne
      cases b with
      | none =>
        obtain rfl : x = y := by simpa [older] using hy
        exact hx hne
      | some b =>
        simp only [older] at hy
        split at hy
        · obtain rfl : x = y := by simpa using hy
          exact hx hne
        · exact hb y hy hne
    · by_cases hxo : x = o
      · right
        subst hxo
        cases b with
        | none => rfl
        | some b =>
          by_cases hbo : b = x
          · simp [older, hbo]
          · simp [older, hb b rfl hbo]
      · rcases ho with ho | rfl
        · exact .inl ((List.mem_cons.mp ho).resolve_left (Ne.symm hxo))
        · right
          have hlt := hx hxo
          have : ¬(x.arrival < o.arrival ∨ (x.arrival = o.arrival ∧ x.port < o.port)) := by omega
          simp [older, this]

/-- The arrival in terms of the oldest mate. -/
theorem arrive_eq (p : Pkg) (sw : Nat) (op : PoolOp) : arrive p sw op =
    ((p.mates sw op).foldl older none).elim
      (if 0 < op.budget ∧ (p.heldAt sw).length < 32 then
        p.setOp { op with
          held := true, arrival := p.swcyc, till := p.swcyc + min (poolHold op.params + 1) op.budget
          budget := op.budget - min (poolHold op.params + 1) op.budget }
      else p.setOp op.forward)
      (fun o => if op.kind = .push then p.pair op o else p.pair o op) := by
  unfold arrive
  dsimp only
  generalize hr : List.foldl _ none _ = r
  have hr' : (p.mates sw op).foldl older none = r := hr
  rw [hr']
  cases r <;> rfl

theorem fitElem_of_length {p : Pkg} {elem : List Byte} {n : Nat} (h : elem.length = n) : fitElem p elem n = elem := by
  subst h
  refine List.ext_getElem (by simp [fitElem]) fun i _ hi => ?_
  simp [fitElem, hi]

/-- A pair: both are answered, the pop with the element of the push, and an increment of PAIRS is on its way. -/
theorem Pkg.pair_spec (p : Pkg) (push pop : PoolOp) (hne : push.num ≠ pop.num) (hlen : push.elem.length = 2 ^ Spec.elog pop.params) :
    (p.pair push pop).mem = p.mem ∧ (p.pair push pop).swPorts = p.swPorts
    ∧ (p.pair push pop).pools.find? push.num = some { push with held := false, answer := some (0, []) }
    ∧ (p.pair push pop).pools.find? pop.num = some { pop with held := false, answer := some (0, push.elem) }
    ∧ p.KeepsOps (p.pair push pop) [push.num, pop.num]
    ∧ (p.pair push pop).pairs = p.pairs ++ [{ home := push.home, push := push.strand, pop := pop.strand }] := by
  have hfit : fitElem p push.elem (2 ^ poolElog pop.params) = push.elem := fitElem_of_length hlen
  have hpools (m : Nat) : (p.pair push pop).pools.find? m =
      if m = pop.num then some { pop with held := false, answer := some (0, push.elem) }
      else if m = push.num then some { push with held := false, answer := some (0, []) } else p.pools.find? m := by
    unfold pair
    dsimp only
    rw [find?_setOp, find?_setOp, hfit]
  refine ⟨rfl, rfl, ?_, ?_, ?_, rfl⟩
  · rw [hpools, if_neg hne, if_pos rfl]
  · rw [hpools, if_pos rfl]
  · intro m hm
    simp only [List.mem_cons, List.not_mem_nil, or_false, not_or] at hm
    rw [hpools, if_neg hm.2, if_neg hm.1]

/-- An operation that may move arrives at the next switch of its path. -/
theorem exec_poolSwitchArrival {s : State} {n sw : Nat} {op op' : PoolOp} {rest : List Nat} (hf : s.pkg.pools.find? n = some op)
    (hd : Spec.Departs s.pkg op op') (hp : op.path = sw :: rest) (hh : op.held = false) (hk : op.kind ≠ .init) (ht : Spec.Travels s.pkg op)
    (hport : ∀ c q, s.pkg.swPorts.find? sw = some (c, q) → c = s.pkg.swcyc → q ≤ op.port) :
    exec (.poolSwitchArrival n) s = .next (s.withPkg (arrive (s.pkg.atPort sw op.port) sw op')) := by
  have hturn : portTurn s.pkg sw op.port = true := by
    unfold portTurn
    cases hq : s.pkg.swPorts.find? sw with
    | none => rfl
    | some e =>
      have := hport e.1 e.2 hq
      by_cases hc : e.1 = s.pkg.swcyc <;> simp [hc, this]
  obtain ⟨⟨e, he⟩, -⟩ := PoolOp.of_departs hd
  have hpt : op'.port = op.port := by rw [he]
  show execPoolSwitchArrival n s = _
  unfold execPoolSwitchArrival
  simp [hf, hp, hh, hk, PoolOp.moving_of_travels ht, PoolOp.inOrder_of_travels ht, hturn, depart_of_departs hd, Pkg.atPort, hpt]

end Sys2Proof.Machine
end

section
/-! SUPPORT. Pool operations at their home (R169, R400): what the home accepts, and what it makes of a push, a pop and a POOLINIT. -/

namespace Sys2Proof.Machine

/-! ### Fields of the package that an engine's write leaves -/

theorem Pkg.Wrote.pools {p q : Pkg} {k : Nat} {bs : List Byte} (h : p.Wrote q k bs) : q.pools = p.pools := (congrArg Pkg.pools h.2 :)
theorem Pkg.Wrote.strands {p q : Pkg} {k : Nat} {bs : List Byte} (h : p.Wrote q k bs) : q.strands = p.strands := (congrArg Pkg.strands h.2 :)

theorem Pkg.Wrote.byte_out {p q : Pkg} {k : Nat} {bs : List Byte} (h : p.Wrote q k bs) (x : Nat) (hx : ¬(k ≤ x ∧ x < k + bs.length)) :
    q.byte x = p.byte x := (byte_of_mem h.1 x).trans (byte_write_out p k bs x hx)

theorem Pkg.Wrote.bytes_same {p q : Pkg} {k : Nat} {bs : List Byte} (h : p.Wrote q k bs) : q.bytes k bs.length = bs :=
  (bytes_congr fun x _ _ => byte_of_mem h.1 x).trans (bytes_write_same p k bs)

theorem Pkg.Wrote.num_apart {p q : Pkg} {k : Nat} {bs : List Byte} (h : p.Wrote q k bs) {a n : Nat} (ha : a + n ≤ k ∨ k + bs.length ≤ a) :
    q.num a n = p.num a n := num_congr fun x _ _ => h.byte_out x (by omega)

@[simp] theorem Pkg.bump_pools (p : Pkg) (k : Nat) : (p.bump k).pools = p.pools := rfl
@[simp] theorem Pkg.setOp_num (p : Pkg) (op : PoolOp) (k n : Nat) : (p.setOp op).num k n = p.num k n := rfl
@[simp] theorem Pkg.setOp_byte (p : Pkg) (op : PoolOp) (k : Nat) : (p.setOp op).byte k = p.byte k := rfl
@[simp] theorem Pkg.setOp_bytes (p : Pkg) (op : PoolOp) (k n : Nat) : (p.setOp op).bytes k n = p.bytes k n := rfl

/-- Counter j of the descriptor at key k has risen by 1, from p to q. -/
def Pkg.Rises (p q : Pkg) (k j : Nat) : Prop := q.num (k + j) 4 = (p.num (k + j) 4 + 1) % 2 ^ 32

/-- The bytes outside the counters of l of the descriptor at key k, and outside the m bytes from a, are the same in p and q. -/
def Pkg.KeepsBytes (p q : Pkg) (k : Nat) (l : List Nat) (a m : Nat) : Prop :=
  ∀ x, (∀ j ∈ l, ¬(k + j ≤ x ∧ x < k + j + 4)) → ¬(a ≤ x ∧ x < a + m) → q.byte x = p.byte x

/-- Two counters that have risen, one after the other. -/
theorem Pkg.bump_bump (p : Pkg) (k i j : Nat) (hij : i + 4 ≤ j ∨ j + 4 ≤ i) :
    p.Rises ((p.bump (k + i)).bump (k + j)) k i ∧ p.Rises ((p.bump (k + i)).bump (k + j)) k j
    ∧ ∀ a m, p.KeepsBytes ((p.bump (k + i)).bump (k + j)) k [i, j] a m := by
  refine ⟨?_, ?_, fun a m x hx _ => ?_⟩
  · rw [Rises, num_bump_apart _ _ _ _ (by omega), num_bump_same]
  · rw [Rises, num_bump_same, num_bump_apart _ _ _ _ (by omega)]
  · rw [byte_bump_out _ _ _ (hx j (by simp)), byte_bump_out _ _ _ (hx i (by simp))]

/-! ### What the home accepts (R400) -/

theorem poolCap_eq (w : Nat) : poolCap w = 2 ^ (w / 2 ^ 4 % 2 ^ 5) := rfl
theorem poolWcap_eq (w : Nat) : poolWcap w = 2 ^ (w % 2 ^ 4) := by simp [poolWcap, fieldN]

theorem homeBad_eq_false {p : Pkg} {op : PoolOp} : homeBad p op = false ↔ Spec.HomeLegal p op := by
  unfold homeBad descReserved
  simp only [Bool.or_eq_false_iff, bne_eq_false_iff_eq, decide_eq_false_iff_not, Nat.not_lt]
  rw [poolWcap_eq, poolCap_eq]
  constructor
  · rintro ⟨⟨⟨⟨h1, h2⟩, ⟨h3, h4⟩, h5⟩, h6⟩, h7⟩
    exact ⟨h1, h2, ⟨h3, h4, h5⟩, h6, h7⟩
  · rintro ⟨h1, h2, ⟨h3, h4, h5⟩, h6, h7⟩
    exact ⟨⟨⟨⟨h1, h2⟩, ⟨h3, h4⟩, h5⟩, h6⟩, h7⟩

/-- An operation that may move arrives at its home. -/
theorem exec_poolHomeArrival {s : State} {n : Nat} {op op' : PoolOp} (hf : s.pkg.pools.find? n = some op)
    (hd : Spec.Departs s.pkg op op') (hp : op.path = []) (ht : Spec.Travels s.pkg op) :
    exec (.poolHomeArrival n) s = .next (s.withPkg (homeStep s.er s.pkg op')) := by
  show execPoolHomeArrival n s = _
  unfold execPoolHomeArrival
  simp [hf, hp, PoolOp.moving_of_travels ht, PoolOp.inOrder_of_travels ht, depart_of_departs hd]

section
variable {er : Nat} {p q : Pkg} {op : PoolOp}

theorem homeStep_init (hp : p.poisoned op.home 64 = none) (hk : op.kind = .init) : homeStep er p op = homeInit p op := by
  simp [homeStep, hp, hk]

/-- What the home does not accept is answered 3, and its strand is told (R400). -/
theorem homeStep_refused (hp : p.poisoned op.home 64 = none) (hk : op.kind ≠ .init) (ho : op.orphan = false) (hl : ¬ Spec.HomeLegal p op) :
    homeStep er p op = (p.setOp { op with answer := some (3, []) }).asyncTo op.strand 0x22 (BitVec.ofNat 64 op.desc) := by
  have hb : homeBad p op = true := by rwa [← homeBad_eq_false, Bool.not_eq_false] at hl
  simp [homeStep, hp, hk, ho, hb]

theorem homeStep_push (hp : p.poisoned op.home 64 = none) (hk : op.kind = .push) (ho : op.orphan = false) (hl : Spec.HomeLegal p op)
    (h : homePush er p op = .ok q) : homeStep er p op = q := by
  simp [homeStep, hp, hk, ho, homeBad_eq_false.2 hl, h]

theorem homeStep_pop (hp : p.poisoned op.home 64 = none) (hk : op.kind = .pop ∨ op.kind = .popw) (ho : op.orphan = false)
    (hl : Spec.HomeLegal p op) (h : homePop er p op = .ok q) : homeStep er p op = q := by
  rcases hk with hk | hk <;> simp [homeStep, hp, hk, ho, homeBad_eq_false.2 hl, h]

/-! ### A push at the home -/

/-- The virtual address of element j, and of entry j of the waiting list, of the pool described at key k. -/
def elemVa (p : Pkg) (k j : Nat) : Nat := p.num (k + 8) 8 + j * 2 ^ Spec.elog (p.num (k + 4) 4)
def waiterVa (p : Pkg) (k j : Nat) : Nat := p.num (k + 16) 8 + 8 * (j % 2 ^ (p.num (k + 4) 4 % 2 ^ 4))

/-- Waiting pop o of the pool at key k is the one that word v of the waiting list names. -/
def PoolOp.NamedBy (o : PoolOp) (k v : Nat) : Prop :=
  o.joined = true ∧ o.home = k ∧ o.tag = v % 2 ^ 16 ∧ o.core = v / 2 ^ 16 % 2 ^ 13 ∧ o.sn = v / 2 ^ 29 % 4

/-- The only operation of a table that word v names. -/
theorem find?_named {p : Pkg} {k v : Nat} {o : PoolOp} (ho : ∃ m, (m, o) ∈ p.pools) (hn : o.NamedBy k v)
    (huniq : ∀ e ∈ p.pools, e.2.NamedBy k v → e.2 = o) :
    p.pools.vals.find? (fun o => o.joined && o.home == k && o.tag == fieldN v 15 0 && o.core == fieldN v 28 16 && o.sn == fieldN v 30 29)
      = some o := by
  have hsat (o : PoolOp) : (o.joined && o.home == k && o.tag == fieldN v 15 0 && o.core == fieldN v 28 16 && o.sn == fieldN v 30 29) = true
      ↔ o.NamedBy k v := by
    simp [PoolOp.NamedBy, fieldN, and_assoc]
  cases hx : p.pools.vals.find? _ with
  | none => exact absurd ((hsat o).2 hn) (by simpa using List.find?_eq_none.1 hx o (RMap.mem_vals.2 ho))
  | some x =>
    obtain ⟨m, hm⟩ := RMap.mem_vals.1 (List.mem_of_find?_eq_some hx)
    have hs := List.find?_some hx
    exact congrArg some (huniq _ hm ((hsat x).1 hs))

/-- A waiting pop stands at the head of the list, and one operation is the one it names: it takes the element (R169). -/
theorem homePush_waiting {o : PoolOp} (hne : p.num (op.home + 24) 4 ≠ p.num (op.home + 28) 4)
    (hc : Spec.Clean p op.crew (waiterVa p op.home (p.num (op.home + 24) 4)) 8) (ho : ∃ m, (m, o) ∈ p.pools) {v : Nat}
    (hv : p.num (winAt p op.crew (waiterVa p op.home (p.num (op.home + 24) 4))) 8 = v) (hn : o.NamedBy op.home v)
    (huniq : ∀ e ∈ p.pools, e.2.NamedBy op.home v → e.2 = o) (hlen : op.elem.length = 2 ^ Spec.elog o.params) :
    homePush er p op = .ok ((((p.bump (op.home + 24)).bump (op.home + 36)).setOp
      { o with joined := false, answer := some (0, op.elem) }).setOp { op with answer := some (0, []) }) := by
  have hr := Pkg.engRead_run (Pkg.run_of_clean hc) er (homeAgent op.home) op.sup
  have hb : ofBytes (p.bytes (winAt p op.crew (waiterVa p op.home (p.num (op.home + 24) 4))) 8) = v := hv
  rw [waiterVa] at hr hb
  unfold homePush
  simp only [poolWcap_eq, if_pos hne.symm, hr, hb, Pkg.bump_pools, find?_named ho hn huniq, poolElog_eq, fitElem_of_length hlen, ne_eq]

/-- No pop waits and there is room: the element goes to the top. -/
theorem homePush_store (heq : p.num (op.home + 24) 4 = p.num (op.home + 28) 4)
    (hroom : p.num op.home 4 < 2 ^ (p.num (op.home + 4) 4 / 2 ^ 4 % 2 ^ 5)) (hlen : op.elem.length = 2 ^ Spec.elog (p.num (op.home + 4) 4))
    (hc : Spec.Clean p op.crew (elemVa p op.home (p.num op.home 4)) (2 ^ Spec.elog (p.num (op.home + 4) 4))) :
    ∃ w, p.Wrote w (winAt p op.crew (elemVa p op.home (p.num op.home 4))) op.elem
      ∧ homePush er p op = .ok (((w.bump op.home).bump (op.home + 36)).setOp { op with answer := some (0, []) }) := by
  obtain ⟨w, hw, hwrote⟩ := Pkg.engWrite_run (bs := op.elem) (hlen ▸ Pkg.run_of_clean hc) er (homeAgent op.home) op.sup
  refine ⟨w, hwrote, ?_⟩
  rw [elemVa] at hw
  unfold homePush
  simp only [heq, poolCap_eq, hroom, poolElog_eq, hw, ne_eq, not_true_eq_false, if_false, if_true]

/-- No pop waits and the pool is full: the push is answered 2. -/
theorem homePush_full (heq : p.num (op.home + 24) 4 = p.num (op.home + 28) 4)
    (hfull : 2 ^ (p.num (op.home + 4) 4 / 2 ^ 4 % 2 ^ 5) ≤ p.num op.home 4) :
    homePush er p op = .ok (((p.bump (op.home + 44)).bump (op.home + 36)).setOp { op with answer := some (2, []) }) := by
  unfold homePush
  simp only [heq, poolCap_eq, Nat.not_lt.2 hfull, ne_eq, not_true_eq_false, if_false]

/-! ### A pop at the home -/

/-- The top element of a STACK. -/
theorem homePop_stack (hn : 0 < p.num op.home 4) (hk : p.num (op.home + 4) 4 / 2 ^ 30 % 4 = 0)
    (hc : Spec.Clean p op.crew (elemVa p op.home (p.num op.home 4 - 1)) (2 ^ Spec.elog (p.num (op.home + 4) 4))) :
    homePop er p op = .ok (((p.write op.home (toBytes 4 (p.num op.home 4 - 1))).bump (op.home + 36)).setOp
      { op with answer := some (0, p.bytes (winAt p op.crew (elemVa p op.home (p.num op.home 4 - 1))) (2 ^ Spec.elog (p.num (op.home + 4) 4))) }) := by
  have hr := Pkg.engRead_run (Pkg.run_of_clean hc) er (homeAgent op.home) op.sup
  have hkind : poolKind (p.num (op.home + 4) 4) = 0 := hk
  simp only [elemVa] at hr ⊢
  unfold homePop
  simp only [hn, poolElog_eq, hr, hkind, if_true]

/-- The first element of a BAG; the last takes its place. -/
theorem homePop_bag (hn : 0 < p.num op.home 4) (hk : p.num (op.home + 4) 4 / 2 ^ 30 % 4 ≠ 0)
    (hc : Spec.Clean p op.crew (elemVa p op.home (p.num op.home 4 - 1)) (2 ^ Spec.elog (p.num (op.home + 4) 4)))
    (hc0 : Spec.Clean p op.crew (elemVa p op.home 0) (2 ^ Spec.elog (p.num (op.home + 4) 4))) :
    ∃ w, p.Wrote w (winAt p op.crew (elemVa p op.home 0))
        (p.bytes (winAt p op.crew (elemVa p op.home (p.num op.home 4 - 1))) (2 ^ Spec.elog (p.num (op.home + 4) 4)))
      ∧ homePop er p op = .ok (((w.write op.home (toBytes 4 (p.num op.home 4 - 1))).bump (op.home + 36)).setOp
        { op with answer := some (0, p.bytes (winAt p op.crew (elemVa p op.home 0)) (2 ^ Spec.elog (p.num (op.home + 4) 4))) }) := by
  have hr := Pkg.engRead_run (Pkg.run_of_clean hc) er (homeAgent op.home) op.sup
  have hr0 := Pkg.engRead_run (Pkg.run_of_clean hc0) er (homeAgent op.home) op.sup
  obtain ⟨w, hw, hwrote⟩ := Pkg.engWrite_run (cu := op.crew) (va := elemVa p op.home 0)
    (bs := p.bytes (winAt p op.crew (elemVa p op.home (p.num op.home 4 - 1))) (2 ^ Spec.elog (p.num (op.home + 4) 4)))
    (by rw [Pkg.bytes_length]; exact Pkg.run_of_clean hc0) er (homeAgent op.home) op.sup
  refine ⟨w, hwrote, ?_⟩
  have hkind : poolKind (p.num (op.home + 4) 4) ≠ 0 := hk
  simp only [elemVa, Nat.zero_mul, Nat.add_zero] at hr hr0 hw ⊢
  unfold homePop
  simp only [hn, poolElog_eq, hr, hr0, hw, hkind, if_true, if_false]

/-- The pool is empty, and the pop may not wait: it is answered 1. -/
theorem homePop_empty (hn : p.num op.home 4 = 0) (hk : op.kind = .pop
      ∨ 2 ^ (p.num (op.home + 4) 4 % 2 ^ 4) ≤ (p.num (op.home + 28) 4 + 2 ^ 32 - p.num (op.home + 24) 4) % 2 ^ 32) :
    homePop er p op = .ok (((p.bump (op.home + 40)).bump (op.home + 36)).setOp { op with answer := some (1, []) }) := by
  have hw : ¬(op.kind = .popw
      ∧ (p.num (op.home + 28) 4 + 2 ^ 32 - p.num (op.home + 24) 4) % 2 ^ 32 < 2 ^ (p.num (op.home + 4) 4 % 2 ^ 4)) := by
    rintro ⟨h, h'⟩
    rcases hk with hk | hk
    · exact absurd (hk ▸ h) (by decide)
    · omega
  unfold homePop
  simp only [hn, poolWcap_eq, hw, Nat.lt_irrefl, if_false]

/-- The pool is empty and its list has room: the POOLPOPW joins it. -/
theorem homePop_joins (hn : p.num op.home 4 = 0) (hk : op.kind = .popw)
    (hroom : (p.num (op.home + 28) 4 + 2 ^ 32 - p.num (op.home + 24) 4) % 2 ^ 32 < 2 ^ (p.num (op.home + 4) 4 % 2 ^ 4))
    (hc : Spec.Clean p op.crew (waiterVa p op.home (p.num (op.home + 28) 4)) 8) :
    ∃ w, p.Wrote w (winAt p op.crew (waiterVa p op.home (p.num (op.home + 28) 4))) (toBytes 8 (op.tag + op.core * 2 ^ 16 + op.sn * 2 ^ 29))
      ∧ homePop er p op = .ok ((w.bump (op.home + 28)).setOp { op with joined := true }) := by
  obtain ⟨w, hw, hwrote⟩ := Pkg.engWrite_run (cu := op.crew) (va := waiterVa p op.home (p.num (op.home + 28) 4))
    (bs := toBytes 8 (op.tag + op.core * 2 ^ 16 + op.sn * 2 ^ 29)) (by rw [toBytes_length]; exact Pkg.run_of_clean hc) er
    (homeAgent op.home) op.sup
  refine ⟨w, hwrote, ?_⟩
  rw [waiterVa] at hw
  unfold homePop
  simp only [hn, poolWcap_eq, hk, hroom, hw, Nat.lt_irrefl, and_self, if_false, if_true]

/-! ### A POOLINIT at the home -/

/-- What a POOLINIT at key k makes of an operation that waits there: it is answered EMPTY. -/
def PoolOp.emptied (o : PoolOp) (k : Nat) : PoolOp :=
  if o.joined = true ∧ o.home = k ∧ o.steal = false then { o with joined := false, answer := some (1, []) } else o

theorem homeInit_pools (p : Pkg) (op : PoolOp) :
    (homeInit p op).pools = (RMap.del p.pools op.num).mapVals (fun o => o.emptied op.home) := by
  simp only [homeInit, PoolOp.emptied, Bool.not_eq_true']
  rfl

theorem homeInit_spec (p : Pkg) (op : PoolOp) : (homeInit p op).mem = (p.write op.home op.elem).mem
    ∧ (homeInit p op).pools.find? op.num = none
    ∧ ∀ m o, m ≠ op.num → p.pools.find? m = some o → (homeInit p op).pools.find? m = some (o.emptied op.home) := by
  refine ⟨rfl, ?_, fun m o hm ho => ?_⟩
  · rw [homeInit_pools, RMap.find?_mapVals, RMap.find?_del_same]
    rfl
  · rw [homeInit_pools, RMap.find?_mapVals, RMap.find?_del_ne _ _ _ hm, ho, Option.map_some]

end

/-! ### Traps told to a strand (R356) -/

/-- An asynchronous trap changes strands and the count of faults alone. -/
theorem Pkg.asyncTo_frame (p : Pkg) (u cause : Nat) (tval : X) :
    p.asyncTo u cause tval = { p with strands := (p.asyncTo u cause tval).strands, launches := (p.asyncTo u cause tval).launches } := by
  unfold asyncTo
  split
  · rfl
  · dsimp only
    split
    · rfl
    · split
      · rfl
      · split <;> rfl

/-- A strand that has not ended has one more trap pending. -/
theorem Pkg.asyncTo_live {p : Pkg} {u cause : Nat} {tval : X} {st : Strand} (h : p.strands.find? u = some st) (hr : st.run ≠ .ended)
    (hl : st.lost = false) :
    p.asyncTo u cause tval = p.modStrand u (fun st => { st with async := st.async ++ [{ cause := cause, tval := tval }] }) := by
  simp [asyncTo, h, hr, hl]

theorem Pkg.told_asyncTo (p : Pkg) (u cause : Nat) (tval : X) : Spec.Told p (p.asyncTo u cause tval) u cause tval := by
  refine ⟨fun st h hr hl => ?_, fun st h hr hl v hv => ?_⟩
  · rw [asyncTo_live h hr hl, modStrand_strands, RMap.find?_modify_same, h]
    rfl
  · rw [asyncTo_live h hr hl, modStrand_strands, RMap.find?_modify_ne _ _ _ _ hv]

end Sys2Proof.Machine
end

section
/-! SUPPORT. The answers of pool operations (R314, R317, R401): what a strand takes, what a STEAL brings, and the answers of crews that are
saved or have ended. -/

namespace Sys2Proof.Machine

/-! ### Frames -/

/-- The wake of an answer's tag changes crews and clusters alone. -/
theorem Pkg.answerTag_frame (p : Pkg) (cu tag n : Nat) :
    p.answerTag cu tag n = { p with crews := (p.answerTag cu tag n).crews, clusters := (p.answerTag cu tag n).clusters } := by
  unfold answerTag
  dsimp only
  split
  · split <;> rfl
  · rfl

/-- A ring operation leaves the pool operations as they are. -/
theorem ringTry_pools {p q : Pkg} {cu : Nat} {w : UnitWait} {g : Grant} (h : ringTry p cu w = .done g q) : q.pools = p.pools := by
  unfold ringTry at h
  split at h
  · cases h; rfl
  · unfold ringAct at h
    dsimp only at h
    split at h
    · cases h; rfl
    · split at h
      · cases h; rfl
      · split at h
        · split at h
          · cases h; rfl
          · split at h
            · cases h
            · cases h; rfl
        · split at h
          · split at h <;> cases h
            rfl
          · cases h; rfl

theorem ringFirst_pools {p q : Pkg} {key : Nat} {l : List UnitWait} {w : UnitWait} {g : Grant} (h : ringFirst p key l = some (w, g, q)) :
    q.pools = p.pools := by
  induction l with
  | nil => cases h
  | cons x l ih =>
    unfold ringFirst at h
    split at h
    · split at h
      · exact ih h
      · next hd =>
        cases h
        exact ringTry_pools hd
    · exact ih h

theorem ringServe_pools (n key : Nat) (p : Pkg) : (ringServe n key p).pools = p.pools := by
  induction n generalizing p with
  | zero => rfl
  | succ n ih =>
    unfold ringServe
    split
    · rfl
    · next w g q hq =>
      dsimp only
      rw [ih]
      have := ringFirst_pools hq
      split <;> exact this

@[simp] theorem Pkg.clearPoison_pools (p : Pkg) (k n : Nat) : (p.clearPoison k n).pools = p.pools := rfl

@[simp] theorem Pkg.forget_strands (p : Pkg) (u : Nat) : (p.forget u).strands = p.strands := rfl

/-- A notice leaves the pool operations as they are. -/
theorem Pkg.notify_pools (p : Pkg) (cu code src core sn : Nat) (value : X) : (p.notify cu code src core sn value).pools = p.pools := by
  unfold notify
  extract_lets dk head tail
  split
  · rw [serveRing, ringServe_pools, write_pools, clearPoison_pools, write_pools]
  · rw [write_pools]

/-! ### What a strand takes of an answer -/

/-- The element register of a pop takes its value. -/
def Pkg.elemTo (p : Pkg) (op : PoolOp) (got : List Byte) : Pkg :=
  match op.xe with
  | some r => p.modStrand op.strand (fun st => st.poolWrite r op.num (BitVec.ofNat 64 (ofBytes got)))
  | none => p

/-- What follows the element: the status, the acquire of a pop that has one, the end of the operation and the wake of its tag. -/
def Pkg.answered (p : Pkg) (op : PoolOp) (status : Nat) : Pkg :=
  let p := p.modStrand op.strand (fun st => st.poolWrite op.xd op.num (BitVec.ofNat 64 status))
  let p := if status = 0 ∧ op.kind ≠ .push then p.popped op.strand else p
  let p : Pkg := { p with pools := RMap.del p.pools op.num }
  if op.kind = .push then p else p.answerTag op.crew op.tag op.num

/-- An answer that writes no element to memory. -/
theorem takeAnswer_register {er : Nat} {p : Pkg} {op : PoolOp} {status : Nat} {elem : List Byte} (hs : op.steal = false)
    (hm : op.mem = none ∨ status ≠ 0 ∨ op.kind = .push) :
    takeAnswer er p op status elem = some ((p.elemTo op (if status = 0 then elem else [])).answered op status) := by
  unfold takeAnswer
  rw [if_neg (by simp [hs])]
  cases hx : op.mem with
  | none =>
    simp only [Pkg.elemTo]
    cases op.xe <;> rfl
  | some va =>
    have hno : ¬(status = 0 ∧ op.kind ≠ .push) := by
      rintro ⟨h0, hk⟩
      rcases hm with hm | hm | hm
      · rw [hm] at hx; cases hx
      · exact hm h0
      · exact hk hm
    simp only [Pkg.elemTo, if_neg hno]
    cases op.xe <;> simp only [Pkg.answered, if_neg hno]

/-- An answer that writes its element to memory. -/
theorem takeAnswer_memory {er : Nat} {p q : Pkg} {op : PoolOp} {va : Nat} {elem : List Byte} (hs : op.steal = false) (hx : op.xe = none)
    (hm : op.mem = some va) (hk : op.kind ≠ .push) (hw : p.engWrite er (op.at p) op.crew op.sup va elem = .ok q) :
    takeAnswer er p op 0 elem = some (q.answered op 0) := by
  unfold takeAnswer
  rw [if_neg (by simp [hs])]
  simp only [hx, hm, hk, hw, ne_eq, not_false_eq_true, and_self, if_true, Pkg.answered]

/-- What an answer leaves: the operation is gone, the others stay; the strand has the status; a pop with an element is an acquire (R317). -/
theorem Pkg.answered_spec {p : Pkg} {op : PoolOp} {st : Strand} (status : Nat) (h : p.strands.find? op.strand = some st) :
    (p.answered op status).pools.find? op.num = none ∧ p.KeepsOps (p.answered op status) [op.num] ∧ (p.answered op status).mem = p.mem
    ∧ (status = 0 ∧ op.kind ≠ .push → ∀ e ∈ (p.answered op status).early, e.strand ≠ op.strand)
    ∧ (p.answered op status).strands.find? op.strand = some { st.poolWrite op.xd op.num (BitVec.ofNat 64 status) with
        acqAt := if status = 0 ∧ op.kind ≠ .push then p.tick else (st.poolWrite op.xd op.num (BitVec.ofNat 64 status)).acqAt } := by
  obtain ⟨q, hq⟩ : ∃ q, q = if status = 0 ∧ op.kind ≠ .push
      then (p.modStrand op.strand (fun st => st.poolWrite op.xd op.num (BitVec.ofNat 64 status))).popped op.strand
      else p.modStrand op.strand (fun st => st.poolWrite op.xd op.num (BitVec.ofNat 64 status)) := ⟨_, rfl⟩
  have hpools : q.pools = p.pools := by rw [hq]; split <;> rfl
  have hmem : q.mem = p.mem := by rw [hq]; split <;> rfl
  have hearly : status = 0 ∧ op.kind ≠ .push → ∀ e ∈ q.early, e.strand ≠ op.strand := by
    intro hg e he
    rw [hq, if_pos hg] at he
    simpa using (List.mem_filter.1 he).2
  have hstrand : q.strands.find? op.strand = some { st.poolWrite op.xd op.num (BitVec.ofNat 64 status) with
      acqAt := if status = 0 ∧ op.kind ≠ .push then p.tick else (st.poolWrite op.xd op.num (BitVec.ofNat 64 status)).acqAt } := by
    have hw : (p.modStrand op.strand (fun st => st.poolWrite op.xd op.num (BitVec.ofNat 64 status))).strands.find? op.strand
        = some (st.poolWrite op.xd op.num (BitVec.ofNat 64 status)) := by
      rw [modStrand_strands, RMap.find?_modify_same, h]; rfl
    rw [hq]
    split
    · rw [popped, modStrand_strands, RMap.find?_modify_same, forget_strands, hw]; rfl
    · exact hw
  have hgone : (p.answered op status).pools = RMap.del q.pools op.num ∧ (p.answered op status).mem = q.mem
      ∧ (p.answered op status).early = q.early ∧ (p.answered op status).strands = q.strands := by
    unfold answered
    rw [hq]
    dsimp only
    split
    · exact ⟨rfl, rfl, rfl, rfl⟩
    · rw [answerTag_frame]
      exact ⟨rfl, rfl, rfl, rfl⟩
  obtain ⟨h1, h2, h3, h4⟩ := hgone
  refine ⟨?_, fun m hm => ?_, h2.trans hmem, ?_, ?_⟩
  · rw [h1, RMap.find?_del_same]
  · rw [h1, RMap.find?_del_ne _ _ _ (by simpa using hm), hpools]
  · rw [h3]; exact hearly
  · rw [h4]; exact hstrand

theorem Pkg.elemTo_strand {p : Pkg} {op : PoolOp} {st : Strand} {r : Nat} (got : List Byte) (h : p.strands.find? op.strand = some st)
    (hx : op.xe = some r) :
    (p.elemTo op got).strands.find? op.strand = some (st.poolWrite r op.num (BitVec.ofNat 64 (ofBytes got))) := by
  unfold elemTo
  rw [hx]
  show (RMap.find? (p.modStrand op.strand _).strands op.strand) = _
  rw [modStrand_strands, RMap.find?_modify_same, h]
  rfl

/-! ### Arrival of an answer -/

section
variable {s : State} {n : Nat} {op : PoolOp} {status : Nat} {elem : List Byte}

/-- The answer of a resident crew's operation is taken. -/
theorem exec_poolAnswerArrival {p : Pkg} (hf : s.pkg.pools.find? n = some op) (ha : op.answer = some (status, elem))
    (hres : (s.pkg.crew op.crew).st = .resident) (hj : op.steal = false ∨ op.joined = false)
    (ht : takeAnswer s.er s.pkg op status elem = some p) : exec (.poolAnswerArrival n) s = .next (s.withPkg p) := by
  have hsj : ¬(op.steal = true ∧ op.joined = true) := by rintro ⟨h1, h2⟩; simp [h1, h2] at hj
  show execPoolAnswerArrival n s = _
  unfold execPoolAnswerArrival
  simp [hf, ha, hsj, hres, Crew.isSaved, Crew.away, ht]

/-- The answer of a saved crew's operation enters its record. -/
theorem exec_poolAnswerArrival_saved (hf : s.pkg.pools.find? n = some op) (ha : op.answer = some (status, elem))
    (hs : (s.pkg.crew op.crew).isSaved = true) (hj : op.steal = false) :
    exec (.poolAnswerArrival n) s = .next (s.withPkg (({ s.pkg with pools := RMap.del s.pkg.pools n } : Pkg).setCrew op.crew
      { s.pkg.crew op.crew with
        image := { (s.pkg.crew op.crew).image with answers := (s.pkg.crew op.crew).image.answers ++ [op] } })) := by
  show execPoolAnswerArrival n s = _
  unfold execPoolAnswerArrival
  simp [hf, ha, hj, hs]

/-- The operation that takes an element back to its pool when the crew that asked for it has ended (R401). -/
def PoolOp.orphaned (op : PoolOp) (elem : List Byte) : PoolOp :=
  { op with kind := .push, orphan := true, answer := none, elem := elem, path := [], budget := 0, held := false, steal := false }

theorem exec_poolAnswerArrival_ended (hf : s.pkg.pools.find? n = some op) (ha : op.answer = some (0, elem))
    (he : (s.pkg.crew op.crew).st = .ended) (hj : op.steal = false) (hk : op.kind ≠ .push) :
    exec (.poolAnswerArrival n) s = .next (s.withPkg ((s.pkg.setOp (op.orphaned elem)).notify op.crew 4 0 op.core op.sn
      (BitVec.ofNat 64 op.desc))) := by
  show execPoolAnswerArrival n s = _
  unfold execPoolAnswerArrival
  simp [hf, ha, hj, he, hk, Crew.isSaved, Crew.away, PoolOp.orphaned]

end

/-! ### The answer of a STEAL (R314) -/

/-- A record that a core may run. -/
def RecordRuns (elem : List Byte) : Prop :=
  recN elem 0 8 % 4 = 0 ∧ recN elem 0 8 < 2 ^ 48 ∧ (recN elem 8 4).testBit 0 = false
  ∧ ((List.range 32).filter (fun j => (recN elem 8 4).testBit j)).length ≤ 16 ∧ recN elem 12 1 ≤ 32 ∧ recN elem 13 1 = 0
  ∧ recN elem 14 1 % 2 = 0 ∧ recN elem 15 1 = 0 ∧ recN elem 24 4 < 2 ^ 7

theorem recN_lt (l : List Byte) (o n : Nat) : recN l o n < 256 ^ n := by
  refine lt_of_lt_of_le (ofBytes_lt _) (Nat.pow_le_pow_right (by decide) ?_)
  simp

/-- The low byte of a word of a record. -/
theorem recN_one (l : List Byte) (o n : Nat) : recN l o 1 = recN l o (n + 1) % 256 := by
  unfold recN
  cases h : l.drop o with
  | nil => simp [ofBytes]
  | cons b t =>
    have := b.isLt
    simp only [List.take_succ_cons, List.take_zero, ofBytes]
    omega

theorem bitN_eq_testBit (w i : Nat) : bitN w i = w.testBit i := by
  rw [bitN, Nat.testBit_eq_decide_div_mod_eq]
  rfl

theorem recordBad_eq_false {elem : List Byte} : recordBad elem = false ↔ RecordRuns elem := by
  have h0 : recN elem 0 1 = recN elem 0 8 % 256 := recN_one elem 0 7
  have h8 := recN_lt elem 0 8
  have h12 := recN_lt elem 12 1
  have h24 := recN_lt elem 24 4
  have hbits : bitN (recN elem 8 4) = (recN elem 8 4).testBit := funext (bitN_eq_testBit _)
  have hp0 : bitN (recN elem 14 1) 0 = decide (recN elem 14 1 % 2 = 1) := by simp [bitN, beq_eq_decide]
  unfold recordBad RecordRuns liveCount fieldN
  simp only [Bool.or_eq_false_iff, bne_eq_false_iff_eq, decide_eq_false_iff_not, hp0, hbits]
  constructor
  · rintro ⟨⟨⟨⟨⟨⟨⟨⟨⟨h1, h2⟩, h3⟩, h4⟩, h5⟩, h6⟩, h7⟩, h9⟩, h10⟩, h11⟩
    exact ⟨by omega, by omega, h3, Nat.not_lt.1 h4, by omega, h7, by omega, h10, by omega⟩
  · rintro ⟨h1, h2, h3, h4, h5, h6, h7, h9, h10⟩
    exact ⟨⟨⟨⟨⟨⟨⟨⟨⟨by omega, by omega⟩, h3⟩, Nat.not_lt.2 h4⟩, by omega⟩, by omega⟩, h6⟩, by omega⟩, h9⟩, by omega⟩

@[simp] theorem Pkg.cluster_setCluster_same (p : Pkg) (c : Nat) (k : Cluster) : (p.setCluster c k).cluster c = k := by
  rw [cluster, setCluster_clusters, RMap.find?_put_same]; rfl

/-- A slot given to a blocked entry: its record is ready in it with the cluster's next AGE, and its strand goes on (R36, R37). -/
theorem Pkg.giveSlot_spec (p : Pkg) (cl n : Nat) (w : RqWait) :
    Spec.Entered' p (p.giveSlot cl n w) cl n w.crew w.bytes
    ∧ p.giveSlot cl n w = { p with
        clusters := (p.giveSlot cl n w).clusters
        strands := p.strands.modify w.strand (fun st => { st with run := .ready, grant := some (.rslot n) }) } := by
  refine ⟨?_, rfl⟩
  have hcl : (p.giveSlot cl n w).cluster cl = { p.cluster cl with
      rqWaits := (p.cluster cl).rqWaits.erase w
      rq := (RMap.put (p.cluster cl).rq n { crew := w.crew, st := .parked, bytes := w.bytes }).modify n
        (fun r => { r with st := .ready none, age := (p.cluster cl).age })
      age := (p.cluster cl).age + 1 } := by
    show (((p.setCluster cl _).enterRecord cl n w.crew w.bytes).rouse w.strand _).cluster cl = _
    simp only [rouse, enterRecord, makeReady, cluster_setCluster_same]
    exact cluster_setCluster_same _ _ _
  rw [Spec.Entered', hcl]
  refine ⟨?_, rfl, fun m hm => ?_⟩
  · rw [RMap.find?_modify_same, RMap.find?_put_same]; rfl
  · rw [RMap.find?_modify_ne _ _ _ _ hm, RMap.find?_put_ne _ _ _ _ hm]

section
variable {p : Pkg} {op : PoolOp} {st : Strand} {elem : List Byte}

/-- A STEAL answered without a record (R314). -/
theorem stealAnswer_status {status : Nat} (h : p.strands.find? op.strand = some st) (hr : st.run = .blocked (.answer op.num))
    (hst : status ≠ 0) :
    stealAnswer p op status elem = ({ p with pools := RMap.del p.pools op.num } : Pkg).rouse op.strand (.num status) := by
  simp [stealAnswer, h, hr, hst]

/-- A record that cannot run: the strand is told, and learns status 3. -/
theorem stealAnswer_bad (h : p.strands.find? op.strand = some st) (hr : st.run = .blocked (.answer op.num)) (hb : ¬ RecordRuns elem) :
    stealAnswer p op 0 elem = (({ p with pools := RMap.del p.pools op.num } : Pkg).asyncTo op.strand 0x22 (BitVec.ofNat 64 op.desc)).rouse
      op.strand (.num 3) := by
  have hbad : recordBad elem = true := by rwa [← recordBad_eq_false, Bool.not_eq_false] at hb
  simp [stealAnswer, h, hr, hbad]

/-- The entry that a stolen record makes for a slot. -/
def stolenWait (op : PoolOp) (st : Strand) (elem : List Byte) : RqWait :=
  { strand := op.strand, crew := op.crew, depth := recN elem 12 1
    bytes := elem.take 24 ++ Spec.bytes 8 (st.core % 24 + 32 * st.sn) ++ (elem.drop 32).take 128 }

/-- A record that runs enters a slot, or waits for one. -/
theorem stealAnswer_runs (h : p.strands.find? op.strand = some st) (hr : st.run = .blocked (.answer op.num)) (hb : RecordRuns elem) :
    stealAnswer p op 0 elem =
      ((p.takeSlot (st.core / 24) op.crew (recN elem 12 1)).elim
        ((((p.setOp { op with joined := true }).popped op.strand).setCluster (st.core / 24)
          { p.cluster (st.core / 24) with rqWaits := (p.cluster (st.core / 24)).rqWaits ++ [stolenWait op st elem] }).modStrand op.strand
            (fun st => { st with run := .blocked .runq }))
        (fun n => ((p.setOp { op with joined := true }).popped op.strand).giveSlot (st.core / 24) n (stolenWait op st elem))) := by
  have hd : recN elem 12 1 % 64 = recN elem 12 1 := by
    obtain ⟨-, -, -, -, hd, -⟩ := hb
    omega
  have hslot : ((p.setOp { op with joined := true }).popped op.strand).takeSlot (st.core / 24) op.crew (recN elem 12 1)
      = p.takeSlot (st.core / 24) op.crew (recN elem 12 1) := rfl
  simp only [stealAnswer, h, hr, ne_eq, not_true_eq_false, if_false, recordBad_eq_false.2 hb, Bool.false_eq_true, hd, hslot]
  simp only [stamp, stolenWait, bytes_eq_toBytes]
  cases p.takeSlot (st.core / 24) op.crew (recN elem 12 1) <;> rfl

end

end Sys2Proof.Machine
end

section
/-! SUPPORT. What the home leaves of the descriptor, the element and the operation, case by case (R169). -/

namespace Sys2Proof.Machine

/-- The counters of a descriptor, and what lies beside it, after a write apart from it. -/
theorem Pkg.Wrote.rises {p w q : Pkg} {k a j : Nat} {bs : List Byte} (h : p.Wrote w a bs) (hj : j + 4 ≤ 64)
    (hap : a + bs.length ≤ k ∨ k + 64 ≤ a) (hr : w.Rises q k j) : p.Rises q k j := by
  rw [Rises, ← h.num_apart (by omega)]; exact hr

theorem Pkg.Wrote.keepsBytes {p w q : Pkg} {k a : Nat} {l : List Nat} {bs : List Byte} (h : p.Wrote w a bs)
    (hk : w.KeepsBytes q k l a bs.length) : p.KeepsBytes q k l a bs.length :=
  fun x hx ha => (hk x hx ha).trans (h.byte_out x ha)

/-- Bytes apart from the descriptor's counters stay. -/
theorem Pkg.KeepsBytes.bytes_apart {p q : Pkg} {k : Nat} {l : List Nat} (hk : p.KeepsBytes q k l 0 0) (hl : ∀ j ∈ l, j + 4 ≤ 64) {a n : Nat}
    (hap : a + n ≤ k ∨ k + 64 ≤ a) : q.bytes a n = p.bytes a n :=
  bytes_congr fun x _ _ => hk x (fun j hj => by have := hl j hj; omega) (by omega)

section
variable {er : Nat} {p : Pkg} {op : PoolOp}

theorem homeStep_push_waiting {o : PoolOp} (hp : p.poisoned op.home 64 = none) (hk : op.kind = .push) (hor : op.orphan = false)
    (hl : Spec.HomeLegal p op) (hne : p.num (op.home + 24) 4 ≠ p.num (op.home + 28) 4)
    (hc : Spec.Clean p op.crew (waiterVa p op.home (p.num (op.home + 24) 4)) 8) (ho : ∃ m, (m, o) ∈ p.pools) (hon : o.num ≠ op.num) {v : Nat}
    (hv : p.num (winAt p op.crew (waiterVa p op.home (p.num (op.home + 24) 4))) 8 = v) (hn : o.NamedBy op.home v)
    (huniq : ∀ e ∈ p.pools, e.2.NamedBy op.home v → e.2 = o) (hlen : op.elem.length = 2 ^ Spec.elog o.params) :
    (homeStep er p op).pools.find? op.num = some { op with answer := some (0, []) }
    ∧ (homeStep er p op).pools.find? o.num = some { o with joined := false, answer := some (0, op.elem) }
    ∧ p.KeepsOps (homeStep er p op) [op.num, o.num] ∧ p.Rises (homeStep er p op) op.home 24 ∧ p.Rises (homeStep er p op) op.home 36
    ∧ p.KeepsBytes (homeStep er p op) op.home [24, 36] 0 0 := by
  rw [homeStep_push hp hk hor hl (homePush_waiting hne hc ho hv hn huniq hlen)]
  obtain ⟨h24, h36, hkeep⟩ := p.bump_bump op.home 24 36 (by decide)
  refine ⟨Pkg.find?_setOp_same _ _, ?_, fun m hm => ?_, h24, h36, hkeep 0 0⟩
  · rw [Pkg.find?_setOp, if_neg hon, Pkg.find?_setOp, if_pos rfl]
  · simp only [List.mem_cons, List.not_mem_nil, or_false, not_or] at hm
    rw [Pkg.find?_setOp, if_neg hm.1, Pkg.find?_setOp, if_neg hm.2]
    rfl

theorem homeStep_push_store (hp : p.poisoned op.home 64 = none) (hk : op.kind = .push) (hor : op.orphan = false)
    (hl : Spec.HomeLegal p op) (heq : p.num (op.home + 24) 4 = p.num (op.home + 28) 4)
    (hroom : p.num op.home 4 < 2 ^ (p.num (op.home + 4) 4 / 2 ^ 4 % 2 ^ 5))
    (hc : Spec.Clean p op.crew (elemVa p op.home (p.num op.home 4)) (2 ^ Spec.elog (p.num (op.home + 4) 4)))
    (hap : winAt p op.crew (elemVa p op.home (p.num op.home 4)) + 2 ^ Spec.elog (p.num (op.home + 4) 4) ≤ op.home
      ∨ op.home + 64 ≤ winAt p op.crew (elemVa p op.home (p.num op.home 4)))
    (hlen : op.elem.length = 2 ^ Spec.elog (p.num (op.home + 4) 4)) :
    (homeStep er p op).pools.find? op.num = some { op with answer := some (0, []) } ∧ p.KeepsOps (homeStep er p op) [op.num]
    ∧ p.Rises (homeStep er p op) op.home 0 ∧ p.Rises (homeStep er p op) op.home 36
    ∧ (homeStep er p op).bytes (winAt p op.crew (elemVa p op.home (p.num op.home 4))) (2 ^ Spec.elog (p.num (op.home + 4) 4)) = op.elem
    ∧ p.KeepsBytes (homeStep er p op) op.home [0, 36] (winAt p op.crew (elemVa p op.home (p.num op.home 4)))
        (2 ^ Spec.elog (p.num (op.home + 4) 4)) := by
  obtain ⟨w, hw, hpush⟩ := homePush_store (er := er) heq hroom hlen hc
  rw [homeStep_push hp hk hor hl hpush]
  rw [← hlen] at hap ⊢
  obtain ⟨h0, h36, hkeep⟩ := w.bump_bump op.home 0 36 (by decide)
  refine ⟨Pkg.find?_setOp_same _ _, Pkg.keepsOps_setOp rfl hw.pools, hw.rises (by decide) hap h0, hw.rises (by decide) hap h36, ?_, hw.keepsBytes (hkeep _ _)⟩
  · rw [Pkg.setOp_bytes]
    exact ((hkeep 0 0).bytes_apart (by decide) hap).trans hw.bytes_same

theorem homeStep_push_full (hp : p.poisoned op.home 64 = none) (hk : op.kind = .push) (hor : op.orphan = false)
    (hl : Spec.HomeLegal p op) (heq : p.num (op.home + 24) 4 = p.num (op.home + 28) 4)
    (hfull : 2 ^ (p.num (op.home + 4) 4 / 2 ^ 4 % 2 ^ 5) ≤ p.num op.home 4) :
    (homeStep er p op).pools.find? op.num = some { op with answer := some (2, []) } ∧ p.KeepsOps (homeStep er p op) [op.num]
    ∧ p.Rises (homeStep er p op) op.home 44 ∧ p.Rises (homeStep er p op) op.home 36
    ∧ p.KeepsBytes (homeStep er p op) op.home [36, 44] 0 0 := by
  rw [homeStep_push hp hk hor hl (homePush_full heq hfull)]
  obtain ⟨h44, h36, hkeep⟩ := p.bump_bump op.home 44 36 (by decide)
  exact ⟨Pkg.find?_setOp_same _ _, Pkg.keepsOps_setOp rfl rfl, h44, h36, fun x hx => hkeep 0 0 x (by simpa [and_comm] using hx)⟩

/-- The count of a pool falls to c, and another counter rises. -/
theorem Pkg.write_bump (p : Pkg) (k c : Nat) (hc : c < 2 ^ 32) :
    ((p.write k (toBytes 4 c)).bump (k + 36)).num (k + 0) 4 = c ∧ p.Rises ((p.write k (toBytes 4 c)).bump (k + 36)) k 36
    ∧ ∀ a m, p.KeepsBytes ((p.write k (toBytes 4 c)).bump (k + 36)) k [0, 36] a m := by
  refine ⟨?_, ?_, fun a m x hx _ => ?_⟩
  · rw [num_bump_apart _ _ _ _ (by omega), Nat.add_zero, num_write_same]
    exact Nat.mod_eq_of_lt hc
  · rw [Rises, num_bump_same, num_write_apart _ _ _ _ _ (by rw [toBytes_length]; omega)]
  · rw [byte_bump_out _ _ _ (hx 36 (by simp)), byte_write_out _ _ _ _ (by rw [toBytes_length]; exact hx 0 (by simp))]

theorem homeStep_pop_stack (hp : p.poisoned op.home 64 = none) (hk : op.kind = .pop ∨ op.kind = .popw) (hor : op.orphan = false)
    (hl : Spec.HomeLegal p op) (hn : 0 < p.num op.home 4) (hkind : p.num (op.home + 4) 4 / 2 ^ 30 % 4 = 0)
    (hc : Spec.Clean p op.crew (elemVa p op.home (p.num op.home 4 - 1)) (2 ^ Spec.elog (p.num (op.home + 4) 4))) :
    (homeStep er p op).pools.find? op.num = some { op with answer := some (0,
        p.bytes (winAt p op.crew (elemVa p op.home (p.num op.home 4 - 1))) (2 ^ Spec.elog (p.num (op.home + 4) 4))) }
    ∧ p.KeepsOps (homeStep er p op) [op.num] ∧ (homeStep er p op).num (op.home + 0) 4 = p.num op.home 4 - 1
    ∧ p.Rises (homeStep er p op) op.home 36 ∧ p.KeepsBytes (homeStep er p op) op.home [0, 36] 0 0 := by
  rw [homeStep_pop hp hk hor hl (homePop_stack hn hkind hc)]
  have hlt := p.num_lt op.home 4
  obtain ⟨h0, h36, hkeep⟩ := p.write_bump op.home (p.num op.home 4 - 1) (by omega)
  exact ⟨Pkg.find?_setOp_same _ _, Pkg.keepsOps_setOp rfl rfl, h0, h36, hkeep 0 0⟩

theorem homeStep_pop_bag (hp : p.poisoned op.home 64 = none) (hk : op.kind = .pop ∨ op.kind = .popw) (hor : op.orphan = false)
    (hl : Spec.HomeLegal p op) (hn : 0 < p.num op.home 4) (hkind : p.num (op.home + 4) 4 / 2 ^ 30 % 4 ≠ 0)
    (hc : Spec.Clean p op.crew (elemVa p op.home (p.num op.home 4 - 1)) (2 ^ Spec.elog (p.num (op.home + 4) 4)))
    (hc0 : Spec.Clean p op.crew (elemVa p op.home 0) (2 ^ Spec.elog (p.num (op.home + 4) 4)))
    (hap : winAt p op.crew (elemVa p op.home 0) + 2 ^ Spec.elog (p.num (op.home + 4) 4) ≤ op.home
      ∨ op.home + 64 ≤ winAt p op.crew (elemVa p op.home 0)) :
    (homeStep er p op).pools.find? op.num = some { op with answer := some (0,
        p.bytes (winAt p op.crew (elemVa p op.home 0)) (2 ^ Spec.elog (p.num (op.home + 4) 4))) }
    ∧ p.KeepsOps (homeStep er p op) [op.num] ∧ (homeStep er p op).num (op.home + 0) 4 = p.num op.home 4 - 1
    ∧ p.Rises (homeStep er p op) op.home 36
    ∧ (homeStep er p op).bytes (winAt p op.crew (elemVa p op.home 0)) (2 ^ Spec.elog (p.num (op.home + 4) 4))
        = p.bytes (winAt p op.crew (elemVa p op.home (p.num op.home 4 - 1))) (2 ^ Spec.elog (p.num (op.home + 4) 4))
    ∧ p.KeepsBytes (homeStep er p op) op.home [0, 36] (winAt p op.crew (elemVa p op.home 0)) (2 ^ Spec.elog (p.num (op.home + 4) 4)) := by
  obtain ⟨w, hw, hpop⟩ := homePop_bag (er := er) hn hkind hc hc0
  rw [homeStep_pop hp hk hor hl hpop]
  have hlt := p.num_lt op.home 4
  have hlen := p.bytes_length (winAt p op.crew (elemVa p op.home (p.num op.home 4 - 1))) (2 ^ Spec.elog (p.num (op.home + 4) 4))
  obtain ⟨h0, h36, hkeep⟩ := w.write_bump op.home (p.num op.home 4 - 1) (by omega)
  refine ⟨Pkg.find?_setOp_same _ _, Pkg.keepsOps_setOp rfl hw.pools, h0, hw.rises (by decide) (by rwa [hlen]) h36, ?_, ?_⟩
  · rw [Pkg.setOp_bytes, (hkeep 0 0).bytes_apart (by decide) hap]
    have h := hw.bytes_same
    rwa [hlen] at h
  · have h := hw.keepsBytes (hkeep _ _)
    rw [hlen] at h
    exact h

theorem homeStep_pop_empty (hp : p.poisoned op.home 64 = none) (hk : op.kind = .pop ∨ op.kind = .popw) (hor : op.orphan = false)
    (hl : Spec.HomeLegal p op) (hn : p.num op.home 4 = 0) (hno : op.kind = .pop
      ∨ 2 ^ (p.num (op.home + 4) 4 % 2 ^ 4) ≤ (p.num (op.home + 28) 4 + 2 ^ 32 - p.num (op.home + 24) 4) % 2 ^ 32) :
    (homeStep er p op).pools.find? op.num = some { op with answer := some (1, []) } ∧ p.KeepsOps (homeStep er p op) [op.num]
    ∧ p.Rises (homeStep er p op) op.home 40 ∧ p.Rises (homeStep er p op) op.home 36
    ∧ p.KeepsBytes (homeStep er p op) op.home [36, 40] 0 0 := by
  rw [homeStep_pop hp hk hor hl (homePop_empty hn hno)]
  obtain ⟨h40, h36, hkeep⟩ := p.bump_bump op.home 40 36 (by decide)
  exact ⟨Pkg.find?_setOp_same _ _, Pkg.keepsOps_setOp rfl rfl, h40, h36, fun x hx => hkeep 0 0 x (by simpa [and_comm] using hx)⟩

theorem homeStep_pop_joins (hp : p.poisoned op.home 64 = none) (hk : op.kind = .popw) (hor : op.orphan = false)
    (hl : Spec.HomeLegal p op) (hn : p.num op.home 4 = 0)
    (hroom : (p.num (op.home + 28) 4 + 2 ^ 32 - p.num (op.home + 24) 4) % 2 ^ 32 < 2 ^ (p.num (op.home + 4) 4 % 2 ^ 4))
    (hc : Spec.Clean p op.crew (waiterVa p op.home (p.num (op.home + 28) 4)) 8)
    (hap : winAt p op.crew (waiterVa p op.home (p.num (op.home + 28) 4)) + 8 ≤ op.home
      ∨ op.home + 64 ≤ winAt p op.crew (waiterVa p op.home (p.num (op.home + 28) 4)))
    (hfit : op.tag + op.core * 2 ^ 16 + op.sn * 2 ^ 29 < 2 ^ 64) :
    (homeStep er p op).pools.find? op.num = some { op with joined := true } ∧ p.KeepsOps (homeStep er p op) [op.num]
    ∧ p.Rises (homeStep er p op) op.home 28
    ∧ (homeStep er p op).num (winAt p op.crew (waiterVa p op.home (p.num (op.home + 28) 4))) 8 = op.tag + op.core * 2 ^ 16 + op.sn * 2 ^ 29
    ∧ p.KeepsBytes (homeStep er p op) op.home [28] (winAt p op.crew (waiterVa p op.home (p.num (op.home + 28) 4))) 8 := by
  obtain ⟨w, hw, hpop⟩ := homePop_joins (er := er) hn hk hroom hc
  rw [homeStep_pop hp (.inr hk) hor hl hpop]
  have hlen := toBytes_length 8 (op.tag + op.core * 2 ^ 16 + op.sn * 2 ^ 29)
  refine ⟨Pkg.find?_setOp_same _ _, Pkg.keepsOps_setOp rfl hw.pools, hw.rises (by decide) (by rwa [hlen]) (Pkg.num_bump_same _ _), ?_, fun x hx ha => ?_⟩
  · have h := hw.bytes_same
    rw [hlen] at h
    rw [Pkg.setOp_num, Pkg.num_bump_apart _ _ _ _ (by omega), Pkg.num, h, ofBytes_toBytes]
    exact Nat.mod_eq_of_lt hfit
  · rw [Pkg.setOp_byte, Pkg.byte_bump_out _ _ _ (hx 28 (by simp)), hw.byte_out x (by rwa [hlen])]

end

end Sys2Proof.Machine
end

section
/-! SUPPORT. What a refusal at the home and the arrival of each answer leave of the operation, its strand and memory (R314, R317, R400). -/

namespace Sys2Proof.Machine

/-- A refusal answers 3 and tells the strand; memory and the other operations stay. -/
theorem homeStep_refused_spec {er : Nat} {p : Pkg} {op : PoolOp} (hp : p.poisoned op.home 64 = none) (hk : op.kind ≠ .init)
    (ho : op.orphan = false) (hl : ¬ Spec.HomeLegal p op) :
    (homeStep er p op).pools.find? op.num = some { op with answer := some (3, []) } ∧ p.KeepsOps (homeStep er p op) [op.num]
    ∧ (homeStep er p op).mem = p.mem ∧ Spec.Told p (homeStep er p op) op.strand 0x22 (BitVec.ofNat 64 op.desc) := by
  have htold := Pkg.told_asyncTo (p.setOp { op with answer := some (3, []) }) op.strand 0x22 (BitVec.ofNat 64 op.desc)
  have hpools : ((p.setOp { op with answer := some (3, []) }).asyncTo op.strand 0x22 (BitVec.ofNat 64 op.desc)).pools
      = (p.setOp { op with answer := some (3, []) }).pools := by rw [Pkg.asyncTo_frame]
  rw [homeStep_refused hp hk ho hl]
  refine ⟨?_, fun m hm => ?_, by rw [Pkg.asyncTo_frame]; rfl, htold⟩
  · rw [hpools]; exact Pkg.find?_setOp_same _ _
  · rw [hpools]; exact Pkg.keepsOps_setOp rfl rfl m hm

section
variable {er : Nat} {p : Pkg} {op : PoolOp} {st : Strand} {status : Nat} {elem : List Byte}

/-- The element's register is all that its write changes. -/
theorem Pkg.elemTo_frame (p : Pkg) (op : PoolOp) (got : List Byte) : p.elemTo op got = { p with strands := (p.elemTo op got).strands } := by
  unfold elemTo
  split <;> rfl

/-- An answer that goes to registers alone. -/
theorem answer_register (hs : op.steal = false) (hm : op.mem = none ∨ status ≠ 0 ∨ op.kind = .push)
    (hst : (p.elemTo op (if status = 0 then elem else [])).strands.find? op.strand = some st) :
    ∃ q, takeAnswer er p op status elem = some q ∧ q.pools.find? op.num = none ∧ p.KeepsOps q [op.num] ∧ q.mem = p.mem
      ∧ (status = 0 ∧ op.kind ≠ .push → ∀ e ∈ q.early, e.strand ≠ op.strand)
      ∧ q.strands.find? op.strand = some { st.poolWrite op.xd op.num (BitVec.ofNat 64 status) with
          acqAt := if status = 0 ∧ op.kind ≠ .push then p.tick else (st.poolWrite op.xd op.num (BitVec.ofNat 64 status)).acqAt } := by
  obtain ⟨h1, h2, h3, h4, h5⟩ := Pkg.answered_spec status hst
  refine ⟨_, takeAnswer_register hs hm, h1, ?_⟩
  rw [Pkg.elemTo_frame] at h2 h3 h5
  rw [Pkg.elemTo_frame]
  exact ⟨h2, h3, by rw [← Pkg.elemTo_frame]; exact h4, h5⟩

/-- An answer whose element goes to memory. -/
theorem answer_memory {va : Nat} (hs : op.steal = false) (hx : op.xe = none) (hm : op.mem = some va) (hk : op.kind ≠ .push)
    (hst : p.strands.find? op.strand = some st) (hrun : Spec.CleanRun p op.crew va elem.length) :
    ∃ q, takeAnswer er p op 0 elem = some q ∧ q.pools.find? op.num = none ∧ p.KeepsOps q [op.num]
      ∧ (∀ e ∈ q.early, e.strand ≠ op.strand)
      ∧ q.strands.find? op.strand = some { st.poolWrite op.xd op.num (BitVec.ofNat 64 0) with acqAt := p.tick }
      ∧ q.bytes (winAt p op.crew va) elem.length = elem
      ∧ ∀ j, ¬(winAt p op.crew va ≤ j ∧ j < winAt p op.crew va + elem.length) → q.byte j = p.byte j := by
  obtain ⟨w, hw, hwrote⟩ := Pkg.engWrite_run hrun er (op.at p) op.sup
  obtain ⟨h1, h2, h3, h4, h5⟩ := Pkg.answered_spec 0 (hwrote.strands ▸ hst : w.strands.find? op.strand = some st)
  have htick : w.tick = p.tick := (congrArg Pkg.tick hwrote.2 :)
  refine ⟨_, takeAnswer_memory hs hx hm hk hw, h1, fun m hm => ?_, h4 ⟨rfl, hk⟩, ?_, ?_, fun j hj => ?_⟩
  · rw [h2 m hm, hwrote.pools]
  · rw [h5, if_pos ⟨rfl, hk⟩, htick]
  · exact (Pkg.bytes_congr fun x _ _ => Pkg.byte_of_mem h3 x).trans hwrote.bytes_same
  · exact (Pkg.byte_of_mem h3 j).trans (hwrote.byte_out j hj)

/-- A STEAL without a record: its strand learns the status. -/
theorem stealAnswer_status_spec (h : p.strands.find? op.strand = some st) (hr : st.run = .blocked (.answer op.num)) (hst : status ≠ 0) :
    (stealAnswer p op status elem).pools.find? op.num = none ∧ p.KeepsOps (stealAnswer p op status elem) [op.num]
    ∧ (stealAnswer p op status elem).mem = p.mem
    ∧ (stealAnswer p op status elem).strands.find? op.strand = some { st with run := .ready, grant := some (.num status) } := by
  rw [stealAnswer_status h hr hst]
  refine ⟨RMap.find?_del_same _ _, fun m hm => RMap.find?_del_ne _ _ _ (by simpa using hm), rfl, ?_⟩
  rw [Pkg.rouse, Pkg.modStrand_strands, RMap.find?_modify_same, h]
  rfl

/-- A record that cannot run: its strand is told, and learns status 3. -/
theorem stealAnswer_bad_spec (h : p.strands.find? op.strand = some st) (hr : st.run = .blocked (.answer op.num)) (hl : st.lost = false)
    (hb : ¬ RecordRuns elem) :
    (stealAnswer p op 0 elem).pools.find? op.num = none ∧ p.KeepsOps (stealAnswer p op 0 elem) [op.num] ∧ (stealAnswer p op 0 elem).mem = p.mem
    ∧ (stealAnswer p op 0 elem).strands.find? op.strand = some { st with
        run := .ready, grant := some (.num 3), async := st.async ++ [{ cause := 0x22, tval := BitVec.ofNat 64 op.desc }] } := by
  rw [stealAnswer_bad h hr hb, Pkg.asyncTo_live (p := { p with pools := RMap.del p.pools op.num }) h (by simp [hr]) hl]
  refine ⟨RMap.find?_del_same _ _, fun m hm => RMap.find?_del_ne _ _ _ (by simpa using hm), rfl, ?_⟩
  rw [Pkg.rouse, Pkg.modStrand_strands, RMap.find?_modify_same, Pkg.modStrand_strands, RMap.find?_modify_same, h]
  rfl

/-- The package in which the STEAL of a strand has been answered with a record that runs: the answer is taken, and is an acquire. -/
theorem Pkg.stolen_strand (h : p.strands.find? op.strand = some st) :
    ((p.setOp { op with joined := true }).popped op.strand).strands.find? op.strand = some { st with acqAt := p.tick } := by
  rw [popped, modStrand_strands, RMap.find?_modify_same]
  exact congrArg (Option.map _) h

theorem Pkg.popped_early (p : Pkg) (u : Nat) : ∀ e ∈ (p.popped u).early, e.strand ≠ u :=
  fun e he => by simpa using (List.mem_filter.1 he).2

theorem Pkg.giveSlot_strand (p : Pkg) (cl n : Nat) (w : RqWait) : (p.giveSlot cl n w).strands.find? w.strand =
    (p.strands.find? w.strand).map (fun st => { st with run := .ready, grant := some (.rslot n) }) := by
  rw [giveSlot, rouse, modStrand_strands, RMap.find?_modify_same]
  rfl

/-- A record that runs enters the slot that is free for it. -/
theorem stealAnswer_slot_spec {m : Nat} (h : p.strands.find? op.strand = some st) (hr : st.run = .blocked (.answer op.num))
    (hb : RecordRuns elem) (hm : p.takeSlot (st.core / 24) op.crew (recN elem 12 1) = some m) :
    p.KeepsOps (stealAnswer p op 0 elem) [op.num] ∧ (stealAnswer p op 0 elem).pools.find? op.num = some { op with joined := true }
    ∧ (stealAnswer p op 0 elem).mem = p.mem ∧ (∀ e ∈ (stealAnswer p op 0 elem).early, e.strand ≠ op.strand)
    ∧ Spec.Entered' p (stealAnswer p op 0 elem) (st.core / 24) m op.crew (stolenWait op st elem).bytes
    ∧ (stealAnswer p op 0 elem).strands.find? op.strand = some { st with run := .ready, grant := some (.rslot m), acqAt := p.tick } := by
  rw [stealAnswer_runs h hr hb, hm, Option.elim_some]
  obtain ⟨hent, hframe⟩ := ((p.setOp { op with joined := true }).popped op.strand).giveSlot_spec (st.core / 24) m (stolenWait op st elem)
  refine ⟨?_, ?_, ?_, ?_, hent, (Pkg.giveSlot_strand _ _ _ _).trans (congrArg (Option.map _) (Pkg.stolen_strand h))⟩ <;> rw [hframe]
  · exact Pkg.keepsOps_setOp rfl rfl
  · exact Pkg.find?_setOp_same _ _
  · rfl
  · exact Pkg.popped_early _ _

/-- A record that runs waits for a slot when none is free for it. -/
theorem stealAnswer_wait_spec (h : p.strands.find? op.strand = some st) (hr : st.run = .blocked (.answer op.num))
    (hb : RecordRuns elem) (hm : p.takeSlot (st.core / 24) op.crew (recN elem 12 1) = none) :
    p.KeepsOps (stealAnswer p op 0 elem) [op.num] ∧ (stealAnswer p op 0 elem).pools.find? op.num = some { op with joined := true }
    ∧ (stealAnswer p op 0 elem).mem = p.mem ∧ (∀ e ∈ (stealAnswer p op 0 elem).early, e.strand ≠ op.strand)
    ∧ (stealAnswer p op 0 elem).strands.find? op.strand = some { st with run := .blocked .runq, acqAt := p.tick }
    ∧ ((stealAnswer p op 0 elem).cluster (st.core / 24)).rqWaits = (p.cluster (st.core / 24)).rqWaits ++ [stolenWait op st elem] := by
  rw [stealAnswer_runs h hr hb, hm, Option.elim_none]
  refine ⟨Pkg.keepsOps_setOp rfl rfl, Pkg.find?_setOp_same _ _, rfl, Pkg.popped_early _ _, ?_, ?_⟩
  · rw [Pkg.modStrand_strands, RMap.find?_modify_same]
    exact congrArg (Option.map _) (Pkg.stolen_strand h)
  · show ((Pkg.setCluster _ _ _).cluster _).rqWaits = _
    rw [Pkg.cluster_setCluster_same]

end

end Sys2Proof.Machine
end

section
/-! Pool operations on their way (O49). -/

namespace Sys2Proof.Machine

/-! ### At a switch -/

theorem Pkg.heldAt_length (p : Pkg) (sw : Nat) : (p.heldAt sw).length =
    (p.pools.filter (fun e => e.2.held && decide (p.swcyc < e.2.till) && e.2.path.head? == some sw)).length := by
  rw [heldAt, RMap.vals, List.filter_map, List.length_map]
  rfl

section
variable {s : State} {sw : Nat} {op : PoolOp} {rest : List Nat} {e : List Byte}

/-- What the switch makes of an operation that has left its core. -/
theorem arrive_departed (p : Pkg) : arrive (p.atPort sw op.port) sw { op with sent := true, elem := e } =
    ((p.mates sw op).foldl older none).elim
      (if 0 < op.budget ∧ (p.heldAt sw).length < 32 then
        (p.atPort sw op.port).setOp { op with
          sent := true, elem := e, held := true, arrival := p.swcyc
          till := p.swcyc + min (op.params / 2 ^ 9 % 2 ^ 6 + 1) op.budget
          budget := op.budget - min (op.params / 2 ^ 9 % 2 ^ 6 + 1) op.budget }
      else (p.atPort sw op.port).setOp ({ op with sent := true, elem := e } : PoolOp).forward)
      (fun o => if op.kind = .push then (p.atPort sw op.port).pair { op with sent := true, elem := e } o
        else (p.atPort sw op.port).pair o { op with sent := true, elem := e }) := by
  rw [arrive_eq]
  rfl

/-- With no mate the operation is held while its budget and the store allow. -/
theorem arrive_held (p : Pkg) (hno : p.mates sw op = []) (hb : 0 < op.budget) (hroom : (p.heldAt sw).length < 32) :
    arrive (p.atPort sw op.port) sw { op with sent := true, elem := e } = (p.atPort sw op.port).setOp { op with
      sent := true, elem := e, held := true, arrival := p.swcyc, till := p.swcyc + min (op.params / 2 ^ 9 % 2 ^ 6 + 1) op.budget
      budget := op.budget - min (op.params / 2 ^ 9 % 2 ^ 6 + 1) op.budget } := by
  rw [arrive_departed, hno, List.foldl_nil, Option.elim_none, if_pos ⟨hb, hroom⟩]

/-- With no mate, and no budget or no room, it goes on. -/
theorem arrive_on (p : Pkg) (hno : p.mates sw op = []) (hp : op.path = sw :: rest) (h : op.budget = 0 ∨ ¬(p.heldAt sw).length < 32) :
    arrive (p.atPort sw op.port) sw { op with sent := true, elem := e } = (p.atPort sw op.port).setOp { op with
      sent := true, elem := e, held := false, path := rest, port := portAfter sw op.port rest } := by
  rw [arrive_departed, hno, List.foldl_nil, Option.elim_none, if_neg (by omega),
    PoolOp.forward_eq (op := { op with sent := true, elem := e }) hp]

/-- With its oldest mate it pairs. -/
theorem arrive_pairs (p : Pkg) {o : PoolOp} (ho : o ∈ p.mates sw op)
    (hmin : ∀ x ∈ p.mates sw op, x ≠ o → o.arrival < x.arrival ∨ (o.arrival = x.arrival ∧ o.port < x.port)) :
    arrive (p.atPort sw op.port) sw { op with sent := true, elem := e } =
      (p.atPort sw op.port).pair (if op.kind = .push then { op with sent := true, elem := e } else o)
        (if op.kind = .push then o else { op with sent := true, elem := e }) := by
  rw [arrive_departed, foldl_older hmin (by simp) (.inl ho), Option.elim_some]
  split <;> rfl

theorem Pkg.atPort_swPorts (p : Pkg) (sw port : Nat) : (p.atPort sw port).swPorts.find? sw = some (p.swcyc, port) := RMap.find?_put_same _ _ _

end

/-- Settles O49: at a switch by the oldest mate, at the home by the case that its descriptor and list put the operation in, at its core by the
state of the crew that the answer is for. -/
theorem poolOperationsTravel : Obligations.PoolOperationsTravel := by
  intro s n op op' hf hn hd
  subst hn
  obtain ⟨⟨e, rfl⟩, hpop⟩ := PoolOp.of_departs hd
  refine ⟨?_, ?_, ?_, ?_, ?_⟩
  · intro sw rest hp hh hk ht hport
    have hexec := exec_poolSwitchArrival hf hd hp hh hk ht hport
    refine ⟨fun hno hb hroom => ?_, fun hno h => ?_, fun o ho hne hmin hlen => ?_⟩
    · have hm : s.pkg.mates sw op = [] := List.eq_nil_iff_forall_not_mem.2 fun o ho => hno o (Pkg.mem_mates.1 ho)
      rw [arrive_held s.pkg hm hb (by rwa [Pkg.heldAt_length])] at hexec
      exact ⟨_, ⟨hexec, rfl, Pkg.atPort_swPorts _ _ _⟩, Pkg.keepsOps_setOp rfl rfl, rfl, Pkg.find?_setOp_same _ _⟩
    · have hm : s.pkg.mates sw op = [] := List.eq_nil_iff_forall_not_mem.2 fun o ho => hno o (Pkg.mem_mates.1 ho)
      rw [arrive_on s.pkg hm hp (by rwa [Pkg.heldAt_length])] at hexec
      exact ⟨_, ⟨hexec, rfl, Pkg.atPort_swPorts _ _ _⟩, Pkg.keepsOps_setOp rfl rfl, rfl, Pkg.find?_setOp_same _ _⟩
    · rw [arrive_pairs s.pkg (Pkg.mem_mates.2 ho) (fun x hx => hmin x (Pkg.mem_mates.1 hx))] at hexec
      obtain ⟨hmem, hports, hnow, hnow', hothers, hpairs⟩ := Pkg.pair_spec (s.pkg.atPort sw op.port)
        (if op.kind = .push then { op with sent := true, elem := e } else o) (if op.kind = .push then o else { op with sent := true, elem := e })
        (by split; exacts [Ne.symm hne, hne]) hlen
      refine ⟨_, ⟨hexec, hmem, (congrArg (RMap.find? · sw) hports).trans (Pkg.atPort_swPorts _ _ _)⟩, hnow, hnow', fun m hm => hothers m ?_, hpairs⟩
      split <;> simpa [and_comm] using hm
  · intro sw rest hp hh htill
    show execPoolHoldExpiry op.num s = _
    unfold execPoolHoldExpiry
    simp only [hf, hh, htill, and_self, if_true, PoolOp.forward_eq hp]
    rfl
  · intro m x hx
    show execPairsIncrement m s = _
    unfold execPairsIncrement
    simp only [hx, bytes_eq_toBytes]
    rfl
  · intro hp ht hpois
    let q : PoolOp := { op with sent := true, elem := e }
    have hexec := exec_poolHomeArrival hf hd hp ht
    refine ⟨fun hk => ?_, fun hor hk hl => ?_, fun hor hk hl => ⟨fun o hne hlist ho hon hnamed huniq hlen => ?_, fun heq hroom hst hlen => ?_,
      fun heq hfull => ?_⟩, fun hor hk hl => ⟨fun hn hkind hst => ?_, fun hn hkind hst hst0 => ?_, fun hn hno => ?_,
      fun hn hkw hroom hlist htag hcore hsn => ?_⟩⟩
    · rw [homeStep_init (op := q) hpois hk] at hexec
      obtain ⟨hmem, hnone, hrest⟩ := homeInit_spec s.pkg q
      have helem : e = op.elem := congrArg PoolOp.elem (hpop (by simp [hk]))
      exact ⟨_, hexec, helem ▸ hmem, hnone, hrest⟩
    · obtain ⟨h1, h2, h3⟩ := homeStep_refused_spec (er := s.er) (op := q) hpois hk hor hl
      exact ⟨_, ⟨hexec, h1⟩, h2, h3⟩
    · obtain ⟨h1, h2, h3, h4⟩ := homeStep_push_waiting (er := s.er) (op := q) hpois hk hor hl hne hlist.1 ho hon rfl
        hnamed huniq hlen
      exact ⟨_, ⟨hexec, h1⟩, h2, h3, h4⟩
    · obtain ⟨h1, h2, h3⟩ := homeStep_push_store (er := s.er) (op := q) hpois hk hor hl heq hroom hst.1 hst.2 hlen
      exact ⟨_, ⟨hexec, h1⟩, h2, h3⟩
    · obtain ⟨h1, h2, h3⟩ := homeStep_push_full (er := s.er) (op := q) hpois hk hor hl heq hfull
      exact ⟨_, ⟨hexec, h1⟩, h2, h3⟩
    · obtain ⟨h1, h2, h3⟩ := homeStep_pop_stack (er := s.er) (op := q) hpois hk hor hl hn hkind hst.1
      exact ⟨_, ⟨hexec, h1⟩, h2, h3⟩
    · obtain ⟨h1, h2, h3⟩ := homeStep_pop_bag (er := s.er) (op := q) hpois hk hor hl hn hkind hst.1 hst0.1 hst0.2
      exact ⟨_, ⟨hexec, h1⟩, h2, h3⟩
    · obtain ⟨h1, h2, h3⟩ := homeStep_pop_empty (er := s.er) (op := q) hpois hk hor hl hn hno
      exact ⟨_, ⟨hexec, h1⟩, h2, h3⟩
    · obtain ⟨h1, h2, h3⟩ := homeStep_pop_joins (er := s.er) (op := q) hpois hkw hor hl hn hroom hlist.1 hlist.2
        (by show op.tag + op.core * 2 ^ 16 + op.sn * 2 ^ 29 < 2 ^ 64; omega)
      exact ⟨_, hexec, h1, h2, h3⟩
  · intro status elem st ha hst
    refine ⟨fun hres hs => ⟨fun hk hxe => ?_, fun r hk hxe hm => ?_, fun va hk hxe hm h0 => ?_, fun va hk hxe hm h0 hrun => ?_⟩,
      fun hres hs hj hr h0 => ?_, fun hres hs hj hr h0 => ⟨fun hruns m hm => ?_, fun hruns hm => ?_, fun hruns hl => ?_⟩,
      fun hsaved hs => ?_, fun he hs h0 hk => ?_⟩
    · obtain ⟨q, hq, hspec⟩ := answer_register (er := s.er) (p := s.pkg) (elem := elem) (status := status) hs (.inr (.inr hk))
        (by rw [Pkg.elemTo, hxe]; exact hst)
      exact ⟨q, exec_poolAnswerArrival hf ha hres (.inl hs) hq, hspec⟩
    · obtain ⟨q, hq, hspec⟩ := answer_register (er := s.er) (p := s.pkg) (elem := elem) (status := status) hs (.inl hm)
        (Pkg.elemTo_strand _ hst hxe)
      rw [apply_ite ofBytes] at hspec
      exact ⟨q, exec_poolAnswerArrival hf ha hres (.inl hs) hq, hspec⟩
    · obtain ⟨q, hq, hspec⟩ := answer_register (er := s.er) (p := s.pkg) (elem := elem) (status := status) hs (.inr (.inl h0))
        (by rw [Pkg.elemTo, hxe]; exact hst)
      exact ⟨q, exec_poolAnswerArrival hf ha hres (.inl hs) hq, hspec⟩
    · subst h0
      have hk' : op.kind ≠ .push := by rcases hk with hk | hk <;> simp [hk]
      obtain ⟨q, hq, h1, h2, h3, h4, h5⟩ := answer_memory (er := s.er) hs hxe hm hk' hst hrun
      exact ⟨q, exec_poolAnswerArrival hf ha hres (.inl hs) hq, h1, h2, fun _ => h3, h4, h5⟩
    · obtain ⟨h1, h2, h3, h4⟩ := stealAnswer_status_spec (elem := elem) hst hr h0
      refine ⟨_, exec_poolAnswerArrival hf ha hres (.inr hj) (if_pos hs), h1, h2, h3, fun hgot => absurd hgot.1 h0, ?_⟩
      rw [if_neg (fun hgot => h0 hgot.1)]
      exact h4
    · subst h0
      obtain ⟨h1, h2, h3, h4, h5, h6⟩ := stealAnswer_slot_spec hst hr hruns hm
      exact ⟨_, ⟨exec_poolAnswerArrival hf ha hres (.inr hj) (if_pos hs), h1, h2, h3, fun _ => h4⟩, h5, h6⟩
    · subst h0
      obtain ⟨h1, h2, h3, h4, h5, h6⟩ := stealAnswer_wait_spec hst hr hruns hm
      exact ⟨_, ⟨exec_poolAnswerArrival hf ha hres (.inr hj) (if_pos hs), h1, h2, h3, fun _ => h4⟩, h5, h6⟩
    · subst h0
      obtain ⟨h1, h2, h3, h4⟩ := stealAnswer_bad_spec hst hr hl hruns
      exact ⟨_, exec_poolAnswerArrival hf ha hres (.inr hj) (if_pos hs), h1, h2, h3, h4⟩
    · refine ⟨_, exec_poolAnswerArrival_saved hf ha hsaved hs, RMap.find?_del_same _ _, fun m hm => RMap.find?_del_ne _ _ _ (by simpa using hm), rfl, ?_⟩
      simp [Pkg.crew]
    · subst h0
      have hk' : op.kind ≠ .push := by rcases hk with hk | hk <;> simp [hk]
      refine ⟨_, exec_poolAnswerArrival_ended hf ha he hs hk', fun m hm => ?_, ?_⟩
      · rw [Pkg.notify_pools]; exact Pkg.keepsOps_setOp rfl rfl m hm
      · exact (congrArg (RMap.find? · op.num) (Pkg.notify_pools ..)).trans (Pkg.find?_setOp_same _ (op.orphaned elem))

end Sys2Proof.Machine
end

section
/-! The state after reset (O58). -/

namespace Sys2Proof.Machine

/-- Settles O58: every field of the reset state reads its value off; that memory is canonical is the model's own law of reset. -/
theorem resetLeavesNothingRunning : Obligations.ResetLeavesNothingRunning := by
  have hcomm : ∀ n, (State.reset.host.comm.get 0 n).getLsbD 31 = false := fun _ => BitVec.getLsbD_zero
  exact ⟨rfl, rfl, rfl, rfl, rfl, rfl, rfl, rfl, rfl, fun _ => rfl, fun _ => rfl, fun _ _ => rfl, rfl, rfl, rfl, rfl, rfl, rfl, rfl, rfl, rfl, rfl,
    rfl, rfl, hcomm, fun _ => rfl, rfl, rfl, rfl, fun _ => rfl, reset_canonical, fun _ => rfl⟩

end Sys2Proof.Machine
end

section
/-! SUPPORT. Islands, ports and the PCIe link (R21, R184, R389, R403, R420, R422). -/

namespace Sys2Proof.Machine

/-! ### Islands -/

/-- Setting an island sets it alone. -/
theorem HostRegs.setIsland_spec (h : HostRegs) (i : Nat) (x : Island) : (h.setIsland i x).islands.get .running i = x
    ∧ (∀ j, j ≠ i → (h.setIsland i x).islands.get .running j = h.islands.get .running j)
    ∧ h.setIsland i x = { h with islands := (h.setIsland i x).islands } :=
  ⟨RMap.get_set_same _ _ _ _, fun _ hj => RMap.get_set_ne _ _ _ _ _ hj, rfl⟩

theorem HostRegs.stopped_iff (h : HostRegs) (i : Nat) : h.stopped i = true ↔ h.islands.get .running i = .stopped := by
  simp [stopped]

/-- The holds that a stop sends change the messages and the list of holds alone. -/
theorem Pkg.sendHolds_all (p : Pkg) (l : List Nat) (comms : Pkg → Nat → List Nat) :
    l.foldl (fun p cu => p.sendHolds cu (comms p cu)) p = { p with
      outbox := (l.foldl (fun p cu => p.sendHolds cu (comms p cu)) p).outbox
      holdsOut := (l.foldl (fun p cu => p.sendHolds cu (comms p cu)) p).holdsOut } := by
  refine List.foldlRecOn (motive := fun q : Pkg => q = { p with outbox := q.outbox, holdsOut := q.holdsOut }) l _ rfl fun q hq cu _ => ?_
  rw [hq]
  rfl

/-- One crew of an island that resumes: its holds are released, and a deadline that fell during the stop begins its save (R420). -/
def Pkg.resumed (p : Pkg) (cu : Nat) : Pkg :=
  if (p.sendReleases cu).due cu then (p.sendReleases cu).setCrew cu ((p.sendReleases cu).crew cu).force else p.sendReleases cu

/-- A resumed crew changes the messages, the list of holds and the crews alone. -/
theorem Pkg.resumed_frame (p : Pkg) (cu : Nat) :
    p.resumed cu = { p with outbox := (p.resumed cu).outbox, holdsOut := (p.resumed cu).holdsOut, crews := (p.resumed cu).crews } := by
  unfold resumed
  split <;> rfl

theorem Pkg.resumed_holds (p : Pkg) (cu : Nat) : (p.resumed cu).holdsOut = p.holdsOut.filter (fun h => h.1 != cu) := by
  unfold resumed
  split <;> rfl

theorem Pkg.resumed_crew_ne (p : Pkg) {cu v : Nat} (h : v ≠ cu) : (p.resumed cu).crew v = p.crew v := by
  unfold resumed
  split
  · simp only [crew, setCrew, RMap.find?_put_ne _ _ _ _ h, sendReleases]
  · rfl

/-- A crew's deadline is judged by the crew, the clock, the launches and the strands. -/
theorem Pkg.due_congr {p q : Pkg} {cu : Nat} (hc : q.crew cu = p.crew cu) (ht : q.time = p.time) (hl : q.launches = p.launches)
    (hs : q.strands = p.strands) : q.due cu = p.due cu := by
  simp only [due, hc, ht, launch, hl, hs]

theorem Pkg.resumed_due {p : Pkg} {cu : Nat} (h : p.due cu = true) : ((p.resumed cu).crew cu).st = .saving true := by
  have hd : (p.sendReleases cu).due cu = true := h
  rw [resumed, if_pos hd]
  simp [crew, Crew.force]

theorem Pkg.due_resumed_ne (p : Pkg) {cu v : Nat} (h : cu ≠ v) : (p.resumed v).due cu = p.due cu := by
  refine due_congr (resumed_crew_ne p h) ?_ ?_ ?_ <;> rw [resumed_frame]

theorem Pkg.saving_resumed {p : Pkg} {cu v : Nat} (h : (p.crew cu).st = .saving true) : ((p.resumed v).crew cu).st = .saving true := by
  by_cases hv : cu = v
  · subst hv
    have hd : (p.sendReleases cu).due cu = false := by simp [due, crew, sendReleases] at h ⊢; simp [h]
    rw [resumed, hd]
    exact h
  · rw [resumed_crew_ne p hv]; exact h

section
variable (p : Pkg) (l : List Nat)

theorem Pkg.resumed_all_frame : l.foldl resumed p =
    { p with outbox := (l.foldl resumed p).outbox, holdsOut := (l.foldl resumed p).holdsOut, crews := (l.foldl resumed p).crews } := by
  refine List.foldlRecOn (motive := fun q : Pkg => q = { p with outbox := q.outbox, holdsOut := q.holdsOut, crews := q.crews }) l _ rfl
    fun q hq cu _ => ?_
  rw [resumed_frame, hq]

theorem Pkg.resumed_all_strands : (l.foldl resumed p).strands = p.strands := by rw [resumed_all_frame]
theorem Pkg.resumed_all_mem : (l.foldl resumed p).mem = p.mem := by rw [resumed_all_frame]

/-- The holds of every crew that resumes are released. -/
theorem Pkg.resumed_all_holds : ∀ h ∈ (l.foldl resumed p).holdsOut, h ∈ p.holdsOut ∧ h.1 ∉ l := by
  induction l generalizing p with
  | nil => simp
  | cons cu l ih =>
    intro h hh
    obtain ⟨hm, hl⟩ := ih (p.resumed cu) h hh
    rw [resumed_holds, List.mem_filter, bne_iff_ne] at hm
    exact ⟨hm.1, by simp [hm.2, hl]⟩

/-- A crew whose deadline has passed is being saved when its island has resumed. -/
theorem Pkg.resumed_all_due {p : Pkg} {l : List Nat} {cu : Nat} (hd : p.due cu = true) (hcu : cu ∈ l) :
    ((l.foldl resumed p).crew cu).st = .saving true := by
  induction l generalizing p with
  | nil => cases hcu
  | cons v l ih =>
    rw [List.foldl_cons]
    by_cases hv : cu = v
    · subst hv
      exact List.foldlRecOn (motive := fun q : Pkg => (q.crew cu).st = .saving true) l _ (resumed_due hd) fun q hq v _ => saving_resumed hq
    · exact ih ((due_resumed_ne p hv).trans hd) ((List.mem_cons.1 hcu).resolve_left hv)

end

/-- The crews resident in a compute island are among those that resume with it. -/
theorem Pkg.mem_crewsOn {p : Pkg} {cu : Nat} {c : Crew} (h : p.crews.find? cu = some c) (hst : c.st = .resident) (hcl : c.cluster < 192) :
    cu ∈ p.crewsOn (c.cluster / 12) := by
  refine List.mem_map.2 ⟨(cu, c), List.mem_filter.2 ⟨RMap.mem_of_find? h, ?_⟩, rfl⟩
  simp [hst, Crew.isSaved, Crew.away, hcl, islandOf]

theorem Pkg.due_of_overdue {p : Pkg} {cu : Nat} {c : Crew} (h : p.crews.find? cu = some c) (hst : c.st = .resident) (hreq : c.req = true)
    (hdl : c.deadline ≤ p.time) (hf : (p.launch c.launch).failed = false)
    (hy : ∀ e ∈ p.strands, e.2.crew = cu → e.2.pend ≠ some (.yield true false)) : p.due cu = true := by
  have hc : p.crew cu = c := by simp [crew, h]
  simp only [due, hc, hst, hreq, hdl, hf, beq_self_eq_true, decide_true, Bool.not_false, Bool.and_self, Bool.true_and, Bool.not_eq_true',
    List.any_eq_false, Bool.and_eq_true, beq_iff_eq, not_and]
  exact hy

section
variable (s : State) {i : Nat}

theorem exec_islandThrottle (hi : i < 18) (hr : s.host.islands.get .running i ≠ .stopped) :
    exec (.islandThrottle i) s = .next (s.withHost (s.host.setIsland i .throttled)) := by
  show execIslandThrottle i s = _
  unfold execIslandThrottle
  simp [hi, HostRegs.stopped, hr]

theorem exec_islandStop (hi : i < 16) (hr : s.host.islands.get .running i ≠ .stopped) :
    exec (.islandStop i) s = .next { s with
      pkg := (s.pkg.crewsOn i).foldl (fun p cu => p.sendHolds cu (p.commsOf cu)) s.pkg, host := s.host.setIsland i .stopped } := by
  show execIslandStop i s = _
  unfold execIslandStop
  rw [if_neg (by simp [HostRegs.stopped_iff, hr, hi])]

theorem exec_islandResume (hr : s.host.islands.get .running i = .stopped) :
    exec (.islandResume i) s = .next { s with pkg := (s.pkg.crewsOn i).foldl Pkg.resumed s.pkg, host := s.host.setIsland i .running } := by
  show execIslandResume i s = _
  unfold execIslandResume
  rw [if_neg (by simp [HostRegs.stopped, hr])]
  rfl

end

/-! ### Loss of a link -/

/-- Strand u of p, if it is there, is there in q with every trap it had pending, as live or lost as it was. -/
def Pkg.KeepsTraps (p q : Pkg) (u : Nat) : Prop := ∀ st, p.strands.find? u = some st →
  ∃ st', q.strands.find? u = some st' ∧ st'.run = st.run ∧ st'.lost = st.lost ∧ ∀ t ∈ st.async, t ∈ st'.async

/-- A trap told changes no strand, or has one of them take it. -/
theorem Pkg.asyncTo_strands (p : Pkg) (u cause : Nat) (tval : X) : (p.asyncTo u cause tval).strands = p.strands
    ∨ ∃ v, (p.asyncTo u cause tval).strands = p.strands.modify v (fun st => { st with async := st.async ++ [{ cause := cause, tval := tval }] }) := by
  unfold asyncTo
  split
  · exact .inl rfl
  · dsimp only
    split
    · exact .inl rfl
    · split
      · exact .inr ⟨u, rfl⟩
      · split
        · exact .inr ⟨_, rfl⟩
        · exact .inl rfl

theorem Pkg.asyncTo_keepsTraps (p : Pkg) (u cause : Nat) (tval : X) (v : Nat) : p.KeepsTraps (p.asyncTo u cause tval) v := by
  intro st h
  rcases p.asyncTo_strands u cause tval with hs | ⟨w, hs⟩
  · exact ⟨st, hs ▸ h, rfl, rfl, fun _ ht => ht⟩
  · rw [hs]
    by_cases hv : v = w
    · subst hv
      exact ⟨_, (RMap.find?_modify_same _ _ _).trans (congrArg (Option.map _) h), rfl, rfl, fun t ht => List.mem_append_left _ ht⟩
    · exact ⟨st, (RMap.find?_modify_ne _ _ _ _ hv).trans h, rfl, rfl, fun _ ht => ht⟩

/-- Collective c is abandoned because the link of a port is lost (R403). -/
def Pkg.unlinked (port : Nat) (p : Pkg) (c : Coll) : Pkg := p.abandonColl c 0x31 (BitVec.ofNat 64 (port + 2 ^ 16 * c.comm)) true

section
variable (port : Nat) (p : Pkg) (c : Coll)

theorem Pkg.unlinked_mem : (p.unlinked port c).mem = p.mem := by rw [unlinked, abandonColl, asyncTo_frame]
theorem Pkg.unlinked_colls : (p.unlinked port c).colls = p.colls.filter (fun d => d.num != c.num) := by
  rw [unlinked, abandonColl, asyncTo_frame]
theorem Pkg.unlinked_outbox : (p.unlinked port c).outbox = p.outbox ++ [.abandon c.comm c.m] := by
  rw [unlinked, abandonColl, asyncTo_frame]; rfl

theorem Pkg.unlinked_keepsTraps (u : Nat) : p.KeepsTraps (p.unlinked port c) u := by
  intro st h
  rw [unlinked, abandonColl]
  exact asyncTo_keepsTraps _ _ _ _ u st h

/-- The strand of an abandoned collective has its trap pending. -/
theorem Pkg.unlinked_told {p : Pkg} {c : Coll} {st : Strand} (h : p.strands.find? c.strand = some st) (hr : st.run ≠ .ended)
    (hl : st.lost = false) : ∃ st', (p.unlinked port c).strands.find? c.strand = some st' ∧ st'.run = st.run ∧ st'.lost = st.lost
      ∧ { cause := 0x31, tval := BitVec.ofNat 64 (port + 2 ^ 16 * c.comm) } ∈ st'.async := by
  refine ⟨_, (told_asyncTo _ c.strand 0x31 (BitVec.ofNat 64 (port + 2 ^ 16 * c.comm))).1 st h hr hl, rfl, rfl, ?_⟩
  simp

end

section
variable (port : Nat) (p : Pkg) (l : List Coll)

theorem Pkg.unlinked_all_mem : (l.foldl (unlinked port) p).mem = p.mem :=
  List.foldlRecOn (motive := fun q : Pkg => q.mem = p.mem) l _ rfl fun q hq c _ => (unlinked_mem port q c).trans hq

/-- The collectives abandoned are gone and the others stay. -/
theorem Pkg.mem_unlinked_all (d : Coll) : d ∈ (l.foldl (unlinked port) p).colls ↔ d ∈ p.colls ∧ ∀ c ∈ l, d.num ≠ c.num := by
  induction l generalizing p with
  | nil => simp
  | cons c l ih =>
    rw [List.foldl_cons, ih, unlinked_colls, List.mem_filter, bne_iff_ne, List.forall_mem_cons, and_assoc]

/-- The peers of each are told. -/
theorem Pkg.unlinked_all_outbox : (l.foldl (unlinked port) p).outbox = p.outbox ++ l.map (fun c => .abandon c.comm c.m) := by
  induction l generalizing p with
  | nil => simp
  | cons c l ih => rw [List.foldl_cons, ih, unlinked_outbox, List.append_assoc]; rfl

theorem Pkg.unlinked_all_keepsTraps (u : Nat) : p.KeepsTraps (l.foldl (unlinked port) p) u := by
  refine List.foldlRecOn (motive := fun q : Pkg => p.KeepsTraps q u) l _ (fun st h => ⟨st, h, rfl, rfl, fun _ ht => ht⟩)
    fun q hq c _ st h => ?_
  obtain ⟨st', h', hr, hl, ht⟩ := hq st h
  obtain ⟨st'', h'', hr', hl', ht'⟩ := unlinked_keepsTraps port q c u st' h'
  exact ⟨st'', h'', hr'.trans hr, hl'.trans hl, fun t hm => ht' t (ht t hm)⟩

/-- The strand of each has its trap pending. -/
theorem Pkg.unlinked_all_told {p : Pkg} {l : List Coll} {c : Coll} (hc : c ∈ l) {st : Strand} (h : p.strands.find? c.strand = some st)
    (hr : st.run ≠ .ended) (hl : st.lost = false) : ∃ st', (l.foldl (unlinked port) p).strands.find? c.strand = some st'
      ∧ { cause := 0x31, tval := BitVec.ofNat 64 (port + 2 ^ 16 * c.comm) } ∈ st'.async := by
  induction l generalizing p st with
  | nil => cases hc
  | cons d l ih =>
    rw [List.foldl_cons]
    by_cases hd : c = d
    · subst hd
      obtain ⟨st', h', -, -, ht⟩ := unlinked_told port h hr hl
      obtain ⟨st'', h'', -, -, ht'⟩ := unlinked_all_keepsTraps port (p.unlinked port c) l c.strand st' h'
      exact ⟨st'', h'', ht' _ ht⟩
    · obtain ⟨st', h', hr', hl', -⟩ := unlinked_keepsTraps port p d c.strand st h
      exact ih ((List.mem_cons.1 hc).resolve_left hd) h' (hr' ▸ hr) (hl' ▸ hl)

end

/-- The collectives whose paths use a port. -/
def State.using (s : State) (port : Nat) : List Coll := s.pkg.colls.filter (fun c => (s.box c.comm).ports.any (fun b => b == 14 + port))

theorem State.mem_using (s : State) (port : Nat) (c : Coll) : c ∈ s.using port ↔ c ∈ s.pkg.colls ∧ 14 + port ∈ (s.box c.comm).ports := by
  simp [State.using, List.mem_filter]

theorem State.linkLost_eq (s : State) (port : Nat) : s.linkLost port = (s.using port).foldl (Pkg.unlinked port) s.pkg := rfl

/-- A port that goes down has lost its link. -/
theorem State.portDown_portLost (s : State) (port : Nat) : Spec.PortLost s (s.portDown port) port := by
  refine ⟨rfl, fun x hx => by simpa using (List.mem_filter.1 hx).2, Pkg.unlinked_all_mem .., fun hno => ?_, fun c hc huse => ⟨fun d hd => ?_, ?_,
    fun st h hr hl => Pkg.unlinked_all_told port ((s.mem_using port c).2 ⟨hc, huse⟩) h hr hl⟩, fun c hc _ hnum => ?_⟩
  · have hnil : s.using port = [] := List.eq_nil_iff_forall_not_mem.2 fun c hc => hno c ((s.mem_using port c).1 hc).1 ((s.mem_using port c).1 hc).2
    show s.linkLost port = s.pkg
    rw [State.linkLost_eq, hnil, List.foldl_nil]
  · exact ((Pkg.mem_unlinked_all port s.pkg _ d).1 hd).2 c ((s.mem_using port c).2 ⟨hc, huse⟩)
  · show _ ∈ (s.linkLost port).outbox
    rw [State.linkLost_eq, Pkg.unlinked_all_outbox]
    exact List.mem_append_right _ (List.mem_map.2 ⟨c, (s.mem_using port c).2 ⟨hc, huse⟩, rfl⟩)
  · refine (Pkg.mem_unlinked_all port s.pkg _ c).2 ⟨hc, fun d hd => (hnum d ?_ ?_).symm⟩
    exacts [((s.mem_using port d).1 hd).1, ((s.mem_using port d).1 hd).2]

/-! ### Ports that retrain -/

section
variable {s : State} {port t0 : Nat}

theorem exec_portRetraining (hp : port < 6) (hr : s.host.ready.getLsbD (14 + port) = true) (hno : ∀ x ∈ s.host.retraining, x.1 ≠ port) :
    exec (.portRetraining port) s = .next (s.withHost { s.host with retraining := s.host.retraining ++ [(port, s.pkg.time)] }) := by
  have hstart : s.host.retrainStart port = none := by
    rw [HostRegs.retrainStart, List.find?_eq_none.2 (by simpa using hno), Option.map_none]
  show execPortRetraining port s = _
  unfold execPortRetraining
  rw [if_pos ⟨hp, hr, by rw [hstart]; rfl⟩]

/-- A retraining that began at t0 has lasted longer than n ns when TIME is beyond both. -/
theorem State.retrainsFor_eq (h : s.host.retraining.find? (fun x => x.1 == port) = some (port, t0)) (n : Nat) :
    s.retrainsFor port n = decide (t0 + n < s.pkg.time) := by
  simp [State.retrainsFor, HostRegs.retrainStart, h]

theorem exec_portRetrainTimeout (h : s.host.retraining.find? (fun x => x.1 == port) = some (port, t0)) :
    exec (.portRetrainTimeout port) s = .next (if t0 + 20000 < s.pkg.time then s.portDown port else s) := by
  show execPortRetrainTimeout port s = _
  simp [execPortRetrainTimeout, State.retrainsFor_eq h]

theorem exec_portTrained (hp : port < 6) (h : s.host.retraining.find? (fun x => x.1 == port) = some (port, t0)) :
    exec (.portTrained port) s = .next ((if t0 + 20000 < s.pkg.time then s.portDown port else s).portUp port) := by
  show execPortTrained port s = _
  simp [execPortTrained, State.retrainsFor_eq h, hp]

end

/-! ### The PCIe link -/

@[simp] theorem Pkg.acquire_mem (p : Pkg) (a : Acc) : (p.acquire a).mem = p.mem := by
  unfold acquire
  split
  · rfl
  · split <;> rfl

@[simp] theorem Pkg.settleAcc_mem (p : Pkg) (num : Nat) : (p.settleAcc num).mem = p.mem := by
  unfold settleAcc
  split
  · rfl
  · split
    · dsimp only
      split
      · rfl
      · rw [acquire_mem]
        split <;> rfl
    · rfl

/-- An access refused writes nothing. -/
@[simp] theorem Pkg.refuseUnit_mem (p : Pkg) (num : Nat) (a : Acc) (idx cause scope : Nat) : (p.refuseUnit num a idx cause scope).mem = p.mem := by
  rw [refuseUnit, settleAcc_mem]; rfl

theorem Pkg.loseParts_mem (p : Pkg) (num : Nat) (l : List Nat) : (p.loseParts num l).mem = p.mem := by
  refine List.foldlRecOn (motive := fun q : Pkg => q.mem = p.mem) l _ rfl fun q hq i _ => ?_
  split
  · split
    · rw [refuseUnit_mem, hq]
    · exact hq
  · exact hq

/-- An access none of whose parts lies in the host tier has none on its way there. -/
theorem Acc.toHost_eq_nil {a : Acc} (h : ∀ q ∈ a.parts, q.addr < 0x800000000000 ∨ 2 ^ 48 ≤ q.addr) : a.toHost = [] := by
  rw [toHost, List.map_eq_nil_iff, List.filter_eq_nil_iff]
  intro e he
  have hq := h e.1 (List.fst_mem_of_mem_zipIdx he)
  have ht : tierOf e.1.addr ≠ 3 := by
    unfold tierOf
    split
    · decide
    · split
      · decide
      · rw [if_neg (by omega)]; decide
  simp [ht]

end Sys2Proof.Machine
end

section
/-! SUPPORT. Page-table walks (R92 to R94) and the retention of window banks (R48). -/

namespace Sys2Proof.Machine

/-! ### Walks -/

/-- One of the first 96 walks of a die is performed next (R94). -/
theorem Pkg.walkTurn_mem (p : Pkg) {die : Nat} (h : ∃ w ∈ p.walks, w.core / 576 = die) : ∃ w, p.walkTurn die = some w
    ∧ w ∈ (p.walks.filter (fun w => w.core / 576 == die)).take 96 := by
  unfold walkTurn
  obtain ⟨w, hw, hd⟩ := h
  generalize hl : p.walks.filter (fun w => w.core / 576 == die) = l
  have hmem : w ∈ l := by rw [← hl, List.mem_filter]; exact ⟨hw, by simpa using hd⟩
  have hpos : 0 < l.length := List.length_pos_of_mem hmem
  have hnth (i : Nat) (hi : i < min 96 l.length) : ∃ w, l[i]? = some w ∧ w ∈ l.take 96 :=
    ⟨l[i], List.getElem?_eq_getElem (by omega), List.mem_take_iff_getElem.2 ⟨i, hi, rfl⟩⟩
  dsimp only
  split
  · rw [List.head?_eq_getElem?]
    exact hnth 0 (by omega)
  · exact hnth _ (Nat.mod_lt _ (by omega))

/-- A strand that waited for a walk goes on, with what it is granted. -/
def Pkg.walked (p : Pkg) (u : Nat) (g : Option Grant) : Pkg := p.modStrand u (fun x => { x with run := .ready, grant := g })

/-- The package without walk w. -/
def Pkg.dropWalk (p : Pkg) (w : Walk) : Pkg := { p with walks := p.walks.erase w }

/-- The walks under way have no part in a walk. -/
theorem Pkg.walkLeaf_dropWalk (p : Pkg) (w : Walk) (er root va : Nat) : (p.dropWalk w).walkLeaf er root va = p.walkLeaf er root va := rfl

/-- The leaf's entry as a walk for an access of kind acc leaves it: A set, and D for a store or atomic (R93). -/
def Leaf.accessed (l : Leaf) (acc : Nat) : Leaf := { l with e := l.e ||| (if acc = 1 ∨ acc = 2 then 0x600 else 0x200) }

section
variable {s : State} {die : Nat} {w : Walk} {st : Strand} (hw : s.pkg.walkTurn die = some w) (hst : s.pkg.strands.find? w.strand = some st)
  (hr : st.run = .blocked (.walk w.va w.acc))
include hw hst hr

/-- A walk that ends without a leaf traps its strand. -/
theorem exec_pageWalk_fails {c : Nat} (hc : c ≠ 0) (h : (s.pkg.dropWalk w).walk s.er (s.pkg.launch (s.pkg.crew st.crew).launch).root w.va w.acc st.sup
    = some (.error c)) :
    exec (.pageWalk die) s = .next (s.withPkg ((s.pkg.dropWalk w).walked w.strand (some (.trap c (BitVec.ofNat 64 w.va))))) := by
  show execPageWalk die s = _
  unfold execPageWalk
  rw [Pkg.dropWalk] at h
  simp only [hw, hst, Pkg.crew, Pkg.launch] at h ⊢
  simp only [h, waitsWalk, hr, beq_self_eq_true, if_true]
  cases c with
  | zero => exact absurd rfl hc
  | succ c => rfl

/-- A walk that ends at a leaf enters it in the core's cache, and its strand goes on. -/
theorem exec_pageWalk_leaf {l : Leaf} {p : Pkg} (h : (s.pkg.dropWalk w).walk s.er (s.pkg.launch (s.pkg.crew st.crew).launch).root w.va w.acc st.sup
    = some (.ok (l, p))) :
    exec (.pageWalk die) s = .next (s.withPkg (({ p with
      tlb := { core := w.core, launch := (s.pkg.crew st.crew).launch, va := l.va, size := l.size, pa := l.pa, flags := l.e % 4096,
               frame := w.va / 65536 }
        :: p.tlb.filter (fun x => !(x.core == w.core && x.launch == (s.pkg.crew st.crew).launch && x.frame == w.va / 65536)) } : Pkg).walked
          w.strand none)) := by
  show execPageWalk die s = _
  unfold execPageWalk
  rw [Pkg.dropWalk] at h
  simp only [hw, hst, Pkg.crew, Pkg.launch] at h ⊢
  simp only [h, waitsWalk, hr, beq_self_eq_true, if_true]
  rfl

end

section
variable {p : Pkg} {w : Walk} {er root acc : Nat} {sup : Bool} {l : Leaf}

theorem Pkg.walk_missing (h : p.walkLeaf er root w.va = .missing) : (p.dropWalk w).walk er root w.va acc sup = some (.error 0x10) := by
  rw [walk, walkLeaf_dropWalk, h]

theorem Pkg.walk_denied (h : p.walkLeaf er root w.va = .leaf l) (hp : permOk sup l.e acc = false) :
    (p.dropWalk w).walk er root w.va acc sup = some (.error 0x11) := by
  rw [walk, walkLeaf_dropWalk, h]
  simp [hp]

/-- A walk that the leaf permits writes the leaf's entry with its A and D bits. -/
theorem Pkg.walk_permitted (h : p.walkLeaf er root w.va = .leaf l) (hp : permOk sup l.e acc = true) : (p.dropWalk w).walk er root w.va acc sup =
    some (.ok (l.accessed acc, (p.dropWalk w).writeOver (fun _ q => 4 < q.reached) l.pte (toBytes 8 (l.accessed acc).e))) := by
  have he : l.e ||| 0x200 ||| (if acc = 1 ∨ acc = 2 then 0x400 else 0) = (l.accessed acc).e := by
    rw [Leaf.accessed, Nat.or_assoc]
    split <;> rfl
  rw [walk, walkLeaf_dropWalk, h]
  simp only [hp, if_true, he]
  rfl

/-- The entry fits its 8 bytes. -/
theorem Leaf.accessed_lt (l : Leaf) (acc : Nat) (h : l.e < 2 ^ 48) : (l.accessed acc).e < 2 ^ 48 := by
  refine Nat.or_lt_two_pow h ?_
  split <;> decide

end

/-! ### Retention -/

theorem exec_bankRetentionEntry {s : State} {c b : Nat} (h : ∃ e ∈ (s.pkg.core c).res, ∃ st, s.pkg.strands.find? e.2 = some st ∧ st.retn = true ∧ b ∈ st.banks)
    (hb : b ∉ (s.pkg.core c).retained) :
    exec (.bankRetentionEntry c b) s = .next (s.withPkg (s.pkg.setCore c { s.pkg.core c with retained := b :: (s.pkg.core c).retained })) := by
  have hin : (s.pkg.core c).res.any (fun e => (s.pkg.strands.find? e.2).any (fun st => st.retn && decide (b ∈ st.banks))) = true := by
    obtain ⟨e, he, st, hst, hr, hm⟩ := h
    exact List.any_eq_true.2 ⟨e, he, by simp [hst, hr, hm]⟩
  show execBankRetentionEntry c b s = _
  unfold execBankRetentionEntry
  rw [if_pos ⟨hin, hb⟩]

end Sys2Proof.Machine
end

section
/-! SUPPORT. Tiering: the epoch and the move of a granule (R99 to R102). -/

namespace Sys2Proof.Machine

/-! ### Lists in order -/

theorem mem_insertBy {α : Type} {le : α → α → Bool} {x a : α} {l : List α} : a ∈ insertBy le x l ↔ a = x ∨ a ∈ l := by
  induction l with
  | nil => simp [insertBy]
  | cons y l ih =>
    unfold insertBy
    split
    · simp
    · rw [List.mem_cons, ih, List.mem_cons]
      exact or_left_comm

theorem mem_sortBy {α : Type} {le : α → α → Bool} {a : α} {l : List α} : a ∈ sortBy le l ↔ a ∈ l := by
  induction l with
  | nil => rfl
  | cons x l ih => exact mem_insertBy.trans ((or_congr_right ih).trans List.mem_cons.symm)

/-! ### The epoch (R100) -/

/-- A granule that an epoch may have moved: pinned or moving it stays as it was, and in its home frame it is moved for a count of 256. -/
def Granule.MayMove (pin : Bool) (g g' : Granule) : Prop :=
  ∃ m, g' = { g with moving := m } ∧ (m = g.moving ∨ (pin = false ∧ g.moving = none ∧ (g.place = none → 256 ≤ g.count.toNat)))

theorem Granule.MayMove.refl (pin : Bool) (g : Granule) : g.MayMove pin g := ⟨g.moving, rfl, .inl rfl⟩

/-- A granule that is not pinned or moving may be moved. -/
theorem Granule.MayMove.move {pin : Bool} {g g' : Granule} (h : g.MayMove pin g') (hp : pin = false) (hm : g.moving = none)
    (hc : g.place = none → 256 ≤ g.count.toNat) (m : Option (Option Nat)) : g.MayMove pin { g' with moving := m } := by
  obtain ⟨m', rfl, -⟩ := h
  exact ⟨m, rfl, .inr ⟨hp, hm, hc⟩⟩

/-- A granule that does not move was not moving before, and lies where it lay. -/
theorem Granule.MayMove.still {pin : Bool} {g g' : Granule} (h : g.MayMove pin g') (hm : g'.moving = none) :
    g.moving = none ∧ g'.place = g.place := by
  obtain ⟨m', rfl, hm' | ⟨-, hm', -⟩⟩ := h
  · exact ⟨hm'.symm.trans hm, rfl⟩
  · exact ⟨hm', rfl⟩

/-- Table ms is table gs with moves chosen for some granules. -/
def Chosen (pin : Nat → Bool) (gs ms : RMap Granule) : Prop :=
  ms.sorted ∧ ∀ f, Option.Rel (Granule.MayMove (pin f)) (gs.find? f) (ms.find? f)

section
variable {pin : Nat → Bool} {er : Nat} {gs ms : RMap Granule}

theorem Chosen.refl (hs : gs.sorted) : Chosen pin gs gs := by
  refine ⟨hs, fun f => ?_⟩
  cases gs.find? f with
  | none => exact .none
  | some g => exact .some (.refl _ g)

/-- The granule of gs that a granule of ms was. -/
theorem Chosen.before {f : Nat} {g' : Granule} (h : Chosen pin gs ms) (hf : ms.find? f = some g') :
    ∃ g, gs.find? f = some g ∧ g.MayMove (pin f) g' := by
  have hr := h.2 f
  rw [hf] at hr
  cases hg : gs.find? f with
  | none => rw [hg] at hr; cases hr
  | some g => rw [hg] at hr; cases hr with | some hr => exact ⟨g, rfl, hr⟩

theorem Chosen.put {f : Nat} {g g' : Granule} (h : Chosen pin gs ms) (hg : gs.find? f = some g) (hm : g.MayMove (pin f) g') :
    Chosen pin gs (ms.put f g') := by
  refine ⟨RMap.sorted_put _ _ _ h.1, fun k => ?_⟩
  rw [RMap.find?_put]
  split
  · next hk => rw [hk, hg]; exact .some hm
  · exact h.2 k

/-- The victim of a promotion is a granule that lies on a die and is not pinned or moving. -/
theorem coldest_mem {d : Nat} {e : Nat × Granule} (h : coldest pin ms er d = some e) :
    e ∈ ms ∧ pin e.1 = false ∧ e.2.moving = none ∧ e.2.place ≠ none := by
  unfold coldest at h
  dsimp only at h
  have hmem : e ∈ ms.filter (fun e => !pin e.1 && e.2.moving.isNone && (e.2.place.any (fun f => f ∈ poolFrames er d))) := by
    revert h
    refine List.foldlRecOn (motive := fun b => b = some e → e ∈ _) _ _ (fun h => by cases h) fun b hb a ha h => ?_
    cases b with
    | none => cases h; exact ha
    | some b =>
      dsimp only at h
      split at h
      · cases h; exact ha
      · exact hb h
  rw [List.mem_filter] at hmem
  obtain ⟨hm, hf⟩ := hmem
  simp only [Bool.and_eq_true, Bool.not_eq_true', Option.isNone_iff_eq_none] at hf
  refine ⟨hm, hf.1.1, hf.1.2, fun hp => ?_⟩
  simp [hp] at hf

/-- A promotion chooses moves: of its candidate, and of a victim when no frame is free. -/
theorem Chosen.promote {g : Granule} {home : Nat} {n : RMap Nat} (h : Chosen pin gs ms) (hg : gs.find? home = some g) (hp : pin home = false)
    (hm : g.moving = none) (hc : 256 ≤ g.count.toNat) : Chosen pin gs (promote pin er (ms, n) home).1 := by
  unfold Machine.promote
  dsimp only
  split
  · exact h
  · next g' hg' =>
    obtain ⟨g0, hg0, hmay⟩ := h.before hg'
    cases hg.symm.trans hg0
    have hgo (f : Nat) : g.MayMove (pin home) { g' with moving := some (some f) } := hmay.move hp hm (fun _ => hc) _
    split
    · exact h
    · split
      · exact h.put hg (hgo _)
      · split
        · next v c hv =>
          split
          · obtain ⟨hmem, hpv, hmv, hplace⟩ := coldest_mem hv
            obtain ⟨c0, hc0, hmayc⟩ := h.before (RMap.find?_of_mem h.1 hmem)
            obtain ⟨hm0, hpl⟩ := hmayc.still hmv
            exact (h.put hc0 (hmayc.move hpv hm0 (fun hn => absurd (hpl.trans hn) hplace) (some none))).put hg (hgo _)
          · exact h
        · exact h

/-- The promotions of an epoch choose moves. -/
theorem Chosen.promote_all {cand : List Nat} (hs : gs.sorted)
    (hc : ∀ home ∈ cand, ∃ g, gs.find? home = some g ∧ pin home = false ∧ g.moving = none ∧ 256 ≤ g.count.toNat) :
    Chosen pin gs (cand.foldl (Machine.promote pin er) (gs, [])).1 := by
  refine List.foldlRecOn (motive := fun st : RMap Granule × RMap Nat => Chosen pin gs st.1) cand _ (Chosen.refl hs) fun st h home hm => ?_
  obtain ⟨g, hg, hp, hmv, hcount⟩ := hc home hm
  exact h.promote hg hp hmv hcount

end

section
variable {s : State}

theorem exec_tieringEpoch_off (h : s.host.ready.getLsbD 13 = false) : exec .tieringEpoch s = .next s := by
  show execTieringEpoch s = _
  unfold execTieringEpoch
  rw [if_pos (by simp only [State.tierReady, h, Bool.not_false])]

theorem exec_granuleMoveComplete_off (h : s.host.ready.getLsbD 13 = false) (f : Nat) : exec (.granuleMoveComplete f) s = .next s := by
  show execGranuleMoveComplete f s = _
  unfold execGranuleMoveComplete
  simp only [State.tierReady, h, Bool.false_eq_true, if_false]

/-- An epoch chooses moves, then halves every count. -/
theorem exec_tieringEpoch (h : s.host.ready.getLsbD 13 = true) (hs : s.pkg.granules.sorted) :
    ∃ m, Chosen s.pinned s.pkg.granules m
      ∧ exec .tieringEpoch s = .next (s.withPkg { s.pkg with granules := m.mapVals (fun g => { g with count := g.count >>> 1, byDie := [] }) }) := by
  refine ⟨_, Chosen.promote_all (er := s.er) (cand := (sortBy hotter (s.pkg.granules.filter (fun e =>
    !s.pinned e.1 && e.2.place.isNone && e.2.moving.isNone && decide (256 ≤ e.2.count.toNat)))).map (fun e => e.1)) hs ?_, ?_⟩
  · intro home hm
    obtain ⟨e, he, rfl⟩ := List.mem_map.1 hm
    obtain ⟨hmem, hf⟩ := List.mem_filter.1 (mem_sortBy.1 he)
    simp only [Bool.and_eq_true, Bool.not_eq_true', Option.isNone_iff_eq_none, decide_eq_true_eq] at hf
    exact ⟨e.2, RMap.find?_of_mem hs hmem, hf.1.1.1, hf.1.2, hf.2⟩
  · show execTieringEpoch s = _
    unfold execTieringEpoch
    rw [if_neg (by simp only [State.tierReady, h, Bool.not_true, Bool.false_eq_true, not_false_eq_true])]

/-- What an epoch makes of a granule: half its count, and a move only where one may be chosen. -/
theorem Chosen.halved {pin : Nat → Bool} {gs m : RMap Granule} (h : Chosen pin gs m) (f : Nat) :
    ((m.mapVals (fun g => { g with count := g.count >>> 1, byDie := [] })).find? f).isSome = (gs.find? f).isSome
    ∧ ∀ g g', gs.find? f = some g → (m.mapVals (fun g => { g with count := g.count >>> 1, byDie := [] })).find? f = some g' →
      g'.count = g.count >>> 1 ∧ g'.byDie = [] ∧ g'.place = g.place
      ∧ (pin f = true ∨ g.moving.isSome → g'.moving = g.moving) ∧ (g.place = none → g.count.toNat < 256 → g'.moving = g.moving) := by
  have hr := h.2 f
  rw [RMap.find?_mapVals]
  cases hm : m.find? f with
  | none =>
    cases hg : gs.find? f with
    | none => exact ⟨rfl, fun _ _ h => by cases h⟩
    | some g => rw [hm, hg] at hr; cases hr
  | some g1 =>
    obtain ⟨g, hg, m, rfl, hmay⟩ := h.before hm
    rw [hg]
    refine ⟨rfl, fun g0 g' h0 h1 => ?_⟩
    cases h0
    cases h1
    refine ⟨rfl, rfl, rfl, fun hstay => ?_, fun hplace hcold => ?_⟩
    · rcases hmay with hmay | ⟨hp, hmv, -⟩
      · exact hmay
      · simp [hp, hmv] at hstay
    · rcases hmay with hmay | ⟨-, -, hhot⟩
      · exact hmay
      · have := hhot hplace
        omega

end

/-! ### The move of a granule (R102) -/

/-- With no crew's VALID waiting on a move there is none to clear. -/
theorem Pkg.clearLate_of_clear {p : Pkg} (h : ∀ e ∈ p.crews, e.2.unclear = false) (er : Nat) : p.clearLate er = p := by
  have hnil : p.crews.filter (fun e => e.2.unclear) = [] := List.filter_eq_nil_iff.2 fun e he => by simp [h e he]
  rw [clearLate, hnil]
  rfl

/-- Entries of frame src put one by one into frame dst. -/
def putFrame (dst : Nat) (l m : RMap Byte) : RMap Byte := l.foldl (fun m e => RMap.put m (dst * 65536 + e.1 % 65536) e.2) m

/-- Outside the frame of its destination nothing changes. -/
theorem find?_putFrame_out {dst k : Nat} (l m : RMap Byte) (hk : k / 65536 ≠ dst) : (putFrame dst l m).find? k = m.find? k := by
  refine List.foldlRecOn (motive := fun q : RMap Byte => q.find? k = m.find? k) l _ rfl fun q hq e _ => ?_
  rw [RMap.find?_put_ne _ _ _ _ (by omega), hq]

/-- A byte of the frame is the one of its source, if that is listed. -/
theorem find?_putFrame_in {src dst j : Nat} {l : RMap Byte} (m : RMap Byte) (hs : l.sorted) (hl : ∀ e ∈ l, e.1 / 65536 = src) :
    (putFrame dst l m).find? (dst * 65536 + j) = (l.find? (src * 65536 + j)).or (m.find? (dst * 65536 + j)) := by
  induction l generalizing m with
  | nil => rfl
  | cons e l ih =>
    obtain ⟨hlt, hs⟩ := List.pairwise_cons.1 hs
    obtain ⟨he, hl⟩ := List.forall_mem_cons.1 hl
    show (putFrame dst l (RMap.put m (dst * 65536 + e.1 % 65536) e.2)).find? _ = _
    rw [ih _ hs hl, RMap.find?]
    by_cases hk : src * 65536 + j = e.1
    · have hnone : RMap.find? l (src * 65536 + j) = none :=
        Option.eq_none_iff_forall_ne_some.2 fun v hv => absurd (hlt _ (RMap.mem_of_find? hv)) (by simp [hk])
      have hkey : e.1 % 65536 = j := by omega
      rw [hnone, if_pos hk, hkey, RMap.find?_put_same m (dst * 65536 + j) e.2, Option.none_or, Option.some_or]
    · have hne : dst * 65536 + j ≠ dst * 65536 + e.1 % 65536 := fun h => by
        rw [Nat.add_left_cancel h, ← he, Nat.div_add_mod'] at hk
        exact hk rfl
      rw [if_neg hk, RMap.find?_put_ne _ _ _ _ hne]

theorem moveFrame_eq (m : RMap Byte) (src dst : Nat) :
    moveFrame m src dst = putFrame dst (m.filter (fun e => e.1 / 65536 == src)) (m.filter (fun e => e.1 / 65536 != dst)) := rfl

/-- A move leaves the bytes of every other frame. -/
theorem get_moveFrame_out {m : RMap Byte} {src dst k : Nat} (hk : k / 65536 ≠ dst) : (moveFrame m src dst).get 0 k = m.get 0 k := by
  rw [moveFrame_eq, RMap.get, find?_putFrame_out _ _ hk]
  exact (RMap.get_filter m 0 (fun i => i / 65536 != dst) k).trans (if_pos (by simpa using hk))

/-- A move brings the bytes of its source. -/
theorem get_moveFrame_in {m : RMap Byte} (hs : m.sorted) {src dst j : Nat} (hj : j < 65536) :
    (moveFrame m src dst).get 0 (dst * 65536 + j) = m.get 0 (src * 65536 + j) := by
  have hsrc : RMap.get (m.filter (fun e => e.1 / 65536 == src)) 0 (src * 65536 + j) = m.get 0 (src * 65536 + j) :=
    (RMap.get_filter m 0 (fun i => i / 65536 == src) _).trans (if_pos (by simp; omega))
  have hdst : RMap.get (m.filter (fun e => e.1 / 65536 != dst)) 0 (dst * 65536 + j) = 0 :=
    (RMap.get_filter m 0 (fun i => i / 65536 != dst) _).trans (if_neg (by simp; omega))
  rw [moveFrame_eq, RMap.get, find?_putFrame_in _ (hs.filter _) (fun e he => by simpa using (List.mem_filter.1 he).2), ← hsrc, RMap.get]
  cases RMap.find? (m.filter (fun e => e.1 / 65536 == src)) (src * 65536 + j) with
  | none => exact hdst
  | some v => rfl

/-- A move that may complete brings the granule's bytes to its new frame. -/
theorem exec_granuleMoveComplete {s : State} {f : Nat} {g : Granule} {dst : Option Nat} (hr : s.host.ready.getLsbD 13 = true)
    (hg : s.pkg.granules.find? f = some g) (hm : g.moving = some dst) (hu : ∀ e ∈ s.pkg.crews, e.2.unclear = false)
    (hfree : ∀ e ∈ s.pkg.granules, e.1 ≠ f → e.2.place ≠ some (dst.getD f))
    (hp : ∀ q ∈ s.pkg.poison, q < 2 ^ 60 → q / 65536 ≠ g.place.getD f) :
    exec (.granuleMoveComplete f) s = .next (s.withPkg { s.pkg with
      mem := moveFrame s.pkg.mem (g.place.getD f) (dst.getD f)
      granules := RMap.put s.pkg.granules f { g with place := dst, moving := none } }) := by
  have hany : s.pkg.granules.any (fun e => e.1 != f && e.2.place == some (dst.getD f)) = false := by
    rw [List.any_eq_false]
    intro e he
    simpa using hfree e he
  have hpois : s.pkg.poison.any (fun q => decide (q < 2 ^ 60) && q / 65536 == g.place.getD f) = false := by
    rw [List.any_eq_false]
    intro q hq
    simpa using hp q hq
  show execGranuleMoveComplete f s = _
  unfold execGranuleMoveComplete
  simp only [State.tierReady, hr, if_true, hg, hm, hany, hpois, Bool.false_eq_true, if_false]
  exact congrArg (fun p => Host.Outcome.next (s.withPkg p)) (Pkg.clearLate_of_clear (by exact hu) _)

end Sys2Proof.Machine
end

section
/-! Islands, links, walks, retention, epochs and moves (O57). -/

namespace Sys2Proof.Machine

/-- Settles O57: each event that is enabled by what it does to the fields it names; the folds over crews, collectives, accesses and granules by
an invariant of one step each. -/
theorem islandsLinksAndMemoryEvents : Obligations.IslandsLinksAndMemoryEvents := by
  intro s
  refine ⟨fun i hi hr => ?_, fun i hi hr => ?_, fun i hi hr => ?_, fun _ => rfl, fun p hp hr hno => exec_portRetraining hp hr hno,
    fun p hp t0 h => ⟨fun ht => ?_, fun ht => ?_⟩, ⟨_, rfl, rfl, ?_, fun hno => ?_⟩, rfl, fun die h => s.pkg.walkTurn_mem h,
    fun die w st hw hst hr => ⟨fun hl => ?_, fun l hl hp => ?_, fun l hl hp he => ?_⟩, fun c b h hb => exec_bankRetentionEntry h hb,
    fun h => ⟨exec_tieringEpoch_off h, exec_granuleMoveComplete_off h⟩, fun h hs => ?_, fun f g dst hr hc hg hm => fun hu hfree hp => ?_⟩
  · exact ⟨_, exec_islandThrottle s hi hr, HostRegs.setIsland_spec .., rfl⟩
  · exact ⟨_, exec_islandStop s hi hr, HostRegs.setIsland_spec .., Pkg.sendHolds_all ..⟩
  · refine ⟨_, exec_islandResume s (Decidable.not_not.1 hr), HostRegs.setIsland_spec .., Pkg.resumed_all_strands .., Pkg.resumed_all_mem ..,
      fun cu c hcu hst hcl hlt => ⟨fun h hh hn => ?_, fun hreq hdl hf hy => ?_⟩⟩
    · exact (s.pkg.resumed_all_holds _ h hh).2 (hn ▸ hcl ▸ Pkg.mem_crewsOn hcu hst hlt)
    · exact Pkg.resumed_all_due (Pkg.due_of_overdue hcu hst hreq hdl hf hy) (hcl ▸ Pkg.mem_crewsOn hcu hst hlt)
  · rw [exec_portRetrainTimeout h, exec_portTrained hp h, if_neg (Nat.not_lt.2 ht)]
    exact ⟨rfl, rfl⟩
  · rw [exec_portRetrainTimeout h, exec_portTrained hp h, if_pos ht]
    exact ⟨_, rfl, s.portDown_portLost p, rfl⟩
  · exact List.foldlRecOn (motive := fun q : Pkg => q.mem = s.pkg.mem) s.pkg.accs _ rfl fun q hq e _ => (q.loseParts_mem ..).trans hq
  · refine List.foldlRecOn (motive := fun q : Pkg => q = s.pkg) s.pkg.accs _ rfl fun q hq e he => ?_
    rw [Acc.toHost_eq_nil (hno e he), hq]
    rfl
  · exact exec_pageWalk_fails hw hst hr (by decide) (Pkg.walk_missing hl)
  · exact exec_pageWalk_fails hw hst hr (by decide) (Pkg.walk_denied hl hp)
  · refine ⟨_, exec_pageWalk_leaf hw hst hr (Pkg.walk_permitted hl hp), rfl, ?_, rfl, rfl, fun j hj => ?_⟩
    · have hnum := (s.pkg.dropWalk w).num_write_same (s.pkg.physKey l.pte) 8 (l.accessed w.acc).e
      rw [Nat.mod_eq_of_lt ((l.accessed_lt w.acc he).trans (by decide))] at hnum
      exact hnum
    · exact Pkg.byte_write_out (s.pkg.dropWalk w) _ _ j (by rwa [toBytes_length])
  · obtain ⟨m, hm, hexec⟩ := exec_tieringEpoch h hs
    exact ⟨_, hexec, hm.halved⟩
  · exact ⟨_, exec_granuleMoveComplete hr hg hm hu hfree hp, RMap.find?_put_same .., fun j hj => get_moveFrame_in hc.1 hj,
      fun k _ hk => get_moveFrame_out hk, rfl⟩

end Sys2Proof.Machine
end

section
/-! SUPPORT. A ready slot that does not commit: the stop that its privilege check or its own check answers. -/

namespace Sys2Proof.Machine

section
variable {i : Instr} {s : State} {st : Strand} (h : SlotReady i s st)
include h

theorem unusedStop_ready : unusedStop i st = none := by
  obtain ⟨-, -, hu, -⟩ := h
  unfold unusedStop
  split
  · rename_i w hw
    rw [if_pos (hu w hw)]
  · rfl

/-- The privilege check of a ready slot comes before everything that it could still fail. -/
theorem slotStop_ready_priv (w : Stop) (chk : Option Stop) : slotStop i [] (some w) chk s st = some w := by
  have hu := unusedStop_ready h
  obtain ⟨-, hg, -, hf, -, -, -, hp, -⟩ := h
  simp [slotStop, hg, hu, regStop, hf.2, hp]

/-- A field limit that the register values break stops a ready slot before anything else. -/
theorem slotStop_ready_fields {fx : List Nat} (hx : fx ≠ []) (pv chk : Option Stop) :
    slotStop i fx pv chk s st = some (.trap 0x02 (BitVec.ofNat 64 (chooseOf st.wordKey fx))) := by
  have hu := unusedStop_ready h
  obtain ⟨-, hg, -, hf, -, -, -, hp, -⟩ := h
  simp [slotStop, hg, hu, regStop, hf.2, hp, hx]

/-- A ready slot stops at its own check. -/
theorem slotStop_ready_chk (w : Stop) : slotStop i [] none (some w) s st = some w := by
  have hu := unusedStop_ready h
  have hr := regStop_ready h
  simp [slotStop, h.2.1, hu, hr]

theorem onSlot_ready_trap {pv : Strand → Option Stop} {eff : Strand → Strand} {c : Nat} {v : X} (hp : pv st = some (.trap c v)) :
    onSlot i (fun _ => []) pv eff s = .next (s.withPkg (s.pkg.takeTrap s.er s.focus st c v (st.syncTrap c v st.bun.slot))) := by
  have hs := slotStop_ready_priv h (.trap c v) none
  simp [onSlot, h.1, hp, hs, Pkg.stopAt, State.withPkg]

theorem onUnit_ready_stop {fx : State → Strand → List Nat} {pv : Strand → Option Stop} {chk : State → Strand → Option Stop}
    {eff : State → Strand → Res} {w : Stop} (hf : fx s st = []) (hp : pv st = none) (hc : chk s st = some w) :
    onUnit i fx pv chk eff s = .next (s.withPkg (s.pkg.stopAt s.er s.focus st w)) := by
  have hs := slotStop_ready_chk h w
  simp [onUnit, h.1, hf, hp, hc, hs, State.withPkg]

theorem onUnit_ready_effStop {fx : State → Strand → List Nat} {pv : Strand → Option Stop} {chk : State → Strand → Option Stop}
    {eff : State → Strand → Res} {w : Stop} (hf : fx s st = []) (hp : pv st = none) (hc : chk s st = none) (he : eff s st = .stop w) :
    onUnit i fx pv chk eff s = .next (s.withPkg (s.pkg.stopAt s.er s.focus st w)) := by
  have hs := slotStop_ready h
  simp [onUnit, h.1, hf, hp, hc, hs, he, State.withPkg]

end

end Sys2Proof.Machine
end

section
/-! Control registers (O9). -/

namespace Sys2Proof.Machine

theorem csrWrite_eq (st : Strand) (n : Nat) (v : X) : csrWrite st n v = Spec.csrSet st n v := rfl

theorem csrPriv_allowed {st : Strand} {n : Nat} {v : X} (h : Spec.csrAllowed st n v) : csrPriv st n v = none := by
  obtain ⟨hro, htv, hsup⟩ := h
  unfold csrPriv
  grind

theorem csrPriv_denied {st : Strand} {n : Nat} {v : X} (h : ¬ Spec.csrAllowed st n v) :
    csrPriv st n v = some (.trap 0x07 (BitVec.ofNat 64 n)) := by
  unfold csrPriv
  rw [if_pos]
  simp only [Spec.csrAllowed] at h
  grind

/-- What a control register instruction writes for the old value and x[a]. -/
theorem exec_csr {i : Instr} {o : SImm} (hi : i = .csrr o ∨ i = .csrw o ∨ i = .csrs o ∨ i = .csrc o) (s : State) :
    exec i s = csrOp i o (Spec.csrNew i) s := by
  rcases hi with rfl | rfl | rfl | rfl <;> rfl

/-- VWIN holds the number of window units and the bank of each (R45). -/
theorem vwin_eq {st : Strand} (h : ∀ b ∈ st.banks, b < 16) : st.vwin =
    BitVec.ofNat 64 (2 ^ 48 * st.banks.length + ((List.range st.banks.length).map (fun u => 2 ^ (4 * u) * st.banks.getD u 0)).sum) := by
  have hl : st.banks.zipIdx.map (fun e => e.1 % 16 * 16 ^ e.2)
      = (List.range st.banks.length).map (fun u => 2 ^ (4 * u) * st.banks.getD u 0) := by
    refine List.ext_getElem (by simp) fun u hu _ => ?_
    have hu' : u < st.banks.length := by simpa using hu
    have hb : st.banks[u] % 16 = st.banks[u] := Nat.mod_eq_of_lt (h _ (List.getElem_mem hu'))
    simp [hb, hu', pow_mul, Nat.mul_comm _ (16 ^ u)]
  rw [Strand.vwin, hl, Nat.mul_comm]

/-- DEADLINE holds the deadline above YIELDREQ (R65). -/
theorem deadlineWord_eq (d : Nat) (b : Bool) :
    BitVec.ofNat 64 (d % 2 ^ 56 * 256 + b.toNat) = BitVec.ofNat 64 (d % 2 ^ 56) <<< 8 ||| BitVec.ofNat 64 b.toNat := by
  have hb : b.toNat < 2 ^ 8 := lt_of_le_of_lt b.toNat_le (by decide)
  have hd : d % 2 ^ 56 < 2 ^ 56 := Nat.mod_lt _ (by decide)
  have hor := Nat.shiftLeft_add_eq_or_of_lt hb (d % 2 ^ 56)
  rw [show 256 = 2 ^ 8 from rfl, ← Nat.shiftLeft_eq, hor, BitVec.ofNat_or]
  congr 1
  exact BitVec.eq_of_toNat_eq (by simp [Nat.shiftLeft_eq])

/-- The model's registers hold what the spec's table says. -/
theorem csrRead_eq {p : Pkg} {st : Strand} {n : Nat} {v : X} (h : Spec.csr p st n = some v) : csrRead p st n = v := by
  unfold Spec.csr at h
  split at h <;> simp only [Option.some.injEq, reduceCtorEq, Option.ite_none_right_eq_some] at h
  case h_8 =>
    obtain ⟨⟨-, hb⟩, rfl⟩ := h
    exact vwin_eq hb
  all_goals subst h
  case h_10 => simp only [csrRead, Strand.qstat, pow_mul, Nat.mul_comm]; rfl
  case h_11 => exact deadlineWord_eq _ _
  case h_12 => rw [Nat.div_div_eq_div_mul]; rfl
  case h_14 => simp only [csrRead, Nat.mul_comm]; rfl
  case h_15 => simp only [csrRead, Nat.mul_comm, Nat.add_comm]
  case h_16 => simp only [csrRead, Nat.mul_comm, Nat.add_comm]
  all_goals rfl

section
variable {i : Instr} {o : SImm} {wr : X → X → Option X} {s : State} {st : Strand} (h : SlotReady i s st)
include h

theorem csrOp_keeps (hw : wr (csrRead s.pkg st o.imm.toNat) (st.src o.a o.la) = none) :
    csrOp i o wr s = .next (s.slotDone i (st.result o.d o.nw (csrRead s.pkg st o.imm.toNat))) := by
  unfold csrOp
  rw [onSlot_ready_pv h (by simp only [hw])]
  simp only [hw]

theorem csrOp_writes {v : X} (hw : wr (csrRead s.pkg st o.imm.toNat) (st.src o.a o.la) = some v) (ha : Spec.csrAllowed st o.imm.toNat v) :
    csrOp i o wr s = .next (s.slotDone i ((Spec.csrSet st o.imm.toNat v).result o.d o.nw (csrRead s.pkg st o.imm.toNat))) := by
  unfold csrOp
  rw [onSlot_ready_pv h (by simp only [hw, csrPriv_allowed ha])]
  simp only [hw, csrWrite_eq]

theorem csrOp_denied {v : X} (hw : wr (csrRead s.pkg st o.imm.toNat) (st.src o.a o.la) = some v) (ha : ¬ Spec.csrAllowed st o.imm.toNat v) :
    csrOp i o wr s = .next (s.withPkg (s.pkg.takeTrap s.er s.focus st 0x07 (BitVec.ofNat 64 o.imm.toNat)
      (st.syncTrap 0x07 (BitVec.ofNat 64 o.imm.toNat) st.bun.slot))) := by
  unfold csrOp
  exact onSlot_ready_trap h (by simp only [hw, csrPriv_denied ha])

end

/-- Settles O9: the four instructions are one operation, which differs in what it writes alone. -/
theorem controlRegisterAccess : Obligations.ControlRegisterAccess := by
  intro i o s st hi h old
  refine ⟨fun v => csrRead_eq, fun hw => ?_, fun v hw ha => ?_, fun v hw ha => ?_⟩ <;> rw [exec_csr hi]
  · exact csrOp_keeps h hw
  · exact csrOp_writes h hw ha
  · simpa only [BitVec.ofNat_toNat] using csrOp_denied h hw ha

end Sys2Proof.Machine
end

section
/-! SUPPORT. The formats of elements (R67, R69): saturation and the two's-complement reading as the spec writes them. -/

namespace Sys2Proof.Machine

theorem satTo_signed (w : Nat) (v : Int) : satTo true w v = Spec.sats w v := by
  have h2 : (0 : Int) < 2 ^ (w - 1) := by positivity
  simp only [satTo, fmtMin, fmtMax, Spec.sats, if_true, Nat.cast_pow, Nat.cast_ofNat]
  grind

/-- Reading w bits as a signed format is reading a word of w bits. -/
theorem readFmt_signed {w n : Nat} (hw : 0 < w) (hn : n < 2 ^ w) : readFmt true w n = (BitVec.ofNat w n).toInt := by
  have h2 : 2 ^ w = 2 * 2 ^ (w - 1) := by rw [← Nat.pow_succ', Nat.succ_eq_add_one, Nat.sub_add_cancel hw]
  rw [BitVec.toInt_eq_toNat_cond, BitVec.toNat_ofNat, Nat.mod_eq_of_lt hn]
  simp only [readFmt, Bool.true_and, decide_eq_true_eq]
  split <;> split <;> omega

theorem laneOf_lt (v : V) (w j : Nat) : laneOf v w j < 2 ^ w := Nat.mod_lt _ (Nat.two_pow_pos w)

theorem ofNat_laneOf (v : V) (w j : Nat) : BitVec.ofNat w (laneOf v w j) = v.extractLsb' (w * j) w := by
  refine BitVec.eq_of_toNat_eq ?_
  simp [laneOf, Nat.shiftRight_eq_div_pow]

theorem readFmt_laneOf {w : Nat} (hw : 0 < w) (v : V) (j : Nat) : readFmt true w (laneOf v w j) = (v.extractLsb' (w * j) w).toInt := by
  rw [readFmt_signed hw (laneOf_lt v w j), ofNat_laneOf]

end Sys2Proof.Machine
end

section
/-! Reads of a tile row (O39). -/

namespace Sys2Proof.Machine

theorem modeStop_direct {p : Pkg} {st : Strand} (h : (p.core st.core).mode = .direct) (op : Nat) : modeStop p st op = none := by
  simp [modeStop, h]

theorem modeStop_shared {p : Pkg} {st : Strand} (h : (p.core st.core).mode = .shared) (op : Nat) :
    modeStop p st op = some (.trap 0x19 (BitVec.ofNat 64 op)) := by
  simp [modeStop, h]

section
variable {i : Instr} {o : POps} {op : Nat} {s : State} {st : Strand}

/-- A tile read on a DIRECT core commits with what it makes of the strand. -/
theorem pRead_done {f : Core → Strand → Strand} (h : SlotReady i s st) (ht : Spec.TileReadable s st o) :
    pRead i o op f s = .next (s.unitDone i st s.pkg (f (s.pkg.core st.core) st)) :=
  onUnit_ready h rfl rfl (by simp [modeStop_direct ht.1, tileUpset, ht.2]) rfl

theorem pRead_shared {f : Core → Strand → Strand} (h : SlotReady i s st) (hm : (s.pkg.core st.core).mode = .shared) :
    pRead i o op f s = .next (s.withPkg (s.pkg.stopAt s.er s.focus st (.trap 0x19 (BitVec.ofNat 64 op)))) :=
  onUnit_ready_stop h rfl rfl (by simp [modeStop_shared hm])

theorem pWrite_shared {reads : Bool} {whole : Nat → List Nat} {f : Core → Strand → Core × Strand} (h : SlotReady i s st)
    (hm : (s.pkg.core st.core).mode = .shared) :
    pWrite i o op reads whole f s = .next (s.withPkg (s.pkg.stopAt s.er s.focus st (.trap 0x19 (BitVec.ofNat 64 op)))) :=
  onUnit_ready_stop h rfl rfl (by simp [modeStop_shared hm])

/-- Nothing stands against the multiplier of an ARQ (R295). -/
theorem arqStop_none (h : Spec.Multiplier s st (arqLit st o 0 % 1024)) : arqStop s.pkg s.focus st o = none := by
  have hlt : arqLit st o 0 % 1024 < 1024 := Nat.mod_lt _ (by decide)
  unfold arqStop
  generalize arqLit st o 0 % 1024 = mv at h hlt
  by_cases hmv : mv = 1023
  · simp only [hmv, if_true]
  · obtain ⟨hb, hp, hu⟩ := h.resolve_left hmv
    have hw : st.waitV [BitVec.ofNat 10 mv] = [] := by
      simp only [Strand.waitV, List.map_eq_nil_iff, List.filter_eq_nil_iff, List.any_cons, List.any_nil, Bool.or_false, decide_eq_true_eq,
        BitVec.toNat_ofNat, Nat.mod_eq_of_lt hlt]
      exact fun e he heq => hp e he heq.symm
    have hbad : st.badWords s.focus s.pkg.poison mv = [] := by
      simp only [Strand.badWords, List.filter_eq_nil_iff, List.mem_range, Bool.and_eq_true, decide_eq_true_eq, not_and]
      exact fun w hw hv => hu hv w hw
    simp only [hmv, Nat.not_le.2 hb, hw, hbad, if_false, ne_eq, not_true_eq_false]

end

/-- The banks that leave retention leave it on their core alone. -/
theorem Pkg.wakeBanks_core (p : Pkg) (c : Nat) (bs : List Nat) (d : Nat) : (p.wakeBanks c bs).core d =
    if d ≠ c then p.core d else { p.core c with retained := (p.core c).retained.filter (fun b => b ∉ bs) } := by
  by_cases hd : d = c
  · subst hd
    rw [if_neg (not_not.2 rfl), core, wakeBanks, RMap.find?_modify_same]
    cases h : p.cores.find? d <;> simp [core, h]
  · rw [if_pos hd, core, wakeBanks, RMap.find?_modify_ne _ _ _ _ hd, core]

section
variable {o : POps} {s : State} {st : Strand}

/-- ARD saturating: SATS is set where an element leaves s32 (R293). -/
theorem exec_ard_sat (h : SlotReady (.ard o) s st) (ht : Spec.TileReadable s st o) (hs : o.sub.getLsbD 0 = false) :
    exec (.ard o) s = .next (s.unitDone (.ard o) st s.pkg
      ((st.vresult o.vec o.nw (ofLanes 32 16 (fun j => wrapBits 32 (Spec.sats 32 (rowOf (s.pkg.core st.core) o j))))).satsIf o.dm.toNat
        ((List.range 16).any (fun j => decide (Spec.sats 32 (rowOf (s.pkg.core st.core) o j) ≠ rowOf (s.pkg.core st.core) o j))))) := by
  show execArd o s = _
  rw [execArd, pRead_done h ht]
  simp only [hs, Bool.false_eq_true, if_false, satTo_signed, bne, beq_eq_decide, decide_not]

theorem exec_ard_wrap (h : SlotReady (.ard o) s st) (ht : Spec.TileReadable s st o) (hs : o.sub.getLsbD 0 = true) :
    exec (.ard o) s = .next (s.unitDone (.ard o) st s.pkg
      (st.vresult o.vec o.nw (ofLanes 32 16 (fun j => wrapBits 32 (rowOf (s.pkg.core st.core) o j))))) := by
  show execArd o s = _
  rw [execArd, pRead_done h ht]
  simp only [hs, if_true]

theorem exec_ardw (h : SlotReady (.ardw o) s st) (ht : Spec.TileReadable s st o) :
    exec (.ardw o) s = .next (s.unitDone (.ardw o) st s.pkg (st.vresult o.vec o.nw
      (ofLanes 64 8 (fun j => wrapBits 64 (rowOf (s.pkg.core st.core) o (j + if o.sub.getLsbD 0 then 8 else 0)))))) := by
  have hsub : 8 * (o.sub.toNat % 2) = if o.sub.getLsbD 0 then 8 else 0 := by
    rw [BitVec.getLsbD, Nat.testBit_zero]
    rcases Nat.mod_two_eq_zero_or_one o.sub.toNat with hm | hm <;> simp [hm]
  show execArdw o s = _
  rw [execArdw, pRead_done h ht]
  simp only [hsub, Nat.add_comm]

theorem exec_ardh (h : SlotReady (.ardh o) s st) (ht : Spec.TileReadable s st o) :
    exec (.ardh o) s = .next (s.unitDone (.ardh o) st s.pkg (st.vresult o.vec o.nw
      (ofLanes 32 16 (fun j => wrapBits 32 (rowOf (s.pkg.core st.core) o j / 2 ^ 32))))) := by
  show execArdh o s = _
  rw [execArdh, pRead_done h ht]
  rfl

theorem exec_acens (h : SlotReady (.acens o) s st) (ht : Spec.TileReadable s st o) :
    exec (.acens o) s = .next (s.unitDone (.acens o) st s.pkg
      ((st.census o.dm.toNat ((List.range 16).map (fun j => rsb true 56 (rowOf (s.pkg.core st.core) o j)))).satsIf o.dm.toNat
        ((s.pkg.core st.core).tsat.get false o.tile.toNat))) := by
  show execAcens o s = _
  rw [execAcens, pRead_done h ht]

/-- The bank of the multiplier of an ARQ leaves retention, where its window unit is in use (R48, R61). -/
def arqWoken (p : Pkg) (st : Strand) (mv : Nat) : Pkg :=
  if mv = 1023 ∨ st.vused mv = false then p else p.wakeBanks st.core [st.banks.getD (mv / 64) 16]

theorem arqWoken_frame (p : Pkg) (st : Strand) (mv : Nat) : arqWoken p st mv = { p with cores := (arqWoken p st mv).cores } := by
  unfold arqWoken
  split <;> rfl

theorem arqWoken_core (p : Pkg) (st : Strand) (mv c : Nat) : (arqWoken p st mv).core c = if c ≠ st.core then p.core c
    else { p.core st.core with retained :=
      (p.core st.core).retained.filter (fun b => decide (mv = 1023 ∨ st.vused mv = false ∨ st.banks.getD (mv / 64) 16 ≠ b)) } := by
  unfold arqWoken
  by_cases hmv : mv = 1023 ∨ st.vused mv = false
  · have hall : ∀ b, mv = 1023 ∨ st.vused mv = false ∨ st.banks.getD (mv / 64) 16 ≠ b := fun b => hmv.imp_right .inl
    simp only [if_pos hmv, hall, decide_true, List.filter_true]
    split
    · rfl
    · next hc => rw [not_not.1 hc]
  · have hiff : ∀ b, (mv = 1023 ∨ st.vused mv = false ∨ st.banks.getD (mv / 64) 16 ≠ b) ↔ b ∉ [st.banks.getD (mv / 64) 16] := by
      intro b
      rw [not_or] at hmv
      simp [hmv, eq_comm]
    rw [if_neg hmv, Pkg.wakeBanks_core]
    simp only [hiff]

/-- The multipliers of an ARQ whose multiplier code is mv. -/
def arqMult (st : Strand) (mv j : Nat) : Int := if mv = 1023 then 1 else ((st.getV mv).extractLsb' (32 * j) 32).toInt

/-- Lane j of an ARQ on a row v: multiplied, shifted right and rounded, not yet saturated (R295). -/
def arqRound (st : Strand) (o : POps) (v : Nat → Int) (j : Nat) : Int :=
  let w := arqLit st o 0
  let n : Nat := w / 2 ^ 10 % 2 ^ 7
  let m := arqMult st (w % 2 ^ 10)
  if w.testBit 17 then stoch (v j * m j) n ((arqLit st o 1 + (16 * o.row.toNat + j : Nat)) % 2 ^ 32) else rne (v j * m j) n

/-- The drain's rounding of lane j is that of the spec. -/
theorem drainRound_eq (st : Strand) (o : POps) (v : Nat → Int) (j : Nat) :
    drainRound (v j * (if arqLit st o 0 % 1024 = 1023 then 1 else readFmt true 32 (laneOf (st.getV (arqLit st o 0 % 1024)) 32 j)))
      (bitN (arqLit st o 0) 17) (arqLit st o 0 / 2 ^ 10 % 128) ((arqLit st o 1 + o.row.toNat * 16 + j) % 2 ^ 32) = arqRound st o v j := by
  rw [readFmt_laneOf (by decide), drainRound, bitN_eq_testBit, Nat.mul_comm o.row.toNat, Nat.add_assoc]
  rfl

theorem exec_arq (h : SlotReady (.arq o) s st) (ht : Spec.TileReadable s st o) (hm : Spec.Multiplier s st (arqLit st o 0 % 1024)) :
    let k := s.pkg.core st.core
    let ty := arqLit st o 0 / 2 ^ 18 % 8
    let q (j : Nat) : Int := satTo (tySigned ty) (tyW ty) (arqRound st o (rowOf k o) j)
    exec (.arq o) s = .next (s.unitDone (.arq o) st (arqWoken s.pkg st (arqLit st o 0 % 1024))
      (((st.vresult o.vec o.nw (ofLanes 32 16 (fun j => wrapBits 32 (q j)))).census o.dm.toNat
        ((List.range 16).map (fun j => rsb (tySigned ty) (tyW ty) (q j)))).satsIf o.dm.toNat
        ((List.range 16).any (fun j => decide (q j ≠ arqRound st o (rowOf k o) j)) || k.tsat.get false o.tile.toNat))) := by
  show execArq o s = _
  unfold execArq
  refine onUnit_ready h rfl rfl (by simp [arqStop_none hm, modeStop_direct ht.1, tileUpset, ht.2]) ?_
  simp only [drainRound_eq, arqWoken, bne, beq_eq_decide, decide_not]

theorem exec_arq_shared (h : SlotReady (.arq o) s st) (hm : Spec.Multiplier s st (arqLit st o 0 % 1024))
    (hmode : (s.pkg.core st.core).mode = .shared) : Spec.Traps (.arq o) s st 0x19 6 := by
  show execArq o s = _
  unfold execArq
  refine onUnit_ready_stop (w := .trap 0x19 6) h rfl rfl ?_
  rw [arqStop_none hm, modeStop_shared hmode]
  rfl

end

/-- Settles O39: each read commits with its values, or takes 0x19 where the core is SHARED. -/
theorem tileReads : Obligations.TileReads := by
  intro o s st k v js done out
  refine ⟨fun e he h hmode => ?_, fun h hm hmode => ?_, fun ht => ⟨fun h hs => ?_, fun h hs => ?_, fun h => ?_, fun h => ?_, fun h => ?_, fun h => ?_⟩⟩
  · simp only [List.mem_cons, List.not_mem_nil, or_false] at he
    rcases he with rfl | rfl | rfl | rfl | rfl | rfl | rfl
    · show execArd o s = _; exact pRead_shared h hmode
    · show execArdw o s = _; exact pRead_shared h hmode
    · show execArdh o s = _; exact pRead_shared h hmode
    · show execAwr o s = _; exact pWrite_shared h hmode
    · show execAaddv o s = _; exact pWrite_shared h hmode
    · show execAzero o s = _; exact pWrite_shared h hmode
    · show execAcens o s = _; exact pRead_shared h hmode
  · exact exec_arq_shared h hm hmode
  · exact exec_ard_wrap h ht hs
  · exact exec_ard_sat h ht hs
  · exact exec_ardw h ht
  · exact exec_ardh h ht
  · exact exec_acens h ht
  · intro w keys mv ty hm m n r q
    exact ⟨_, _, arqWoken_frame s.pkg st mv, arqWoken_core s.pkg st mv, exec_arq h ht hm⟩

end Sys2Proof.Machine
end

section
/-! SUPPORT. Ranges that a command names: pieces of one 64 KiB frame, and the checks of R271 on them. -/

namespace Sys2Proof.Machine

/-- A part of n bytes at va lies among them and in one 64 KiB frame. -/
theorem mem_framesFrom {f va n : Nat} {q : Nat × Nat} (h : q ∈ framesFrom f va n) :
    0 < q.2 ∧ va ≤ q.1 ∧ q.1 + q.2 ≤ va + n ∧ q.1 % 65536 + q.2 ≤ 65536 := by
  induction f generalizing va n with
  | zero => cases h
  | succ f ih =>
    unfold framesFrom at h
    by_cases hn : n = 0
    · rw [if_pos hn] at h; cases h
    · rw [if_neg hn] at h
      obtain ⟨m, hm⟩ : ∃ m, m = min n (65536 - va % 65536) := ⟨_, rfl⟩
      simp only [← hm, List.mem_cons] at h
      have hmn : 0 < m ∧ m ≤ n ∧ va % 65536 + m ≤ 65536 := by omega
      rcases h with rfl | h
      · exact ⟨hmn.1, Nat.le_refl _, Nat.add_le_add_left hmn.2.1 _, hmn.2.2⟩
      · obtain ⟨h0, hlo, hhi, hfr⟩ := ih h
        exact ⟨h0, by omega, by omega, hfr⟩

/-- The permissions that a piece of an accessible range has (R92). -/
theorem permOk_of {sup : Bool} {flags : Nat} {k : AccKind} (hs : flags.testBit 11 = true → sup = true)
    (hr : k ≠ .store → flags.testBit 1 = true) (hw : k ≠ .load → flags.testBit 2 = true) (ht : k = .atomic → flags / 2 ^ 7 % 4 ≠ 3) :
    permOk sup flags k.code = true := by
  have h11 : (!bitN flags 11 || sup) = true := by
    rw [bitN_eq_testBit]
    cases hb : flags.testBit 11 <;> simp [hs, hb]
  unfold permOk
  rw [h11, Bool.true_and]
  cases k
  · exact (bitN_eq_testBit _ _).trans (hr (by decide))
  · exact (bitN_eq_testBit _ _).trans (hw (by decide))
  · have hf : fieldN flags 8 7 ≠ 3 := ht rfl
    simp [AccKind.code, bitN_eq_testBit, hr, hw, hf]

/-- A piece of an accessible range passes steps 3 to 5 of R271. -/
theorem blkStop_of_accessible {p : Pkg} {st : Strand} {k : AccKind} {va n : Nat} (h : Spec.Accessible p st k va n) {b : Blk}
    (h0 : 0 < b.n) (hlo : va ≤ b.va) (hhi : b.va + b.n ≤ va + n) (hfr : b.va % 65536 + b.n ≤ 65536) : blkStop p st k b = none := by
  have hfirst := h.1 b.va hlo (by omega)
  have hlast := h.1 (b.va + b.n - 1) (by omega) (by omega)
  rcases hfirst with ⟨hg, t, ht, hs, hr, hw, ha⟩ | ⟨hwlo, hwhi, hj, -⟩ | ⟨hk, hnlo, -⟩
  · have hl : locOf b.va = .general := if_pos hg
    have hperm := permOk_of hs hr (fun hk => (hw hk).1) ha
    simp only [blkStop, hl, ht, hperm, Bool.not_true, Bool.false_eq_true, if_false, bitN_eq_testBit, ite_eq_right_iff, reduceCtorEq, imp_false,
      not_and, Bool.not_eq_true', Bool.not_eq_false]
    exact fun hk => (hw hk).2
  · have hl : locOf b.va = .window ((b.va - 0x7F0000000000) / 2 ^ 18) ((b.va - 0x7F0000000000) % 2 ^ 18) := by
      unfold locOf windowBase noticeBase
      rw [if_neg (by omega), if_pos hwhi]
    have hin : (b.va - 0x7F0000000000) % 2 ^ 18 + b.n ≤ (p.launch (p.crew st.crew).launch).spad := by
      rcases hlast with hl | hl | hl <;> omega
    have hwin : p.inWin st.crew ((b.va - 0x7F0000000000) / 2 ^ 18) ((b.va - 0x7F0000000000) % 2 ^ 18) b.n = true := by
      simp only [Pkg.inWin, Bool.and_eq_true, decide_eq_true_eq]
      exact ⟨hj, hin⟩
    simp only [blkStop, hl, hwin, if_true]
  · have hl : locOf b.va = .notice (b.va - 0x7F0000600000) := by
      unfold locOf windowBase noticeBase
      rw [if_neg (by omega), if_neg (by omega), if_pos (by omega)]
    have hin : b.va - 0x7F0000600000 + b.n ≤ 0x248 := by
      rcases hlast with hl | hl | hl <;> omega
    simp only [blkStop, hl]
    rw [if_neg (by omega), if_pos ⟨hk, hin⟩]

theorem rangeChk_reach {s : State} {st : Strand} {k : AccKind} {va n : Nat} (h : Spec.Reach s st k va n) : rangeChk s.pkg st k va n = none := by
  rw [rangeChk, List.findSome?_eq_none_iff]
  intro b hb
  obtain ⟨q, hq, rfl⟩ := List.mem_map.1 hb
  obtain ⟨h0, hlo, hhi, hfr⟩ := mem_framesFrom hq
  exact blkStop_of_accessible (p := { s.pkg with ranges := [], wanted := [] }) h h0 hlo hhi hfr

end Sys2Proof.Machine
end

section
/-! SUPPORT. The matrix queue (R124, R299): what a command that passes its checks comes to, and the checks. -/

namespace Sys2Proof.Machine

/-- Instruction i of strand st passes its own checks and enters ent in the matrix queue, its core changed by f. -/
def Enters (i : Instr) (s : State) (st : Strand) (ent : MxEnt) (f : Core → Core) : Prop :=
  ∃ chk eff, exec i s = onUnit i noFx noPv chk eff s ∧ chk s st = none ∧ eff s st = mxEnter s st ent f

/-- A pop that the home has answered, or holds in its list, holds nothing back (R127). -/
theorem Pkg.popAhead_none {p : Pkg} {u n : Nat}
    (h : ∀ e ∈ p.pools, e.2.strand = u → e.2.kind = .pop ∨ e.2.kind = .popw → e.2.joined = true ∨ e.2.answer.isSome = true) :
    p.popAhead u n = none := by
  rw [popAhead, Option.map_eq_none_iff, List.find?_eq_none]
  intro o ho hsel
  obtain ⟨m, hm⟩ := RMap.mem_vals.1 ho
  simp only [Bool.and_eq_true, beq_iff_eq, decide_eq_true_eq, Bool.or_eq_true, Option.isNone_iff_eq_none, Bool.not_eq_true'] at hsel
  obtain ⟨⟨⟨⟨hu, -⟩, hk⟩, ha⟩, hj⟩ := hsel
  rcases h _ hm hu hk with h | h
  · rw [h] at hj; cases hj
  · rw [ha] at h; cases h

section
variable {i : Instr} {s : State} {st : Strand} {ent : MxEnt} {f : Core → Core} (he : Enters i s st ent f) (h : SlotReady i s st)
include he h

theorem Enters.done (ho : s.pkg.owed st 6 = []) (hl : (s.pkg.core st.core).mxq.length < 16) :
    exec i s = .next (s.unitDone i st (Spec.Queued s st (f (s.pkg.core st.core)) ent) st) := by
  obtain ⟨chk, eff, hexec, hchk, heff⟩ := he
  rw [hexec]
  refine onUnit_ready h rfl rfl hchk (heff.trans ?_)
  simp only [mxEnter, orderStop, waitFor, ho, if_true, Nat.not_le.2 hl, if_false, Spec.Queued, Pkg.fresh]

theorem Enters.full (ho : s.pkg.owed st 6 = []) (hl : 16 ≤ (s.pkg.core st.core).mxq.length) :
    exec i s = .next (s.withPkg (s.pkg.stopAt s.er s.focus st (.block (.queueFull 0)))) := by
  obtain ⟨chk, eff, hexec, hchk, heff⟩ := he
  rw [hexec]
  refine onUnit_ready_effStop h rfl rfl hchk (heff.trans ?_)
  simp only [mxEnter, orderStop, waitFor, ho, if_true, hl]

theorem Enters.holds (ho : s.pkg.owed st 6 ≠ []) (hp : s.pkg.popAhead st.uid s.pkg.nextNum = none) : exec i s = .next s := by
  obtain ⟨chk, eff, hexec, hchk, heff⟩ := he
  rw [hexec]
  refine onUnit_ready_effStop h rfl rfl hchk (w := .hold) (heff.trans ?_)
  simp only [mxEnter, orderStop, waitFor, ho, hp, if_false]

end

section
variable {s : State} {st : Strand}

theorem claimStop_claimed {l : List Nat} (h : Spec.Claimed s st l) : claimStop s.pkg st l = none := by
  have hl : l.find? (fun o => (s.pkg.core st.core).claim.find? o != some st.crew || o ∈ (s.pkg.core st.core).releasing) = none := by
    rw [List.find?_eq_none]
    intro o ho
    obtain ⟨hc, hr⟩ := h o ho
    simp [hc, hr]
  simp only [claimStop, hl]

/-- The first slot that is not the crew's, or is releasing, traps. -/
theorem claimStop_unclaimed {l : List Nat} (h : ¬ Spec.Claimed s st l) :
    ∃ x ∈ l, ¬ Spec.Claimed s st [x] ∧ claimStop s.pkg st l = some (.trap 0x18 (BitVec.ofNat 64 x)) := by
  cases hx : l.find? (fun o => (s.pkg.core st.core).claim.find? o != some st.crew || o ∈ (s.pkg.core st.core).releasing) with
  | none =>
    refine absurd (fun o ho => ?_) h
    simpa using List.find?_eq_none.1 hx o ho
  | some x =>
    refine ⟨x, List.mem_of_find?_eq_some hx, fun hc => ?_, by simp only [claimStop, hx]⟩
    obtain ⟨hcl, hr⟩ := hc x (List.mem_singleton_self x)
    simpa [hcl, hr] using List.find?_some hx

theorem depthStop_within {t n : Nat} (h : (s.pkg.core st.core).issued.get 0 t + n ≤ (s.pkg.launchOf st).maxSteps) :
    depthStop s.pkg st t n = none := if_neg (Nat.not_lt.2 h)

theorem depthStop_beyond {t n : Nat} (h : (s.pkg.launchOf st).maxSteps < (s.pkg.core st.core).issued.get 0 t + n) :
    depthStop s.pkg st t n = some (.trap 0x1A (BitVec.ofNat 64 t)) := if_pos h

end

end Sys2Proof.Machine
end

section
/-! SUPPORT. Which commands enter the matrix queue, and how (R301 to R304); the traps of their checks. -/

namespace Sys2Proof.Machine

/-! ### The commands as slots on the units -/

theorem mmaOp_eq (i : Instr) (o : EMma) (op n : Nat) (s : State) : mmaOp i o op n s = onUnit i noFx noPv
    (fun s st => ((modeStop s.pkg st op).or (claimStop s.pkg st ((List.range n).flatMap (fun t => [o.oA.toNat + t, o.oB.toNat + t])))).or
      (depthStop s.pkg st o.tile.toNat n))
    (fun s st => mxEnter s st (.mma o.tile.toNat o.oA.toNat o.oB.toNat n (o.tA == 1#1) (o.tB == 1#1) st.format)
      (fun k => k.issue o.tile.toNat n)) s := rfl

theorem exec_mma (o : EMma) (s : State) : exec (.mma o) s = mmaOp (.mma o) o 0x01 1 s := rfl
theorem exec_mchain (o : EMma) (s : State) : exec (.mchain o) s = mmaOp (.mchain o) o 0x02 (o.n.toNat + 1) s := rfl

theorem exec_mseal (o : EMask) (s : State) : exec (.mseal o) s = onUnit (.mseal o) noFx noPv (fun s st => modeStop s.pkg st 0x03)
    (fun s st => mxEnter s st (.mseal o.mask) (fun k => k.clearIssued o.mask)) s := rfl

theorem exec_mzero (o : EMask) (s : State) : exec (.mzero o) s = onUnit (.mzero o) noFx noPv (fun s st => modeStop s.pkg st 0x04)
    (fun s st => mxEnter s st (.mzero o.mask) (fun k => k.clearIssued o.mask)) s := rfl

theorem exec_orelease (o : ESlots) (s : State) : exec (.orelease o) s = onUnit (.orelease o) noFx noPv
    (fun s st => (modeStop s.pkg st 0x06).or (claimStop s.pkg st (eSlots o)))
    (fun s st => mxEnter s st (.orelease o.first.toNat (o.count.toNat + 1)) (fun k => { k with releasing := k.releasing ++ eSlots o })) s := rfl

theorem exec_oclaim (o : ESlots) (s : State) : exec (.oclaim o) s = onUnit (.oclaim o) noFx noPv (fun s st => modeStop s.pkg st 0x05)
    (fun s st =>
      if (eSlots o).all (fun n => match (s.pkg.core st.core).claim.find? n with
        | none => true
        | some c => c == st.crew && !(decide (n ∈ (s.pkg.core st.core).releasing)))
      then .done (s.pkg.setCore st.core { s.pkg.core st.core with
        claim := (eSlots o).foldl (fun m n => RMap.put m n st.crew) (s.pkg.core st.core).claim }) (st.setX o.xd.toNat 1)
      else .done s.pkg (st.setX o.xd.toNat 0)) s := rfl

/-- The 256 elements that an OFILLV reads at its issue. -/
def ofillvRows (st : Strand) (o : EOfillv) : List (BitVec 16) :=
  (List.range 16).flatMap (fun i => (List.range 16).map (fun j => BitVec.ofNat 16 (laneOf (st.getV (o.vec.toNat + i)) (tyW o.ety.toNat) j)))

theorem exec_ofillv (o : EOfillv) (s : State) : exec (.ofillv o) s = onUnit (.ofillv o) noFx noPv
    (fun s st => (modeStop s.pkg st 0x08).or (claimStop s.pkg st [o.slot.toNat]))
    (fun s st => mxEnter s st (.ofillv o.slot.toNat (ofillvRows st o)) (fun k => k)) s := rfl

/-- The memory checks of an OFILL (R304). -/
def ofillRowStop (p : Pkg) (st : Strand) (o : EOfill) : Option Stop :=
  let es := max 1 (tyW o.ety.toNat / 8)
  ((alignStop (eaE st o.xB o.off) es).or (alignStop (st.getX o.xS.toNat) es)).or
    ((List.range 16).findSome? (fun i =>
      rangeChk p st .load (eaE st o.xB o.off + st.getX o.xS.toNat * BitVec.ofNat 64 i).toNat (rowBytes o.ety.toNat)))

theorem exec_ofill (o : EOfill) (s : State) : exec (.ofill o) s = onUnit (.ofill o) noFx noPv
    (fun s st => (ofillRowStop s.pkg st o).or ((modeStop s.pkg st 0x07).or (claimStop s.pkg st [o.slot.toNat])))
    (fun s st => mxEnter s st (.ofill o.slot.toNat o.ety.toNat (eaE st o.xB o.off) (st.getX o.xS.toNat) st.sup) (fun k => k)) s := by
  show execOfill o s = _
  simp only [execOfill, ofillRowStop, Option.or_assoc]

/-- The rows of an OFILL are aligned and can be read (R304). -/
def OfillRows (s : State) (st : Strand) (o : EOfill) : Prop :=
  let ea := st.getX o.xB.toNat + o.off.signExtend 64
  let sd := st.getX o.xS.toNat
  let es := max 1 (tyW o.ety.toNat / 8)
  ea.toNat % es = 0 ∧ sd.toNat % es = 0 ∧ ∀ r < 16, Spec.Reach s st .load (ea + sd * BitVec.ofNat 64 r).toNat (2 * tyW o.ety.toNat)

theorem ofillRowStop_none {s : State} {st : Strand} {o : EOfill} (h : OfillRows s st o) : ofillRowStop s.pkg st o = none := by
  obtain ⟨hea, hsd, hrow⟩ := h
  have hrows : (List.range 16).findSome? (fun i => rangeChk s.pkg st .load (eaE st o.xB o.off + st.getX o.xS.toNat * BitVec.ofNat 64 i).toNat
      (rowBytes o.ety.toNat)) = none :=
    List.findSome?_eq_none_iff.2 fun r hr => rangeChk_reach (hrow r (List.mem_range.1 hr))
  have hal : alignStop (eaE st o.xB o.off) (max 1 (tyW o.ety.toNat / 8)) = none := if_pos hea
  have hst : alignStop (st.getX o.xS.toNat) (max 1 (tyW o.ety.toNat / 8)) = none := if_pos hsd
  simp only [ofillRowStop, hrows, hal, hst, Option.or_none]

/-! ### The commands that enter the queue -/

section
variable {s : State} {st : Strand} (hm : (s.pkg.core st.core).mode = .direct)
include hm

theorem enters_mmaOp {i : Instr} {o : EMma} {op n : Nat} (hi : exec i s = mmaOp i o op n s)
    (hc : Spec.Claimed s st ((List.range n).flatMap (fun x => [o.oA.toNat + x, o.oB.toNat + x])))
    (hd : (s.pkg.core st.core).issued.get 0 o.tile.toNat + n ≤ (s.pkg.launchOf st).maxSteps) :
    Enters i s st (.mma o.tile.toNat o.oA.toNat o.oB.toNat n (o.tA == 1) (o.tB == 1) st.format) (fun k => k.issue o.tile.toNat n) :=
  ⟨_, _, hi.trans (mmaOp_eq i o op n s), by simp only [modeStop_direct hm, claimStop_claimed hc, depthStop_within hd, Option.or_none], rfl⟩

theorem enters_mseal (o : EMask) : Enters (.mseal o) s st (.mseal o.mask) (fun k => k.clearIssued o.mask) :=
  ⟨_, _, exec_mseal o s, modeStop_direct hm _, rfl⟩

theorem enters_mzero (o : EMask) : Enters (.mzero o) s st (.mzero o.mask) (fun k => k.clearIssued o.mask) :=
  ⟨_, _, exec_mzero o s, modeStop_direct hm _, rfl⟩

theorem enters_orelease {o : ESlots} (hc : Spec.Claimed s st (eSlots o)) :
    Enters (.orelease o) s st (.orelease o.first.toNat (o.count.toNat + 1)) (fun k => { k with releasing := k.releasing ++ eSlots o }) :=
  ⟨_, _, exec_orelease o s, by simp only [modeStop_direct hm, claimStop_claimed hc, Option.or_none], rfl⟩

theorem enters_ofill {o : EOfill} (hf : OfillRows s st o) (hc : Spec.Claimed s st [o.slot.toNat]) :
    Enters (.ofill o) s st (.ofill o.slot.toNat o.ety.toNat (eaE st o.xB o.off) (st.getX o.xS.toNat) st.sup) (fun k => k) :=
  ⟨_, _, exec_ofill o s, by simp only [ofillRowStop_none hf, modeStop_direct hm, claimStop_claimed hc, Option.or_none], rfl⟩

theorem enters_ofillv {o : EOfillv} (hc : Spec.Claimed s st [o.slot.toNat]) :
    Enters (.ofillv o) s st (.ofillv o.slot.toNat (ofillvRows st o)) (fun k => k) :=
  ⟨_, _, exec_ofillv o s, by simp only [modeStop_direct hm, claimStop_claimed hc, Option.or_none], rfl⟩

end

section
variable {s : State} {st : Strand}

/-! ### Traps -/

/-- A matrix command on a SHARED core. -/
theorem traps_shared {i : Instr} {chk : State → Strand → Option Stop} {eff : State → Strand → Res} {n : Nat} {more : Option Stop}
    (hexec : exec i s = onUnit i noFx noPv chk eff s) (hchk : chk s st = (modeStop s.pkg st n).or more)
    (h : SlotReady i s st) (hm : (s.pkg.core st.core).mode = .shared) : Spec.Traps i s st 0x19 (BitVec.ofNat 64 n) := by
  rw [Spec.Traps, hexec]
  exact onUnit_ready_stop (w := .trap 0x19 (BitVec.ofNat 64 n)) h rfl rfl (by rw [hchk, modeStop_shared hm]; rfl)

/-- A matrix command on a slot that is not the crew's, or that is releasing. -/
theorem traps_unclaimed {i : Instr} {chk : State → Strand → Option Stop} {eff : State → Strand → Res} {l : List Nat} {n : Nat} {more : Option Stop}
    (hexec : exec i s = onUnit i noFx noPv chk eff s) (hchk : chk s st = ((modeStop s.pkg st n).or (claimStop s.pkg st l)).or more)
    (h : SlotReady i s st) (hm : (s.pkg.core st.core).mode = .direct) (hc : ¬ Spec.Claimed s st l) :
    ∃ x ∈ l, ¬ Spec.Claimed s st [x] ∧ Spec.Traps i s st 0x18 (BitVec.ofNat 64 x) := by
  obtain ⟨x, hx, hxc, hstop⟩ := claimStop_unclaimed hc
  refine ⟨x, hx, hxc, ?_⟩
  rw [Spec.Traps, hexec]
  exact onUnit_ready_stop (w := .trap 0x18 (BitVec.ofNat 64 x)) h rfl rfl (by rw [hchk, modeStop_direct hm, hstop]; rfl)

/-- A step beyond the launch's depth (R408). -/
theorem traps_deep {i : Instr} {o : EMma} {op n : Nat} (hexec : exec i s = mmaOp i o op n s) (h : SlotReady i s st)
    (hm : (s.pkg.core st.core).mode = .direct) (hc : Spec.Claimed s st ((List.range n).flatMap (fun x => [o.oA.toNat + x, o.oB.toNat + x])))
    (hd : (s.pkg.launchOf st).maxSteps < (s.pkg.core st.core).issued.get 0 o.tile.toNat + n) :
    Spec.Traps i s st 0x1A (BitVec.ofNat 64 o.tile.toNat) := by
  rw [Spec.Traps, hexec, mmaOp]
  refine onUnit_ready_stop (w := .trap 0x1A (BitVec.ofNat 64 o.tile.toNat)) h rfl rfl ?_
  simp only [modeStop_direct hm, claimStop_claimed hc, depthStop_beyond hd, Option.none_or]

end

/-! ### OCLAIM (R303) -/

/-- Every slot of l claimed for crew cu. -/
theorem RMap.find?_foldl_put {α : Type} (v : α) (l : List Nat) (m : RMap α) (x : Nat) :
    (l.foldl (fun m n => RMap.put m n v) m).find? x = if x ∈ l then some v else m.find? x := by
  induction l generalizing m with
  | nil => simp
  | cons n l ih =>
    rw [List.foldl_cons, ih, RMap.find?_put]
    by_cases hx : x = n <;> by_cases hl : x ∈ l <;> simp [hx, hl]

/-- The places of l set to the default. -/
theorem RMap.get_foldl_clear {α : Type} [DecidableEq α] (d : α) (l : List Nat) (m : RMap α) (x : Nat) :
    (l.foldl (fun m n => RMap.set m d n d) m).get d x = if x ∈ l then d else m.get d x := by
  induction l generalizing m with
  | nil => simp
  | cons n l ih =>
    rw [List.foldl_cons, ih]
    by_cases hx : x = n
    · subst hx; simp
    · rw [RMap.get_set_ne _ _ _ _ _ hx]; simp [hx]

theorem mem_maskTiles {m : BitVec 16} {t : Nat} (ht : t < 16) : t ∈ maskTiles m ↔ m.getLsbD t = true := by
  simp [maskTiles, ht]

section
variable {s : State} {st : Strand} {o : ESlots} (h : SlotReady (.oclaim o) s st) (hm : (s.pkg.core st.core).mode = .direct)

/-- Every slot that an OCLAIM names can be claimed: nobody's, or the crew's own and not releasing. -/
def SlotsFree (s : State) (st : Strand) (o : ESlots) : Prop :=
  ∀ x ∈ eSlots o, (s.pkg.core st.core).claim.find? x = none
    ∨ ((s.pkg.core st.core).claim.find? x = some st.crew ∧ x ∉ (s.pkg.core st.core).releasing)

theorem slotsFree_iff : ((eSlots o).all fun n => match (s.pkg.core st.core).claim.find? n with
    | none => true
    | some c => c == st.crew && !(decide (n ∈ (s.pkg.core st.core).releasing))) = true ↔ SlotsFree s st o := by
  rw [List.all_eq_true]
  refine forall₂_congr fun x _ => ?_
  cases (s.pkg.core st.core).claim.find? x <;> simp

include h hm

theorem exec_oclaim_free (hf : SlotsFree s st o) : exec (.oclaim o) s = .next (s.unitDone (.oclaim o) st (s.pkg.setCore st.core
    { s.pkg.core st.core with claim := (eSlots o).foldl (fun m n => RMap.put m n st.crew) (s.pkg.core st.core).claim })
    (st.setX o.xd.toNat 1)) := by
  rw [exec_oclaim]
  exact onUnit_ready h rfl rfl (modeStop_direct hm _) (if_pos (slotsFree_iff.2 hf))

theorem exec_oclaim_taken (hf : ¬ SlotsFree s st o) :
    exec (.oclaim o) s = .next (s.unitDone (.oclaim o) st s.pkg (st.setX o.xd.toNat 0)) := by
  rw [exec_oclaim]
  exact onUnit_ready h rfl rfl (modeStop_direct hm _) (if_neg (slotsFree_iff.not.2 hf))

end

/-! ### OFILLV: the rows as read -/

theorem length_rows {α : Type} (f : Nat → Nat → α) (n m : Nat) : ((List.range n).flatMap fun i => (List.range m).map (f i)).length = n * m := by
  induction n with
  | zero => simp
  | succ n ih => rw [List.range_succ, List.flatMap_append, List.length_append, ih, Nat.succ_mul]; simp

/-- Element j of row r stands at place m * r + j of rows of m elements one after the other. -/
theorem getElem?_rows {α : Type} (f : Nat → Nat → α) {n m r j : Nat} (hr : r < n) (hj : j < m) :
    ((List.range n).flatMap fun i => (List.range m).map (f i))[m * r + j]? = some (f r j) := by
  induction n with
  | zero => cases hr
  | succ n ih =>
    have hn := length_rows f n m
    rw [List.range_succ, List.flatMap_append]
    rcases Nat.lt_succ_iff_lt_or_eq.1 hr with hr | rfl
    · rw [List.getElem?_append_left, ih hr]
      have : m * (r + 1) ≤ n * m := by rw [Nat.mul_comm n]; exact Nat.mul_le_mul_left m hr
      rw [Nat.mul_succ] at this
      omega
    · rw [List.getElem?_append_right (by rw [hn, Nat.mul_comm]; omega), hn, Nat.mul_comm r, Nat.add_sub_cancel_left]
      simp [hj]

theorem ofillvRows_length (st : Strand) (o : EOfillv) : (ofillvRows st o).length = 256 := length_rows _ 16 16

theorem ofillvRows_get (st : Strand) {o : EOfillv} (ht : o.ety.toNat ≤ 4) {r j : Nat} (hr : r < 16) (hj : j < 16) :
    ((ofillvRows st o).getD (16 * r + j) 0).toNat = laneOf (st.getV (o.vec.toNat + r)) (tyW o.ety.toNat) j := by
  have hw : tyW o.ety.toNat ≤ 16 := by
    unfold tyW
    generalize o.ety.toNat = t at ht
    interval_cases t <;> decide
  have hlt : laneOf (st.getV (o.vec.toNat + r)) (tyW o.ety.toNat) j < 2 ^ 16 :=
    lt_of_lt_of_le (laneOf_lt _ _ _) (Nat.pow_le_pow_right (by decide) hw)
  rw [List.getD_eq_getElem?_getD, ofillvRows, getElem?_rows _ hr hj, Option.getD_some, BitVec.toNat_ofNat, Nat.mod_eq_of_lt hlt]

end Sys2Proof.Machine
end

section
/-! Matrix commands (O41). -/

namespace Sys2Proof.Machine

/-! ### The format latch (R58, R59) -/

/-- Of MFMTs in order of effect, those in force at issue n are those in force at an earlier issue m, then the others. -/
theorem fmtPipe_split {l : List (Nat × BitVec 7)} {m n : Nat} (hs : l.Pairwise (fun a b => a.1 ≤ b.1)) (hmn : m ≤ n) :
    l.filter (fun e => e.1 ≤ n) = l.filter (fun e => e.1 ≤ m) ++ (l.filter (fun e => m < e.1)).filter (fun e => e.1 ≤ n) := by
  induction l with
  | nil => rfl
  | cons a l ih =>
    obtain ⟨ha, hl⟩ := List.pairwise_cons.1 hs
    by_cases ham : a.1 ≤ m
    · simp [ham, Nat.le_trans ham hmn, Nat.not_lt.2 ham, ih hl]
    · have hnone : (a :: l).filter (fun e => e.1 ≤ m) = [] := by
        simp only [List.filter_eq_nil_iff, List.mem_cons, forall_eq_or_imp, decide_eq_true_eq]
        exact ⟨ham, fun e he => by have := ha e he; omega⟩
      have hall : (a :: l).filter (fun e => m < e.1) = a :: l := by
        simp only [List.filter_eq_self, List.mem_cons, forall_eq_or_imp, decide_eq_true_eq]
        exact ⟨by omega, fun e he => by have := ha e he; omega⟩
      rw [hnone, hall, List.nil_append]

/-- The value of an MFMT is the latch's layout of its fields (R297). -/
theorem EFmt.pay_eq (o : EFmt) : BitVec.ofNat 7 o.pay = o.atype ++ o.btype ++ o.acc := by
  obtain ⟨a, b, c⟩ := o
  revert a b c
  decide

/-- The strand after an MFMT. -/
def Strand.mfmt (st : Strand) (o : EFmt) : Strand :=
  { st with
    fmt := st.format
    fmtPipe := st.fmtPipe.filter (fun (e : Nat × BitVec 7) => st.issues < e.1) ++ [(st.issues + 4, BitVec.ofNat 7 o.pay)]
    dirty := st.dirty ||| 0x20000#30 }

theorem Strand.mfmt_format {st : Strand} {o : EFmt} (hs : st.fmtPipe.Pairwise (fun a b => a.1 ≤ b.1)) {n : Nat} (hn : st.issues ≤ n) :
    ({ st.mfmt o with issues := n } : Strand).format =
      if n < st.issues + 4 then ({ st with issues := n } : Strand).format else o.atype ++ o.btype ++ o.acc := by
  have hnew : ((st.mfmt o).fmtPipe).filter (fun e => e.1 ≤ n) = (st.fmtPipe.filter (fun e => st.issues < e.1)).filter (fun e => e.1 ≤ n)
      ++ if n < st.issues + 4 then [] else [(st.issues + 4, o.atype ++ o.btype ++ o.acc)] := by
    rw [mfmt, List.filter_append, EFmt.pay_eq]
    split
    · next h => simp [Nat.not_le.2 h]
    · next h => simp [Nat.not_lt.1 h]
  show List.foldl _ st.format (((st.mfmt o).fmtPipe).filter (fun e => e.1 ≤ n)) = _
  rw [hnew, List.foldl_append]
  split
  · rw [format, format, List.foldl_nil, ← List.foldl_append, ← fmtPipe_split hs hn]
  · rfl

theorem exec_mfmt (o : EFmt) (s : State) : exec (.mfmt o) s =
    onUnit (.mfmt o) noFx noPv (fun s st => modeStop s.pkg st 0x00) (fun s st => .done s.pkg (st.mfmt o)) s := rfl

/-! ### The statement -/

section
variable {s : State} {st : Strand}

/-- The instructions that enter the matrix queue when their operands are in order. -/
def MxCommand (s : State) (st : Strand) (i : Instr) : Prop :=
  (∃ o, i = .mma o ∧ Spec.Claimed s st [o.oA.toNat, o.oB.toNat] ∧
      (s.pkg.core st.core).issued.get 0 o.tile.toNat + 1 ≤ (s.pkg.launchOf st).maxSteps)
  ∨ (∃ o, i = .mseal o) ∨ (∃ o, i = .mzero o) ∨ (∃ o, i = .orelease o ∧ Spec.Claimed s st (eSlots o))
  ∨ (∃ o, i = .ofill o ∧ OfillRows s st o ∧ Spec.Claimed s st [o.slot.toNat]) ∨ (∃ o, i = .ofillv o ∧ Spec.Claimed s st [o.slot.toNat])

theorem MxCommand.enters {i : Instr} (hi : MxCommand s st i) (hm : (s.pkg.core st.core).mode = .direct) : ∃ ent f, Enters i s st ent f := by
  rcases hi with ⟨o, rfl, hc, hd⟩ | ⟨o, rfl⟩ | ⟨o, rfl⟩ | ⟨o, rfl, hc⟩ | ⟨o, rfl, hf, hc⟩ | ⟨o, rfl, hc⟩
  · exact ⟨_, _, enters_mmaOp hm (exec_mma o s) hc hd⟩
  · exact ⟨_, _, enters_mseal hm o⟩
  · exact ⟨_, _, enters_mzero hm o⟩
  · exact ⟨_, _, enters_orelease hm hc⟩
  · exact ⟨_, _, enters_ofill hm hf hc⟩
  · exact ⟨_, _, enters_ofillv hm hc⟩

/-- The opcode that a matrix command reports on a SHARED core; OFILL checks its rows first. -/
def mxOpcode : Instr → Option Nat
  | .mfmt _ => some 0 | .mma _ => some 1 | .mchain _ => some 2 | .mseal _ => some 3 | .mzero _ => some 4 | .oclaim _ => some 5
  | .orelease _ => some 6 | .ofillv _ => some 8 | _ => none

theorem mxCommand_shared {i : Instr} {n : Nat} (hi : mxOpcode i = some n) (h : SlotReady i s st) (hm : (s.pkg.core st.core).mode = .shared) :
    Spec.Traps i s st 0x19 (BitVec.ofNat 64 n) := by
  unfold mxOpcode at hi
  split at hi <;> simp only [Option.some.injEq, reduceCtorEq] at hi <;> subst hi
  case h_1 o => exact traps_shared (exec_mfmt o s) Option.or_none.symm h hm
  case h_2 o => exact traps_shared ((exec_mma o s).trans (mmaOp_eq ..)) Option.or_assoc h hm
  case h_3 o => exact traps_shared ((exec_mchain o s).trans (mmaOp_eq ..)) Option.or_assoc h hm
  case h_4 o => exact traps_shared (exec_mseal o s) Option.or_none.symm h hm
  case h_5 o => exact traps_shared (exec_mzero o s) Option.or_none.symm h hm
  case h_6 o => exact traps_shared (exec_oclaim o s) Option.or_none.symm h hm
  case h_7 o => exact traps_shared (exec_orelease o s) rfl h hm
  case h_8 o => exact traps_shared (exec_ofillv o s) rfl h hm

theorem ofill_shared {o : EOfill} (h : SlotReady (.ofill o) s st) (hf : OfillRows s st o) (hm : (s.pkg.core st.core).mode = .shared) :
    Spec.Traps (.ofill o) s st 0x19 7 :=
  traps_shared (n := 7) (exec_ofill o s) (by rw [ofillRowStop_none hf, Option.none_or]) h hm

/-- The element type of a legal OFILLV has at most 16 bits. -/
theorem ofillv_type {o : EOfillv} (h : SlotReady (.ofillv o) s st) : o.ety.toNat ≤ 4 := by
  obtain ⟨-, -, -, ⟨-, hf⟩, -⟩ := h
  have hf' : atMost o.ety.toNat 4 ++ atMost o.vec.toNat 752 = [] := hf
  by_contra hgt
  simp [atMost, hgt] at hf'

/-- The instructions that check the slots l, once OFILL's rows are in order. -/
def ChecksSlots (s : State) (st : Strand) (i : Instr) (l : List Nat) : Prop :=
  (∃ o, i = .mma o ∧ l = [o.oA.toNat, o.oB.toNat]) ∨ (∃ o, i = .orelease o ∧ l = eSlots o)
  ∨ (∃ o, i = .mchain o ∧ l = (List.range (o.n.toNat + 1)).flatMap (fun x => [o.oA.toNat + x, o.oB.toNat + x]))
  ∨ (∃ o, i = .ofillv o ∧ l = [o.slot.toNat]) ∨ (∃ o, i = .ofill o ∧ OfillRows s st o ∧ l = [o.slot.toNat])

theorem ChecksSlots.traps {i : Instr} {l : List Nat} (hi : ChecksSlots s st i l) (h : SlotReady i s st)
    (hm : (s.pkg.core st.core).mode = .direct) (hc : ¬ Spec.Claimed s st l) :
    ∃ x ∈ l, ¬ Spec.Claimed s st [x] ∧ Spec.Traps i s st 0x18 (BitVec.ofNat 64 x) := by
  rcases hi with ⟨o, rfl, rfl⟩ | ⟨o, rfl, rfl⟩ | ⟨o, rfl, rfl⟩ | ⟨o, rfl, rfl⟩ | ⟨o, rfl, hf, rfl⟩
  · exact traps_unclaimed ((exec_mma o s).trans (mmaOp_eq ..)) rfl h hm hc
  · exact traps_unclaimed (exec_orelease o s) Option.or_none.symm h hm hc
  · exact traps_unclaimed ((exec_mchain o s).trans (mmaOp_eq ..)) rfl h hm hc
  · exact traps_unclaimed (exec_ofillv o s) Option.or_none.symm h hm hc
  · exact traps_unclaimed (n := 7) (exec_ofill o s) (by rw [ofillRowStop_none hf, Option.none_or, Option.or_none]) h hm hc

end

/-- Settles O41: a command that passes its checks enters the queue, holds the issue or waits; one that does not traps; an MFMT that
commits is in force from the fourth issue on. -/
theorem matrixCommands : Obligations.MatrixCommands := by
  refine ⟨fun s st => ?_, fun o s st h hm hs => ?_⟩
  · intro k d done mm slots fill queued waits op
    refine ⟨fun i n hi h hm => mxCommand_shared hi h hm, fun o h hf hm => ofill_shared h hf hm, fun hm => ?_⟩
    refine ⟨fun i l h hc hi => ChecksSlots.traps hi h hm hc, fun i o n hi h hc hd => ?_, fun i hi h ho hp => ?_, fun i hi h ho hl => ?_,
      fun o h => ?_, fun hl ho => ?_⟩
    · rcases hi with ⟨rfl, rfl⟩ | ⟨rfl, rfl⟩
      · exact traps_deep (exec_mma o s) h hm hc hd
      · exact traps_deep (exec_mchain o s) h hm hc hd
    · obtain ⟨ent, f, he⟩ := MxCommand.enters hi hm
      exact he.holds h ho (Pkg.popAhead_none hp)
    · obtain ⟨ent, f, he⟩ := MxCommand.enters hi hm
      exact he.full h ho hl
    · exact ⟨fun hf => ⟨_, exec_oclaim_free h hm hf, fun x => RMap.find?_foldl_put ..⟩, fun hf => exec_oclaim_taken h hm hf⟩
    · refine ⟨fun o h hc hd => (enters_mmaOp hm (exec_mma o s) hc hd).done h ho hl,
        fun o h hc hd => (enters_mmaOp hm (exec_mchain o s) hc hd).done h ho hl, fun o i hi h => ?_,
        fun o h hc => (enters_orelease hm hc).done h ho hl, fun o h hc hf => (enters_ofill hm hf hc).done h ho hl, fun o h hc => ?_⟩
      · refine ⟨(k.clearIssued o.mask).issued, ?_, fun t ht => ?_⟩
        · rcases hi with rfl | rfl
          · rw [if_pos rfl]
            exact (enters_mseal hm o).done h ho hl
          · rw [if_neg (by simp)]
            exact (enters_mzero hm o).done h ho hl
        · rw [Core.clearIssued, RMap.get_foldl_clear]
          simp only [mem_maskTiles ht]
      · have hty := ofillv_type h
        exact ⟨_, (enters_ofillv hm hc).done h ho hl, ofillvRows_length st o, fun r hr j hj => ofillvRows_get st hty hr hj⟩
  · exact ⟨st.mfmt o, (exec_mfmt o s).trans (onUnit_ready h rfl rfl (modeStop_direct hm _) rfl), rfl, fun n hn => Strand.mfmt_format hs hn⟩

end Sys2Proof.Machine
end

section
/-! Fences and range waits (O33). -/

namespace Sys2Proof.Machine

/-- The base update of an M slot is the table of R270. -/
theorem Strand.updateFrom_eq (st st0 : Strand) (o : MOps) (sz : Nat) : st.updateFrom st0 o sz = Spec.updated st0 st o sz := by
  unfold updateFrom Spec.updated
  generalize o.update = u
  have hu : u = 0 ∨ u = 1 ∨ u = 2 ∨ u = 3 := by revert u; decide
  rcases hu with rfl | rfl | rfl | rfl <;> rfl

/-! ### FENCE (R123) -/

/-- Part q of an access of kind k is performed at a scope, as a fence asks. -/
theorem doneAt_iff (k : AccKind) (q : Part) (scope : Nat) : doneAt k q scope = true ↔ q.reached = 7 ∨ (k = .store ∧ scope < q.reached) := by
  simp [doneAt]

/-- A fence of an order covers accesses of a kind: order 0 stores, 1 loads, and both orders atomics. -/
def fenceKind (order : Nat) (k : AccKind) : Bool := match order with | 0 => k != .load | 1 => k != .store | _ => true

theorem fenceKind_iff (order : BitVec 2) (k : AccKind) :
    fenceKind order.toNat k = true ↔ (order = 0 → k ≠ .load) ∧ (order = 1 → k ≠ .store) := by
  have ho : order = 0 ∨ order = 1 ∨ order = 2 ∨ order = 3 := by revert order; decide
  rcases ho with rfl | rfl | rfl | rfl <;> cases k <;> decide

theorem fenceOwed_eq (p : Pkg) (u order scope : Nat) : fenceOwed p u order scope = (p.accs.filter (fun e =>
    e.2.strand == u && fenceKind order e.2.kind && e.2.parts.any (fun q => !doneAt e.2.kind q scope))).map (fun e => e.1) := rfl

/-- Access a of strand u is one that a fence of the order waits for at a scope. -/
def FenceWaitsFor (u : Nat) (order : BitVec 2) (scope : Nat) (a : Acc) : Prop :=
  a.strand = u ∧ (order = 0 → a.kind ≠ .load) ∧ (order = 1 → a.kind ≠ .store)
    ∧ ∃ q ∈ a.parts, ¬(q.reached = 7 ∨ (a.kind = .store ∧ scope < q.reached))

theorem mem_fenceOwed {p : Pkg} {u scope n : Nat} {order : BitVec 2} :
    n ∈ fenceOwed p u order.toNat scope ↔ ∃ e ∈ p.accs, FenceWaitsFor u order scope e.2 ∧ e.1 = n := by
  simp only [fenceOwed_eq, List.mem_map, List.mem_filter, Bool.and_eq_true, beq_iff_eq, fenceKind_iff, List.any_eq_true,
    Bool.not_eq_true', ← Bool.not_eq_true, doneAt_iff, FenceWaitsFor, and_assoc]

section
variable {o : MOps} {s : State} {st : Strand}

theorem exec_fence_done (h : SlotReady (.fence o) s st) (hl : fenceOwed s.pkg s.focus o.order.toNat o.scope.toNat = []) :
    exec (.fence o) s = .next (s.unitDone (.fence o) st (if o.order.getLsbD 0 then s.pkg.forget s.focus else s.pkg)
      (({ st with
          refCount := 0, refCause := 0, refScope := 0
          codeFence := if o.order = 3#2 ∧ 4 ≤ o.scope.toNat then some { acq := st.acqAt, fence := s.pkg.tick } else st.codeFence } : Strand).mResult o
        st.fenceStatus)) := by
  show execFence o s = _
  unfold execFence
  exact onUnit_ready h rfl rfl rfl (if_neg (not_not.2 hl))

theorem exec_fence_waits (h : SlotReady (.fence o) s st) (hl : fenceOwed s.pkg s.focus o.order.toNat o.scope.toNat ≠ []) :
    exec (.fence o) s = .next (s.withPkg (s.pkg.stopAt s.er s.focus st
      (.block (.fence (fenceOwed s.pkg s.focus o.order.toNat o.scope.toNat) o.scope.toNat)))) := by
  show execFence o s = _
  unfold execFence
  exact onUnit_ready_effStop h rfl rfl rfl (if_pos hl)

/-! ### QFENCE (R126) -/

theorem exec_qfence_released (h : SlotReady (.qfence o) s st) (hg : st.grant ≠ none) :
    exec (.qfence o) s = .next (s.unitDone (.qfence o) st (s.pkg.forget s.focus) (st.acquired s.pkg.tick)) := by
  show execQfence o s = _
  unfold execQfence
  exact onUnit_ready h rfl rfl rfl (if_pos (Option.isSome_iff_ne_none.2 hg))

theorem exec_qfence_join (h : SlotReady (.qfence o) s st) (hg : st.grant = none) (ho : o.order = 0) :
    exec (.qfence o) s = .next (s.unitDone (.qfence o) st (s.pkg.addJoin s.focus o.offset.toNat) st) := by
  show execQfence o s = _
  unfold execQfence
  exact onUnit_ready h rfl rfl rfl ((if_neg (by simp [hg])).trans (if_pos ho))

theorem exec_qfence_hold (h : SlotReady (.qfence o) s st) (hg : st.grant = none) (ho : o.order = 3) :
    exec (.qfence o) s = .next (s.withPkg ((s.pkg.addJoin s.focus o.offset.toNat).setStrand s.focus
      { st with run := .blocked (.hold s.pkg.nextNum), grant := none })) := by
  show execQfence o s = _
  unfold execQfence
  exact onUnit_wait h rfl rfl rfl ((if_neg (by simp [hg])).trans (if_neg (by simp [ho])))

/-! ### RWAIT (R279) -/

theorem rangeMeets_eq_false {p : Pkg} {va n : Nat} : rangeMeets p st va n = false ↔
    ∀ r ∈ p.ranges ++ p.wanted, r.launch = (p.crew st.crew).launch → va + n ≤ r.base * 64 ∨ (r.base + r.units) * 64 ≤ va := by
  simp only [rangeMeets, List.any_eq_false, Bool.and_eq_true, beq_iff_eq, decide_eq_true_eq, not_and, not_lt, and_imp]
  refine forall₂_congr fun r _ => forall_congr' fun _ => ?_
  omega

theorem exec_rwait_done (h : SlotReady (.rwait o) s st)
    (hc : (st.getX o.ix.toNat).toNat = 0 ∨ rangeMeets s.pkg st (Spec.eaNoIx st o).toNat (st.getX o.ix.toNat).toNat = false) :
    exec (.rwait o) s = .next (s.unitDone (.rwait o) st (s.pkg.forget s.focus) { Spec.updated st st o 1 with acqAt := s.pkg.tick }) := by
  show execRwait o s = _
  unfold execRwait
  refine onUnit_ready h rfl rfl rfl ((if_neg ?_).trans ?_)
  · rintro ⟨hn, hm⟩
    rcases hc with hc | hc
    · exact hn hc
    · exact Bool.false_ne_true (hc.symm.trans hm)
  · rw [Strand.update, Strand.updateFrom_eq]
    rfl

theorem exec_rwait_waits (h : SlotReady (.rwait o) s st) (hn : (st.getX o.ix.toNat).toNat ≠ 0)
    (hm : rangeMeets s.pkg st (Spec.eaNoIx st o).toNat (st.getX o.ix.toNat).toNat = true) :
    exec (.rwait o) s = .next (s.withPkg (s.pkg.stopAt s.er s.focus st
      (.block (.range (Spec.eaNoIx st o).toNat (st.getX o.ix.toNat).toNat)))) := by
  show execRwait o s = _
  unfold execRwait
  exact onUnit_ready_effStop h rfl rfl rfl (if_pos ⟨hn, hm⟩)

end

/-- Settles O33: each commits when nothing it waits for is left, and blocks while something is. -/
theorem fencesAndRangeWaits : Obligations.FencesAndRangeWaits := by
  intro o s st
  refine ⟨fun h hall => ?_, fun h ⟨e, he, hu, h0, h1, hq⟩ => ?_, fun h hg => exec_qfence_released h hg, fun h hg => ?_, fun h => ?_⟩
  · have hl : fenceOwed s.pkg s.focus o.order.toNat o.scope.toNat = [] := by
      refine List.eq_nil_iff_forall_not_mem.2 fun n hn => ?_
      obtain ⟨e, he, ⟨hu, h0, h1, q, hq, hnot⟩, -⟩ := mem_fenceOwed.1 hn
      exact hnot (hall e he hu h0 h1 q hq)
    rw [exec_fence_done h hl, Strand.fenceStatus, Nat.mul_comm (2 ^ 16), Nat.mul_comm (2 ^ 8)]
    rfl
  · have hmem : e.1 ∈ fenceOwed s.pkg s.focus o.order.toNat o.scope.toNat := mem_fenceOwed.2 ⟨e, he, ⟨hu, h0, h1, hq⟩, rfl⟩
    exact ⟨_, exec_fence_waits h (List.ne_nil_of_mem hmem)⟩
  · exact ⟨s.pkg.addJoin s.focus o.offset.toNat, ⟨_, rfl, List.filter_sublist⟩, rfl, exec_qfence_join h hg, exec_qfence_hold h hg⟩
  · intro va n clear
    have hclear : clear ↔ n = 0 ∨ rangeMeets s.pkg st va n = false := or_congr_right rangeMeets_eq_false.symm
    refine ⟨fun hc => exec_rwait_done h (hclear.1 hc), fun hc => ?_⟩
    rw [hclear, not_or, Bool.not_eq_false] at hc
    exact exec_rwait_waits h hc.1 hc.2

end Sys2Proof.Machine
end

section
/-! SUPPORT. What the end of a slot leaves of a strand: the queue reads at the start of an issue, the issues that follow and the end of
the bundle touch no register but the queues that are read (R51, R189). -/

namespace Sys2Proof.Machine

/-! ### The registers that only a slot or a trap writes -/

/-- The registers of a strand but its queues, with the VUSED bits alone of DIRTY. -/
def Strand.own (st : Strand) : Strand :=
  { x := st.x, p := st.p, m := st.m, e := st.e, v := st.v, dirty := st.dirty >>> 18, latch := st.latch, fmt := st.fmt, fmtPipe := st.fmtPipe,
    tcause := st.tcause, tpc := st.tpc, tval := st.tval, tstat := st.tstat, tvec := st.tvec, tscr := st.tscr, trapSet := st.trapSet,
    sup := st.sup, inh := st.inh, banks := st.banks, shadow := st.shadow }

theorem Strand.getX_congr {st st' : Strand} (h : st'.x = st.x) (r : Nat) : st'.getX r = st.getX r := by rw [getX, getX, h]
theorem Strand.getP_congr {st st' : Strand} (h : st'.p = st.p) (n : Nat) : st'.getP n = st.getP n := by rw [getP, getP, h]
theorem Strand.getM_congr {st st' : Strand} (h : st'.m = st.m) (n : Nat) : st'.getM n = st.getM n := by rw [getM, getM, h]
theorem Strand.getE_congr {st st' : Strand} (h : st'.e = st.e) (n : Nat) : st'.getE n = st.getE n := by rw [getE, getE, h]

theorem Strand.getV_congr {st st' : Strand} (hv : st'.v = st.v) (hd : st'.dirty >>> 18 = st.dirty >>> 18) (n : Nat) :
    st'.getV n = st.getV n := by
  have hu : st'.vused n = st.vused n := by
    simpa only [vused, BitVec.getLsbD_ushiftRight] using congrArg (BitVec.getLsbD · (n / 64)) hd
  rw [getV, getV, hu, hv]

/-- The DIRTY bits below 18 are not VUSED bits. -/
theorem Strand.dirty_mark (st : Strand) {b : Nat} (h : b < 18) : (st.mark b).dirty >>> 18 = st.dirty >>> 18 := by
  have hb : (BitVec.ofNat 30 (2 ^ b)) >>> 18 = 0#30 := by
    have h1 : 2 ^ b < 2 ^ 18 := Nat.pow_lt_pow_right (by decide) h
    have h2 : 2 ^ b % 2 ^ 30 = 2 ^ b := Nat.mod_eq_of_lt (by omega)
    exact BitVec.eq_of_toNat_eq (by simp only [BitVec.toNat_ushiftRight, BitVec.toNat_ofNat, h2, Nat.shiftRight_eq_div_pow]; omega)
  rw [mark, BitVec.ushiftRight_or_distrib, hb, BitVec.or_zero]

theorem Strand.getV_of_own {st st' : Strand} (h : st'.own = st.own) (n : Nat) : st'.getV n = st.getV n :=
  getV_congr (congrArg (·.v) h) (congrArg (·.dirty) h) n

/-! ### Queue reads -/

/-- t is st after queue reads: only queues, their DIRTY bit and the captured entries differ. -/
def Strand.ReadsTo (st t : Strand) : Prop :=
  ∃ q d c, t = { st with q := q, dirty := d, bun := { st.bun with capt := c } } ∧ d >>> 18 = st.dirty >>> 18

theorem Strand.ReadsTo.refl (st : Strand) : st.ReadsTo st := ⟨st.q, st.dirty, st.bun.capt, rfl, rfl⟩

theorem Strand.ReadsTo.trans {st t u : Strand} (h : st.ReadsTo t) (h' : t.ReadsTo u) : st.ReadsTo u := by
  obtain ⟨q, d, c, rfl, hd⟩ := h
  obtain ⟨q', d', c', rfl, hd'⟩ := h'
  exact ⟨q', d', c', rfl, hd'.trans hd⟩

theorem Strand.ReadsTo.own_eq {st t : Strand} (h : st.ReadsTo t) : t.own = st.own := by
  obtain ⟨q, d, c, rfl, hd⟩ := h
  simp only [own, hd]

/-- The entry that a read finds is captured, and a pop takes it. -/
def Strand.readQ (st : Strand) (k : Nat) (peek : Bool) (n : Nat) : Strand :=
  let st1 := if peek then st else st.setQ n (st.getQ n).tail
  { st1 with bun := { st1.bun with capt := st1.bun.capt ++ [{ slot := k, q := n, pop := !peek, ent := (st.getQ n).head? }] } }

theorem Strand.readsTo_readQ (st : Strand) (k : Nat) (peek : Bool) (n : Nat) : st.ReadsTo (st.readQ k peek n) := by
  unfold readQ
  cases peek with
  | true => exact ⟨st.q, st.dirty, _, rfl, rfl⟩
  | false => exact ⟨_, _, _, rfl, Strand.dirty_mark _ (by decide)⟩

theorem captSlot_cons (k : Nat) (peek : Bool) (c : BitVec 10) (cs : List (BitVec 10)) (st : Strand) :
    captSlot k peek (c :: cs) st = captSlot k peek cs (if isQ c then st.readQ k peek (c.toNat - 1008) else st) := by
  rw [captSlot]
  split <;> rfl

theorem readsTo_captSlot (k : Nat) (peek : Bool) (cs : List (BitVec 10)) (st : Strand) : st.ReadsTo (captSlot k peek cs st) := by
  induction cs generalizing st with
  | nil => exact .refl st
  | cons c cs ih =>
    rw [captSlot_cons]
    split
    · exact (st.readsTo_readQ k peek _).trans (ih _)
    · exact ih st

/-- The queue reads of the word of one slot. -/
def captWord (st : Strand) (e : Nat × Nat) : Strand :=
  match slotInstr e.1 e.2 with
  | some i => captSlot e.1 (foot i).peek (foot i).vr st
  | none => st

theorem captFrom_eq (k : Nat) (st : Strand) : captFrom k st = (st.bun.cur.filter (fun e => k ≤ e.1)).foldl captWord st := rfl

theorem readsTo_foldl_captWord (l : List (Nat × Nat)) (st : Strand) : st.ReadsTo (l.foldl captWord st) := by
  induction l generalizing st with
  | nil => exact .refl st
  | cons e l ih =>
    refine Strand.ReadsTo.trans ?_ (ih _)
    unfold captWord
    split
    · exact readsTo_captSlot _ _ _ _
    · exact .refl st

theorem readsTo_captFrom (k : Nat) (st : Strand) : st.ReadsTo (captFrom k st) := by
  rw [captFrom_eq]
  exact readsTo_foldl_captWord _ _

/-! ### The end of a slot -/

/-- t goes on from st with the registers it had; its queues can differ once issues have been started. -/
structure Strand.GoesOn (st t : Strand) : Prop where
  own_eq : t.own = st.own
  issues_le : st.issues ≤ t.issues
  q_eq : t.issues = st.issues → t.q = st.q

theorem Strand.GoesOn.refl (st : Strand) : st.GoesOn st := ⟨rfl, le_rfl, fun _ => rfl⟩

theorem Strand.GoesOn.trans {st t u : Strand} (h : st.GoesOn t) (h' : t.GoesOn u) : st.GoesOn u where
  own_eq := h'.own_eq.trans h.own_eq
  issues_le := h.issues_le.trans h'.issues_le
  q_eq hu := by
    have h1 := h.issues_le
    have h2 := h'.issues_le
    exact (h'.q_eq (by omega)).trans (h.q_eq (by omega))

/-- A start of an issue counts it, and its queue reads keep the registers and the pending transfer. -/
theorem Strand.goesOn_startIssue (st : Strand) (fresh : Bool) (r : Nat) :
    st.GoesOn (st.startIssue fresh r) ∧ (st.startIssue fresh r).pend = st.pend := by
  unfold startIssue
  obtain ⟨q, d, c, h, hd⟩ := readsTo_captFrom 0 { st with
    issues := st.issues + 1
    bun := { st.bun with
      rep := r, cur := issueWords st fresh, slot := nextSlot (issueWords st fresh) 0, latch := st.latch, l3acc := st.l3acc,
      l3lost := st.l3lost, capt := [], started := true } }
  dsimp only
  rw [h]
  exact ⟨⟨by simp only [own, hd], by simp, by simp⟩, rfl⟩

theorem Strand.goesOn_endBundle {st : Strand} (h : st.pend ≠ some .eret) : st.GoesOn st.endBundle := by
  cases hp : st.pend with
  | none => rw [endBundle, hp]; exact ⟨rfl, le_rfl, fun _ => rfl⟩
  | some t =>
    rw [endBundle, hp]
    cases t with
    | eret => exact absurd hp h
    | jump a => exact ⟨rfl, le_rfl, fun _ => rfl⟩
    | _ => exact ⟨rfl, le_rfl, fun _ => rfl⟩

theorem Strand.goesOn_endIssues {st : Strand} (h : st.pend ≠ some .eret) : st.GoesOn st.endIssues := by
  unfold endIssues
  set st1 : Strand := if hdrStop st.bun.header then { st with sticky := [] } else st with hst1
  have h1 : st.GoesOn st1 ∧ st1.pend = st.pend := by
    rw [hst1]
    split
    · exact ⟨⟨rfl, le_rfl, fun _ => rfl⟩, rfl⟩
    · exact ⟨.refl st, rfl⟩
  obtain ⟨hgo, hpend⟩ := h1
  refine hgo.trans ?_
  dsimp only
  split
  · exact ⟨rfl, le_rfl, fun _ => rfl⟩
  · exact goesOn_endBundle (hpend ▸ h)

theorem goesOn_endIssue {n : Nat} {st : Strand} (h : st.pend ≠ some .eret) : st.GoesOn (endIssue n st) := by
  induction n generalizing st with
  | zero => exact Strand.goesOn_endIssues h
  | succ n ih =>
    rw [endIssue]
    set st1 : Strand := { st with sticky := stickyAfter st.sticky st.bun.cur }
    have h1 : st.GoesOn st1 := ⟨rfl, le_rfl, fun _ => rfl⟩
    obtain ⟨hgo, hpend⟩ := st1.goesOn_startIssue false (st1.bun.rep + 1)
    refine h1.trans ?_
    dsimp only
    split
    · split
      · exact hgo.trans (ih (hpend ▸ h))
      · exact hgo
    · exact Strand.goesOn_endIssues h

/-- With no ERET pending a slot's end keeps the registers. -/
theorem Strand.goesOn_finish {st : Strand} (h : st.pend ≠ some .eret) : st.GoesOn st.finish := by
  unfold finish
  dsimp only
  split
  · exact Strand.GoesOn.trans (t := { st with grant := none }) ⟨rfl, le_rfl, fun _ => rfl⟩ (goesOn_endIssue h)
  · exact ⟨rfl, le_rfl, fun _ => rfl⟩

end Sys2Proof.Machine
end

section
/-! SUPPORT. What the commit of a slot leaves of the package (R48, R366). -/

namespace Sys2Proof.Machine

theorem RMap.mapVals_modify {α : Type} (m : RMap α) (k : Nat) (f g : α → α) (h : ∀ a, g (f a) = g a) :
    (m.modify k f).mapVals g = m.mapVals g := by
  simp only [mapVals, modify, List.map_map]
  refine List.map_congr_left fun e _ => ?_
  by_cases he : e.1 = k
  · simp [he, h]
  · simp [he]

/-- A commit sets the strand; errors can go, and banks can leave retention. -/
theorem Pkg.commit_eq (p : Pkg) (u : Nat) (i : Instr) (st : Strand) :
    ∃ ps cs, p.commit u i st = { p with poison := ps, cores := cs, strands := RMap.put p.strands u st }
      ∧ (∀ q ∈ ps, q ∈ p.poison)
      ∧ cs.mapVals (fun k => { k with retained := [] }) = p.cores.mapVals (fun k => { k with retained := [] }) := by
  unfold commit
  dsimp only
  generalize (if (foot i).nw then [] else (foot i).vw.toList.filter isV) = w
  split
  · exact ⟨p.poison, p.cores, rfl, fun q hq => hq, rfl⟩
  · refine ⟨_, _, rfl, fun q hq => List.mem_of_mem_filter hq, ?_⟩
    dsimp only
    exact RMap.mapVals_modify _ _ _ _ fun _ => rfl

end Sys2Proof.Machine
end

section
/-! The frame of the V slots (O25). -/

namespace Sys2Proof.Machine

/-! ### What a V instruction does to its strand -/

/-- st' is st with what instruction (op, o) records beside its result: into its scale register, or a compare's mask register. -/
inductive VNotes (op : Nat) (o : VOps) (st : Strand) : Strand → Prop
  | refl : VNotes op o st st
  | scale {st' : Strand} (v : BitVec 16) (hr : (vShape op).role = .record ∨ (vShape op).role = .satOnly) (h : VNotes op o st st') :
      VNotes op o st (st'.setE o.e.toNat v)
  | mask {st' : Strand} (v : X) (hop : 0x65 ≤ op ∧ op ≤ 0x68 ∧ o.e.getLsbD 3 = true) (h : VNotes op o st st') :
      VNotes op o st (st'.setM (o.e.toNat % 8) v)

/-- st' is st after the effect of (op, o): its record, and but for VNOP and VCENS its result. -/
inductive VEffect (op : Nat) (o : VOps) (st : Strand) : Strand → Prop
  | silent {st' : Strand} (hop : op = 0 ∨ op = 0x47) (h : VNotes op o st st') : VEffect op o st st'
  | result {st' : Strand} (v : V) (hop : op ≠ 0 ∧ op ≠ 0x47) (h : VNotes op o st st') : VEffect op o st (st'.vresult o.d o.nw v)

section
variable {op : Nat} {o : VOps} {st st' : Strand}

theorem VNotes.satsIf (b : Bool) (hr : (vShape op).role = .record ∨ (vShape op).role = .satOnly) (h : VNotes op o st st') :
    VNotes op o st (st'.satsIf o.e.toNat b) := by
  cases b with
  | true => exact h.scale _ hr
  | false => exact h

theorem VNotes.census (l : List Nat) (hr : (vShape op).role = .record ∨ (vShape op).role = .satOnly) (h : VNotes op o st st') :
    VNotes op o st (st'.census o.e.toNat l) := by
  unfold Strand.census
  split
  · exact h.scale _ hr
  · exact h

theorem VNotes.maskIf (v : X) (hop : 0x65 ≤ op ∧ op ≤ 0x68) (h : VNotes op o st st') :
    VNotes op o st (if o.e.getLsbD 3 then st'.setM (o.e.toNat % 8) v else st') := by
  split
  · exact h.mask v ⟨hop.1, hop.2, by assumption⟩
  · exact h

theorem VEffect.recEff (hop : op ≠ 0 ∧ op ≠ 0x47) (hr : (vShape op).role = .record) (sg : Bool) (w : Nat) (f : List Src → Nat → Int × Bool)
    (st : Strand) (l : List Src) : VEffect op o st (Machine.recEff o sg w f st l) :=
  .result _ hop ((VNotes.refl.satsIf _ (.inl hr)).census _ (.inl hr))

end

/-- The instruction is a slot of its own with an effect of its form. -/
def IsVSlot (i : Instr) (op : Nat) (o : VOps) : Prop :=
  ∃ eff : Strand → Strand, (∀ s, exec i s = onSlot i (fun _ => []) noPv eff s) ∧ ∀ st, VEffect op o st (eff st)

theorem isVSlot_vSlot {i : Instr} {op : Nat} {o : VOps} {eff : Strand → List Src → Strand} (he : ∀ s, exec i s = vSlot i eff s)
    (h : ∀ st l, VEffect op o st (eff st l)) : IsVSlot i op o := ⟨_, he, fun st => h st _⟩

/-- Every V instruction is such a slot, by the form that its meaning has. -/
theorem isVSlot_of_view {i : Instr} {op : Nat} {o : VOps} (h : i.view = .v op o) : IsVSlot i op o := by
  cases i
  case vnop => cases h; exact ⟨id, fun _ => by unfold exec; rfl, fun _ => .silent (by decide) .refl⟩
  case vcens =>
    cases h
    apply isVSlot_vSlot
    · intro s; unfold exec; dsimp only [execVcens]
    · exact fun _ _ => .silent (by decide) (.census _ (.inl rfl) .refl)
  case vredadd =>
    cases h
    apply isVSlot_vSlot
    · intro s; unfold exec; dsimp only [execVredadd]
    · exact fun _ _ => .result _ (by decide) (.satsIf _ (.inr rfl) .refl)
  case vcmpeq | vcmpne | vcmplt | vcmple =>
    cases h
    apply isVSlot_vSlot
    · intro s; unfold exec; dsimp only [execVcmpeq, execVcmpne, execVcmplt, execVcmple, vcmpOp]
    · exact fun _ _ => .result _ (by decide) (.maskIf _ (by decide) .refl)
  case vmov | vand | vor | vxor | vandn | vnot | vsel | vpopc | vclz | vsplat | viota | vins | vperm | vslide | vzip | vunzip |
      vmix =>
    cases h
    apply isVSlot_vSlot
    · intro s; unfold exec; dsimp only [execVmov, execVand, execVor, execVxor, execVandn, execVnot, execVsel, execVpopc,
        execVclz, execVsplat, execViota, execVins, execVperm, execVslide, execVzip, execVunzip, execVmix, bitOp]
    · exact fun _ _ => .result _ (by decide) .refl
  case vext | vredmax | vredmin | vmcount | vhash | vsegsum | vmapcnt =>
    cases h
    apply isVSlot_vSlot
    · intro s; unfold exec; dsimp only [execVext, execVredmax, execVredmin, execVmcount, execVhash, execVsegsum, execVmapcnt,
        wholeOp]
    · exact fun _ _ => .result _ (by decide) .refl
  case vmapscat | vmapcntFirst | vunpk =>
    cases h
    apply isVSlot_vSlot
    · intro s; unfold exec; dsimp only [execVmapscat, execVmapcntFirst, execVunpk]
    · exact fun _ _ => .result _ (by decide) .refl
  case vscan | vexp2q | vlog2q | vrcpq | vrsqq | vdivq | vquant =>
    cases h
    apply isVSlot_vSlot
    · intro s; unfold exec; dsimp only [execVscan, execVexp2q, execVlog2q, execVrcpq, execVrsqq, execVdivq, execVquant]
    · exact fun _ _ => .recEff (by decide) rfl _ _ _ _ _
  case vadd | vsub | vadds | vsubs | vneg | vabs | vmul | vmulh | vmulq | vmac | vmacs | vmin | vmax | vavg | vabsd | vdiv |
      vshl | vshr | vsha | vshrr | vshrs | vshls | vnorm | vclamp | vcvt | vpack =>
    cases h
    apply isVSlot_vSlot
    · intro s; unfold exec; dsimp only [execVadd, execVsub, execVadds, execVsubs, execVneg, execVabs, execVmul, execVmulh,
        execVmulq, execVmac, execVmacs, execVmin, execVmax, execVavg, execVabsd, execVdiv, execVshl, execVshr, execVsha,
        execVshrr, execVshrs, execVshls, execVnorm, execVclamp, execVcvt, execVpack, recOp]
    · exact fun _ _ => .recEff (by decide) rfl _ _ _ _ _
  all_goals nomatch h

/-! ### The frame -/

/-- The registers that no V instruction writes. -/
def Strand.restV (st : Strand) : Strand := { st.own with m := [], e := [], v := [], dirty := 0, latch := [] }

theorem Strand.getV_setE (st : Strand) (r n : Nat) (v : BitVec 16) : (st.setE r v).getV n = st.getV n :=
  getV_congr (st := st) (st' := st.setE r v) rfl
    (({ st with e := RMap.set st.e 0 r v } : Strand).dirty_mark (b := 15) (by decide)) n

theorem Strand.getV_push (st : Strand) (r n : Nat) (e : QEnt) : (st.push r e).getV n = st.getV n :=
  getV_congr (st := st) (st' := st.push r e) rfl
    (({ st with q := RMap.set st.q [] r (st.getQ r ++ [e]) } : Strand).dirty_mark (b := 14) (by decide)) n

theorem Strand.getQ_push (st : Strand) (r n : Nat) (e : QEnt) : (st.push r e).getQ n = if n = r then st.getQ r ++ [e] else st.getQ n :=
  st.getQ_setQ r n _

/-- A write of a mask register changes masks and DIRTY alone, and leaves the VUSED bits. -/
theorem Strand.setM_eq (st : Strand) (r : Nat) (v : X) :
    ∃ m d, st.setM r v = { st with m := m, dirty := d } ∧ d >>> 18 = st.dirty >>> 18 := by
  unfold setM
  split
  · exact ⟨st.m, st.dirty, rfl, rfl⟩
  · exact ⟨_, _, rfl, dirty_mark _ (by decide)⟩

theorem Strand.getV_setM (st : Strand) (r n : Nat) (v : X) : (st.setM r v).getV n = st.getV n := by
  obtain ⟨m, d, hs, hd⟩ := st.setM_eq r v
  rw [hs]
  exact getV_congr (st := st) (st' := { st with m := m, dirty := d }) rfl hd n

theorem Strand.getM_setM_ne (st : Strand) {r n : Nat} (v : X) (h : n ≠ r) : (st.setM r v).getM n = st.getM n := by
  by_cases hr : r = 0
  · rw [hr, setM_zero]
  · rw [getM_setM _ _ _ _ hr, if_neg h]

/-- A result enters the slot's latch and its destination: a v register, the tail of a queue or nothing. -/
theorem Strand.vresult_eq (st : Strand) (d : BitVec 10) (nw : BitVec 1) (v : V) :
    st.vresult d nw v =
      let st := st.setL (latchOf st.bun.slot) v
      if nw = 1 then st
      else if d.toNat < 768 then st.setV d.toNat v
      else if 1008 ≤ d.toNat ∧ d.toNat < 1016 then st.push (d.toNat - 1008) { val := v }
      else st := by
  simp only [vresult, isV, isQ, decide_eq_true_eq, Bool.and_eq_true]
  rfl

section
variable {op : Nat} {o : VOps} {st st' : Strand}

/-- What a V slot's record leaves alone, with or without a result beside it. -/
structure RecordFrame (op : Nat) (o : VOps) (st st' : Strand) : Prop where
  rest : st'.restV = st.restV
  pend : st'.pend = st.pend
  bun : st'.bun = st.bun
  issues : st'.issues = st.issues
  m : ∀ n, ¬(0x65 ≤ op ∧ op ≤ 0x68 ∧ o.e.getLsbD 3 = true ∧ n = o.e.toNat % 8) → st'.getM n = st.getM n
  e : ∀ n, n ≠ o.e.toNat → st'.getE n = st.getE n
  eRole : (vShape op).role ≠ .record → (vShape op).role ≠ .satOnly → ∀ n, st'.getE n = st.getE n

/-- What a record alone leaves. -/
structure NotesFrame (op : Nat) (o : VOps) (st st' : Strand) : Prop extends RecordFrame op o st st' where
  v : ∀ n, st'.getV n = st.getV n
  q : st'.q = st.q
  latch : st'.latch = st.latch

/-- What the effect of a V instruction leaves, and what it does to the slot's latch and to a queue that it writes. -/
structure EffectFrame (op : Nat) (o : VOps) (st st' : Strand) : Prop extends RecordFrame op o st st' where
  v : ∀ n, o.nw = 1 ∨ n ≠ o.d.toNat → st'.getV n = st.getV n
  q : ∀ n < 8, if o.nw = 0 ∧ o.d.toNat = 1008 + n ∧ op ≠ 0 ∧ op ≠ 0x47 then
      ∃ e : QEnt, st'.getQ n = st.getQ n ++ [e] ∧ st'.latch.find? (latchOf st.bun.slot) = some e.val ∧ e.acc = none ∧ e.bad = false
    else st'.getQ n = st.getQ n
  latch : ∀ n, n ≠ latchOf st.bun.slot → st'.latch.find? n = st.latch.find? n

theorem VNotes.frame (h : VNotes op o st st') : NotesFrame op o st st' := by
  induction h with
  | refl => exact ⟨⟨rfl, rfl, rfl, rfl, fun _ _ => rfl, fun _ _ => rfl, fun _ _ _ => rfl⟩, fun _ => rfl, rfl, rfl⟩
  | @scale s1 v hr _ ih =>
    refine ⟨⟨ih.rest, ih.pend, ih.bun, ih.issues, ih.m, fun n hn => ?_, fun h1 h2 => (hr.elim h1 h2).elim⟩, fun n => ?_, ih.q, ih.latch⟩
    · rw [Strand.getE_setE, if_neg hn, ih.e n hn]
    · exact (s1.getV_setE _ n v).trans (ih.v n)
  | @mask s1 v hop _ ih =>
    have hm : ∀ n, n ≠ o.e.toNat % 8 → (s1.setM (o.e.toNat % 8) v).getM n = s1.getM n := fun n hn => s1.getM_setM_ne v hn
    have hv : ∀ n, (s1.setM (o.e.toNat % 8) v).getV n = s1.getV n := fun n => s1.getV_setM _ n v
    obtain ⟨m, d, hs, -⟩ := s1.setM_eq (o.e.toNat % 8) v
    rw [hs] at hm hv ⊢
    refine ⟨⟨ih.rest, ih.pend, ih.bun, ih.issues, fun n hn => ?_, ih.e, ih.eRole⟩, fun n => (hv n).trans (ih.v n), ih.q, ih.latch⟩
    exact (hm n fun he => hn ⟨hop.1, hop.2.1, hop.2.2, he⟩).trans (ih.m n hn)

/-- With a record and no result, no queue, latch or v register changes. -/
theorem NotesFrame.silent (h : NotesFrame op o st st') (hop : op = 0 ∨ op = 0x47) : EffectFrame op o st st' where
  toRecordFrame := h.toRecordFrame
  v n _ := h.v n
  q n _ := by
    rw [if_neg (by omega), Strand.getQ, h.q]
    rfl
  latch n _ := by rw [h.latch]

/-- A result changes its destination and the slot's latch. -/
theorem NotesFrame.result (h : NotesFrame op o st st') (hop : op ≠ 0 ∧ op ≠ 0x47) (v : V) : EffectFrame op o st (st'.vresult o.d o.nw v) := by
  have hs : latchOf st'.bun.slot = latchOf st.bun.slot := by rw [h.bun]
  have hl : ∀ n, n ≠ latchOf st.bun.slot → (st'.setL (latchOf st.bun.slot) v).latch.find? n = st.latch.find? n := fun n hn => by
    rw [Strand.latch_setL_ne _ _ _ _ hn, h.latch]
  have hq : ∀ n, (st'.setL (latchOf st.bun.slot) v).getQ n = st.getQ n := fun n => by
    show st'.getQ n = st.getQ n
    rw [Strand.getQ, h.q]; rfl
  rw [Strand.vresult_eq, hs]
  dsimp only
  split
  case isTrue hnw =>
    refine ⟨⟨h.rest, h.pend, h.bun, h.issues, h.m, h.e, h.eRole⟩, fun n _ => h.v n, fun n _ => ?_, hl⟩
    rw [if_neg (by simp [hnw])]
    exact hq n
  case isFalse hnw =>
    split
    case isTrue hd =>
      refine ⟨⟨h.rest, h.pend, h.bun, h.issues, h.m, h.e, h.eRole⟩, fun n hn => ?_, fun n hn => ?_, hl⟩
      · rw [Strand.getV_setV _ _ _ _ (by omega), if_neg (hn.resolve_left hnw)]
        exact h.v n
      · rw [if_neg (by omega)]
        exact hq n
    case isFalse hd =>
      split
      case isTrue hdq =>
        refine ⟨⟨h.rest, h.pend, h.bun, h.issues, h.m, h.e, h.eRole⟩, fun n hn => ?_, fun n hn => ?_, hl⟩
        · exact (Strand.getV_push _ _ n _).trans (h.v n)
        · rw [Strand.getQ_push, hq, hq]
          split
          case isTrue hc =>
            have hn : n = o.d.toNat - 1008 := by omega
            rw [if_pos hn, hn]
            exact ⟨{ val := v }, rfl, st'.latch_setL_same _ v, rfl, rfl⟩
          case isFalse hc =>
            have hnw0 : o.nw = 0 := by bv_omega
            exact if_neg fun hn => hc ⟨hnw0, by omega, hop⟩
      case isFalse hdq =>
        refine ⟨⟨h.rest, h.pend, h.bun, h.issues, h.m, h.e, h.eRole⟩, fun n hn => h.v n, fun n hn => ?_, hl⟩
        rw [if_neg (by omega)]
        exact hq n

theorem VEffect.frame (h : VEffect op o st st') : EffectFrame op o st st' := by
  cases h with
  | silent hop h => exact h.frame.silent hop
  | result v hop h => exact h.frame.result hop v

end

/-- Settles O25: the slot's record and result, then the end of the slot, which keeps the registers, then the commit. -/
theorem vectorFrame : Obligations.VectorFrame := by
  intro i s t st op o hready hpend hview hexec
  obtain ⟨eff, he, heff⟩ := isVSlot_of_view hview
  have hf := (heff st).frame
  rw [he, onSlot_ready hready] at hexec
  cases hexec
  have hgo : (eff st).GoesOn (eff st).finish := Strand.goesOn_finish (hf.pend ▸ hpend)
  have hown := hgo.own_eq
  have hrest : (eff st).finish.restV = st.restV := by rw [Strand.restV, hown]; exact hf.rest
  have hlatch : (eff st).finish.latch = (eff st).latch := congrArg (·.latch) hown
  obtain ⟨ps, cs, hc, hps, hcs⟩ := s.pkg.commit_eq s.focus i (eff st).finish
  rw [State.slotDone, hc]
  refine ⟨(eff st).finish, RMap.find?_put_same _ _ _, Strand.getX_congr (congrArg (·.x) hrest), Strand.getP_congr (congrArg (·.p) hrest),
    fun n hn => (Strand.getM_congr (congrArg (·.m) hown) n).trans (hf.m n hn),
    fun n hn => (Strand.getE_congr (congrArg (·.e) hown) n).trans (hf.e n hn),
    fun h1 h2 n => (Strand.getE_congr (congrArg (·.e) hown) n).trans (hf.eRole h1 h2 n),
    fun n hn => (Strand.getV_of_own hown n).trans (hf.v n hn),
    fun hi n hn => ?_, fun n hn => hlatch ▸ hf.latch n hn,
    congrArg (·.fmt) hrest, congrArg (·.fmtPipe) hrest, congrArg (·.tcause) hrest, congrArg (·.tpc) hrest, congrArg (·.tval) hrest,
    congrArg (·.tstat) hrest, congrArg (·.tvec) hrest, congrArg (·.tscr) hrest, congrArg (·.trapSet) hrest, congrArg (·.sup) hrest,
    congrArg (·.inh) hrest, congrArg (·.banks) hrest, congrArg (·.shadow) hrest,
    rfl, rfl, fun u hu => RMap.find?_put_ne _ _ _ _ hu, rfl, hps, hcs, rfl, rfl, rfl, rfl, rfl, rfl, rfl, rfl⟩
  have hq : ∀ n, (eff st).finish.getQ n = (eff st).getQ n := fun n => by
    rw [Strand.getQ, hgo.q_eq (hi.trans hf.issues.symm), Strand.getQ]
  rw [hq, hlatch]
  exact hf.q n hn

end Sys2Proof.Machine
end

section
/-! SUPPORT. The words of an issue, the sticky words after one, and the slot that comes next (R189, R190, R194). -/

namespace Sys2Proof.Machine

/-! ### Keys of a table -/

theorem RMap.mem_keys_iff {α : Type} {m : RMap α} {k : Nat} : k ∈ m.keys ↔ (m.find? k).isSome = true := by
  induction m with
  | nil => simp [keys, find?]
  | cons e m ih =>
    obtain ⟨a, v⟩ := e
    by_cases h : k = a
    · simp [keys, find?, h]
    · simpa [keys, find?, h] using ih

theorem RMap.find?_filter_key {α : Type} (m : RMap α) (f : Nat → Bool) (k : Nat) :
    RMap.find? (m.filter (fun e => f e.1)) k = if f k then m.find? k else none := by
  induction m with
  | nil => simp [find?]
  | cons e m ih =>
    obtain ⟨a, v⟩ := e
    by_cases hf : f a = true
    · rw [List.filter_cons_of_pos (by exact hf)]
      by_cases hk : k = a
      · simp [find?, hk, hf]
      · simpa [find?, hk] using ih
    · rw [List.filter_cons_of_neg (by exact hf), ih]
      by_cases hk : k = a
      · simp [hk, hf]
      · simp [find?, hk]

/-- No key below the least one is in a sorted table. -/
theorem RMap.find?_of_sorted_cons {α : Type} {m : RMap α} {k : Nat} {v : α} (hs : RMap.sorted ((k, v) :: m)) : m.find? k = none := by
  rw [← Option.not_isSome_iff_eq_none, ← mem_keys_iff]
  intro h
  obtain ⟨e, he, hk⟩ := List.mem_map.mp h
  have := List.rel_of_pairwise_cons hs he
  omega

theorem RMap.find?_append {α : Type} (m l : RMap α) (k : Nat) : RMap.find? (m ++ l) k = (m.find? k).or (l.find? k) := by
  induction m with
  | nil => simp [find?]
  | cons e m ih =>
    obtain ⟨a, v⟩ := e
    by_cases h : k = a
    · simp [find?, h]
    · simpa [find?, h] using ih

/-- A table listed by a function of its keys. -/
theorem RMap.find?_filterMap_range {α : Type} (f : Nat → Option α) (n k : Nat) :
    RMap.find? ((List.range n).filterMap (fun j => (f j).map (fun v => (j, v)))) k = if k < n then f k else none := by
  induction n with
  | zero => simp [find?]
  | succ n ih =>
    rw [List.range_succ, List.filterMap_append, find?_append, ih]
    have hlast : RMap.find? ([n].filterMap (fun j => (f j).map (fun v => (j, v)))) k = if k = n then f n else none := by
      cases hf : f n <;> simp [hf, find?]
    rw [hlast]
    rcases Nat.lt_trichotomy k n with h | h | h
    · rw [if_pos h, if_neg (by omega), if_pos (by omega), Option.or_none]
    · rw [if_neg (by omega), if_pos h, if_pos (by omega), Option.none_or, h]
    · rw [if_neg (by omega), if_neg (by omega), if_neg (by omega), Option.none_or]

/-! ### The slot that comes next -/

section
variable {cur : RMap Nat} {k : Nat}

theorem mem_slotsFrom {j : Nat} : j ∈ cur.keys.filter (fun j => k ≤ j) ↔ (cur.find? j).isSome = true ∧ k ≤ j := by
  rw [List.mem_filter, RMap.mem_keys_iff, decide_eq_true_eq]

theorem nextSlot_none (h : ∀ m, k ≤ m → cur.find? m = none) : nextSlot cur k = 8 := by
  have : cur.keys.filter (fun j => k ≤ j) = [] := by
    refine List.eq_nil_iff_forall_not_mem.mpr fun j hj => ?_
    obtain ⟨hf, hk⟩ := mem_slotsFrom.mp hj
    simp [h j hk] at hf
  rw [nextSlot, this, List.headD_nil]

theorem nextSlot_eq {j : Nat} (hs : cur.sorted) (hj : (cur.find? j).isSome = true) (hk : k ≤ j)
    (hm : ∀ m, k ≤ m → m < j → cur.find? m = none) : nextSlot cur k = j := by
  have hsorted : (cur.keys.filter (fun j => k ≤ j)).Pairwise (· < ·) := (List.pairwise_map.mpr hs).filter _
  have hmem := mem_slotsFrom.mpr ⟨hj, hk⟩
  have hall : ∀ a ∈ cur.keys.filter (fun j => k ≤ j), ¬ a < j := fun a ha hlt => by
    obtain ⟨hf, hka⟩ := mem_slotsFrom.mp ha
    simp [hm a hka hlt] at hf
  rw [nextSlot]
  match hl : cur.keys.filter (fun j => k ≤ j) with
  | [] => simp [hl] at hmem
  | a :: l =>
    rw [hl] at hsorted hmem hall
    have ha := hall a List.mem_cons_self
    rcases List.mem_cons.mp hmem with h | h
    · exact h.symm
    · exact absurd (List.rel_of_pairwise_cons hsorted h) ha

/-- Where some slot holds a word, the next slot is one of them. -/
theorem nextSlot_zero_ne (h8 : ∀ j, 8 ≤ j → cur.find? j = none) (h : ∃ j, (cur.find? j).isSome = true) : nextSlot cur 0 ≠ 8 := by
  obtain ⟨j, hj⟩ := h
  have hmem := mem_slotsFrom.mpr ⟨hj, Nat.zero_le j⟩
  have hall : ∀ a ∈ cur.keys.filter (fun j => 0 ≤ j), a < 8 := fun a ha => by
    by_contra h
    obtain ⟨hf, -⟩ := mem_slotsFrom.mp ha
    simp [h8 a (by omega)] at hf
  rw [nextSlot]
  generalize cur.keys.filter (fun j => 0 ≤ j) = l at hmem hall
  cases l with
  | nil => simp at hmem
  | cons a l => exact (hall a List.mem_cons_self).ne

end

/-! ### The words of an issue -/

theorem find?_issueWords (st : Strand) (fresh : Bool) (k : Nat) :
    (issueWords st fresh).find? k = if k < 8 then issueWord st fresh k else none :=
  RMap.find?_filterMap_range _ 8 k

/-- The word that an issue leaves in the sticky set for a slot it issued: a VNOP leaves NOP (R194). -/
def keptOf (k w : Nat) : Option Nat := if isVnop k w then none else some w

/-- The sticky set after one slot. -/
def stickyPut (s : RMap Nat) (e : Nat × Nat) : RMap Nat := if isVnop e.1 e.2 then s.del e.1 else s.put e.1 e.2

theorem find?_stickyPut_same (s : RMap Nat) (k w : Nat) : (stickyPut s (k, w)).find? k = keptOf k w := by
  unfold stickyPut keptOf
  split
  · exact RMap.find?_del_same _ _
  · exact RMap.find?_put_same _ _ _

theorem find?_stickyPut_ne (s : RMap Nat) {j k : Nat} (w : Nat) (h : k ≠ j) : (stickyPut s (j, w)).find? k = s.find? k := by
  unfold stickyPut
  split
  · exact RMap.find?_del_ne _ _ _ h
  · exact RMap.find?_put_ne _ _ _ _ h

theorem find?_foldl_stickyPut {l : RMap Nat} (hs : l.sorted) (s : RMap Nat) (k : Nat) :
    RMap.find? (l.foldl stickyPut s) k = (l.find? k).elim (s.find? k) (keptOf k) := by
  induction l generalizing s with
  | nil => rfl
  | cons e l ih =>
    obtain ⟨j, w⟩ := e
    rw [List.foldl_cons, ih hs.of_cons]
    by_cases h : k = j
    · subst h
      rw [RMap.find?_of_sorted_cons hs, Option.elim_none, find?_stickyPut_same, RMap.find?, if_pos rfl, Option.elim_some]
    · rw [find?_stickyPut_ne _ _ h, RMap.find?, if_neg h]

/-- A sticky slot keeps its issued word, and without one its sticky word. -/
theorem find?_stickyAfter {cur : RMap Nat} (hs : cur.sorted) (sticky : RMap Nat) {k : Nat} (hk : isSticky k = true) :
    (stickyAfter sticky cur).find? k = (cur.find? k).elim (sticky.find? k) (keptOf k) := by
  have h := find?_foldl_stickyPut (l := cur.filter (fun e => isSticky e.1)) (List.Pairwise.filter _ hs) sticky k
  rw [RMap.find?_filter_key, if_pos hk] at h
  exact h

theorem keptOf_eq {w : Nat} (k : Nat) (hw : w < 2 ^ 64) : keptOf k w = if (k = 2 ∨ k = 3) ∧ w / 2 ^ 56 = 0 then none else some w := by
  have hop : opcode .V0 w = w / 2 ^ 56 := Nat.mod_eq_of_lt (by omega)
  simp only [keptOf, isVnop, hop, Bool.and_eq_true, Bool.or_eq_true, beq_iff_eq]

/-- STEP of R194. -/
theorem stepWord_eq {k : Nat} (w : Nat) (h : 2 ≤ k ∧ k ≤ 6) : stepWord (slotCls k) w = Spec.step k w := by
  obtain ⟨h2, h6⟩ := h
  have hv : stepWord .V0 w = Spec.step 2 w ∧ stepWord .V0 w = Spec.step 3 w := by
    simp [stepWord, Spec.step, ite_and]
  have hp : stepWord .P0 w = Spec.step 5 w ∧ stepWord .P0 w = Spec.step 6 w := by
    simp [stepWord, Spec.step, Nat.testBit_eq_decide_div_mod_eq]
  interval_cases k
  · exact hv.1
  · exact hv.2
  · rfl
  · exact hp.1
  · exact hp.2

/-! ### The words of the next issue -/

/-- The sticky word of slot k after the issue in execution, by the table of R194. -/
def Strand.keptWord (st : Strand) (k : Nat) : Option Nat :=
  match st.bun.cur.find? k with
  | some w => if (k = 2 ∨ k = 3) ∧ w / 2 ^ 56 = 0 then none else some w
  | none => st.sticky.find? k

/-- The word of slot k at the next issue of a repeated bundle, by R189 and R194. -/
def Strand.nextWord (st : Strand) (k : Nat) : Option Nat :=
  if k < 2 ∨ k = 7 then none
  else if (st.bun.words.find? k).isSome then (st.bun.cur.find? k).map (Spec.step k)
  else if hdrStop st.bun.header then none
  else (st.keptWord k).map (Spec.step k)

/-- The strand with the sticky words that its issue leaves. -/
def Strand.afterIssue (st : Strand) : Strand := { st with grant := none, sticky := stickyAfter st.sticky st.bun.cur }

theorem Strand.find?_afterIssue {st : Strand} (hs : st.bun.cur.sorted) {k : Nat} (hw : ∀ w ∈ st.bun.cur.find? k, w < 2 ^ 64)
    (hk : 2 ≤ k ∧ k ≤ 6) : st.afterIssue.sticky.find? k = st.keptWord k := by
  have h := find?_stickyAfter hs st.sticky (k := k) (by simp [isSticky, hk])
  rw [afterIssue, h, keptWord]
  cases hc : st.bun.cur.find? k with
  | none => rfl
  | some w => exact keptOf_eq k (hw w hc)

theorem Strand.issueWord_afterIssue {st : Strand} (hs : st.bun.cur.sorted) {k : Nat} (hw : ∀ w ∈ st.bun.cur.find? k, w < 2 ^ 64) (hk : k < 8) :
    issueWord st.afterIssue false k = st.nextWord k := by
  unfold nextWord
  by_cases hsticky : k < 2 ∨ k = 7
  · have hno : isSticky k = false := by simp only [isSticky]; rcases hsticky with h | h <;> simp [h]
    rw [if_pos hsticky, issueWord]
    cases st.afterIssue.bun.words.find? k <;> simp [hno]
  · have h26 : 2 ≤ k ∧ k ≤ 6 := by omega
    have hyes : isSticky k = true := by simp [isSticky, h26]
    have hstep : ∀ o : Option Nat, o.map (stepWord (slotCls k)) = o.map (Spec.step k) := fun o => by
      cases o <;> simp [stepWord_eq _ h26]
    rw [if_neg hsticky, issueWord, hyes, find?_afterIssue hs hw h26, hstep, hstep, show st.afterIssue.bun = st.bun from rfl]
    cases st.bun.words.find? k with
    | some w => rfl
    | none => cases hdrStop st.bun.header <;> rfl

end Sys2Proof.Machine
end

section
/-! The order of slots and issues (O6). -/

namespace Sys2Proof.Machine

/-- What the start of an issue makes of the bundle in execution. -/
theorem Strand.startIssue_bun (st : Strand) (fresh : Bool) (r : Nat) :
    let b := (st.startIssue fresh r).bun
    b.rep = r ∧ b.cur = issueWords st fresh ∧ b.slot = nextSlot (issueWords st fresh) 0 := by
  unfold startIssue
  obtain ⟨q, d, c, h, -⟩ := readsTo_captFrom 0 { st with
    issues := st.issues + 1
    bun := { st.bun with
      rep := r, cur := issueWords st fresh, slot := nextSlot (issueWords st fresh) 0, latch := st.latch, l3acc := st.l3acc,
      l3lost := st.l3lost, capt := [], started := true } }
  dsimp only
  rw [h]
  exact ⟨rfl, rfl, rfl⟩

theorem Strand.finish_next {st : Strand} {j : Nat} (hj : j < 8) (h : nextSlot st.bun.cur (st.bun.slot + 1) = j) :
    st.finish = { st with grant := none, bun := { st.bun with slot := j } } := by
  rw [finish]
  dsimp only
  rw [h, if_neg (by omega)]

/-- The last slot of an issue starts the next one of a repeated bundle in which some slot holds a word. -/
theorem Strand.finish_repeats {st : Strand} (h : nextSlot st.bun.cur (st.bun.slot + 1) = 8) (hr : st.bun.rep < hdrRepeat st.bun.header)
    (hn : nextSlot (issueWords st.afterIssue false) 0 ≠ 8) : st.finish = st.afterIssue.startIssue false (st.bun.rep + 1) := by
  have hslot : (st.afterIssue.startIssue false (st.bun.rep + 1)).bun.slot ≠ 8 := by
    rw [(st.afterIssue.startIssue_bun false _).2.2]
    exact hn
  rw [finish]
  dsimp only
  rw [if_pos h, endIssue]
  dsimp only
  rw [if_pos hr]
  exact if_neg hslot

/-- Every word of the next issue. -/
theorem Strand.finish_words {st : Strand} {k : Nat} (hk : k < 8) (hs : st.bun.cur.sorted) (hlast : ∀ m, st.bun.slot < m → st.bun.cur.find? m = none)
    (hr : st.bun.rep < hdrRepeat st.bun.header) (hsome : ∃ j < 8, (st.nextWord j).isSome = true)
    (hw : ∀ j < 8, ∀ w ∈ st.bun.cur.find? j, w < 2 ^ 64) :
    st.finish.bun.rep = st.bun.rep + 1 ∧ st.finish.bun.cur.find? k = st.nextWord k := by
  have hfind : ∀ j, (issueWords st.afterIssue false).find? j = if j < 8 then st.nextWord j else none := fun j => by
    rw [find?_issueWords]
    split
    · exact issueWord_afterIssue hs (hw j (by assumption)) (by assumption)
    · rfl
  have hne : nextSlot (issueWords st.afterIssue false) 0 ≠ 8 := by
    obtain ⟨j, hj, hjs⟩ := hsome
    refine nextSlot_zero_ne (fun m hm => ?_) ⟨j, ?_⟩
    · rw [hfind, if_neg (by omega)]
    · rw [hfind, if_pos hj, hjs]
  obtain ⟨hrep, hcur, -⟩ := st.afterIssue.startIssue_bun false (st.bun.rep + 1)
  rw [finish_repeats (nextSlot_none fun m hm => hlast m hm) hr hne]
  refine ⟨hrep, ?_⟩
  rw [hcur, hfind, if_pos hk]

/-! ### The queue reads of an issue -/

/-- A queue read of a slot: slot, queue and peek bit. -/
abbrev QRead := Nat × Nat × Bool

/-- Make queue reads one after another. -/
def Strand.readAll (st : Strand) (l : List QRead) : Strand := l.foldl (fun s x => s.readQ x.1 x.2.2 x.2.1) st

/-- The pops of queue q in a list of reads. -/
def popsOf (q : Nat) (l : List QRead) : Nat := l.countP (fun x => x.2.1 == q && !x.2.2)

/-- The entry that a read captures after the reads l of the issue: the head that their pops leave. -/
def Strand.captured (st : Strand) (l : List QRead) (x : QRead) : Capt :=
  { slot := x.1, q := x.2.1, pop := !x.2.2, ent := (st.getQ x.2.1)[popsOf x.2.1 l]? }

theorem Strand.getQ_readQ (st : Strand) (k : Nat) (peek : Bool) (n q : Nat) :
    (st.readQ k peek n).getQ q = (st.getQ q).drop (if n = q ∧ peek = false then 1 else 0) := by
  cases peek with
  | true => simp [readQ, getQ]
  | false =>
    have h := st.getQ_setQ n q (st.getQ n).tail
    by_cases hq : q = n
    · subst hq
      rw [if_pos rfl] at h
      rw [if_pos ⟨rfl, rfl⟩, List.drop_one]
      exact h
    · rw [if_neg hq] at h
      rw [if_neg (fun hn => hq hn.1.symm), List.drop_zero]
      exact h

/-- After reads a queue has lost the entries popped from it. -/
theorem Strand.getQ_readAll (st : Strand) (l : List QRead) (q : Nat) : (st.readAll l).getQ q = (st.getQ q).drop (popsOf q l) := by
  induction l generalizing st with
  | nil => rfl
  | cons x l ih =>
    obtain ⟨k, n, peek⟩ := x
    have h : popsOf q ((k, n, peek) :: l) = (if n = q ∧ peek = false then 1 else 0) + popsOf q l := by
      simp [popsOf, List.countP_cons, Nat.add_comm]
    rw [h, ← List.drop_drop, ← getQ_readQ st k]
    exact ih (st.readQ k peek n)

theorem Strand.capt_readQ (st : Strand) (k : Nat) (peek : Bool) (n : Nat) :
    (st.readQ k peek n).bun.capt = st.bun.capt ++ [{ slot := k, q := n, pop := !peek, ent := (st.getQ n).head? }] := by
  cases peek <;> rfl

/-- Reads are captured in their order, each with the entry it finds. -/
theorem Strand.capt_readAll (st : Strand) (l : List QRead) :
    (st.readAll l).bun.capt = st.bun.capt ++ l.zipIdx.map (fun x => st.captured (l.take x.2) x.1) := by
  induction l using List.reverseRecOn with
  | nil => simp [readAll]
  | append_singleton l x ih =>
    have hold : l.zipIdx.map (fun y => st.captured ((l ++ [x]).take y.2) y.1) = l.zipIdx.map (fun y => st.captured (l.take y.2) y.1) := by
      refine List.map_congr_left fun y hy => ?_
      have := (List.mem_zipIdx hy).2.1
      rw [List.take_append_of_le_length (by omega)]
    rw [readAll, List.foldl_append, List.foldl_cons, List.foldl_nil, capt_readQ, ← readAll, ih, getQ_readAll, List.head?_drop,
      List.zipIdx_append, List.map_append, hold, List.append_assoc]
    simp [captured]

/-- The peek bit of R51: the k field of a V instruction. -/
def peekBit (i : Instr) : Bool :=
  match i.view with
  | .v _ o => o.k == 1
  | _ => false

/-- The queue reads of one slot's word, in field order. -/
def wordReads (e : Nat × Nat) : List QRead :=
  match slotInstr e.1 e.2 with
  | some i => ((foot i).vr.filter isQ).map (fun c => (e.1, c.toNat - 1008, peekBit i))
  | none => []

theorem captSlot_eq (k : Nat) (peek : Bool) (cs : List (BitVec 10)) (st : Strand) :
    captSlot k peek cs st = st.readAll ((cs.filter isQ).map (fun c => (k, c.toNat - 1008, peek))) := by
  induction cs generalizing st with
  | nil => rfl
  | cons c cs ih =>
    rw [captSlot_cons, ih]
    by_cases h : isQ c = true
    · rw [if_pos h, List.filter_cons_of_pos h]; rfl
    · rw [if_neg h, List.filter_cons_of_neg h]

theorem sRegFoot_peek (op : Nat) (o : SReg) : (sRegFoot op o).peek = false := by unfold sRegFoot; dsimp only; split_ifs <;> rfl
theorem sImmFoot_peek (op : Nat) (o : SImm) : (sImmFoot op o).peek = false := by unfold sImmFoot; dsimp only; split_ifs <;> rfl
theorem bFoot_peek (i : Instr) : (bFoot i).peek = false := by
  unfold bFoot
  cases i.view <;> dsimp only <;> split_ifs <;> rfl
theorem mFoot_peek (op : Nat) (o : MOps) : (mFoot op o).peek = false := by 
  unfold mFoot; dsimp only; repeat' split
  all_goals rfl
theorem pFoot_peek (op : Nat) (o : POps) : (pFoot op o).peek = false := by unfold pFoot; split <;> rfl
theorem eFoot_peek (i : Instr) : (eFoot i).peek = false := by unfold eFoot; split <;> rfl

/-- The reads of a slot's word as R51 counts them: only a V instruction peeks, by its k bit. -/
theorem foot_peek (i : Instr) : (foot i).peek = peekBit i := by
  unfold foot peekBit
  cases i.view with
  | sReg op o => exact sRegFoot_peek op o
  | sImm op o => exact sImmFoot_peek op o
  | bOff op o => exact bFoot_peek i
  | bPred op o => exact bFoot_peek i
  | v op o => rfl
  | m op o => exact mFoot_peek op o
  | p op o => exact pFoot_peek op o
  | e op pay => exact eFoot_peek i
  | event => rfl

theorem captWord_eq (st : Strand) (e : Nat × Nat) : captWord st e = st.readAll (wordReads e) := by
  unfold captWord wordReads
  cases slotInstr e.1 e.2 with
  | none => rfl
  | some i => exact (captSlot_eq e.1 (foot i).peek (foot i).vr st).trans (by rw [foot_peek])

theorem captFrom_zero (st : Strand) : captFrom 0 st = st.readAll (st.bun.cur.flatMap wordReads) := by
  have hall : st.bun.cur.filter (fun e => 0 ≤ e.1) = st.bun.cur := List.filter_eq_self.mpr fun _ _ => by simp
  rw [captFrom_eq, hall, Strand.readAll, List.foldl_flatMap]
  congr 1
  funext s e
  exact captWord_eq s e

/-- The reads of an issue, from the queues as it found them. -/
theorem Strand.startIssue_reads (st : Strand) (fresh : Bool) (r : Nat) :
    let t := st.startIssue fresh r
    let reads := t.bun.cur.flatMap wordReads
    t.bun.capt = reads.zipIdx.map (fun x => st.captured (reads.take x.2) x.1) ∧ ∀ q, t.getQ q = (st.getQ q).drop (popsOf q reads) := by
  have hcur := (st.startIssue_bun fresh r).2.1
  dsimp only
  rw [hcur, startIssue, captFrom_zero]
  exact ⟨capt_readAll _ _, getQ_readAll _ _⟩

/-- Settles O6: the next slot is the least that follows, the next issue's words are those of issueWord, and the reads of an issue are
made one after another. -/
theorem issuesGoInClassOrderAndStep : Obligations.IssuesGoInClassOrderAndStep := by
  refine ⟨fun st j hj hs hlt hf hm => ?_, fun st k hk hs hlast hr hsome hw => ?_, fun st fresh r => ?_⟩
  · exact Strand.finish_next hj (nextSlot_eq hs hf hlt fun m hle hmj => hm m hle hmj)
  · exact Strand.finish_words hk hs hlast hr hsome hw
  · exact st.startIssue_reads fresh r

end Sys2Proof.Machine
end

section
/-! SUPPORT. What an engine's reads and writes leave: strands, crews, launches, cores and the step (R93, R102, R179). -/

namespace Sys2Proof.Machine

/-- The strands, crews and launches, and the step. -/
def Pkg.standing (p : Pkg) : RMap Strand × RMap Crew × RMap Launch × Nat := (p.strands, p.crews, p.launches, p.tick)

/-- What no engine's access touches: these, and the cores. -/
def Pkg.aside (p : Pkg) : (RMap Strand × RMap Crew × RMap Launch × Nat) × RMap Core := (p.standing, p.cores)

theorem Pkg.standing_of_aside {p q : Pkg} (h : q.aside = p.aside) : q.standing = p.standing := congrArg (·.1) h
theorem Pkg.cores_of_aside {p q : Pkg} (h : q.aside = p.aside) : q.cores = p.cores := congrArg (·.2) h

theorem Pkg.strands_of_standing {p q : Pkg} (h : q.standing = p.standing) : q.strands = p.strands := congrArg (·.1) h
theorem Pkg.crews_of_standing {p q : Pkg} (h : q.standing = p.standing) : q.crews = p.crews := congrArg (·.2.1) h
theorem Pkg.launches_of_standing {p q : Pkg} (h : q.standing = p.standing) : q.launches = p.launches := congrArg (·.2.2.1) h
theorem Pkg.tick_of_standing {p q : Pkg} (h : q.standing = p.standing) : q.tick = p.tick := congrArg (·.2.2.2) h

theorem Pkg.crew_of_standing {p q : Pkg} (h : q.standing = p.standing) (n : Nat) : q.crew n = p.crew n := by
  rw [crew, crew, crews_of_standing h]

section
variable {p q : Pkg} {er cu va n acc : Nat} {sup : Bool}

theorem Pkg.aside_touch (p : Pkg) (c flags pa n : Nat) : (p.touch c flags pa n).aside = p.aside := by
  unfold touch
  split <;> rfl

theorem Pkg.aside_walk {root : Nat} {l : Leaf} (h : p.walk er root va acc sup = some (.ok (l, q))) : q.aside = p.aside := by
  unfold walk at h
  split at h
  case h_4 =>
    dsimp only at h
    split at h
    · cases h; rfl
    · cases h
  all_goals cases h

theorem Pkg.aside_engKey {c k : Nat} {skip : Option Nat} (h : p.engKey er c cu sup va n acc skip = .ok (k, q)) :
    q.aside = p.aside := by
  unfold engKey at h
  split at h
  case h_4 =>
    split at h
    case h_3 l p1 hw =>
      dsimp only at h
      split at h
      · cases h
      · cases h
        exact (aside_touch _ _ _ _ _).trans (aside_walk hw)
    all_goals cases h
  case h_3 => cases h
  all_goals
    split at h
    all_goals grind

theorem Pkg.aside_engRead {c : Nat} {skip : Option Nat} {bs : List Byte} (h : p.engRead er c cu sup va n skip = .ok (bs, q)) :
    q.aside = p.aside := by
  suffices hall : ∀ bs q, p.engRead er c cu sup va n skip = .ok (bs, q) → q.aside = p.aside from hall _ _ h
  unfold engRead
  refine List.foldlRecOn (motive := fun r : Except (Nat × Nat) (List Byte × Pkg) => ∀ bs q, r = .ok (bs, q) → q.aside = p.aside)
    _ _ (fun bs q h => by cases h; rfl) fun r ih x _ bs q h => ?_
  split at h
  · cases h
  · rename_i bs0 q0
    split at h
    · cases h
    · rename_i k q1 hk
      split at h
      · cases h
      · cases h
        exact (aside_engKey hk).trans (ih _ _ rfl)

theorem Pkg.aside_agentWrite (p : Pkg) (c : Nat) (see : Acc → Part → Bool) (k : Nat) (bs : List Byte) :
    (p.agentWrite c see k bs).aside = p.aside := rfl

theorem Pkg.aside_engWrite {c : Nat} {skip : Option Nat} {bs : List Byte} (h : p.engWrite er c cu sup va bs skip = .ok q) :
    q.aside = p.aside := by
  unfold engWrite at h
  generalize hkeys : (pageParts va bs.length).foldl _ _ = keys at h
  have hk : ∀ ks q, keys = .ok (ks, q) → q.aside = p.aside := by
    rw [← hkeys]
    refine List.foldlRecOn
      (motive := fun r : Except (Nat × Nat) (List (Nat × Nat × Nat) × Pkg) => ∀ ks q, r = .ok (ks, q) → q.aside = p.aside)
      _ _ (fun ks q h => by cases h; rfl) fun r ih x _ ks q h => ?_
    split at h
    · cases h
    · split at h
      · cases h
      · rename_i hk
        split at h
        · cases h
        · cases h
          exact (aside_engKey hk).trans (ih _ _ rfl)
  dsimp only at h
  split at h
  · cases h
  · rename_i ks q0
    cases h
    refine (List.foldlRecOn (motive := fun q : Pkg => q.aside = q0.aside) _ _ rfl fun q ih x _ => ?_).trans (hk _ _ rfl)
    exact (aside_agentWrite _ _ _ _ _).trans ih

theorem Pkg.aside_savePage {pcie : Bool} {new : Nat → Option Byte} (h : savePage er pcie cu p va n new = some q) :
    q.aside = p.aside := by
  unfold savePage at h
  dsimp only at h
  split at h
  · cases h
  · split at h
    · cases h
    · split at h
      · rename_i hw
        have hs := aside_engWrite hw
        cases h
        exact hs
      · cases h

theorem Pkg.aside_saveBody {pcie : Bool} {size : Nat} : (saveBody er pcie cu va size p).1.aside = p.aside := by
  unfold saveBody
  refine List.foldlRecOn (motive := fun r : Pkg × Bool => r.1.aside = p.aside) _ _ rfl fun r ih i _ => ?_
  dsimp only
  split
  · exact ih
  · split
    · rename_i hs
      exact (aside_savePage hs).trans ih
    · exact ih

theorem Pkg.standing_wakeDirty (p : Pkg) (cu : Nat) : (p.wakeDirty cu).standing = p.standing := by
  unfold wakeDirty
  refine List.foldlRecOn (motive := fun q : Pkg => q.standing = p.standing) _ _ rfl fun q ih e _ => ?_
  split
  · exact ih
  · exact ih

theorem Pkg.aside_readRecord (h : p.readRecord er cu = .ok q) : q.aside = p.aside := by
  rw [readRecord] at h
  have hread := @aside_engRead
  generalize @Pkg.engRead = read at h hread
  -- a lemma over any read, so that the kernel evaluates no read of a whole page
  as_aux_lemma =>
    split at h
    · cases h
    · split at h
      · cases h
      · split at h
        · cases h
        · refine List.foldlRecOn (motive := fun r : Except Nat Pkg => ∀ q, r = .ok q → q.aside = p.aside) _ _
            (fun q h => by cases h; rfl) (fun r ih i _ q h => ?_) q h
          split at h
          · cases h
          · split at h
            · cases h
            · rename_i hr
              cases h
              exact (hread hr).trans (ih _ rfl)

end

end Sys2Proof.Machine
end

section
/-! SUPPORT. Steps that strands only feel as grants: what they leave of strands and crews (R34, R36, R37, R156). -/

namespace Sys2Proof.Machine

/-- A crew but for its tags and the mark of a clear to come. -/
def Crew.lasting (c : Crew) : Crew := { c with tags := [], unclear := false }

/-- A strand but for what a grant sets. -/
def Strand.lasting (st : Strand) : Strand := { st with run := .ready, grant := none, acqAt := 0 }

/-- Strands get grants, which may be acquires, and crews lose tags or note a clear to come; nothing else of them changes. -/
structure Pkg.Rouses (p q : Pkg) : Prop where
  strand : ∀ u st, p.strands.find? u = some st → ∃ st', q.strands.find? u = some st' ∧ st'.lasting = st.lasting
    ∧ (st'.acqAt = st.acqAt ∨ st'.acqAt = p.tick)
  crew : ∀ n, (q.crew n).lasting = (p.crew n).lasting
  tick : q.tick = p.tick

theorem Pkg.Rouses.of_same {p q : Pkg} (hs : q.strands = p.strands) (hc : q.crews = p.crews) (ht : q.tick = p.tick) : p.Rouses q where
  strand _ st h := ⟨st, hs ▸ h, rfl, .inl rfl⟩
  crew n := by rw [Pkg.crew, Pkg.crew, hc]
  tick := ht

theorem Pkg.Rouses.refl (p : Pkg) : p.Rouses p := .of_same rfl rfl rfl

theorem Pkg.Rouses.trans {p q r : Pkg} (h : p.Rouses q) (h' : q.Rouses r) : p.Rouses r where
  strand u st hu := by
    obtain ⟨st1, h1, hl1, ha1⟩ := h.strand u st hu
    obtain ⟨st2, h2, hl2, ha2⟩ := h'.strand u st1 h1
    refine ⟨st2, h2, hl2.trans hl1, ?_⟩
    rcases ha2 with ha2 | ha2
    · exact ha2 ▸ ha1
    · exact .inr (ha2.trans h.tick)
  crew n := (h'.crew n).trans (h.crew n)
  tick := h'.tick.trans h.tick

/-- The same after a step that strands and crews do not feel. -/
theorem Pkg.Rouses.after {p q r : Pkg} (h : q.Rouses r) (hs : q.strands = p.strands) (hc : q.crews = p.crews) (ht : q.tick = p.tick) :
    p.Rouses r := .trans (.of_same hs hc ht) h

theorem Pkg.Rouses.foldl {α : Type} {f : Pkg → α → Pkg} (hf : ∀ q a, Pkg.Rouses q (f q a)) (l : List α) (p : Pkg) : p.Rouses (l.foldl f p) :=
  List.foldlRecOn (motive := p.Rouses) l f (.refl p) fun q ih a _ => ih.trans (hf q a)

section
variable (p : Pkg)

theorem Pkg.rouses_modStrand (u : Nat) (f : Strand → Strand)
    (hf : ∀ st, (f st).lasting = st.lasting ∧ ((f st).acqAt = st.acqAt ∨ (f st).acqAt = p.tick)) : p.Rouses (p.modStrand u f) where
  strand v st h := by
    by_cases hv : v = u
    · subst hv
      refine ⟨f st, ?_, hf st⟩
      rw [modStrand_strands, RMap.find?_modify_same, h, Option.map_some]
    · exact ⟨st, by rw [modStrand_strands, RMap.find?_modify_ne _ _ _ _ hv, h], rfl, .inl rfl⟩
  crew _ := rfl
  tick := rfl

theorem Pkg.rouses_rouse (u : Nat) (g : Grant) : p.Rouses (p.rouse u g) := p.rouses_modStrand u _ fun _ => ⟨rfl, .inl rfl⟩

theorem Pkg.rouses_wake (u : Nat) (g : Grant) : p.Rouses (p.wake u g) :=
  ((p.forget u).rouses_modStrand u (fun st => { st with run := .ready, grant := some g, acqAt := p.tick }) fun _ =>
    ⟨rfl, .inr rfl⟩).after rfl rfl rfl

theorem Pkg.rouses_makeReady (cl n : Nat) : p.Rouses (p.makeReady cl n) := .of_same rfl rfl rfl

theorem Pkg.rouses_serveFlag (c f : Nat) : p.Rouses (p.serveFlag c f) := by
  unfold serveFlag readyAll
  dsimp only
  refine .trans ?_ (.foldl (fun q n => q.rouses_makeReady _ n) _ _)
  exact (Rouses.foldl (fun q u => q.rouses_wake u .ok) _ _).after rfl rfl rfl

theorem Pkg.rouses_giveSlot (cl n : Nat) (w : RqWait) : p.Rouses (p.giveSlot cl n w) := by
  unfold giveSlot
  dsimp only
  exact (rouses_rouse _ _ _).after rfl rfl rfl

@[simp] theorem Pkg.crew_setCrew_same (cu : Nat) (c : Crew) : (p.setCrew cu c).crew cu = c := by
  simp only [crew, setCrew_crews, RMap.find?_put_same, Option.getD_some]

/-- Tags of a crew are answered. -/
theorem Pkg.rouses_setCrew {cu : Nat} {c : Crew} (h : c.lasting = (p.crew cu).lasting) : p.Rouses (p.setCrew cu c) where
  strand _ st h := ⟨st, h, rfl, .inl rfl⟩
  crew n := by
    by_cases hn : n = cu
    · subst hn
      rw [crew_setCrew_same, h]
    · simp only [crew, setCrew_crews, RMap.find?_put_ne _ _ _ _ hn]
  tick := rfl

theorem Pkg.rouses_armWait (cl n cu : Nat) : p.Rouses (p.armWait cl n cu) := by
  unfold armWait
  dsimp only
  split
  · exact p.rouses_makeReady cl n
  · exact (rouses_serveFlag _ _ _).after rfl rfl rfl
  · split
    · exact p.rouses_makeReady cl n
    · exact .of_same rfl rfl rfl
  · split
    · refine .trans ?_ (rouses_makeReady _ cl n)
      exact p.rouses_setCrew rfl
    · exact .refl p

theorem Pkg.rouses_dropCovered (l : List Range) : p.Rouses (p.dropCovered l) := .of_same rfl rfl rfl

theorem Pkg.rouses_awaitRanges (l : List Range) : p.Rouses (p.awaitRanges l) := .of_same rfl rfl rfl

theorem Pkg.rouses_wantRanges (l : List Range) : p.Rouses (p.wantRanges l) := by
  unfold wantRanges enterRanges
  split
  · exact .of_same rfl rfl rfl
  · exact p.rouses_awaitRanges l

theorem Pkg.rouses_appendCopy (core : Nat) (c : CopyCmd) : p.Rouses (p.appendCopy core c) := by
  unfold appendCopy
  dsimp only
  split
  · exact (rouses_wantRanges _ _).after rfl rfl rfl
  · exact (rouses_awaitRanges _ _).after rfl rfl rfl

theorem Pkg.rouses_retestCore (cu core : Nat) : p.Rouses (p.retestCore cu core) := by
  unfold retestCore
  refine .foldl (fun q a => ?_) _ _
  split
  · exact (rouses_appendCopy _ _ _).after rfl rfl rfl
  · exact .refl q

theorem Pkg.rouses_refillQueue (cu : Nat) : p.Rouses (p.refillQueue cu) := by
  unfold refillQueue
  refine .trans ?_ (.foldl (fun q (e : Nat × RqSlot) => q.rouses_armWait _ e.1 cu) _ _)
  exact .foldl (fun q (e : Nat × RqSlot) => q.rouses_makeReady _ e.1) _ _

theorem Pkg.rouses_reaskSlot (cl u : Nat) (st : Strand) : p.Rouses (p.reaskSlot cl u st) := by
  unfold reaskSlot
  split
  · dsimp only
    split
    · exact p.rouses_giveSlot _ _ _
    · exact .of_same rfl rfl rfl
  · exact .refl p

theorem Pkg.rouses_refillCores (cu : Nat) : p.Rouses (p.refillCores cu) := by
  unfold refillCores
  refine .foldl (fun q x => ?_) _ _
  exact .of_same rfl rfl rfl

theorem Pkg.rouses_freeSlot (cl n : Nat) : p.Rouses (p.freeSlot cl n) := by
  unfold freeSlot
  dsimp only
  split
  · exact .refl p
  · split
    · exact (rouses_giveSlot _ _ _ _).after rfl rfl rfl
    · exact .of_same rfl rfl rfl

theorem Pkg.rouses_freeSlots (cl : Nat) (sel : RqSlot → Bool) : p.Rouses (p.freeSlots cl sel) := by
  unfold freeSlots
  exact .foldl (fun q n => q.rouses_freeSlot cl n) _ _

theorem Pkg.rouses_leaveCore (st : Strand) : p.Rouses (p.leaveCore st) := by
  unfold leaveCore
  dsimp only
  split
  · exact .refl p
  · exact .of_same rfl rfl rfl

/-- Clearing VALID changes no strand, and of a crew at most the mark of a clear to come. -/
theorem Pkg.rouses_clearValid (er cu : Nat) : p.Rouses (p.clearValid er cu) := by
  rw [clearValid]
  have hread := @aside_engRead
  have hwrite := @aside_engWrite
  generalize @Pkg.engRead = read at hread ⊢
  generalize @Pkg.engWrite = write at hwrite ⊢
  -- a lemma over any read and write, so that the kernel evaluates neither
  as_aux_lemma =>
    split
    · rename_i hr
      split
      · rename_i hw
        have hs := standing_of_aside ((hwrite hw).trans (hread hr))
        exact .of_same (strands_of_standing hs) (crews_of_standing hs) (tick_of_standing hs)
      · exact p.rouses_setCrew rfl
      · exact .refl p
    · exact p.rouses_setCrew rfl
    · exact .refl p

end

end Sys2Proof.Machine
end

section
/-! SUPPORT. The events of a crew's way off its cores and back: what each makes of the state (R178 to R181, R411 to R413). -/

namespace Sys2Proof.Machine

section
variable {s : State} {cu : Nat} (hrun : s.host.islands.get .running ((s.pkg.crew cu).cluster / 12) ≠ .stopped)

/-! ### The deadline -/

theorem Pkg.due_iff {p : Pkg} (hst : (p.crew cu).st = .resident) (hreq : (p.crew cu).req = true) (hdl : (p.crew cu).deadline ≤ p.time)
    (hl : (p.launch (p.crew cu).launch).failed = false) :
    p.due cu = true ↔ ¬ ∃ e ∈ p.strands, e.2.crew = cu ∧ e.2.pend = some (.yield true false) := by
  simp [due, hst, hreq, hdl, hl]

include hrun

theorem running_of_island : s.host.stopped (islandOf (s.pkg.crew cu).cluster) = false := by
  rw [← Bool.not_eq_true, HostRegs.stopped_iff]
  exact hrun

theorem exec_deadlineExpiry_due (h : s.pkg.due cu = true) :
    exec (.deadlineExpiry cu) s = .next (s.withPkg (s.pkg.setCrew cu (s.pkg.crew cu).force)) := by
  show execDeadlineExpiry cu s = _
  unfold execDeadlineExpiry
  simp [h, running_of_island hrun]

omit hrun in
theorem exec_deadlineExpiry_waits (h : s.pkg.due cu = false) : exec (.deadlineExpiry cu) s = .next s := by
  show execDeadlineExpiry cu s = _
  unfold execDeadlineExpiry
  simp [h]

/-! ### The retry of a save -/

theorem exec_saveRetry_again {forced : Bool} (hst : (s.pkg.crew cu).st = .retry forced)
    (h : (s.pkg.crew cu).sealed ≠ [] ∨ (s.pkg.crew cu).resumed + 65536 ≤ s.pkg.cycs.get 0 ((s.pkg.crew cu).cluster / 12)) :
    exec (.saveRetry cu) s = .next (s.withPkg (s.pkg.setCrew cu
      { s.pkg.crew cu with st := .saving (forced || decide ((s.pkg.crew cu).deadline ≤ s.pkg.time)), sealed := [] })) := by
  show execSaveRetry cu s = _
  unfold execSaveRetry
  dsimp only
  rw [hst]
  exact if_pos ⟨h, by simp [running_of_island hrun]⟩

omit hrun in
theorem exec_saveRetry_waits {forced : Bool} (hst : (s.pkg.crew cu).st = .retry forced) (hsealed : (s.pkg.crew cu).sealed = [])
    (h : s.pkg.cycs.get 0 ((s.pkg.crew cu).cluster / 12) < (s.pkg.crew cu).resumed + 65536) : exec (.saveRetry cu) s = .next s := by
  show execSaveRetry cu s = _
  unfold execSaveRetry
  dsimp only
  rw [hst]
  exact if_neg fun hc => hc.1.elim (fun hne => hne hsealed) (fun hle => absurd hle (by simpa [islandOf] using h))

/-! ### The save -/

/-- The save of a crew that has drained, once its record can be written. -/
theorem exec_crewSave {forced : Bool} (hst : (s.pkg.crew cu).st = .saving forced) (hl : (s.pkg.launch (s.pkg.crew cu).launch).failed = false)
    (hd : s.pkg.drained cu = true) (hu : s.pkg.crewUpset cu = none)
    (hb : s.pkg.slotBusy s.er cu ((s.pkg.launch (s.pkg.crew cu).launch).recSize / 65536) 1 = false) :
    exec (.crewSave cu) s = .next (if s.pkg.slotValid s.er cu = true then
        s.withPkg (s.pkg.setCrew cu { (s.pkg.crew cu).unask with st := .resident, sealed := [] })
      else s.saveCrew cu forced) := by
  show execCrewSave cu s = _
  unfold execCrewSave
  dsimp only
  rw [hst]
  dsimp only
  rw [if_neg (by simp [hl, running_of_island hrun, hd]), hu]
  dsimp only
  rw [if_neg (by simp [hb])]
  split <;> rfl

/-! ### The restore -/

omit hrun in
theorem exec_crewRestore_busy (hb : s.pkg.slotBusy s.er cu ((s.pkg.launch (s.pkg.crew cu).launch).recSize / 65536) 0 = true) :
    exec (.crewRestore cu) s = .next s := by
  show execCrewRestore cu s = _
  unfold execCrewRestore
  exact if_pos (.inr (.inr hb))

theorem exec_crewRestore_ok {p : Pkg} (hst : (s.pkg.crew cu).st = .restoring)
    (hb : s.pkg.slotBusy s.er cu ((s.pkg.launch (s.pkg.crew cu).launch).recSize / 65536) 0 = false) (hr : s.pkg.readRecord s.er cu = .ok p) :
    exec (.crewRestore cu) s = .next (s.withPkg ((p.clearValid s.er cu).reinstate s.er cu)) := by
  have hgo : ¬ ((s.pkg.crew cu).st ≠ .restoring ∨ s.host.stopped (islandOf (s.pkg.crew cu).cluster) = true
      ∨ s.pkg.slotBusy s.er cu ((s.pkg.launch (s.pkg.crew cu).launch).recSize / 65536) 0 = true) := by
    simp [hst, running_of_island hrun, hb]
  show execCrewRestore cu s = _
  rw [execCrewRestore, if_neg hgo, hr]

/-- A record that cannot be restored: the fault is counted, the crew's cores are contained and the launch fails. -/
def Pkg.restoreFails (p : Pkg) (er cu cause : Nat) : Pkg :=
  let c := p.crew cu
  let first := c.cores.headD 0
  let q := p.countFault c.launch cause first 0 0 (BitVec.ofNat 64 (p.slotOf cu))
  (c.cores.foldl (fun p n => p.setCore n { p.core n with service := .contained }) q).failLaunch er c.launch first

theorem exec_crewRestore_error {cause : Nat} (hst : (s.pkg.crew cu).st = .restoring)
    (hb : s.pkg.slotBusy s.er cu ((s.pkg.launch (s.pkg.crew cu).launch).recSize / 65536) 0 = false)
    (hr : s.pkg.readRecord s.er cu = .error cause) :
    exec (.crewRestore cu) s = .next (s.withPkg (s.pkg.restoreFails s.er cu cause)) := by
  have hgo : ¬ ((s.pkg.crew cu).st ≠ .restoring ∨ s.host.stopped (islandOf (s.pkg.crew cu).cluster) = true
      ∨ s.pkg.slotBusy s.er cu ((s.pkg.launch (s.pkg.crew cu).launch).recSize / 65536) 0 = true) := by
    simp [hst, running_of_island hrun, hb]
  show execCrewRestore cu s = _
  rw [execCrewRestore, if_neg hgo, hr]
  rfl

end

/-- A record whose header is not VALID, or is of another launch or crew, is refused. -/
theorem Pkg.readRecord_bad {p q : Pkg} {er cu : Nat} {h : List Byte}
    (hr : p.engRead er (saveAgent (p.crew cu).cluster) cu true (p.slotOf cu) 64 = .ok (h, q))
    (hbad : recN h 0 8 < 2 ^ 63 ∨ recN h 12 4 ≠ (p.launch (p.crew cu).launch).lid ∨ recN h 8 4 ≠ (p.crew cu).index) :
    p.readRecord er cu = .error 0x02 := by
  rw [readRecord, hr]
  exact if_pos (hbad.imp_left (Nat.div_eq_of_lt ·))

/-! ### The crew back on its cores -/

section
variable (p : Pkg) (er cu : Nat)

theorem Pkg.standing_refillCores : (p.refillCores cu).standing = p.standing := by
  unfold refillCores
  refine List.foldlRecOn (motive := fun q : Pkg => q.standing = p.standing) _ _ rfl fun q ih x _ => ?_
  exact ih

/-- The crew stands on its cores, with its commands and formes and its strands as restored; its waits are still to be made again. -/
def Pkg.stand (p : Pkg) (cu : Nat) : Pkg :=
  let c := p.crew cu
  let p : Pkg := { p.refillCores cu with early := p.early.filter (fun e => e.strand / 96 != cu) }
  let p : Pkg := { p with strands := p.strands.mapVals (fun st => if st.crew = cu then st.restored p.tick else st) }
  let q := p.cluster c.cluster
  (p.setCluster c.cluster { q with formes := q.formes ++ c.image.formes }).setCrew cu { c with st := .resident }

/-- What the crew waited for is asked again. -/
def Pkg.reask (p : Pkg) (er cu cl : Nat) (cores : List Nat) : Pkg :=
  let p := p.refillQueue cu
  let p := p.strands.foldl (fun p e => if e.2.crew = cu then p.reaskSlot cl e.1 e.2 else p) p
  cores.foldl (fun p n => p.retestCore cu n) (p.giveAnswers er cu)

theorem Pkg.reinstate_eq : p.reinstate er cu =
    let q := (p.stand cu).reask er cu (p.crew cu).cluster (p.crew cu).cores
    (q.setCrew cu { q.crew cu with image := {} }).sendReleases cu := rfl

theorem Pkg.rouses_giveAnswers (h : (p.crew cu).image.answers = []) : p.Rouses (p.giveAnswers er cu) := by
  unfold giveAnswers
  rw [h]
  exact .refl p

theorem Pkg.rouses_reask (cl : Nat) (cores : List Nat) (h : (p.crew cu).image.answers = []) : p.Rouses (p.reask er cu cl cores) := by
  unfold reask
  dsimp only
  refine .trans (.trans (p.rouses_refillQueue cu) ?_) (.foldl (fun q n => q.rouses_retestCore cu n) _ _)
  have hfold : (p.refillQueue cu).Rouses ((p.refillQueue cu).strands.foldl
      (fun p e => if e.2.crew = cu then p.reaskSlot cl e.1 e.2 else p) (p.refillQueue cu)) := by
    refine .foldl (fun q e => ?_) _ _
    split
    · exact q.rouses_reaskSlot _ _ _
    · exact .refl q
  refine hfold.trans (rouses_giveAnswers _ er cu ?_)
  have himage := congrArg (·.image.answers) (((p.rouses_refillQueue cu).trans hfold).crew cu)
  exact himage.trans h

theorem Pkg.stand_strands : (p.stand cu).strands = p.strands.mapVals (fun st => if st.crew = cu then st.restored p.tick else st) := by
  have h := p.standing_refillCores cu
  unfold stand
  dsimp only [setCrew_strands, setCluster_strands]
  rw [strands_of_standing h, tick_of_standing h]

theorem Pkg.stand_crew : (p.stand cu).crew cu = { p.crew cu with st := .resident } := by
  unfold stand
  exact crew_setCrew_same _ _ _

theorem Pkg.stand_tick : (p.stand cu).tick = p.tick := by
  show (p.refillCores cu).tick = _
  exact tick_of_standing (p.standing_refillCores cu)

/-- A crew that is back is resident with nothing left in its image, its holds are released, and its strands have acquired and are not dirty. -/
theorem Pkg.reinstate_frame (h : (p.crew cu).image.answers = []) : let t := p.reinstate er cu
    (∃ c', t.crews.find? cu = some c' ∧ c'.st = .resident ∧ c'.image = {}) ∧ (∀ e ∈ t.holdsOut, e.1 ≠ cu)
    ∧ ∀ u st, p.strands.find? u = some st → ∃ st', t.strands.find? u = some st'
        ∧ st'.lasting = (if st.crew = cu then st.restored p.tick else st).lasting ∧ (st.crew = cu → st'.acqAt = p.tick) := by
  have hr := (p.stand cu).rouses_reask er cu (p.crew cu).cluster (p.crew cu).cores (by rw [stand_crew]; exact h)
  dsimp only
  rw [reinstate_eq]
  generalize (p.stand cu).reask er cu (p.crew cu).cluster (p.crew cu).cores = q at hr ⊢
  refine ⟨⟨{ q.crew cu with image := {} }, RMap.find?_put_same _ _ _, ?_, rfl⟩, fun e he => ?_, fun u st hu => ?_⟩
  · have hst := congrArg (·.st) (hr.crew cu)
    rw [stand_crew] at hst
    exact hst
  · simpa using (List.mem_filter.mp he).2
  · obtain ⟨st', hf, hl, ha⟩ := hr.strand u (if st.crew = cu then st.restored p.tick else st)
      (by rw [stand_strands, RMap.find?_mapVals, hu, Option.map_some])
    refine ⟨st', hf, hl, fun hcrew => ?_⟩
    rw [if_pos hcrew, stand_tick] at ha
    exact ha.elim id id

end

section
variable {st : Strand} {tick : Nat} {c : Prop} [Decidable c]

/-- A restore changes what a grant can, and DIRTY. -/
theorem Strand.lasting_restored : (if c then st.restored tick else st).lasting =
    { st.lasting with dirty := if c then st.dirty &&& 0x3FFC0000#30 else st.dirty } := by
  split <;> rfl

theorem getLsbD_undirty (d : BitVec 30) {n : Nat} (h : n < 18) : (d &&& 0x3FFC0000#30).getLsbD n = false := by
  have hn : ∀ n < 18, (0x3FFC0000#30).getLsbD n = false := by decide
  rw [BitVec.getLsbD_and, hn n h, Bool.and_false]

end

/-- The state of a crew and its strands once it is back, against a package from which no more than grants lead to the reinstatement. -/
theorem Pkg.Rouses.reinstate {p q : Pkg} (h : p.Rouses q) (er cu : Nat) (ha : (p.crew cu).image.answers = []) : let t := q.reinstate er cu
    (∃ c', t.crews.find? cu = some c' ∧ c'.st = .resident ∧ c'.image = {}) ∧ (∀ e ∈ t.holdsOut, e.1 ≠ cu)
    ∧ ∀ u st, p.strands.find? u = some st → ∃ st', t.strands.find? u = some st' ∧ st'.x = st.x ∧ st'.v = st.v ∧ st'.pc = st.pc
        ∧ (st.crew = cu → st'.acqAt = p.tick ∧ ∀ n < 18, st'.dirty.getLsbD n = false) := by
  have himage := congrArg (·.image.answers) (h.crew cu)
  obtain ⟨hcrew, hholds, hstrand⟩ := q.reinstate_frame er cu (himage.trans ha)
  refine ⟨hcrew, hholds, fun u st hu => ?_⟩
  obtain ⟨st1, hf1, hl1, -⟩ := h.strand u st hu
  obtain ⟨st2, hf2, hl2, ha2⟩ := hstrand u st1 hf1
  rw [Strand.lasting_restored, hl1] at hl2
  have hcrew : st1.crew = st.crew := congrArg (·.crew) hl1
  refine ⟨st2, hf2, congrArg (·.x) hl2, congrArg (·.v) hl2, congrArg (·.pc) hl2, fun hcu => ?_⟩
  have hdirty : st2.dirty = _ := congrArg (·.dirty) hl2
  rw [hcrew] at ha2 hdirty
  refine ⟨(ha2 hcu).trans h.tick, fun n hn => ?_⟩
  rw [hdirty, if_pos hcu]
  exact getLsbD_undirty _ hn

/-- Reading the record and clearing its VALID come to no more than grants. -/
theorem Pkg.rouses_readRecord {p q : Pkg} {er cu : Nat} (h : p.readRecord er cu = .ok q) : p.Rouses (q.clearValid er cu) := by
  have hs := standing_of_aside (aside_readRecord h)
  exact (q.rouses_clearValid er cu).after (strands_of_standing hs) (crews_of_standing hs) (tick_of_standing hs)

end Sys2Proof.Machine
end

section
/-! SUPPORT. A strand as its record holds it, and the crew off its cores (R179, R180, R243). -/

namespace Sys2Proof.Machine

/-! ### The strand -/

/-- Without latches: those captured stay for an issue in progress (R376). -/
theorem Strand.noLatches_eq (st : Strand) : ∃ b l, st.noLatches = { st with latch := [], l3lost := l, bun := b }
    ∧ b.latch = (if st.atBoundary = true then [] else st.bun.latch) := by
  unfold noLatches
  dsimp only
  split
  case isTrue h => exact ⟨_, _, rfl, (if_pos h).symm⟩
  case isFalse h => exact ⟨st.bun, _, rfl, (if_neg h).symm⟩

/-- A met YIELD changes the place in the program alone, and nothing without a pending transfer. -/
theorem Strand.metYield_eq (st : Strand) : ∃ pc ph pe b, st.metYield = { st with pc := pc, phase := ph, pend := pe, bun := b }
    ∧ (st.pend = none → pc = st.pc ∧ b = st.bun) := by
  unfold metYield
  split
  case h_1 h =>
    split
    · exact ⟨_, _, _, _, rfl, fun hn => by simp [hn] at h⟩
    · split
      · exact ⟨_, _, _, _, rfl, fun _ => ⟨rfl, rfl⟩⟩
      · exact ⟨st.pc, st.phase, st.pend, st.bun, rfl, fun _ => ⟨rfl, rfl⟩⟩
  case h_2 => exact ⟨st.pc, st.phase, st.pend, st.bun, rfl, fun _ => ⟨rfl, rfl⟩⟩

/-- The queue entries of a record, with no mark of an error. -/
def Strand.cleanQ (st : Strand) : RMap (List QEnt) := st.q.mapVals (fun l => l.map (fun e => { e with bad := false }))

/-- But for its run state a stowed strand is the one without latches whose YIELD is met. -/
theorem Pkg.lasting_stow (p : Pkg) (st : Strand) : ∃ d r, (p.stow st).lasting =
    { st.noLatches.metYield with dirty := d, rslot := r, q := st.cleanQ, run := .ready, grant := none, acqAt := 0 } := by
  refine ⟨st.dirty &&& 0x3FFC0000#30, st.rslot.map (p.slotKey st.crew), ?_⟩
  unfold stow
  dsimp only
  split
  case h_7 => split <;> rfl
  all_goals rfl

/-- What a record keeps of a strand. -/
theorem Pkg.stow_frame (p : Pkg) (st st' : Strand) (h : st'.lasting = (p.stow st).lasting) :
    st'.x = st.x ∧ st'.v = st.v ∧ st'.p = st.p ∧ st'.m = st.m ∧ st'.e = st.e ∧ st'.latch = [] ∧ st'.q = st.cleanQ
    ∧ (st.pend = none → st'.pc = st.pc ∧ st'.bun.latch = if st.atBoundary = true then [] else st.bun.latch)
    ∧ st'.sup = st.sup ∧ st'.inh = st.inh ∧ st'.tvec = st.tvec := by
  obtain ⟨d, r, hs⟩ := p.lasting_stow st
  obtain ⟨b, l, hn, hlatch⟩ := st.noLatches_eq
  obtain ⟨pc, ph, pe, b', hm, hpend⟩ := st.noLatches.metYield_eq
  rw [hs, hm] at h
  rw [hn] at h hpend
  refine ⟨congrArg (·.x) h, congrArg (·.v) h, congrArg (·.p) h, congrArg (·.m) h, congrArg (·.e) h, congrArg (·.latch) h,
    congrArg (·.q) h, fun hp => ?_, congrArg (·.sup) h, congrArg (·.inh) h, congrArg (·.tvec) h⟩
  obtain ⟨hpc, hb⟩ := hpend hp
  have h1 : st'.pc = pc := congrArg (·.pc) h
  have h2 : st'.bun = b' := congrArg (·.bun) h
  rw [h1, h2, hpc, hb]
  exact ⟨rfl, hlatch⟩

/-! ### The package -/

section
variable (p : Pkg) (cu : Nat)

theorem Pkg.crews_giveSlot (cl n : Nat) (w : RqWait) : (p.giveSlot cl n w).crews = p.crews := rfl

theorem Pkg.crews_freeSlot (cl n : Nat) : (p.freeSlot cl n).crews = p.crews := by
  unfold freeSlot
  dsimp only
  split
  · rfl
  · split
    · exact crews_giveSlot _ _ _ _
    · rfl

theorem Pkg.crews_freeSlots (cl : Nat) (sel : RqSlot → Bool) : (p.freeSlots cl sel).crews = p.crews := by
  unfold freeSlots
  refine List.foldlRecOn (motive := fun q : Pkg => q.crews = p.crews) _ _ rfl fun q ih n _ => ?_
  exact (q.crews_freeSlot cl n).trans ih

theorem Pkg.standing_leaveCore (st : Strand) : (p.leaveCore st).standing = p.standing := by
  unfold leaveCore
  dsimp only
  split <;> rfl

/-- Strands leave their cores. -/
def Pkg.leaveAll (p : Pkg) (us : List Nat) : Pkg :=
  us.foldl (fun p u => match p.strands.find? u with | some st => p.leaveCore st | none => p) p

theorem Pkg.standing_leaveAll (us : List Nat) : (p.leaveAll us).standing = p.standing := by
  unfold leaveAll
  refine List.foldlRecOn (motive := fun q : Pkg => q.standing = p.standing) _ _ rfl fun q ih u _ => ?_
  split
  · exact (standing_leaveCore _ _).trans ih
  · exact ih

/-- The moves of windows and flags touch memory, accesses and pools alone. -/
theorem Pkg.standing_moves (n : Nat) (gone : Bool) (ms fs : List (Nat × Nat)) :
    (fs.foldl (Pkg.moveFlags · cu ·) (ms.foldl (fun p m => p.moveWindow n gone m) p)).standing = p.standing := by
  have hm : (ms.foldl (fun p m => p.moveWindow n gone m) p).standing = p.standing :=
    List.foldlRecOn (motive := fun q : Pkg => q.standing = p.standing) _ _ rfl fun q ih m _ => ih
  exact List.foldlRecOn (motive := fun q : Pkg => q.standing = p.standing) _ _ hm fun q ih m _ => ih

theorem Pkg.strands_moveCrew (cl : Nat) (cores spad : List Nat) (gone : Bool) : (p.moveCrew cu cl cores spad gone).strands = p.strands := by
  unfold moveCrew
  exact (setCrew_strands _ _ _).trans (strands_of_standing (p.standing_moves cu _ gone _ _))

theorem Pkg.moveCrew_crew (cl : Nat) (cores spad : List Nat) (gone : Bool) :
    (p.moveCrew cu cl cores spad gone).crews.find? cu = some { p.crew cu with cluster := cl, cores := cores, spad := spad } :=
  RMap.find?_put_same _ _ _

/-- The strands of the crew go into its record. -/
def Pkg.stowAll (p : Pkg) (cu : Nat) : Pkg := { p with strands := p.strands.mapVals (fun st => if st.crew = cu then p.stow st else st) }

/-- The crew's cores and run-queue slots are given up. -/
def Pkg.clearSlots (p : Pkg) (cu : Nat) : Pkg :=
  let c := p.crew cu
  let p0 := p
  let us := (p.strands.filter (fun e => e.2.crew == cu)).map (fun e => e.1)
  let parked (n : Nat) : Bool := ((p.cluster c.cluster).rq.find? n).elim false (fun r => r.crew == cu)
  let p := (p.stowAll cu).leaveAll us
  let p := p.mapCores (fun n k =>
    if n ∈ c.cores then
      { (k.releaseCrew cu).dropParked parked with
        armed := k.armed.filter (fun a => a.cmd.crew != cu), mxq := k.mxq.filter (fun e => e.strand / 96 != cu)
        copyq := k.copyq.filter (fun x => x.crew != cu) }
    else k.dropParked (fun m => decide (n / 24 = c.cluster) && parked m))
  let p := (p.mendFreed p0).mendFile us
  let q := p.cluster c.cluster
  let p := p.setCluster c.cluster { q with
    rqWaits := q.rqWaits.filter (fun w => w.crew != cu), formes := q.formes.filter (fun f => f.crew != cu) }
  p.freeSlots c.cluster (fun r => r.crew == cu)

/-- Its waits too; the crew itself is still to be marked as saved. -/
def Pkg.clearOut (p : Pkg) (cu : Nat) : Pkg :=
  let p := p.clearSlots cu
  { p with
    unitWaits := p.unitWaits.filter (fun w => !((w.kind ≤ 2 && w.strand / 96 == cu) || (w.kind == 3 && w.strand == cu)))
    walks := p.walks.filter (fun w => w.strand / 96 != cu)
    pools := p.pools.filter (fun e => !(e.2.crew == cu && e.2.kind == .fence)) }

theorem Pkg.vacate_eq (forced : Bool) : p.vacate cu forced =
    let q := p.clearOut cu
    let c := p.crew cu
    (q.setCrew cu { q.crew cu with st := .saved forced, image := p.imageOf cu, req := false, waiter := none, fails := 0, sealed := [] }).moveCrew
      cu 192 ((List.range c.cores.length).map (fun j => 2 ^ 20 + 32 * cu + j)) (c.cores.map (fun _ => 0)) false := rfl

theorem Pkg.crews_clearOut : (p.clearOut cu).crews = p.crews := by
  show (p.clearSlots cu).crews = _
  unfold clearSlots
  dsimp only
  rw [crews_freeSlots]
  show ((p.stowAll cu).leaveAll _).crews = (p.stowAll cu).crews
  exact crews_of_standing (standing_leaveAll _ _)

theorem Pkg.rouses_clearSlots : (p.stowAll cu).Rouses (p.clearSlots cu) := by
  unfold clearSlots
  dsimp only
  refine (rouses_freeSlots _ _ _).after ?_ ?_ ?_
  · show ((p.stowAll cu).leaveAll _).strands = _
    exact strands_of_standing (standing_leaveAll _ _)
  · show ((p.stowAll cu).leaveAll _).crews = _
    exact crews_of_standing (standing_leaveAll _ _)
  · show ((p.stowAll cu).leaveAll _).tick = _
    exact tick_of_standing (standing_leaveAll _ _)

/-- The crew's strands are stowed. -/
theorem Pkg.clearOut_strand {u : Nat} {st : Strand} (hu : p.strands.find? u = some st) (hc : st.crew = cu) :
    ∃ st', (p.clearOut cu).strands.find? u = some st' ∧ st'.lasting = (p.stow st).lasting := by
  have hstow : (p.stowAll cu).strands.find? u = some (p.stow st) := by
    rw [stowAll, RMap.find?_mapVals, hu, Option.map_some, if_pos hc]
  obtain ⟨st', hf, hl, -⟩ := (p.rouses_clearSlots cu).strand u _ hstow
  exact ⟨st', hf, hl⟩

/-- A crew that has left: its record is to be read back, it is asked no more, and its strands are as the record holds them. -/
theorem Pkg.vacate_frame (forced : Bool) : let t := p.vacate cu forced
    (∃ c', t.crews.find? cu = some c' ∧ c'.st = .saved forced ∧ c'.req = false ∧ c'.launch = (p.crew cu).launch ∧ c'.index = (p.crew cu).index
      ∧ c'.barriers = (p.crew cu).barriers ∧ c'.tags = (p.crew cu).tags)
    ∧ ∀ u st, p.strands.find? u = some st → st.crew = cu → ∃ st', t.strands.find? u = some st' ∧ st'.lasting = (p.stow st).lasting := by
  have hcrew : (p.clearOut cu).crew cu = p.crew cu := by rw [crew, crew, crews_clearOut]
  dsimp only
  rw [vacate_eq]
  dsimp only
  refine ⟨⟨_, moveCrew_crew _ _ _ _ _ _, ?_⟩, fun u st hu hc => ?_⟩
  · rw [crew_setCrew_same, hcrew]
    exact ⟨rfl, rfl, rfl, rfl, rfl, rfl⟩
  · rw [strands_moveCrew, setCrew_strands]
    exact p.clearOut_strand cu hu hc

end

/-! ### The save -/

section
variable {s : State} {cu : Nat} {forced : Bool} {p1 p2 : Pkg}

/-- The record is written in full: the crew leaves. -/
theorem State.saveCrew_done (hb : saveBody s.er s.host.pcieUp cu (s.pkg.slotOf cu) (s.pkg.launch (s.pkg.crew cu).launch).recSize
      (s.pkg.wakeDirty cu) = (p1, true))
    (hsz : (s.pkg.launch (s.pkg.crew cu).launch).savesz ≠ 0) (hn : (s.pkg.launch (s.pkg.crew cu).launch).nslot ≠ 0)
    (hh : savePage s.er s.host.pcieUp cu p1 (s.pkg.slotOf cu) 64 (fun i => (saveHeader forced (s.pkg.launch (s.pkg.crew cu).launch).lid
      (s.pkg.crew cu).index s.pkg.time)[i]?) = some p2) :
    s.saveCrew cu forced = s.withPkg ((p2.sendHolds cu (p2.commsOf cu)).vacate cu forced) := by
  rw [saveCrew, hb]
  generalize @savePage = write at hh ⊢
  -- a lemma over any write of a page, so that the kernel evaluates none
  as_aux_lemma =>
    rw [if_pos ⟨rfl, hsz, hn⟩, hh]

/-- A page of the record cannot be written: the save is abandoned. -/
theorem State.saveCrew_abandoned (hb : saveBody s.er s.host.pcieUp cu (s.pkg.slotOf cu) (s.pkg.launch (s.pkg.crew cu).launch).recSize
      (s.pkg.wakeDirty cu) = (p1, false)) : s.saveCrew cu forced = (s.withPkg p1).abandonSave cu forced := by
  rw [saveCrew, hb, if_neg (by simp)]

/-- A crew whose save has been abandoned less than four times is to retry it. -/
theorem State.abandonSave_retry (h : (s.pkg.crew cu).fails + 1 < 4) : ∃ t c', s.abandonSave cu forced = s.withPkg t
    ∧ t.crews.find? cu = some c' ∧ c'.st = .retry forced ∧ c'.fails = (s.pkg.crew cu).fails + 1 ∧ c'.sealed = [] := by
  rw [abandonSave, if_pos h]
  exact ⟨_, _, rfl, RMap.find?_put_same _ _ _, rfl, rfl, rfl⟩

/-- What the save keeps of the crew's strands. -/
theorem State.saveCrew_frame (hp : p2.standing = s.pkg.standing) : let t := (p2.sendHolds cu (p2.commsOf cu)).vacate cu forced
    ∃ c', t.crews.find? cu = some c' ∧ c'.st = .saved forced ∧ c'.req = false ∧ c'.launch = (s.pkg.crew cu).launch
      ∧ c'.index = (s.pkg.crew cu).index ∧ c'.barriers = (s.pkg.crew cu).barriers ∧ c'.tags = (s.pkg.crew cu).tags
      ∧ ∀ u st, s.pkg.strands.find? u = some st → st.crew = cu → ∃ st', t.strands.find? u = some st' ∧ st'.x = st.x ∧ st'.v = st.v
          ∧ st'.p = st.p ∧ st'.m = st.m ∧ st'.e = st.e ∧ st'.latch = [] ∧ st'.q = st.cleanQ
          ∧ (st.pend = none → st'.pc = st.pc ∧ st'.bun.latch = if st.atBoundary = true then [] else st.bun.latch)
          ∧ st'.sup = st.sup ∧ st'.inh = st.inh ∧ st'.tvec = st.tvec := by
  obtain ⟨⟨c', hf, hst, hreq, hln, hix, hbar, htag⟩, hstrand⟩ := (p2.sendHolds cu (p2.commsOf cu)).vacate_frame cu forced
  have hc : (p2.sendHolds cu (p2.commsOf cu)).crew cu = s.pkg.crew cu := Pkg.crew_of_standing hp cu
  rw [hc] at hln hix hbar htag
  refine ⟨c', hf, hst, hreq, hln, hix, hbar, htag, fun u st hu hcu => ?_⟩
  obtain ⟨st', hf', hl⟩ := hstrand u st ((congrArg (RMap.find? · u) (Pkg.strands_of_standing hp)).trans hu) hcu
  exact ⟨st', hf', Pkg.stow_frame _ st st' hl⟩

end

theorem saveHeader_eq (forced : Bool) (lid crew time : Nat) : saveHeader forced lid crew time =
    Spec.bytes 8 (2 ^ 63 + (if forced then 1 else 0)) ++ Spec.bytes 4 crew ++ Spec.bytes 4 lid ++ Spec.bytes 8 time ++ Spec.bytes 40 0 := by
  simp only [saveHeader, bytes_eq_toBytes]

end Sys2Proof.Machine
end

section
/-! SUPPORT. The failure of a launch: what no step of it takes back (R361, R362). -/

namespace Sys2Proof.Machine

/-- Launches stay failed and placed as they are, and cores in or out of service. -/
structure Pkg.KeepsFates (p q : Pkg) : Prop where
  failed : ∀ n, (q.launch n).failed = (p.launch n).failed
  placing : ∀ n, (q.launch n).placing = (p.launch n).placing
  service : ∀ n, (q.core n).service = (p.core n).service

theorem Pkg.KeepsFates.of_same {p q : Pkg} (hl : q.launches = p.launches) (hc : q.cores = p.cores) : p.KeepsFates q where
  failed n := by rw [Pkg.launch, Pkg.launch, hl]
  placing n := by rw [Pkg.launch, Pkg.launch, hl]
  service n := by rw [Pkg.core, Pkg.core, hc]

theorem Pkg.KeepsFates.refl (p : Pkg) : p.KeepsFates p := .of_same rfl rfl

theorem Pkg.KeepsFates.trans {p q r : Pkg} (h : p.KeepsFates q) (h' : q.KeepsFates r) : p.KeepsFates r where
  failed n := (h'.failed n).trans (h.failed n)
  placing n := (h'.placing n).trans (h.placing n)
  service n := (h'.service n).trans (h.service n)

/-- The same after a step that launches and cores do not feel. -/
theorem Pkg.KeepsFates.after {p q r : Pkg} (h : q.KeepsFates r) (hl : q.launches = p.launches) (hc : q.cores = p.cores) : p.KeepsFates r :=
  .trans (.of_same hl hc) h

/-- The same before a step that launches and cores do not feel. -/
theorem Pkg.KeepsFates.before {p q r : Pkg} (h : p.KeepsFates q) (hl : r.launches = q.launches) (hc : r.cores = q.cores) : p.KeepsFates r :=
  .trans h (.of_same hl hc)

theorem Pkg.KeepsFates.foldl {α : Type} {f : Pkg → α → Pkg} (hf : ∀ q a, Pkg.KeepsFates q (f q a)) (l : List α) (p : Pkg) :
    p.KeepsFates (l.foldl f p) :=
  List.foldlRecOn (motive := p.KeepsFates) l f (.refl p) fun q ih a _ => ih.trans (hf q a)

section
variable (p : Pkg)

theorem Pkg.launch_setLaunch (n m : Nat) (l : Launch) : (p.setLaunch n l).launch m = if m = n then l else p.launch m := by
  by_cases h : m = n
  · subst h
    simp only [launch, setLaunch_launches, RMap.find?_put_same, Option.getD_some, if_true]
  · simp only [launch, setLaunch_launches, RMap.find?_put_ne _ _ _ _ h, if_neg h]

theorem Pkg.core_setCore (n m : Nat) (k : Core) : (p.setCore n k).core m = if m = n then k else p.core m := by
  by_cases h : m = n
  · subst h
    simp only [core, setCore_cores, RMap.find?_put_same, Option.getD_some, if_true]
  · simp only [core, setCore_cores, RMap.find?_put_ne _ _ _ _ h, if_neg h]

theorem RMap.find?_map_key {α : Type} (m : RMap α) (f : Nat → α → α) (n : Nat) :
    RMap.find? (m.map (fun e => (e.1, f e.1 e.2))) n = (m.find? n).map (f n) := by
  induction m with
  | nil => rfl
  | cons e m ih =>
    obtain ⟨k, v⟩ := e
    by_cases h : n = k
    · subst h
      simp [find?]
    · simpa [find?, h] using ih

theorem Pkg.keepsFates_setLaunch {n : Nat} {l : Launch} (hf : l.failed = (p.launch n).failed) (hp : l.placing = (p.launch n).placing) :
    p.KeepsFates (p.setLaunch n l) where
  failed m := by
    rw [launch_setLaunch]
    split
    case isTrue h => rw [h, hf]
    case isFalse => rfl
  placing m := by
    rw [launch_setLaunch]
    split
    case isTrue h => rw [h, hp]
    case isFalse => rfl
  service _ := rfl

theorem Pkg.keepsFates_setCore {n : Nat} {k : Core} (h : k.service = (p.core n).service) : p.KeepsFates (p.setCore n k) where
  failed _ := rfl
  placing _ := rfl
  service m := by
    rw [core_setCore]
    split
    case isTrue hm => rw [hm, h]
    case isFalse => rfl

theorem Pkg.keepsFates_mapCores {f : Nat → Core → Core} (h : ∀ n k, (f n k).service = k.service) : p.KeepsFates (p.mapCores f) where
  failed _ := rfl
  placing _ := rfl
  service n := by
    rw [core, core, mapCores, RMap.find?_map_key]
    cases p.cores.find? n with
    | none => rfl
    | some k => exact h n k

/-! ### The steps of a failure -/

theorem Pkg.keepsFates_countFault (ln cause core sn pc : Nat) (v : X) : p.KeepsFates (p.countFault ln cause core sn pc v) :=
  p.keepsFates_setLaunch rfl rfl

theorem Pkg.keepsFates_asyncTo (u cause : Nat) (v : X) : p.KeepsFates (p.asyncTo u cause v) := by
  unfold asyncTo
  split
  · exact .refl p
  · dsimp only
    split
    · exact .refl p
    · split
      · exact .of_same rfl rfl
      · split
        · exact .of_same rfl rfl
        · exact p.keepsFates_countFault _ _ _ _ _ _

theorem Pkg.keepsFates_abandonColl (c : Coll) (cause : Nat) (v : X) (tell : Bool) : p.KeepsFates (p.abandonColl c cause v tell) :=
  (keepsFates_asyncTo _ _ _ _).after rfl rfl

theorem Core.service_releaseCrew (k : Core) (cu : Nat) : (k.releaseCrew cu).service = k.service := rfl

theorem Core.service_dropLaunch (k : Core) (mine ended : Nat → Bool) : (k.dropLaunch mine ended).service = k.service := by
  unfold dropLaunch
  refine List.foldlRecOn (motive := fun q : Core => q.service = k.service) _ _ rfl fun q ih u _ => ?_
  split
  · exact ih
  · exact ih

theorem Core.service_endClaims (k : Core) (cu num : Nat) : (k.endClaims cu num).service = k.service := by
  unfold endClaims
  dsimp only
  split <;> rfl

theorem Pkg.keepsFates_dropPools (sel : PoolOp → Bool) : p.KeepsFates (p.dropPools sel) := .of_same rfl rfl

theorem Pkg.keepsFates_freeEngines : p.KeepsFates p.freeEngines := p.keepsFates_mapCores fun _ _ => rfl

theorem Pkg.keepsFates_mapDropLaunch (mine ended : Nat → Bool) : p.KeepsFates (p.mapCores fun _ k => k.dropLaunch mine ended) :=
  p.keepsFates_mapCores fun _ k => k.service_dropLaunch mine ended

theorem Pkg.keepsFates_abandonQueued (comm : Nat) : p.KeepsFates (p.abandonQueued comm) := .of_same rfl rfl

theorem Pkg.keepsFates_dropCommands (ln : Nat) : p.KeepsFates (p.dropCommands ln) := by
  unfold dropCommands
  dsimp only
  refine .trans ?_ (keepsFates_freeEngines _)
  refine .trans ?_ (.foldl (f := abandonQueued) (fun q comm => q.keepsFates_abandonQueued comm) _ _)
  refine .trans ?_ (.foldl (fun q c => q.keepsFates_abandonColl c _ _ _) _ _)
  have hpools := p.keepsFates_dropPools (fun o => (p.crew o.crew).launch == ln && !o.sent)
  have hcores := keepsFates_mapDropLaunch (p.dropPools (fun o => (p.crew o.crew).launch == ln && !o.sent))
    (fun cu => (p.crew cu).launch == ln) (fun cu => (p.crew cu).st == .ended)
  exact (hpools.trans hcores).before rfl rfl

theorem Pkg.keepsFates_clearValid (er cu : Nat) : p.KeepsFates (p.clearValid er cu) := by
  rw [clearValid]
  have hread := @aside_engRead
  have hwrite := @aside_engWrite
  generalize @Pkg.engRead = read at hread ⊢
  generalize @Pkg.engWrite = write at hwrite ⊢
  -- a lemma over any read and write, so that the kernel evaluates neither
  as_aux_lemma =>
    split
    · rename_i hr
      split
      · rename_i hw
        have hs := (hwrite hw).trans (hread hr)
        exact .of_same (launches_of_standing (standing_of_aside hs)) (cores_of_aside hs)
      · exact .of_same rfl rfl
      · exact .refl p
    · exact .of_same rfl rfl
    · exact .refl p

theorem Pkg.keepsFates_leaveCore (st : Strand) : p.KeepsFates (p.leaveCore st) := by
  unfold leaveCore
  dsimp only
  split
  · exact .refl p
  · exact p.keepsFates_setCore rfl

theorem Pkg.keepsFates_modStrand (u : Nat) (f : Strand → Strand) : p.KeepsFates (p.modStrand u f) := .of_same rfl rfl

theorem Pkg.keepsFates_setCrew (cu : Nat) (c : Crew) : p.KeepsFates (p.setCrew cu c) := .of_same rfl rfl

theorem Pkg.keepsFates_freeSlot (cl n : Nat) : p.KeepsFates (p.freeSlot cl n) := by
  unfold freeSlot
  dsimp only
  split
  · exact .refl p
  · split
    · exact .of_same rfl rfl
    · exact .of_same rfl rfl

theorem Pkg.keepsFates_freeSlots (cl : Nat) (sel : RqSlot → Bool) : p.KeepsFates (p.freeSlots cl sel) := by
  unfold freeSlots
  exact .foldl (fun q n => q.keepsFates_freeSlot cl n) _ _

theorem Pkg.keepsFates_uncache (a n : Nat) : p.KeepsFates (p.uncache a n) := p.keepsFates_mapCores fun _ _ => rfl

theorem Pkg.keepsFates_leaveAll (us : List Nat) : p.KeepsFates (p.leaveAll us) := by
  unfold leaveAll
  refine .foldl (fun q u => ?_) _ _
  split
  · exact q.keepsFates_leaveCore _
  · exact .refl q

theorem Pkg.keepsFates_mapOwn (cl cu num : Nat) (parked : Nat → Bool) : p.KeepsFates (p.mapCores (fun n k =>
    if n / 24 = cl then { (k.endClaims cu num).dropParked parked with armed := k.armed.filter (fun a => a.cmd.crew != cu) } else k)) := by
  refine p.keepsFates_mapCores fun n k => ?_
  split
  · exact k.service_endClaims cu num
  · rfl

theorem Pkg.keepsFates_endCrew (cu : Nat) : p.KeepsFates (p.endCrew cu) := by
  unfold endCrew
  dsimp only
  refine .trans ?_ (keepsFates_setCrew _ _ _)
  have hcaches := fun (q : Pkg) (f : Nat → Nat) (l : List Nat) (n : Nat) =>
    KeepsFates.foldl (f := fun q j => q.uncache (f j) n) (fun q j => q.keepsFates_uncache (f j) n) l q
  refine .trans ?_ (keepsFates_setLaunch _ ?_ ?_)
  · refine .trans ?_ (hcaches _ _ _ _)
    refine .before (.trans ?_ (keepsFates_freeSlots _ _ _)) rfl rfl
    have hleave := p.keepsFates_leaveAll ((p.strands.filter (fun e => e.2.crew == cu)).map (fun e => e.1))
    have hcores := fun q : Pkg => q.keepsFates_mapOwn (p.crew cu).cluster cu q.nextNum
      (fun n => ((q.cluster (p.crew cu).cluster).rq.find? n).elim false (fun r => r.crew == cu))
    exact (hleave.trans (hcores _)).before rfl rfl
  · exact ((hcaches _ _ _ _).failed _).symm
  · exact ((hcaches _ _ _ _).placing _).symm

theorem Pkg.keepsFates_crewOver (cu : Nat) : p.KeepsFates (p.crewOver cu) := by
  unfold crewOver
  split
  · exact p.keepsFates_endCrew cu
  · exact .refl p

/-- A saved crew of the launch is lost, with its strands. -/
def Pkg.loseCrew (p : Pkg) (cu : Nat) : Pkg :=
  ((p.strands.filter (fun e => e.2.crew == cu)).map (fun e => e.1)).foldl (fun p u => match p.strands.find? u with
    | some st => (p.leaveCore st).modStrand u (fun st => { st with run := .ended })
    | none => p) (p.setCrew cu { p.crew cu with st := .lost })

theorem Pkg.keepsFates_loseCrew (cu : Nat) : p.KeepsFates (p.loseCrew cu) := by
  unfold loseCrew
  refine .trans (p.keepsFates_setCrew _ _) (.foldl (fun q u => ?_) _ _)
  split
  · exact (q.keepsFates_leaveCore _).before rfl rfl
  · exact .refl q

/-- What the launch still has on its cores and in its clusters is given up. -/
def Pkg.loseParked (p : Pkg) (mine : Nat → Bool) : Pkg :=
  let parkedOf (cl : Nat) (n : Nat) : Bool := ((p.cluster cl).rq.find? n).elim false (fun r => mine r.crew)
  let p := p.mapCores (fun c k => k.dropParked (parkedOf (c / 24)))
  let p : Pkg := { p with
    clusters := p.clusters.mapVals (fun k => { k with rqWaits := k.rqWaits.filter (fun w => !mine w.crew) })
    unitWaits := p.unitWaits.filter (fun w => !(w.kind == 3 && mine w.strand)) }
  p.clusters.keys.foldl (fun p cl => p.freeSlots cl (fun r => r.waits && mine r.crew)) p

theorem Pkg.keepsFates_loseParked (mine : Nat → Bool) : p.KeepsFates (p.loseParked mine) := by
  unfold loseParked
  dsimp only
  refine .trans ?_ (.foldl (fun q cl => q.keepsFates_freeSlots cl _) _ _)
  have hcores := p.keepsFates_mapCores (f := fun c k =>
    k.dropParked (fun n => ((p.cluster (c / 24)).rq.find? n).elim false (fun r => mine r.crew))) fun _ _ => rfl
  exact hcores.before rfl rfl

/-- A failed launch's records are cleared, its commands discarded, its saved crews lost, those being placed over, and what it parked given up. -/
def Pkg.loseLaunch (p : Pkg) (er ln : Nat) (mine : Nat → Bool) (saved placed : List Nat) : Pkg :=
  (placed.foldl crewOver (saved.foldl loseCrew ((saved.foldl (fun p cu => p.clearValid er cu) p).dropCommands ln))).loseParked mine

theorem Pkg.keepsFates_loseLaunch (er ln : Nat) (mine : Nat → Bool) (saved placed : List Nat) :
    p.KeepsFates (p.loseLaunch er ln mine saved placed) := by
  unfold loseLaunch
  refine .trans ?_ (keepsFates_loseParked _ mine)
  refine .trans ?_ (.foldl (f := crewOver) (fun q cu => q.keepsFates_crewOver cu) placed _)
  refine .trans ?_ (.foldl (f := loseCrew) (fun q cu => q.keepsFates_loseCrew cu) saved _)
  refine .trans ?_ (keepsFates_dropCommands _ ln)
  exact .foldl (f := fun q cu => q.clearValid er cu) (fun q cu => q.keepsFates_clearValid er cu) saved p

theorem Pkg.failLaunch_eq (er ln core : Nat) (h : (p.launch ln).failed = false) : ∃ mine saved placed, p.failLaunch er ln core =
    (p.setLaunch ln { p.launch ln with failed := true, placing := false, failTime := p.time, failCore := core }).loseLaunch er ln mine saved placed := by
  rw [failLaunch, h]
  exact ⟨fun cu => (p.crew cu).launch == ln, (p.crewsOf ln).filter (fun cu => (p.crew cu).isSaved), _, rfl⟩

/-- A launch that fails is placed no more, and no core goes in or out of service for it. -/
theorem Pkg.failLaunch_frame (er ln core : Nat) (h : (p.launch ln).failed = false) : let t := p.failLaunch er ln core
    (t.launch ln).failed = true ∧ (t.launch ln).placing = false ∧ ∀ n, (t.core n).service = (p.core n).service := by
  obtain ⟨mine, saved, placed, heq⟩ := p.failLaunch_eq er ln core h
  have hk := (p.setLaunch ln { p.launch ln with failed := true, placing := false, failTime := p.time, failCore := core }).keepsFates_loseLaunch
    er ln mine saved placed
  rw [← heq] at hk
  refine ⟨(hk.failed ln).trans ?_, (hk.placing ln).trans ?_, hk.service⟩
  · rw [launch_setLaunch, if_pos rfl]
  · rw [launch_setLaunch, if_pos rfl]

/-- Cores are taken out of service (R360). -/
def Pkg.containCores (p : Pkg) (l : List Nat) : Pkg := l.foldl (fun p n => p.setCore n { p.core n with service := .contained }) p

theorem Pkg.containCores_launch (l : List Nat) (n : Nat) : (p.containCores l).launch n = p.launch n :=
  List.foldlRecOn (motive := fun q : Pkg => q.launch n = p.launch n) _ _ rfl fun _ ih _ _ => ih

theorem Pkg.containCores_service {l : List Nat} {n : Nat} (h : n ∈ l) : ((p.containCores l).core n).service = .contained := by
  induction l generalizing p with
  | nil => cases h
  | cons m l ih =>
    by_cases hn : n ∈ l
    · exact ih _ hn
    · have hm : n = m := by simpa [hn] using h
      have hkeep : ∀ q : Pkg, (q.core n).service = .contained → ((q.containCores l).core n).service = .contained := fun q hq =>
        List.foldlRecOn (motive := fun r : Pkg => (r.core n).service = .contained) l _ hq fun r ih k _ => by
          rw [core_setCore]
          split
          · rfl
          · exact ih
      refine hkeep _ ?_
      rw [core_setCore, if_pos hm]

/-- A record that cannot be restored: its launch has failed, and the crew's cores are contained (R361, R362). -/
theorem Pkg.restoreFails_frame (er cu cause : Nat) (h : (p.launch (p.crew cu).launch).failed = false) : let t := p.restoreFails er cu cause
    (t.launch (p.crew cu).launch).failed = true ∧ (t.launch (p.crew cu).launch).placing = false
    ∧ ∀ n ∈ (p.crew cu).cores, (t.core n).service = .contained := by
  have hcount := (p.keepsFates_countFault (p.crew cu).launch cause ((p.crew cu).cores.headD 0) 0 0 (BitVec.ofNat 64 (p.slotOf cu))).failed
    (p.crew cu).launch
  obtain ⟨hf, hp, hs⟩ := failLaunch_frame (containCores _ (p.crew cu).cores) er (p.crew cu).launch ((p.crew cu).cores.headD 0)
    ((congrArg (·.failed) (containCores_launch _ _ _)).trans (hcount.trans h))
  exact ⟨hf, hp, fun n hn => (hs n).trans (containCores_service _ hn)⟩

end

end Sys2Proof.Machine
end

section
/-! SUPPORT. The scrub of a core, and what the write of a record leaves (R179, R367). -/

namespace Sys2Proof.Machine

section
variable (p : Pkg) (c k : Nat)

theorem Pkg.byte_zeroSpad : (p.zeroSpad c).byte k = if spadKey c 0 ≤ k ∧ k < spadKey (c + 1) 0 then 0 else p.byte k := by
  have h := RMap.get_filter p.mem 0 (fun k => !(decide (spadKey c 0 ≤ k) && decide (k < spadKey (c + 1) 0))) k
  rw [byte, byte, zeroSpad]
  simp only at h ⊢
  rw [h]
  by_cases hk : spadKey c 0 ≤ k ∧ k < spadKey (c + 1) 0 <;> simp [hk]

/-- By rewriting: a kernel that unfolds a multiple of 2 ^ 18 counts it down. -/
theorem spadKey_zero : spadKey c 0 = 2 ^ 48 + c * 2 ^ 18 := by rw [spadKey, Nat.add_zero]

variable {p c k}

theorem Pkg.byte_zeroSpad_in {off : Nat} (h : off < 2 ^ 18) : (p.zeroSpad c).byte (2 ^ 48 + c * 2 ^ 18 + off) = 0 := by
  rw [byte_zeroSpad, if_pos]
  rw [spadKey_zero, spadKey_zero, Nat.succ_mul, ← Nat.add_assoc]
  exact ⟨Nat.le_add_right _ _, Nat.add_lt_add_left h _⟩

theorem Pkg.byte_zeroSpad_out (h : ¬(2 ^ 48 + c * 2 ^ 18 ≤ k ∧ k < 2 ^ 48 + (c + 1) * 2 ^ 18)) : (p.zeroSpad c).byte k = p.byte k := by
  rw [byte_zeroSpad, if_neg]
  rw [spadKey_zero, spadKey_zero]
  exact h

end

/-- A contained core is scrubbed. -/
theorem exec_coreScrub {s : State} {n : Nat} (h : (s.pkg.core n).service = .contained) : exec (.coreScrub n) s = .next (s.withPkg
    (((s.pkg.zeroSpad n).clearTiles n).setCore n
      { res := (s.pkg.core n).res, service := if Config.scrubFails s.pkg.tick n then .retired else .inService })) := by
  show execCoreScrub n s = _
  unfold execCoreScrub
  exact if_neg (not_not_intro h)

/-- Its scratchpad is 0, it is in service or retired, and nothing else has changed. -/
theorem exec_coreScrub_frame {s : State} {n : Nat} (h : (s.pkg.core n).service = .contained) :
    ∃ t, exec (.coreScrub n) s = .next (s.withPkg t)
      ∧ (∃ v, (v = .inService ∨ v = .retired) ∧ t.core n = { res := (s.pkg.core n).res, service := v })
      ∧ (∀ off < 2 ^ 18, t.byte (2 ^ 48 + n * 2 ^ 18 + off) = 0) ∧ (∀ m, m ≠ n → t.core m = s.pkg.core m)
      ∧ ∀ a, ¬(2 ^ 48 + n * 2 ^ 18 ≤ a ∧ a < 2 ^ 48 + (n + 1) * 2 ^ 18) → t.byte a = s.pkg.byte a := by
  have hmem := fun k => Pkg.byte_of_mem (p := ((s.pkg.zeroSpad n).clearTiles n).setCore n k) (q := s.pkg.zeroSpad n) rfl
  refine ⟨_, exec_coreScrub h, ⟨_, ?_, by rw [Pkg.core_setCore, if_pos rfl]⟩, fun off hoff => ?_, fun m hm => ?_, fun a ha => ?_⟩
  · split
    · exact .inr rfl
    · exact .inl rfl
  · exact (hmem _ _).trans (Pkg.byte_zeroSpad_in hoff)
  · rw [Pkg.core_setCore, if_neg hm]
    rfl
  · exact (hmem _ _).trans (Pkg.byte_zeroSpad_out ha)

/-- The write of a record touches no strand and no crew. -/
theorem standing_record {er cu va size : Nat} {pcie ok : Bool} {p p1 : Pkg}
    (h : saveBody er pcie cu va size (p.wakeDirty cu) = (p1, ok)) : p1.standing = p.standing := by
  have hbody := Pkg.standing_of_aside (Pkg.aside_saveBody (er := er) (pcie := pcie) (cu := cu) (va := va) (size := size) (p := p.wakeDirty cu))
  rw [h] at hbody
  exact hbody.trans (p.standing_wakeDirty cu)

end Sys2Proof.Machine
end

section
/-! X (O55). -/

namespace Sys2Proof.Machine

/-- Settles O55, event by event: the deadline, the save and its retry, the restore and the scrub. -/
theorem crewsAreSavedAndRestored : Obligations.CrewsAreSavedAndRestored := by
  unfold Obligations.CrewsAreSavedAndRestored
  intro s cu
  refine fun hrun => ⟨fun hst hreq hdl hl => ⟨fun hy => ?deadline, fun hy => ?yielding⟩,
    fun forced hst hl hd hu hb => ⟨fun hv => ?resident, fun hv => ⟨?saved, ?abandoned⟩⟩,
    fun forced hst => ⟨exec_saveRetry_again hrun hst, exec_saveRetry_waits hst⟩, fun p hst hb hr ha => ?restored, fun hst => exec_crewRestore_busy,
    fun h p hr hbad => Pkg.readRecord_bad hr hbad, fun cause hst hb hr hl => ?refused, fun n => exec_coreScrub_frame⟩
  case deadline => exact exec_deadlineExpiry_due hrun ((Pkg.due_iff hst hreq hdl hl).mpr hy)
  case yielding =>
    refine exec_deadlineExpiry_waits (Bool.eq_false_iff.mpr fun hdue => ?_)
    exact (Pkg.due_iff hst hreq hdl hl).mp hdue hy
  case resident =>
    rw [exec_crewSave hrun hst hl hd hu hb, if_pos hv, Crew.unask, hst]
  case saved =>
    intro p1 p2 hbody hsz hn hhead
    rw [exec_crewSave hrun hst hl hd hu hb, if_neg (by simp [hv])]
    rw [← saveHeader_eq] at hhead
    have hkeep : p2.standing = s.pkg.standing := (Pkg.standing_of_aside (Pkg.aside_savePage hhead)).trans (standing_record hbody)
    obtain ⟨c', hf, hrest⟩ := State.saveCrew_frame (forced := forced) (cu := cu) hkeep
    exact ⟨_, c', congrArg _ (State.saveCrew_done hbody hsz hn hhead), hf, hrest⟩
  case abandoned =>
    intro p1 hbody hfails
    rw [exec_crewSave hrun hst hl hd hu hb, if_neg (by simp [hv]), State.saveCrew_abandoned hbody]
    have hc : p1.crew cu = s.pkg.crew cu := Pkg.crew_of_standing (standing_record hbody) cu
    obtain ⟨t, c', heq, hf, hst', hfl, hse⟩ := State.abandonSave_retry (s := s.withPkg p1) (forced := forced) (hc ▸ hfails)
    exact ⟨t, c', congrArg _ heq, hf, hst', hfl.trans (by rw [← hc]; rfl), hse⟩
  case restored =>
    obtain ⟨⟨c', hf, hst', himg⟩, hholds, hstrand⟩ := (Pkg.rouses_readRecord hr).reinstate s.er cu ha
    exact ⟨_, c', exec_crewRestore_ok hrun hst hb hr, hf, hst', himg, hholds, hstrand⟩
  case refused => exact ⟨_, exec_crewRestore_error hrun hst hb hr, s.pkg.restoreFails_frame s.er cu cause hl⟩

end Sys2Proof.Machine
end

section
/-! SUPPORT. Numbers of a format (R67 to R69): the bounds, what wrapping and clamping leave, and when they leave a value alone. -/

namespace Sys2Proof.Machine

theorem two_pow_pred {w : Nat} (hw : 0 < w) : (2 : Int) ^ w = 2 * 2 ^ (w - 1) := by
  rw [← Int.pow_succ', Nat.sub_add_cancel hw]

/-- The bounds as powers of the integer 2, signed and unsigned. -/
theorem fmtMin_eq (sg : Bool) (w : Nat) : fmtMin sg w = if sg then -2 ^ (w - 1) else 0 := by
  simp only [fmtMin, Nat.cast_pow, Nat.cast_ofNat]

theorem fmtMax_eq (sg : Bool) (w : Nat) : fmtMax sg w = (if sg then 2 ^ (w - 1) else 2 ^ w) - 1 := by
  cases sg <;> simp [fmtMax]

theorem fmtMin_le_zero (sg : Bool) (w : Nat) : fmtMin sg w ≤ 0 := by
  have : (0 : Int) < 2 ^ (w - 1) := by positivity
  rw [fmtMin_eq]
  split <;> omega

theorem zero_le_fmtMax (sg : Bool) (w : Nat) : 0 ≤ fmtMax sg w := by
  have h1 : (0 : Int) < 2 ^ (w - 1) := by positivity
  have h2 : (0 : Int) < 2 ^ w := by positivity
  rw [fmtMax_eq]
  split <;> omega

/-- v is a value of the format. -/
abbrev InFmt (sg : Bool) (w : Nat) (v : Int) : Prop := fmtMin sg w ≤ v ∧ v ≤ fmtMax sg w

theorem satTo_eq (sg : Bool) (w : Nat) (v : Int) : satTo sg w v = max (fmtMin sg w) (min (fmtMax sg w) v) := by
  have := fmtMin_le_zero sg w
  have := zero_le_fmtMax sg w
  unfold satTo
  grind

/-- Saturation leaves the values of the format as they are. -/
theorem satTo_of_inFmt {sg : Bool} {w : Nat} {v : Int} (h : InFmt sg w v) : satTo sg w v = v := by
  rw [satTo_eq, min_eq_right h.2, max_eq_right h.1]

theorem satTo_of_lt {sg : Bool} {w : Nat} {v : Int} (h : v < fmtMin sg w) : satTo sg w v = fmtMin sg w := if_pos h

theorem satTo_of_gt {sg : Bool} {w : Nat} {v : Int} (h : fmtMax sg w < v) : satTo sg w v = fmtMax sg w := by
  have := fmtMin_le_zero sg w
  have := zero_le_fmtMax sg w
  rw [satTo, if_neg (by omega), if_pos h]

theorem wrapBits_lt (w : Nat) (v : Int) : wrapBits w v < 2 ^ w := by
  have h : (0 : Int) < (2 ^ w : Nat) := by positivity
  have := Int.emod_lt_of_pos v h
  unfold wrapBits
  omega

theorem wrapBits_cast (w : Nat) (v : Int) : (wrapBits w v : Int) = v % 2 ^ w := by
  rw [wrapBits, Int.toNat_of_nonneg (Int.emod_nonneg _ (by positivity))]
  simp

/-- Equal remainders wrap to equal patterns. -/
theorem wrapBits_congr {w : Nat} {u v : Int} (h : u % 2 ^ w = v % 2 ^ w) : wrapBits w u = wrapBits w v := by
  have := wrapBits_cast w u
  have := wrapBits_cast w v
  omega

/-- w bits read in a format give one of its values. -/
theorem inFmt_readFmt {sg : Bool} {w n : Nat} (hw : 0 < w) (hn : n < 2 ^ w) : InFmt sg w (readFmt sg w n) := by
  have hn' : (n : Int) < 2 ^ w := by exact_mod_cast hn
  have hp := two_pow_pred hw
  have hpos : (0 : Int) < 2 ^ (w - 1) := by positivity
  rw [InFmt, fmtMin_eq, fmtMax_eq, readFmt]
  cases sg with
  | false => simp; omega
  | true =>
    simp only [Bool.true_and, decide_eq_true_eq, ← Int.ofNat_le, Nat.cast_pow, Nat.cast_ofNat, if_true]
    split <;> omega

theorem readFmt_emod (sg : Bool) (w n : Nat) : readFmt sg w n % 2 ^ w = (n : Int) % 2 ^ w := by
  unfold readFmt
  split
  · rw [Nat.cast_pow, Nat.cast_ofNat, Int.sub_emod_right]
  · rfl

/-- What wrapping leaves differs from the value by a multiple of 2^w. -/
theorem readFmt_wrapBits_emod (sg : Bool) (w : Nat) (v : Int) : readFmt sg w (wrapBits w v) % 2 ^ w = v % 2 ^ w := by
  rw [readFmt_emod, wrapBits_cast, Int.emod_emod_of_dvd _ (dvd_refl _)]

end Sys2Proof.Machine
end

section
/-! SUPPORT. Shifts and roundings (R71, R73): the cut of the counts at 256 changes nothing that the rules leave to be seen. -/

namespace Sys2Proof.Machine

theorem asr_eq {n : Nat} (h : n ≤ 256) (v : Int) : asr v n = v / 2 ^ n := by simp [asr, shCap, Nat.min_eq_left h]

theorem shlI_eq {n : Nat} (h : n ≤ 256) (v : Int) : shlI v n = v * 2 ^ n := by simp [shlI, shCap, Nat.min_eq_left h]

theorem rne_left {v s : Int} (hs : s ≤ 0) (h : -256 ≤ s) : rne v s = v * 2 ^ (-s).toNat := by
  rw [rne, if_pos hs, shlI_eq (by omega)]

/-- Rounding to even by any count is that of the spec by the count cut at 256. -/
theorem rne_right {v s : Int} (hs : 0 < s) : rne v s = Spec.rnd v (min s 256) := by
  have hn : shCap s.toNat = (min s 256).toNat := by unfold shCap; omega
  obtain ⟨n, hn'⟩ : ∃ n, (min s 256).toNat = n + 1 := ⟨(min s 256).toNat - 1, by omega⟩
  have hfrac : v - v / 2 ^ (n + 1) * 2 ^ (n + 1) = v % 2 ^ (n + 1) := by rw [Int.emod_def]; ring
  have htwo : (2 : Int) ^ (n + 1) = 2 * 2 ^ n := Int.pow_succ' ..
  simp only [rne, Spec.rnd, if_neg (show ¬ s ≤ 0 by omega), if_neg (show ¬ min s 256 ≤ 0 by omega), hn, hn',
    asr_eq (show n + 1 ≤ 256 by omega), Nat.cast_pow, Nat.cast_ofNat, hfrac, Nat.add_sub_cancel]
  refine if_congr ?_ rfl rfl
  omega

/-- A count of at most 256 is not cut. -/
theorem rne_eq_rnd {v s : Int} (h : -256 ≤ s) (h' : s ≤ 256) : rne v s = Spec.rnd v s := by
  by_cases hs : s ≤ 0
  · rw [rne_left hs h, Spec.rnd, if_pos hs]
  · rw [rne_right (by omega), min_eq_left h']

/-- A quotient and a remainder by a power that the value does not reach. -/
theorem small_div_mod {v : Int} {n : Nat} (h : |v| < 2 ^ n) :
    (0 ≤ v ∧ v / 2 ^ n = 0 ∧ v % 2 ^ n = v) ∨ (v < 0 ∧ v / 2 ^ n = -1 ∧ v % 2 ^ n = 2 ^ n + v) := by
  obtain ⟨hlo, hhi⟩ := abs_lt.mp h
  rcases Int.lt_or_le v 0 with hv | hv
  · refine .inr ⟨hv, ?_, ?_⟩
    · exact Int.ediv_eq_neg_one_of_neg_of_le hv (by omega)
    · rw [← Int.add_emod_left, Int.emod_eq_of_lt] <;> omega
  · exact .inl ⟨hv, Int.ediv_eq_zero_of_lt hv hhi, Int.emod_eq_of_lt hv hhi⟩

/-- A value below half the unit of the rounding rounds to 0. -/
theorem rnd_small {v s : Int} (hs : 0 < s) (h : 2 * |v| < 2 ^ s.toNat) : Spec.rnd v s = 0 := by
  rw [Spec.rnd, if_neg (by omega)]
  obtain ⟨hlo, hhi⟩ := abs_lt.mp (show |v| < 2 ^ s.toNat by have := abs_nonneg v; omega)
  rcases small_div_mod (show |v| < 2 ^ s.toNat by have := abs_nonneg v; omega) with ⟨hv, hd, hm⟩ | ⟨hv, hd, hm⟩
  · rw [abs_of_nonneg hv] at h
    simp only [hd, hm]
    grind
  · rw [abs_of_neg hv] at h
    simp only [hd, hm]
    grind

theorem pow_le_pow_256 {s : Int} (h : 256 < s) : (2 : Int) ^ (256 : Int).toNat ≤ 2 ^ s.toNat := pow_le_pow_right₀ (by norm_num) (by omega)

/-- A value of the 200 bits that the rules reach rounds as in the spec by every count to the right. -/
theorem rne_eq_rnd_of_small {v s : Int} (hv : |v| < 2 ^ 200) (hs : 0 < s) : rne v s = Spec.rnd v s := by
  rcases Int.lt_or_le 256 s with h | h
  · have hcut : 2 * |v| < 2 ^ (256 : Int).toNat := by
      have : (2 : Int) ^ (256 : Int).toNat = 2 ^ 256 := rfl
      omega
    rw [rne_right hs, min_eq_right h.le, rnd_small (by decide) hcut, rnd_small hs (hcut.trans_le (pow_le_pow_256 h))]
  · exact rne_eq_rnd (by omega) h

/-- STOCH(v, s, key) by a count to the right (R73). -/
def stochAt (v : Int) (s key : Nat) : Int := v / 2 ^ s + if (mix32 key : Int) < v % 2 ^ s * 2 ^ 32 / 2 ^ s then 1 else 0

/-- The 32 bits of the fraction, wherever it is cut. -/
theorem frac32_eq {r : Int} {n : Nat} (h : n ≤ 256) :
    (if n ≤ 32 then shlI r (32 - n) else asr r (n - 32)) = r * 2 ^ 32 / 2 ^ n := by
  have hpos (k : Nat) : (2 : Int) ^ k ≠ 0 := by positivity
  split
  case isTrue hn =>
    rw [shlI_eq (by omega), show (2 : Int) ^ 32 = 2 ^ (32 - n) * 2 ^ n by rw [← pow_add]; congr 1; omega, ← mul_assoc,
      Int.mul_ediv_cancel _ (hpos n)]
  case isFalse hn =>
    rw [asr_eq (by omega), show (2 : Int) ^ n = 2 ^ (n - 32) * 2 ^ 32 by rw [← pow_add]; congr 1; omega,
      Int.mul_ediv_mul_of_pos_left _ _ (by positivity)]

theorem stoch_eq_cut {v : Int} {s key : Nat} (hs : 0 < s) : stoch v s key = stochAt v (min s 256) key := by
  have hfrac (n : Nat) : v - v / 2 ^ n * 2 ^ n = v % 2 ^ n := by rw [Int.emod_def]; ring
  have hcap : shCap s = min s 256 := rfl
  simp only [stoch, stochAt, if_neg (show ¬ (s : Int) ≤ 0 by omega), Int.toNat_natCast, hcap, asr_eq (Nat.min_le_right s 256), Nat.cast_pow,
    Nat.cast_ofNat, hfrac, frac32_eq (Nat.min_le_right s 256)]
  split <;> simp

/-- Far to the right of a value the fraction's 32 bits are all 0, or all 1 below 0. -/
theorem stochAt_far {v : Int} {s key : Nat} (h : |v| * 2 ^ 32 < 2 ^ s) :
    stochAt v s key = if 0 ≤ v then 0 else if (mix32 key : Int) < 2 ^ 32 - 1 then 0 else -1 := by
  have hmix : (0 : Int) ≤ mix32 key := Int.natCast_nonneg _
  have hv' : |v * 2 ^ 32| < 2 ^ s := by rwa [abs_mul, abs_of_pos (show (0 : Int) < 2 ^ 32 by positivity)]
  have hlt : |v| < 2 ^ s := (le_mul_of_one_le_right (abs_nonneg v) (by norm_num)).trans_lt h
  have hpos : (2 : Int) ^ s ≠ 0 := by positivity
  rcases small_div_mod hlt with ⟨hv, hd, hm⟩ | ⟨hv, hd, hm⟩
  · have hf : v * 2 ^ 32 / 2 ^ s = 0 := by rcases small_div_mod hv' with h | h <;> norm_num at * <;> omega
    rw [stochAt, hd, hm, hf, if_pos hv, if_neg (by omega)]
    rfl
  · have hf : (2 ^ s + v) * 2 ^ 32 / 2 ^ s = 2 ^ 32 - 1 := by
      rw [add_mul, mul_comm (2 ^ s), add_comm, Int.add_mul_ediv_right _ _ hpos]
      rcases small_div_mod hv' with h | h <;> norm_num at * <;> omega
    rw [stochAt, hd, hm, hf, if_neg (show ¬ 0 ≤ v by omega)]
    split <;> rfl

theorem stoch_eq_stochAt {v : Int} {s key : Nat} (hv : |v| < 2 ^ 200) (hs : 0 < s) : stoch v s key = stochAt v s key := by
  rw [stoch_eq_cut hs]
  rcases Nat.lt_or_ge 256 s with h | h
  · have : (2 : Int) ^ 256 ≤ 2 ^ s := pow_le_pow_right₀ (by norm_num) h.le
    rw [Nat.min_eq_right h.le, stochAt_far (by norm_num at *; omega), stochAt_far (by norm_num at *; omega)]
  · rw [Nat.min_eq_left h]

end Sys2Proof.Machine
end

section
/-! SUPPORT. The census (R76), MIX32 (R74) and the function routines (R81 to R86) beside their pseudocode. -/

namespace Sys2Proof.Machine

/-! ### The census -/

theorem clzW_eq (w n : Nat) : clzW w n = w - Nat.size n := by
  unfold clzW
  split
  case isTrue h => rw [h, Nat.size_zero, Nat.sub_zero]
  case isFalse h =>
    have hsize : Nat.size n = n.log2 + 1 :=
      Nat.le_antisymm (Nat.size_le.2 Nat.lt_log2_self) (Nat.lt_size.2 (Nat.log2_self_le h))
    omega

theorem countP_range_lt (n m : Nat) : (List.range n).countP (fun k => decide (k < m)) = min n m := by
  induction n with
  | zero => simp
  | succ n ih =>
    rw [List.range_succ, List.countP_append, ih, List.countP_singleton]
    simp only [decide_eq_true_eq]
    split <;> omega

/-- The counts k below n by which b bits can be shortened and still hold m. -/
theorem countP_fits {n b m : Nat} (hn : n ≤ b + 1) (p : Nat → Bool) (hp : ∀ k, p k = true ↔ m < 2 ^ (b - k)) :
    (List.range n).countP p = min n (b + 1 - Nat.size m) := by
  rw [← countP_range_lt]
  refine List.countP_congr fun k hk => ?_
  rw [List.mem_range] at hk
  rw [hp k, ← Nat.size_le, decide_eq_true_eq]
  omega

/-- The magnitude whose leading zeros are the redundant sign bits of a signed value. -/
def signMag (v : Int) : Nat := if v < 0 then (-v - 1).toNat else v.toNat

theorem signMag_lt_iff (v : Int) (n : Nat) : signMag v < 2 ^ n ↔ -2 ^ n ≤ v ∧ v < 2 ^ n := by
  have hpos : (0 : Int) < 2 ^ n := by positivity
  rw [← Int.ofNat_lt, Nat.cast_pow, Nat.cast_ofNat, signMag]
  split <;> omega

theorem rsb_signed_eq_count {w : Nat} (hw : 1 < w) (v : Int) :
    rsb true w v = (List.range (w - 1)).countP (fun k => decide (-(2 ^ (w - 2 - k)) ≤ v ∧ v < 2 ^ (w - 2 - k))) := by
  have hrsb : rsb true w v = clzW (w - 1) (signMag v) := rfl
  rw [hrsb, clzW_eq, countP_fits (b := w - 2) (m := signMag v) (by omega) _ fun k => by rw [decide_eq_true_eq, signMag_lt_iff]]
  omega

theorem rsb_unsigned_eq_count {w : Nat} {v : Int} (hw : 1 < w) (h0 : 0 ≤ v) :
    rsb false w v = (List.range (w - 1)).countP (fun k => decide (v < 2 ^ (w - 1 - k))) := by
  obtain ⟨m, rfl⟩ := Int.eq_ofNat_of_zero_le h0
  have hrsb : rsb false w m = min (w - 1) (clzW w m) := rfl
  rw [hrsb, clzW_eq, countP_fits (b := w - 1) (m := m) (by omega) _ fun k => by rw [decide_eq_true_eq]; exact_mod_cast Iff.rfl]
  omega

/-! ### MIX32 -/

theorem toNat_xorshift (x : BitVec 32) (n : Nat) : (x ^^^ (x >>> n)).toNat = x.toNat ^^^ (x.toNat / 2 ^ n) := by
  rw [BitVec.toNat_xor, BitVec.toNat_ushiftRight, Nat.shiftRight_eq_div_pow]

theorem toNat_mul_const (x : BitVec 32) (c : Nat) : (x * BitVec.ofNat 32 c).toNat = x.toNat * c % 2 ^ 32 := by
  rw [BitVec.toNat_mul, BitVec.toNat_ofNat, Nat.mul_mod_mod]

theorem mix32_eq (k : Nat) : mix32 k = (Spec.mix (BitVec.ofNat 32 k)).toNat := by
  unfold mix32 Spec.mix
  dsimp only
  rw [toNat_xorshift, toNat_mul_const, toNat_xorshift, toNat_mul_const, toNat_xorshift, BitVec.toNat_ofNat]

/-! ### The function routines -/

theorem scaled_mem {f c : Int} (hf : 0 ≤ f) (hf' : f ≤ 2 ^ 15) (hc : 0 ≤ c) : 0 ≤ f * c / 2 ^ 15 ∧ f * c / 2 ^ 15 ≤ c := by
  refine ⟨Int.ediv_nonneg (mul_nonneg hf hc) (by norm_num), ?_⟩
  calc f * c / 2 ^ 15 ≤ 2 ^ 15 * c / 2 ^ 15 := Int.ediv_le_ediv (by norm_num) (mul_le_mul_of_nonneg_right hf' hc)
    _ = c := Int.mul_ediv_cancel_left _ (by norm_num)

/-- The mantissa of EXP2_Q16 from the 15 bits of the fraction (R82, R83). -/
def expMant (f : Int) : Int := 0x8000 + f * (22800 + f * (7406 + f * 2562 / 2 ^ 15) / 2 ^ 15) / 2 ^ 15

theorem expMant_mem {f : Int} (hf : 0 ≤ f) (hf' : f ≤ 2 ^ 15) : 0x8000 ≤ expMant f ∧ expMant f ≤ 0x20000 := by
  have h1 := scaled_mem hf hf' (c := 2562) (by norm_num)
  have h2 := scaled_mem hf hf' (c := 7406 + f * 2562 / 2 ^ 15) (by omega)
  have h3 := scaled_mem hf hf' (c := 22800 + f * (7406 + f * 2562 / 2 ^ 15) / 2 ^ 15) (by omega)
  unfold expMant
  omega

/-- EXP2_Q16 shifts its mantissa by an exponent of any size: far to the left it overflows with the cut and without it. -/
theorem exp2Q16_eq (x : Int) : exp2Q16 x = Spec.exp2 x := by
  have hf : x - x / 2 ^ 16 * 65536 = x % 2 ^ 16 := by rw [Int.emod_def]; ring
  obtain ⟨hlo, hhi⟩ := expMant_mem (f := x % 2 ^ 16 / 2) (by omega) (by omega)
  have habs : |expMant (x % 2 ^ 16 / 2)| < 2 ^ 200 := by rw [abs_of_nonneg (by omega)]; omega
  have hmodel : exp2Q16 x = if rne (expMant (x % 2 ^ 16 / 2)) (-(x / 2 ^ 16 + 1)) > 2 ^ 31 - 1 then (2 ^ 31 - 1, true)
      else (rne (expMant (x % 2 ^ 16 / 2)) (-(x / 2 ^ 16 + 1)), false) := by
    simp only [exp2Q16, expMant, asr_eq (show 16 ≤ 256 by decide), asr_eq (show 1 ≤ 256 by decide), asr_eq (show 15 ≤ 256 by decide), hf,
      pow_one]
    rfl
  have hspec : Spec.exp2 x = if Spec.rnd (expMant (x % 2 ^ 16 / 2)) (-(x / 2 ^ 16 + 1)) > 2 ^ 31 - 1 then (2 ^ 31 - 1, true)
      else (Spec.rnd (expMant (x % 2 ^ 16 / 2)) (-(x / 2 ^ 16 + 1)), false) := rfl
  rw [hmodel, hspec]
  generalize expMant (x % 2 ^ 16 / 2) = p at *
  generalize -(x / 2 ^ 16 + 1) = s
  rcases Int.lt_or_le s (-256) with hs | hs
  · have hbig : ∀ n : Nat, 16 ≤ n → 2 ^ 31 - 1 < p * 2 ^ n := fun n hn => by
      have h1 : p * 2 ^ 16 ≤ p * 2 ^ n := mul_le_mul_of_nonneg_left (pow_le_pow_right₀ (by norm_num) hn) (by omega)
      omega
    have hrne : rne p s = p * 2 ^ 256 := by
      have hcap : shCap (-s).toNat = 256 := by unfold shCap; omega
      rw [rne, if_pos (by omega), shlI, hcap, Nat.cast_pow, Nat.cast_ofNat]
    have hrnd : Spec.rnd p s = p * 2 ^ (-s).toNat := if_pos (by omega)
    rw [hrne, hrnd, if_pos (hbig _ (by norm_num)), if_pos (hbig _ (by omega))]
  · rcases Int.lt_or_le 0 s with hpos | hpos
    · rw [rne_eq_rnd_of_small habs hpos]
    · rw [rne_eq_rnd hs (by omega)]

theorem clz32_eq (x : Int) : clz32 x = Spec.clz x := clzW_eq 32 _

theorem clz_le (x : Int) : Spec.clz x ≤ 32 := Nat.sub_le _ _

theorem log2Step_thrice (m y : Int) : log2Step m (log2Step m (log2Step m y)) =
    Spec.thrice (fun y => y + (m * (Spec.exp2 (-(y / 2 ^ 14))).1 / 2 ^ 16 - 2 ^ 30) * 0x5C551D95 / 2 ^ 30) y := by
  have hstep : log2Step m = fun y => y + (m * (Spec.exp2 (-(y / 2 ^ 14))).1 / 2 ^ 16 - 2 ^ 30) * 0x5C551D95 / 2 ^ 30 := by
    funext y
    simp only [log2Step, exp2Q16_eq, asr_eq (show 14 ≤ 256 by decide), asr_eq (show 16 ≤ 256 by decide), asr_eq (show 30 ≤ 256 by decide)]
  rw [hstep]
  rfl

theorem log2Q16_eq (x : Int) : log2Q16 x = Spec.log2 x := by
  have hc := clz_le x
  unfold log2Q16 Spec.log2
  simp only [clz32_eq, log2Step_thrice, shlI_eq (show Spec.clz x ≤ 256 by omega), asr_eq (show 1 ≤ 256 by decide), pow_one,
    rne_eq_rnd (show -256 ≤ 14 by decide) (show 14 ≤ 256 by decide)]
  rfl

/-- A result saturated to s32, and its mark. -/
theorem satTo_32_marked (g : Int) : (satTo true 32 g, satTo true 32 g != g) =
    (max (-2 ^ 31) (min (2 ^ 31 - 1) g), decide (max (-2 ^ 31) (min (2 ^ 31 - 1) g) ≠ g)) := by
  rw [satTo_signed, bne, beq_eq_decide, ← decide_not]
  rfl

theorem rcpStep_thrice (m z : Int) : rcpStep m (rcpStep m (rcpStep m z)) =
    Spec.thrice (fun z => z + z * (2 ^ 30 - m * z / 2 ^ 30) / 2 ^ 30) z := by
  simp only [rcpStep, asr_eq (show 30 ≤ 256 by decide), Spec.thrice]

theorem divq_eq {s : Int} (hs : -64 ≤ s) (hs' : s ≤ 127) (a b : Int) : divq a b s = Spec.quot a b s := by
  have hc := clz_le |b|
  have hsign : (decide (a < 0) != decide (b < 0)) = true ↔ (a < 0) ≠ (b < 0) := by
    by_cases ha : a < 0 <;> by_cases hb : b < 0 <;> simp [ha, hb]
  simp only [divq, Spec.quot, rcpn, rcpStep_thrice, clz32_eq, Int.natCast_natAbs, satTo_32_marked, hsign,
    shlI_eq (show Spec.clz |b| ≤ 256 by omega), asr_eq (show 2 ≤ 256 by decide), asr_eq (show 30 ≤ 256 by decide),
    rne_eq_rnd (show -256 ≤ 62 - (Spec.clz |b| : Int) - s by omega) (show 62 - (Spec.clz |b| : Int) - s ≤ 256 by omega)]
  rfl

theorem rsqStep_thrice (m z : Int) : rsqStep m (rsqStep m (rsqStep m z)) =
    Spec.thrice (fun z => z * (3 * 2 ^ 30 - m * (z * z / 2 ^ 30) / 2 ^ 30) / 2 ^ 31) z := by
  simp only [rsqStep, asr_eq (show 30 ≤ 256 by decide), asr_eq (show 31 ≤ 256 by decide), Spec.thrice]

theorem rsq_eq {s : Int} (hs : -64 ≤ s) (hs' : s ≤ 127) (b : Int) : rsq b s = Spec.root b s := by
  have hc := clz_le b
  have heven : Spec.clz b - Spec.clz b % 2 = 2 * (Spec.clz b / 2) := by omega
  simp only [rsq, Spec.root, rsqStep_thrice, clz32_eq, heven, Nat.mul_div_cancel_left _ (show 0 < 2 by decide), satTo_32_marked,
    shlI_eq (show 2 * (Spec.clz b / 2) ≤ 256 by omega), asr_eq (show 2 ≤ 256 by decide), asr_eq (show 30 ≤ 256 by decide),
    rne_eq_rnd (show -256 ≤ 46 - s - ((Spec.clz b / 2 : Nat) : Int) by omega) (show 46 - s - ((Spec.clz b / 2 : Nat) : Int) ≤ 256 by omega)]
  rfl

end Sys2Proof.Machine
end

section
/-! The arithmetic (O19). -/

namespace Sys2Proof.Machine

/-- Settles O19: each primitive is the formula of the spec, and each routine its pseudocode. -/
theorem arithmeticPrimitives : Obligations.ArithmeticPrimitives := by
  unfold Obligations.ArithmeticPrimitives
  refine ⟨fun sg w v _ => satTo_eq sg w v, fun sg w v hw => ?wrap, fun v s hv => ⟨fun hs hs' => rne_left hs hs'.le, fun hs => ?rne⟩,
    fun v s key hv hs => stoch_eq_stochAt hv hs, fun w v hw _ _ => rsb_signed_eq_count hw v, fun w v hw h0 _ => rsb_unsigned_eq_count hw h0,
    mix32_eq, fun x _ _ => exp2Q16_eq x, fun x _ _ => log2Q16_eq x,
    fun a b s _ _ _ _ hs hs' => ⟨divq_eq hs hs' a b, divq_eq hs hs' 1 b, rsq_eq hs hs' b⟩⟩
  case wrap =>
    obtain ⟨hlo, hhi⟩ := inFmt_readFmt (sg := sg) hw (wrapBits_lt w v)
    exact ⟨hlo, hhi, Int.emod_eq_emod_iff_emod_sub_eq_zero.1 (readFmt_wrapBits_emod sg w v)⟩
  case rne => exact (rne_eq_rnd_of_small hv hs).trans (if_neg (not_le.2 hs))

end Sys2Proof.Machine
end

section
/-! SUPPORT. Recording vector instructions: lanes in their type, and the record that the spec's table asks for (R72, R77, R246, R249). -/

namespace Sys2Proof.Machine

/-! ### Elements of a source -/

theorem tyW_pos (t : Nat) : 0 < tyW t := Nat.mul_pos (by decide) (Nat.two_pow_pos _)

theorem Src.lane_lt (s : Src) (w i : Nat) : s.lane w i < 2 ^ w := by
  unfold lane
  split <;> exact Nat.mod_lt _ (Nat.two_pow_pos w)

theorem Src.inFmt_elt (s : Src) (t i : Nat) : InFmt (tySigned t) (tyW t) (s.elt t i) :=
  inFmt_readFmt (tyW_pos t) (s.lane_lt _ i)

/-- A V type is one of eight, of at most 32 bits. -/
theorem tyW_le (t : BitVec 3) : tyW t.toNat ≤ 32 := by
  have : t.toNat / 2 ≤ 3 := by omega
  calc tyW t.toNat ≤ 4 * 2 ^ 3 := Nat.mul_le_mul_left 4 (Nat.pow_le_pow_right (by decide) this)
    _ = 32 := rfl

/-! ### The record -/

/-- The lane value of type ts and its mark, from the exact value x: saturated in type tc, or wrapped. -/
def narrow (sat : Bool) (tc ts : Nat) (x : Int) : Int × Bool :=
  let v := if sat then satTo (tySigned tc) (tyW tc) x else readFmt (tySigned ts) (tyW ts) (wrapBits (tyW ts) x)
  (v, sat && decide (v ≠ x))

theorem satP_eq (t ts : Nat) (x : Int) : satP t x = narrow true t ts x := by
  simp [satP, narrow, bne, beq_eq_decide]

theorem wrapP_eq (t tc : Nat) (x : Int) : wrapP t x = narrow false tc t x := by
  simp [wrapP, narrow]

/-- A value of its type is stored unmarked. -/
theorem narrow_of_inFmt {t ts : Nat} {x : Int} (h : InFmt (tySigned t) (tyW t) x) : (x, false) = narrow true t ts x := by
  simp [narrow, satTo_of_inFmt h]

/-- A value beyond a bound is stored as the bound, marked. -/
theorem narrow_of_gt {t ts : Nat} {x : Int} (h : fmtMax (tySigned t) (tyW t) < x) : (fmtMax (tySigned t) (tyW t), true) = narrow true t ts x := by
  simp [narrow, satTo_of_gt h, h.ne]

theorem narrow_of_lt {t ts : Nat} {x : Int} (h : x < fmtMin (tySigned t) (tyW t)) : (fmtMin (tySigned t) (tyW t), true) = narrow true t ts x := by
  simp [narrow, satTo_of_lt h, h.ne']

theorem ofLanes_congr {w n : Nat} {f g : Nat → Nat} (h : ∀ i < n, f i = g i) : ofLanes w n f = ofLanes w n g := by
  unfold ofLanes
  rw [List.foldl_ext _ _ _ fun acc i hi => by rw [h i (List.mem_range.1 hi)]]

theorem Strand.old_satsIf (st : Strand) (n : Nat) (b : Bool) (d : BitVec 10) : (st.satsIf n b).old d = st.old d := by
  cases b
  · rfl
  · simp only [satsIf, sats, old, getV_setE, if_true]

theorem Strand.old_census (st : Strand) (n : Nat) (l : List Nat) (d : BitVec 10) : (st.census n l).old d = st.old d := by
  unfold census
  split
  · simp only [old, getV_setE]
  · rfl

/-- A recording effect is the record of the spec when each lane of the vector takes the narrowed value. -/
theorem recEff_eq_recorded {o : VOps} {tc ts : Nat} {sat : Bool} {f : List Src → Nat → Int × Bool} {F : Nat → Int} {st : Strand}
    {l : List Src} (h : ∀ i < 512 / tyW ts, f l i = narrow sat tc ts (F i)) :
    recEff o (tySigned ts) (tyW ts) f st l = Spec.recorded st o tc ts sat F := by
  have hon (i : Nat) (hi : i ∈ (List.range (512 / tyW ts)).filter (laneOn (st.getM o.mask.toNat) (tyW ts))) : f l i = narrow sat tc ts (F i) :=
    h i (List.mem_range.1 (List.mem_of_mem_filter hi))
  have hany : ((List.range (512 / tyW ts)).filter (laneOn (st.getM o.mask.toNat) (tyW ts))).any (fun i => (f l i).2) =
      ((List.range (512 / tyW ts)).filter (laneOn (st.getM o.mask.toNat) (tyW ts))).any (fun i => (narrow sat tc ts (F i)).2) := by
    rw [Bool.eq_iff_iff, List.any_eq_true, List.any_eq_true]
    exact exists_congr fun i => and_congr_right fun hi => by rw [hon i hi]
  have hlanes : lanesOut (st.getM o.mask.toNat) (tyW ts) (512 / tyW ts) (st.old o.d) (fun i => wrapBits (tyW ts) (f l i).1) =
      lanesOut (st.getM o.mask.toNat) (tyW ts) (512 / tyW ts) (st.old o.d) (fun i => wrapBits (tyW ts) (narrow sat tc ts (F i)).1) :=
    ofLanes_congr fun i hi => by simp only [h i hi]
  unfold recEff
  dsimp only
  rw [hlanes, hany, List.map_congr_left fun i hi => by rw [hon i hi]]
  simp only [Spec.recorded, narrow, lanesOut, Strand.old_satsIf, Strand.old_census]

/-- A ready slot whose effect reads its sources commits with that effect on them. -/
theorem exec_vSlot {i : Instr} {eff : Strand → List Src → Strand} {s : State} {st : Strand} (he : exec i s = vSlot i eff s)
    (h : SlotReady i s st) : exec i s = .next (s.slotDone i (eff st (st.srcs (foot i).vr))) := by
  rw [he, vSlot, onSlot_ready h]

/-- A ready slot with a recording effect commits with the record of the spec. -/
theorem exec_recEff {i : Instr} {o : VOps} {eff : Strand → List Src → Strand} {f : List Src → Nat → Int × Bool} {s : State} {st : Strand}
    {tc ts : Nat} {sat : Bool} {F : Nat → Int} (he : exec i s = vSlot i eff s)
    (hf : eff st (st.srcs (foot i).vr) = recEff o (tySigned ts) (tyW ts) f st (st.srcs (foot i).vr)) (h : SlotReady i s st)
    (hv : ∀ j, f (st.srcs (foot i).vr) j = narrow sat tc ts (F j)) :
    exec i s = .next (s.slotDone i (Spec.recorded st o tc ts sat F)) := by
  rw [exec_vSlot he h, hf, recEff_eq_recorded fun j _ => hv j]

/-- The same for lanes of the instruction's own type, which are all but VQUANT's. -/
theorem exec_recOp {i : Instr} {o : VOps} {f : List Src → Nat → Int × Bool} {s : State} {st : Strand} {sat : Bool} {F : Nat → Int}
    (hq : i ≠ .vquant o) (he : exec i s = recOp i o f s) (h : SlotReady i s st)
    (hv : ∀ j, f (st.srcs (foot i).vr) j = narrow sat o.ty.toNat o.ty.toNat (F j)) :
    exec i s = .next (s.slotDone i (Spec.recorded st o o.ty.toNat (if i = .vquant o then 6 else o.ty.toNat) sat F)) := by
  rw [if_neg hq]
  exact exec_recEff he rfl h hv

end Sys2Proof.Machine
end

section
/-! SUPPORT. The exact values of the recording instructions (R252, R253, R256, R261): those that keep to their type, and the shifts whose
count is cut. -/

namespace Sys2Proof.Machine

section
variable {sg : Bool} {w : Nat} {a b : Int}

theorem InFmt.min (ha : InFmt sg w a) (hb : InFmt sg w b) : InFmt sg w (min a b) :=
  ⟨le_min ha.1 hb.1, (min_le_left a b).trans ha.2⟩

theorem InFmt.max (ha : InFmt sg w a) (hb : InFmt sg w b) : InFmt sg w (max a b) :=
  ⟨ha.1.trans (le_max_left a b), max_le ha.2 hb.2⟩

theorem InFmt.avg (ha : InFmt sg w a) (hb : InFmt sg w b) : InFmt sg w ((a + b + 1) / 2) := by
  obtain ⟨ha, ha'⟩ := ha
  obtain ⟨hb, hb'⟩ := hb
  exact ⟨by omega, by omega⟩

theorem fmtMax_lt_pow (sg : Bool) (w : Nat) : fmtMax sg w < 2 ^ w := by
  have h : (2 : Int) ^ (w - 1) ≤ 2 ^ w := pow_le_pow_right₀ (by norm_num) (Nat.sub_le w 1)
  rw [fmtMax_eq]
  split <;> omega

theorem neg_pow_le_fmtMin (sg : Bool) (w : Nat) : -2 ^ w ≤ fmtMin sg w := by
  have h : (2 : Int) ^ (w - 1) ≤ 2 ^ w := pow_le_pow_right₀ (by norm_num) (Nat.sub_le w 1)
  have hpos : (0 : Int) < 2 ^ w := by positivity
  rw [fmtMin_eq]
  split <;> omega

theorem InFmt.abs_le_pow (ha : InFmt sg w a) : |a| ≤ 2 ^ w := by
  have := fmtMax_lt_pow sg w
  have := neg_pow_le_fmtMin sg w
  obtain ⟨h, h'⟩ := ha
  exact abs_le.2 ⟨by omega, by omega⟩

/-- A format holds the quotient of one of its values by a positive number. -/
theorem InFmt.ediv (ha : InFmt sg w a) (hb : 0 < b) : InFmt sg w (a / b) := by
  have h0 := fmtMin_le_zero sg w
  have h1 := zero_le_fmtMax sg w
  constructor
  · rw [Int.le_ediv_iff_mul_le hb]
    nlinarith [ha.1]
  · rcases Int.lt_or_le a 0 with h | h
    · exact (Int.ediv_neg_of_neg_of_pos h hb).le.trans h1
    · exact (Int.ediv_le_self b h).trans ha.2

/-- The upper half of a product. -/
theorem InFmt.mulHigh (hw : 0 < w) (ha : InFmt sg w a) (hb : InFmt sg w b) : InFmt sg w (a * b / 2 ^ w) := by
  have hpos : (0 : Int) < 2 ^ (w - 1) := by positivity
  have hp := two_pow_pred hw
  rw [InFmt, fmtMin_eq, fmtMax_eq] at *
  rw [hp] at ha hb ⊢
  generalize (2 : Int) ^ (w - 1) = p at *
  cases sg
  all_goals
    simp only [Bool.false_eq_true, if_true, if_false] at *
    rw [Int.le_ediv_iff_mul_le (by omega), Int.le_sub_one_iff, Int.ediv_lt_iff_lt_mul (by omega)]
    constructor <;> nlinarith

end

/-- A quotient that truncates does not pass the lower bound. -/
theorem InFmt.le_tdiv {sg : Bool} {w : Nat} {a b : Int} (ha : InFmt sg w a) (hb : InFmt sg w b) : fmtMin sg w ≤ a.tdiv b := by
  cases sg with
  | true =>
    have hle : (a.tdiv b).natAbs ≤ a.natAbs := by rw [Int.natAbs_tdiv]; exact Nat.div_le_self _ _
    rw [InFmt, fmtMin_eq, fmtMax_eq] at ha
    rw [fmtMin_eq]
    simp only [if_true] at *
    omega
  | false => exact Int.tdiv_nonneg ha.1 hb.1

theorem divQuot_eq {t : Nat} (ts : Nat) {a b : Int} (ha : InFmt (tySigned t) (tyW t) a) (hb : InFmt (tySigned t) (tyW t) b) :
    divQuot (tySigned t) (tyW t) a b = narrow true t ts (if b = 0 then (if a = 0 then 0 else if 0 < a then fmtMax (tySigned t) (tyW t) + 1
      else fmtMin (tySigned t) (tyW t) - 1) else a.tdiv b) := by
  have h0 : InFmt (tySigned t) (tyW t) 0 := ⟨fmtMin_le_zero _ _, zero_le_fmtMax _ _⟩
  unfold divQuot
  by_cases hb0 : b = 0
  · rw [if_pos hb0, if_pos hb0]
    split
    · exact narrow_of_inFmt h0
    · split
      · exact narrow_of_gt (lt_add_one _)
      · exact narrow_of_lt (sub_one_lt _)
  · rw [if_neg hb0, if_neg hb0]
    dsimp only
    split
    case isTrue h => exact narrow_of_gt h
    case isFalse h => exact narrow_of_inFmt ⟨ha.le_tdiv hb, not_lt.1 h⟩

/-- A shift to the right keeps to the type, and one by 256 or more leaves the sign alone. -/
theorem trunc_eq {t : Nat} (ht : tyW t ≤ 32) {a : Int} (ha : InFmt (tySigned t) (tyW t) a) (n : Nat) :
    (trunc a n, false) = narrow true t t (a / 2 ^ n) := by
  have hcut : trunc a n = a / 2 ^ n := by
    rcases Nat.eq_zero_or_pos n with rfl | hn
    · simp [trunc, shlI_eq]
    have hasr : trunc a n = asr a n := by rw [trunc, if_neg (by omega), Int.toNat_natCast]
    rcases Nat.lt_or_ge 256 n with h | h
    · have hlt : |a| < 2 ^ 256 := ha.abs_le_pow.trans_lt (pow_lt_pow_right₀ (by norm_num) (by omega))
      have hcap : asr a n = a / 2 ^ 256 := by rw [asr, shCap, Nat.min_eq_right h.le, Nat.cast_pow, Nat.cast_ofNat]
      have hlt' : |a| < 2 ^ n := hlt.trans_le (pow_le_pow_right₀ (by norm_num) h.le)
      rw [hasr, hcap]
      rcases small_div_mod hlt with h | h <;> rcases small_div_mod hlt' with h' | h' <;> omega
    · rw [hasr, asr_eq h]
  rw [hcut]
  exact narrow_of_inFmt (ha.ediv (by positivity))

/-- A shift to the left by the width or more wraps to 0. -/
theorem wrapP_shlI {t : Nat} (ht : tyW t ≤ 32) (a : Int) (n : Nat) :
    wrapP t (if tyW t ≤ n then 0 else shlI a n) = narrow false t t (a * 2 ^ n) := by
  rw [← wrapP_eq]
  split
  case isTrue h =>
    have hz : wrapBits (tyW t) 0 = wrapBits (tyW t) (a * 2 ^ n) :=
      wrapBits_congr (by rw [Int.zero_emod, Int.emod_eq_zero_of_dvd ((pow_dvd_pow 2 h).mul_left a)])
    rw [wrapP, wrapP, hz]
  case isFalse h => rw [shlI_eq (by omega)]

theorem wrapP_lshr {t : Nat} (a : Int) (n : Nat) :
    wrapP t (if tyW t ≤ n then 0 else ((wrapBits (tyW t) a / 2 ^ n : Nat) : Int)) = narrow false t t (a % 2 ^ tyW t / 2 ^ n) := by
  have hdiv : ((wrapBits (tyW t) a / 2 ^ n : Nat) : Int) = a % 2 ^ tyW t / 2 ^ n := by
    rw [← wrapBits_cast, Int.natCast_ediv, Nat.cast_pow, Nat.cast_ofNat]
  rw [← wrapP_eq]
  by_cases h : tyW t ≤ n
  case pos =>
    have hz : wrapBits (tyW t) a / 2 ^ n = 0 := Nat.div_eq_of_lt ((wrapBits_lt _ a).trans_le (Nat.pow_le_pow_right (by decide) h))
    rw [if_pos h, ← hdiv, hz]
    rfl
  case neg => rw [if_neg h, hdiv]

/-- A shift to the left saturates alike by a count of 256 and by a greater one. -/
theorem satP_shlI {t : Nat} (ht : tyW t ≤ 32) (a : Int) (n : Nat) : satP t (shlI a n) = narrow true t t (a * 2 ^ n) := by
  rcases Nat.lt_or_ge 256 n with h | h
  · have hcap : shlI a n = a * 2 ^ 256 := by rw [shlI, shCap, Nat.min_eq_right h.le, Nat.cast_pow, Nat.cast_ofNat]
    have hpow : (2 : Int) ^ 256 ≤ 2 ^ n := pow_le_pow_right₀ (by norm_num) h.le
    have hw : (2 : Int) ^ tyW t ≤ 2 ^ 32 := pow_le_pow_right₀ (by norm_num) ht
    have hmin := neg_pow_le_fmtMin (tySigned t) (tyW t)
    have hmax := fmtMax_lt_pow (tySigned t) (tyW t)
    rw [hcap, satP_eq t t]
    rcases lt_trichotomy a 0 with ha | rfl | ha
    · rw [← narrow_of_lt (by nlinarith), ← narrow_of_lt (by nlinarith)]
    · rw [zero_mul, zero_mul]
    · rw [← narrow_of_gt (by nlinarith), ← narrow_of_gt (by nlinarith)]
  · rw [shlI_eq h, satP_eq]

/-- A shift by a signed count: to the left, or rounded to the right. -/
theorem norm_eq {t : Nat} (ht : tyW t ≤ 32) {a : Int} (ha : InFmt (tySigned t) (tyW t) a) {n : Nat} (hn : n < 2 ^ tyW t) :
    (if 0 < readFmt true (tyW t) n then satP t (shlI a (readFmt true (tyW t) n).toNat)
      else if readFmt true (tyW t) n < 0 then satP t (rne a (-readFmt true (tyW t) n)) else (a, false)) =
      narrow true t t (if 0 < (BitVec.ofNat (tyW t) n).toInt then a * 2 ^ (BitVec.ofNat (tyW t) n).toInt.toNat
        else rne a (-(BitVec.ofNat (tyW t) n).toInt)) := by
  rw [readFmt_signed (tyW_pos t) hn]
  generalize (BitVec.ofNat (tyW t) n).toInt = c
  rcases lt_trichotomy c 0 with h | rfl | h
  · rw [if_neg (by omega), if_pos h, if_neg (by omega), satP_eq]
  · have hz : rne a 0 = a := by rw [rne_left le_rfl (by decide)]; simp
    simpa [hz] using narrow_of_inFmt ha
  · rw [if_pos h, if_pos h, satP_shlI ht]

theorem mulHigh_eq {t : Nat} (ht : tyW t ≤ 32) {a b : Int} (ha : InFmt (tySigned t) (tyW t) a) (hb : InFmt (tySigned t) (tyW t) b) :
    (asr (a * b) (tyW t), false) = narrow true t t (a * b / 2 ^ tyW t) := by
  rw [asr_eq (by omega)]
  exact narrow_of_inFmt (.mulHigh (tyW_pos t) ha hb)

theorem avg_eq {t : Nat} {a b : Int} (ha : InFmt (tySigned t) (tyW t) a) (hb : InFmt (tySigned t) (tyW t) b) :
    (asr (a + b + 1) 1, false) = narrow true t t ((a + b + 1) / 2) := by
  rw [asr_eq (by decide)]
  exact narrow_of_inFmt (.avg ha hb)

theorem sum_filter_eq {α : Type} (l : List α) (p : α → Bool) (f : α → Int) :
    ((l.filter p).map f).sum = (l.map (fun x => if p x then f x else 0)).sum := by
  induction l with
  | nil => rfl
  | cons x l ih => by_cases hx : p x = true <;> simp [hx, ih]

/-- A partial sum over the active lanes is one over all lanes with 0 for the others. -/
theorem scan_eq {t : Nat} (base : Int) (l : List Nat) (p : Nat → Bool) (f : Nat → Int) :
    satP t (base + ((l.filter p).map f).sum) = narrow true t t (base + (l.map (fun x => if p x then f x else 0)).sum) := by
  rw [sum_filter_eq, satP_eq]

/-- The type of the same width and the other signedness. -/
theorem Src.elt_otherSign (s : Src) (t i : Nat) :
    s.elt (if t % 2 = 0 then t + 1 else t - 1) i = readFmt (!tySigned t) (tyW t) (s.lane (tyW t) i) := by
  have hw : tyW (if t % 2 = 0 then t + 1 else t - 1) = tyW t := by
    unfold tyW
    congr 2
    split <;> omega
  have hs : tySigned (if t % 2 = 0 then t + 1 else t - 1) = !tySigned t := by
    rcases Nat.mod_two_eq_zero_or_one t with h | h
    · simp [tySigned, h, Nat.add_mod]
    · simp [tySigned, h, show (t - 1) % 2 = 0 by omega]
  rw [elt, hw, hs]

/-- The signed type of twice the width. -/
theorem Src.elt_twice (s : Src) (t i : Nat) : s.elt (t - t % 2 + 2) i = readFmt true (2 * tyW t) (s.lane (2 * tyW t) i) := by
  have hw : tyW (t - t % 2 + 2) = 2 * tyW t := by
    rw [tyW, show (t - t % 2 + 2) / 2 = t / 2 + 1 by omega, tyW, Nat.pow_succ]
    omega
  have hs : tySigned (t - t % 2 + 2) = true := by
    rw [tySigned, show (t - t % 2 + 2) % 2 = 0 by omega]
    rfl
  rw [elt, hw, hs]

/-- The fraction bits of a VMULQ. -/
theorem mulqShift_eq (t : Nat) : (if tySigned t then (tyW t : Int) - 1 else tyW t) = tyW t - if tySigned t then 1 else 0 := by
  split <;> simp

end Sys2Proof.Machine
end

section
/-! Recording vector instructions (O20). -/

namespace Sys2Proof.Machine

/-- The partial sums of a VSCAN read the mask. -/
theorem exec_vscan (o : VOps) (s : State) : exec (.vscan o) s = vSlot (.vscan o) (fun st l =>
    recEff o (tySigned o.ty.toNat) (tyW o.ty.toNat) (fun _ i => satP o.ty.toNat ((srcAt l 1).elt o.ty.toNat 0 +
      (((List.range (i + 1)).filter (laneOn (st.getM o.mask.toNat) (tyW o.ty.toNat))).map (fun j => (srcAt l 0).elt o.ty.toNat j)).sum)) st l) s := by
  unfold exec
  dsimp only [execVscan]

/-- Settles O20, instruction by instruction, by the form in which each narrows its exact value. -/
theorem vectorRecordResults : Obligations.VectorRecordResults := by
  intro i s st o codes sat f hrec h
  cases i
  case vadd | vsub | vmul | vmac => cases hrec; exact exec_recOp nofun rfl h fun j => wrapP_eq _ _ _
  case vadds | vsubs | vneg | vabs | vmacs | vabsd | vshrr | vshrs => cases hrec; exact exec_recOp nofun rfl h fun j => satP_eq _ _ _
  case vmulq =>
    cases hrec
    exact exec_recOp nofun rfl h fun j => (satP_eq _ o.ty.toNat _).trans (congrArg (fun n => narrow true _ _ (rne _ n)) (mulqShift_eq _))
  case vmulh => cases hrec; exact exec_recOp nofun rfl h fun j => mulHigh_eq (tyW_le _) (Src.inFmt_elt _ _ _) (Src.inFmt_elt _ _ _)
  case vavg => cases hrec; exact exec_recOp nofun rfl h fun j => avg_eq (Src.inFmt_elt _ _ _) (Src.inFmt_elt _ _ _)
  case vmin => cases hrec; exact exec_recOp nofun rfl h fun j => narrow_of_inFmt (.min (Src.inFmt_elt _ _ _) (Src.inFmt_elt _ _ _))
  case vmax => cases hrec; exact exec_recOp nofun rfl h fun j => narrow_of_inFmt (.max (Src.inFmt_elt _ _ _) (Src.inFmt_elt _ _ _))
  case vclamp =>
    cases hrec
    exact exec_recOp nofun rfl h fun j => narrow_of_inFmt (.min (.max (Src.inFmt_elt _ _ _) (Src.inFmt_elt _ _ _)) (Src.inFmt_elt _ _ _))
  case vdiv => cases hrec; exact exec_recOp nofun rfl h fun j => divQuot_eq _ (Src.inFmt_elt _ _ _) (Src.inFmt_elt _ _ _)
  case vshl => cases hrec; exact exec_recOp nofun rfl h fun j => wrapP_shlI (tyW_le _) _ _
  case vshr => cases hrec; exact exec_recOp nofun rfl h fun j => wrapP_lshr _ _
  case vsha => cases hrec; exact exec_recOp nofun rfl h fun j => trunc_eq (tyW_le _) (Src.inFmt_elt _ _ _) _
  case vshls => cases hrec; exact exec_recOp nofun rfl h fun j => satP_shlI (tyW_le _) _ _
  case vnorm => cases hrec; exact exec_recOp nofun rfl h fun j => norm_eq (tyW_le _) (Src.inFmt_elt _ _ _) (Src.lane_lt _ _ _)
  case vcvt => cases hrec; exact exec_recOp nofun rfl h fun j => (satP_eq _ o.ty.toNat _).trans (congrArg _ (Src.elt_otherSign _ _ _).symm)
  case vpack => cases hrec; exact exec_recOp nofun rfl h fun j => (satP_eq _ o.ty.toNat _).trans (by simp only [Src.elt_twice]; rfl)
  case vscan =>
    cases hrec
    rw [if_neg nofun]
    exact exec_recEff (exec_vscan o s) rfl h fun j => scan_eq _ _ _ _
  case vquant =>
    cases hrec
    rw [if_pos rfl]
    exact exec_recEff (ts := 6) rfl rfl h fun j => satP_eq _ _ _
  all_goals nomatch hrec

end Sys2Proof.Machine
end

section
/-! SUPPORT. The storage of the matrix engine (R55, R56, R79, R366): tiles and operand slots as read and written, and the words that lose
their errors. -/

namespace Sys2Proof.Machine

/-! ### The head of the queue -/

theorem mxHead_of {s : State} {c : Nat} {e : MxQ} {rest : List MxQ} (hq : (s.pkg.core c).mxq = e :: rest) (hm : (s.pkg.core c).mode = .direct)
    (hs : (s.pkg.core c).service = .inService) (hh : s.pkg.held e.strand 0 e.num = false) (hseal : s.pkg.sealStop (e.strand / 96) c = false) :
    mxHead s c = some e := by
  simp [mxHead, hq, hm, hs, hh, hseal]

theorem Core.popMx_eq {k : Core} {e : MxQ} {rest : List MxQ} (h : k.mxq = e :: rest) : k.popMx = { k with mxq := rest } := by
  rw [popMx, h, List.drop_one, List.tail_cons]

/-! ### Words that lose their errors -/

theorem mem_operKeys {c o q : Nat} : q ∈ operKeys c o ↔ ∃ r < 16, q = poisonOper c o r := by
  simp [operKeys, eq_comm]

theorem mem_tileKeys {c t q : Nat} : q ∈ tileKeys c t ↔ ∃ r < 16, q = poisonTile c t r := by
  simp [tileKeys, eq_comm]

/-- The words of n operand slots from f on. -/
theorem mem_operKeys_range {c f n q : Nat} : q ∈ (List.range n).flatMap (fun i => operKeys c (f + i)) ↔
    ∃ o, f ≤ o ∧ o < f + n ∧ ∃ r < 16, q = poisonOper c o r := by
  simp only [List.mem_flatMap, List.mem_range, mem_operKeys]
  constructor
  · rintro ⟨i, hi, h⟩
    exact ⟨f + i, by omega, by omega, h⟩
  · rintro ⟨o, hf, hn, h⟩
    exact ⟨o - f, by omega, by rwa [Nat.add_sub_cancel' hf]⟩

theorem mem_operKeys_one {c o q : Nat} : q ∈ operKeys c o ↔ ∃ o', o ≤ o' ∧ o' < o + 1 ∧ ∃ r < 16, q = poisonOper c o' r := by
  rw [← mem_operKeys_range]
  simp

theorem mem_tileKeys_mask {c q : Nat} {m : BitVec 16} : q ∈ (maskTiles m).flatMap (tileKeys c) ↔
    ∃ t < 16, m.getLsbD t = true ∧ ∃ r < 16, q = poisonTile c t r := by
  simp [maskTiles, mem_tileKeys, and_assoc]

/-- A package with words mended is the package but for its list of errors, which keeps its order and loses these words. -/
theorem Pkg.mend_frame (p : Pkg) {keys : List Nat} {gone : Nat → Prop} (h : ∀ q, q ∈ keys ↔ gone q) :
    ∃ l, p.mend keys = { p with poison := l } ∧ l.Sublist p.poison ∧ ∀ q, q ∈ l ↔ q ∈ p.poison ∧ ¬ gone q :=
  ⟨_, rfl, List.filter_sublist, fun q => by simp [← h q]⟩

/-! ### Operand slots -/

theorem Core.oper_eq (k : Core) (t o i j : Nat) : k.oper t o i j = Spec.oper k t o i j := by
  unfold oper Spec.oper
  generalize k.opnd.get 0 (o * 256 + i * 16 + j) = b
  have hb : b.toNat % 2 ^ tyW t < 2 ^ tyW t := Nat.mod_lt _ (Nat.two_pow_pos _)
  by_cases ht : t % 2 = 0
  · have hs : tySigned t = true := by simp [tySigned, ht]
    have hset : BitVec.ofNat (tyW t) (b.toNat % 2 ^ tyW t) = b.setWidth (tyW t) := BitVec.eq_of_toNat_eq (by simp)
    rw [hs, readFmt_signed (tyW_pos t) hb, hset, if_pos ht]
  · have hs : tySigned t = false := by simp [tySigned, ht]
    rw [hs, if_neg ht, BitVec.toNat_setWidth]
    rfl

/-- A run of writes from place b on. -/
theorem RMap.get_foldl_zipIdx {α : Type} [DecidableEq α] (d : α) (b : Nat) (l : List α) (i : Nat) (m : RMap α) (x : Nat) :
    ((l.zipIdx i).foldl (fun m e => RMap.set m d (b + e.2) e.1) m).get d x =
      if b + i ≤ x ∧ x < b + i + l.length then l.getD (x - (b + i)) d else m.get d x := by
  induction l generalizing i m with
  | nil =>
    rw [if_neg (by rw [List.length_nil]; omega)]
    rfl
  | cons v l ih =>
    rw [List.zipIdx_cons, List.foldl_cons, ih, List.length_cons]
    rcases lt_trichotomy x (b + i) with hx | rfl | hx
    · rw [if_neg (by omega), if_neg (by omega), RMap.get_set_ne _ _ _ _ _ hx.ne]
    · rw [if_neg (by omega), if_pos (by omega), RMap.get_set_same, Nat.sub_self, List.getD_cons_zero]
    · rw [RMap.get_set_ne _ _ _ _ _ hx.ne']
      refine if_congr (by omega) ?_ rfl
      rw [show x - (b + i) = (x - (b + (i + 1))) + 1 by omega, List.getD_cons_succ]

section
variable (k : Core) (o : Nat) {rows : List (BitVec 16)} (h : rows.length = 256) {x : Nat}
include h

/-- A slot filled with its 256 elements: element x is place x of the list. -/
theorem Core.fillOper_opnd_in (hx : x < 256) : (k.fillOper o rows).opnd.get 0 (o * 256 + x) = rows.getD x 0 := by
  rw [fillOper, RMap.get_foldl_zipIdx, h, if_pos (by omega), Nat.add_zero, Nat.add_sub_cancel_left]

variable {o}

theorem Core.fillOper_opnd_out (hx : x / 256 ≠ o) : (k.fillOper o rows).opnd.get 0 x = k.opnd.get 0 x := by
  rw [fillOper, RMap.get_foldl_zipIdx, h, if_neg (by omega)]

end

/-! ### Tiles -/

theorem clampAcc_eq (s32 : Bool) (v : Int) : clampAcc s32 v = Spec.sats (if s32 then 32 else 56) v := satTo_signed _ v

/-- A saturated value is an element's value. -/
theorem toInt_clampAcc (s32 : Bool) (v : Int) : (BitVec.ofInt 56 (clampAcc s32 v)).toInt = clampAcc s32 v := by
  obtain ⟨hlo, hhi⟩ : -2 ^ 55 ≤ clampAcc s32 v ∧ clampAcc s32 v < 2 ^ 55 := by
    rw [clampAcc_eq, Spec.sats]
    cases s32 <;> simp
  exact BitVec.toInt_ofInt_eq_self (by decide) hlo hhi

/-- Element e of tile t takes the saturated value of v e, and marks TSAT where that is not the value itself. -/
def Core.putElt (t : Nat) (s32 : Bool) (v : Nat → Int) (k : Core) (e : Nat) : Core :=
  let k' := k.setTile t (e / 16) (e % 16) (clampAcc s32 (v e))
  if clampAcc s32 (v e) = v e then k' else k'.setTsat t true

/-- The first n elements of a tile put in turn. -/
theorem Core.foldl_putElt (t : Nat) (s32 : Bool) (v : Nat → Int) (k : Core) (n : Nat) : ∃ acc tsat,
    (List.range n).foldl (putElt t s32 v) k = { k with acc := acc, tsat := tsat }
    ∧ (∀ x, acc.get 0 x = if t * 256 ≤ x ∧ x < t * 256 + n then BitVec.ofInt 56 (clampAcc s32 (v (x - t * 256))) else k.acc.get 0 x)
    ∧ (tsat.get false t = true ↔ k.tsat.get false t = true ∨ ∃ e < n, clampAcc s32 (v e) ≠ v e) := by
  induction n with
  | zero => exact ⟨k.acc, k.tsat, rfl, fun x => by rw [if_neg (by omega)], by simp⟩
  | succ n ih =>
    obtain ⟨acc, tsat, hk, hacc, htsat⟩ := ih
    have hkey : t * 256 + n / 16 * 16 + n % 16 = t * 256 + n := by omega
    have hacc' (x : Nat) : (RMap.set acc 0 (t * 256 + n) (BitVec.ofInt 56 (clampAcc s32 (v n)))).get 0 x =
        if t * 256 ≤ x ∧ x < t * 256 + (n + 1) then BitVec.ofInt 56 (clampAcc s32 (v (x - t * 256))) else k.acc.get 0 x := by
      by_cases hx : x = t * 256 + n
      · rw [hx, RMap.get_set_same, if_pos (by omega), Nat.add_sub_cancel_left]
      · rw [RMap.get_set_ne _ _ _ _ _ hx, hacc]
        exact if_congr (by omega) rfl rfl
    rw [List.range_succ, List.foldl_append, hk, List.foldl_cons, List.foldl_nil, putElt, setTile, hkey]
    by_cases hv : clampAcc s32 (v n) = v n
    · refine ⟨_, tsat, if_pos hv, hacc', htsat.trans (or_congr_right ?_)⟩
      constructor
      · rintro ⟨e, he, h⟩
        exact ⟨e, by omega, h⟩
      · rintro ⟨e, he, h⟩
        exact ⟨e, (Nat.lt_succ_iff_lt_or_eq.1 he).resolve_right (fun hen => h (hen ▸ hv)), h⟩
    · refine ⟨_, RMap.set tsat false t true, if_neg hv, hacc', ?_⟩
      rw [RMap.get_set_same]
      exact iff_of_true rfl (.inr ⟨n, Nat.lt_succ_self n, hv⟩)

/-- The value that a K-step gives element (i, j) before it saturates (R79, R137). -/
def kstepValue (k : Core) (t oA oB : Nat) (tA tB : Bool) (fmt : BitVec 7) (i j : Nat) : Int :=
  let a (x : Nat) : Int := if tA then Spec.oper k (fmt.toNat / 16) oA x i else Spec.oper k (fmt.toNat / 16) oA i x
  let b (x : Nat) : Int := if tB then Spec.oper k (fmt.toNat / 2 % 8) oB j x else Spec.oper k (fmt.toNat / 2 % 8) oB x j
  Spec.tile k t i j + ((List.range 16).map (fun x => a x * b x)).sum

theorem foldl_add_eq_sum (l : List Nat) (f : Nat → Int) (s : Int) : l.foldl (fun s x => s + f x) s = s + (l.map f).sum := by
  induction l generalizing s with
  | nil => simp
  | cons x l ih => rw [List.foldl_cons, ih, List.map_cons, List.sum_cons, Int.add_assoc]

theorem Core.kstep_eq (k : Core) (t oA oB : Nat) (tA tB : Bool) (fmt : BitVec 7) : k.kstep t oA oB tA tB fmt =
    let k' := (List.range 256).foldl (putElt t (fmt.getLsbD 0) (fun e => kstepValue k t oA oB tA tB fmt (e / 16) (e % 16))) k
    { k' with ksteps := RMap.set k'.ksteps 0 t (k'.ksteps.get 0 t + 1) } := by
  have hat : bits fmt 6 4 = fmt.toNat / 16 := by
    have := fmt.isLt
    rw [bits, Nat.shiftRight_eq_div_pow]
    omega
  have hbt : bits fmt 3 1 = fmt.toNat / 2 % 8 := by
    rw [bits, Nat.shiftRight_eq_div_pow]
    rfl
  have hpick (b : Bool) (i x : Nat) : pick2 (ofBit b) i x = if b then (x, i) else (i, x) := by cases b <;> rfl
  have hvalue (i j : Nat) : k.tile t i j + (List.range 16).foldl (fun s x =>
      s + k.oper (bits fmt 6 4) oA (pick2 (ofBit tA) i x).1 (pick2 (ofBit tA) i x).2 *
        k.oper (bits fmt 3 1) oB (pick2 (ofBit tB) x j).1 (pick2 (ofBit tB) x j).2) 0 = kstepValue k t oA oB tA tB fmt i j := by
    rw [foldl_add_eq_sum, Int.zero_add, kstepValue, hat, hbt]
    simp only [oper_eq, hpick]
    cases tA <;> cases tB <;> rfl
  unfold kstep
  simp only [hvalue]
  rfl

theorem Core.foldl_zeroTile (l : List Nat) (k : Core) : l.foldl zeroTile k =
    { k with acc := k.acc.filter (fun e => decide (e.1 / 256 ∉ l)), tsat := l.foldl (fun m t => RMap.set m false t false) k.tsat
             ksteps := l.foldl (fun m t => RMap.set m 0 t 0) k.ksteps } := by
  induction l generalizing k with
  | nil => simp
  | cons t l ih =>
    have hacc : (k.acc.filter (fun e => e.1 / 256 != t)).filter (fun e => decide (e.1 / 256 ∉ l)) =
        k.acc.filter (fun e => decide (e.1 / 256 ∉ t :: l)) := by
      rw [List.filter_filter]
      refine List.filter_congr fun e _ => ?_
      simp [bne, beq_eq_decide, Bool.and_comm]
    rw [List.foldl_cons, ih, ← hacc]
    rfl

end Sys2Proof.Machine
end

section
/-! SUPPORT. The steps of the matrix engine (R79, R136 to R138, R302 to R304, R394): what each leaves of the core and of the errors. -/

namespace Sys2Proof.Machine

/-! ### K-steps -/

theorem exists_elt {p : Nat → Nat → Prop} : (∃ e < 256, p (e / 16) (e % 16)) ↔ ∃ i < 16, ∃ j < 16, p i j := by
  constructor
  · rintro ⟨e, he, h⟩
    exact ⟨e / 16, by omega, e % 16, by omega, h⟩
  · rintro ⟨i, hi, j, hj, h⟩
    refine ⟨16 * i + j, by omega, ?_⟩
    rwa [show (16 * i + j) / 16 = i by omega, show (16 * i + j) % 16 = j by omega]

/-- A K-step writes its tile, its TSAT bit and its count alone. -/
theorem Core.kstep_spec (k : Core) (t oA oB : Nat) (tA tB : Bool) (fmt : BitVec 7) :
    let v := kstepValue k t oA oB tA tB fmt
    let w := if fmt.getLsbD 0 then 32 else 56
    ∃ acc tsat, k.kstep t oA oB tA tB fmt =
      { k with acc := acc, tsat := tsat, ksteps := RMap.set k.ksteps 0 t (k.ksteps.get 0 t + 1) }
    ∧ (∀ i < 16, ∀ j < 16, (acc.get 0 (t * 256 + i * 16 + j)).toInt = Spec.sats w (v i j))
    ∧ (∀ t' i j, t' ≠ t → i < 16 → j < 16 → acc.get 0 (t' * 256 + i * 16 + j) = k.acc.get 0 (t' * 256 + i * 16 + j))
    ∧ (tsat.get false t = true ↔ k.tsat.get false t = true ∨ ∃ i < 16, ∃ j < 16, Spec.sats w (v i j) ≠ v i j) := by
  intro v w
  obtain ⟨acc, tsat, hk, hacc, htsat⟩ := k.foldl_putElt t (fmt.getLsbD 0) (fun e => v (e / 16) (e % 16)) 256
  refine ⟨acc, tsat, ?_, fun i hi j hj => ?_, fun t' i j ht hi hj => ?_, htsat.trans (or_congr_right ?_)⟩
  · rw [kstep_eq, hk]
  · rw [hacc, if_pos (by omega), toInt_clampAcc, clampAcc_eq, show (t * 256 + i * 16 + j - t * 256) / 16 = i by omega,
      show (t * 256 + i * 16 + j - t * 256) % 16 = j by omega]
  · rw [hacc, if_neg (by omega)]
  · simp only [clampAcc_eq]
    exact exists_elt (p := fun i j => Spec.sats w (v i j) ≠ v i j)

/-! ### The steps of the other entries -/

/-- The slot is among the n from f on. -/
def inSlots (f n o : Nat) : Bool := decide (f ≤ o) && decide (o < f + n)

theorem inSlots_iff {f n o : Nat} : inSlots f n o = true ↔ f ≤ o ∧ o < f + n := by simp [inSlots]

/-- The elements of the slots f to f + n become 0. -/
theorem get_freed (f n : Nat) (m : RMap (BitVec 16)) (o : Nat) {x : Nat} (hx : x < 256) :
    RMap.get (m.filter (fun e => !inSlots f n (e.1 / 256))) 0 (o * 256 + x) = if inSlots f n o then 0 else m.get 0 (o * 256 + x) := by
  rw [RMap.get_filter m 0 (fun x => !inSlots f n (x / 256)), show (o * 256 + x) / 256 = o by omega]
  cases inSlots f n o <;> rfl

section
variable {s : State} {c : Nat} {e : MxQ} {rest : List MxQ} (hh : mxHead s c = some e) (hq : (s.pkg.core c).mxq = e :: rest)
include hh hq


/-- A K-step whose words are sound; the steps of a chain that are left stay at the head. -/
theorem exec_kStepExecute {t oA oB n : Nat} {tA tB : Bool} {fmt : BitVec 7} (he : e.ent = .mma t oA oB n tA tB fmt)
    (hp : ∀ r < 16, poisonTile c t r ∉ s.pkg.poison ∧ poisonOper c oA r ∉ s.pkg.poison ∧ poisonOper c oB r ∉ s.pkg.poison) :
    exec (.kStepExecute c) s = .next (s.withPkg (s.pkg.setCore c { (s.pkg.core c).kstep t oA oB tA tB fmt with
      mxq := if n ≤ 1 then rest else { e with ent := .mma t (oA + 1) (oB + 1) (n - 1) tA tB fmt } :: rest })) := by
  obtain ⟨num, strand, ent⟩ := e
  obtain rfl : ent = _ := he
  obtain ⟨acc, tsat, hk, -⟩ := (s.pkg.core c).kstep_spec t oA oB tA tB fmt
  have hmxq : ((s.pkg.core c).kstep t oA oB tA tB fmt).mxq.drop 1 = rest := by simp [hk, hq]
  have hsound : (List.range 16).any (fun r => decide (poisonTile c t r ∈ s.pkg.poison) || decide (poisonOper c oA r ∈ s.pkg.poison)
      || decide (poisonOper c oB r ∈ s.pkg.poison)) = false := by
    rw [List.any_eq_false]
    intro r hr
    simp [hp r (List.mem_range.1 hr)]
  show execKStepExecute c s = _
  simp only [execKStepExecute, hh, hsound, hmxq, Bool.false_eq_true, if_false]

theorem exec_ofillvExecute {o : Nat} {rows : List (BitVec 16)} (he : e.ent = .ofillv o rows) : exec (.ofillExecute c) s =
    .next (s.withPkg ((s.pkg.setCore c { s.pkg.core c with mxq := rest, opnd := ((s.pkg.core c).fillOper o rows).opnd }).mend
      (operKeys c o))) := by
  obtain ⟨num, strand, ent⟩ := e
  obtain rfl : ent = _ := he
  show execOfillExecute c s = _
  simp only [execOfillExecute, hh, Core.popMx_eq (k := (s.pkg.core c).fillOper o rows) hq]
  rfl

theorem exec_mzeroExecute {m : BitVec 16} (he : e.ent = .mzero m) : exec (.mzeroExecute c) s =
    .next (s.withPkg ((s.pkg.setCore c { s.pkg.core c with
      mxq := rest
      acc := (s.pkg.core c).acc.filter (fun x => decide (x.1 / 256 ∉ maskTiles m))
      tsat := (maskTiles m).foldl (fun a t => RMap.set a false t false) (s.pkg.core c).tsat
      ksteps := (maskTiles m).foldl (fun a t => RMap.set a 0 t 0) (s.pkg.core c).ksteps }).mend ((maskTiles m).flatMap (tileKeys c)))) := by
  obtain ⟨num, strand, ent⟩ := e
  obtain rfl : ent = _ := he
  have hmxq : ((maskTiles m).foldl Core.zeroTile (s.pkg.core c)).mxq = { num := num, strand := strand, ent := .mzero m } :: rest := by
    rw [Core.foldl_zeroTile, hq]
  show execMzeroExecute c s = _
  simp only [execMzeroExecute, hh]
  rw [Core.popMx_eq hmxq, Core.foldl_zeroTile]

/-- The K-step counts of sealed tiles; a crew that no save has stopped keeps its record. -/
theorem exec_msealRetirement {m : BitVec 16} (he : e.ent = .mseal m) (hst : (s.pkg.crew (e.strand / 96)).st = .resident) :
    exec (.msealRetirement c) s = .next (s.withPkg (s.pkg.setCore c { s.pkg.core c with
      mxq := rest
      ksteps := (maskTiles m).foldl (fun c t => RMap.set c 0 t 0) (s.pkg.core c).ksteps })) := by
  obtain ⟨num, strand, ent⟩ := e
  obtain rfl : ent = _ := he
  show execMsealRetirement c s = _
  simp [execMsealRetirement, hh, hst, Core.popMx_eq hq]

theorem exec_oreleaseExecute {f n : Nat} (he : e.ent = .orelease f n) : exec (.oreleaseExecute c) s =
    .next (s.withPkg ((s.pkg.setCore c { s.pkg.core c with
      mxq := rest
      claim := (s.pkg.core c).claim.filter (fun x => !inSlots f n x.1)
      releasing := (s.pkg.core c).releasing.filter (fun o => !inSlots f n o)
      opnd := (s.pkg.core c).opnd.filter (fun x => !inSlots f n (x.1 / 256)) }).mend ((List.range n).flatMap (fun i => operKeys c (f + i))))) := by
  obtain ⟨num, strand, ent⟩ := e
  obtain rfl : ent = _ := he
  show execOreleaseExecute c s = _
  simp only [execOreleaseExecute, hh, Core.popMx_eq hq]
  rfl

end

/-! ### Rows of an OFILL -/

section
variable {er c cu t : Nat} {sup : Bool} {va sd : X}

/-- One row of an OFILL: read, or left 0 behind a row that failed. -/
def fillRow (er c cu : Nat) (sup : Bool) (t : Nat) (va sd : X) (r : List (BitVec 16) × Pkg × Option (Nat × Nat)) (i : Nat) :
    List (BitVec 16) × Pkg × Option (Nat × Nat) :=
  match r with
  | (rows, p, some e) => (rows ++ List.replicate 16 0, p, some e)
  | (rows, p, none) =>
    match p.engRead er c cu sup (va + sd * BitVec.ofNat 64 i).toNat (rowBytes t) with
    | .ok (bs, p') => (rows ++ rowElts t bs, p', none)
    | .error e => (rows ++ List.replicate 16 0, p, some e)

theorem fillRows_eq (p : Pkg) : fillRows er c cu sup t va sd p = (List.range 16).foldl (fillRow er c cu sup t va sd) ([], p, none) := rfl

theorem foldl_fillRow_failed (l : List Nat) (rows : List (BitVec 16)) (p : Pkg) (e : Nat × Nat) :
    l.foldl (fillRow er c cu sup t va sd) (rows, p, some e) = (rows ++ List.replicate (16 * l.length) 0, p, some e) := by
  induction l generalizing rows with
  | nil => simp
  | cons i l ih =>
    rw [List.foldl_cons, fillRow, ih, List.append_assoc, ← List.replicate_add, List.length_cons, Nat.mul_succ, Nat.add_comm]

variable {ps : Nat → Pkg} {bs : Nat → List Byte} {n : Nat}

theorem foldl_fillRow_ok (h : ∀ i < n, (ps i).engRead er c cu sup (va + sd * BitVec.ofNat 64 i).toNat (rowBytes t) = .ok (bs i, ps (i + 1))) :
    (List.range n).foldl (fillRow er c cu sup t va sd) ([], ps 0, none) = ((List.range n).flatMap (fun i => rowElts t (bs i)), ps n, none) := by
  induction n with
  | zero => rfl
  | succ n ih =>
    rw [List.range_succ, List.foldl_append, ih fun i hi => h i (by omega), List.foldl_cons, List.foldl_nil, fillRow, h n (Nat.lt_succ_self n)]
    simp

/-- The elements of the rows read, then zeros. -/
def filledRows (t : Nat) (bs : Nat → List Byte) (n : Nat) : List (BitVec 16) :=
  (List.range n).flatMap (fun i => rowElts t (bs i)) ++ List.replicate (16 * (16 - n)) 0

/-- The rows before row n, row n, and those after it. -/
theorem range_split {n m : Nat} (h : n < m) : ∃ l, List.range m = List.range n ++ n :: l ∧ l.length = m - n - 1 := by
  refine ⟨(List.range (m - n - 1)).map (fun i => n + (i + 1)), ?_, by simp⟩
  obtain ⟨k, rfl⟩ := Nat.exists_eq_add_of_lt h
  rw [Nat.add_assoc, List.range_add, Nat.add_sub_cancel_left, Nat.add_sub_cancel, List.range_succ_eq_map]
  simp

/-- Rows of which the first n are read, and the next, if there is one, fails. -/
theorem fillRows_of {f : Option (Nat × Nat)} (hn : n ≤ 16)
    (h : ∀ i < n, (ps i).engRead er c cu sup (va + sd * BitVec.ofNat 64 i).toNat (rowBytes t) = .ok (bs i, ps (i + 1)))
    (hf : (n = 16 ∧ f = none) ∨ n < 16 ∧ ∃ e, f = some e ∧
      (ps n).engRead er c cu sup (va + sd * BitVec.ofNat 64 n).toNat (rowBytes t) = .error e) :
    fillRows er c cu sup t va sd (ps 0) = (filledRows t bs n, ps n, f) := by
  rw [fillRows_eq]
  rcases hf with ⟨rfl, rfl⟩ | ⟨hlt, e, rfl, he⟩
  · rw [foldl_fillRow_ok h, filledRows]
    simp
  · obtain ⟨l, hl, hlen⟩ := range_split hlt
    rw [hl, List.foldl_append, foldl_fillRow_ok h, List.foldl_cons, fillRow, he]
    dsimp only
    rw [foldl_fillRow_failed, List.append_assoc, ← List.replicate_add, filledRows, show 16 + 16 * l.length = 16 * (16 - n) by omega]

theorem filledRows_length (t : Nat) (bs : Nat → List Byte) {n : Nat} (hn : n ≤ 16) : (filledRows t bs n).length = 256 := by
  have hrows := length_rows (fun i j => BitVec.ofNat 16 (ofBytes (bs i) / 2 ^ (tyW t * j) % 2 ^ tyW t)) n 16
  rw [filledRows, List.length_append, List.length_replicate]
  unfold rowElts
  omega

theorem filledRows_get (t : Nat) (bs : Nat → List Byte) {n i j : Nat} (hj : j < 16) : (filledRows t bs n).getD (i * 16 + j) 0 =
    if i < n then BitVec.ofNat 16 (ofBytes (bs i) / 2 ^ (tyW t * j) % 2 ^ tyW t) else 0 := by
  have hlen := length_rows (fun i j => BitVec.ofNat 16 (ofBytes (bs i) / 2 ^ (tyW t * j) % 2 ^ tyW t)) n 16
  rw [filledRows, List.getD_eq_getElem?_getD]
  unfold rowElts
  split
  case isTrue hi =>
    rw [List.getElem?_append_left (by omega), Nat.mul_comm i, getElem?_rows _ hi hj, Option.getD_some]
  case isFalse hi =>
    rw [List.getElem?_append_right (by omega), List.getElem?_replicate]
    split <;> rfl

/-- Reading leaves the cores as they are. -/
theorem core_of_reads (h : ∀ i < n, (ps i).engRead er c cu sup (va + sd * BitVec.ofNat 64 i).toNat (rowBytes t) = .ok (bs i, ps (i + 1))) :
    (ps n).cores = (ps 0).cores := by
  induction n with
  | zero => rfl
  | succ n ih => rw [Pkg.cores_of_aside (Pkg.aside_engRead (h n (Nat.lt_succ_self n))), ih fun i hi => h i (by omega)]

end

/-- A filled slot, and a trap for the issuer where a row failed. -/
theorem exec_ofillExecute {s : State} {c : Nat} {e : MxQ} {rest : List MxQ} (hh : mxHead s c = some e) (hq : (s.pkg.core c).mxq = e :: rest)
    {o t : Nat} {va sd : X} {sup : Bool} (he : e.ent = .ofill o t va sd sup) {rows : List (BitVec 16)} {p : Pkg} {f : Option (Nat × Nat)}
    (hrows : fillRows s.er c (e.strand / 96) sup t va sd s.pkg = (rows, p, f)) (hf : ∀ y ∈ f, y.1 ≠ 0 ∧ y.1 ≠ 0x30)
    (hp : p.core c = s.pkg.core c) :
    let q := (p.setCore c { s.pkg.core c with mxq := rest, opnd := ((s.pkg.core c).fillOper o rows).opnd }).mend (operKeys c o)
    exec (.ofillExecute c) s = .next (s.withPkg (f.elim q (fun y => q.asyncTo e.strand y.1 (BitVec.ofNat 64 y.2)))) := by
  obtain ⟨num, strand, ent⟩ := e
  obtain rfl : ent = _ := he
  have hpop : ((p.core c).fillOper o rows).popMx = { s.pkg.core c with mxq := rest, opnd := ((s.pkg.core c).fillOper o rows).opnd } := by
    rw [hp, Core.popMx_eq (k := (s.pkg.core c).fillOper o rows) hq]
    rfl
  show execOfillExecute c s = _
  simp only [execOfillExecute, hh, hrows]
  split
  · exact absurd rfl (hf _ rfl).1
  · exact absurd rfl (hf _ rfl).2
  · rw [hpop]
    cases f <;> rfl

end Sys2Proof.Machine
end

section
/-! The steps of the matrix engine (O42). -/

namespace Sys2Proof.Machine

/-- Settles O42, entry by entry. -/
theorem matrixEngineSteps : Obligations.MatrixEngineSteps := by
  unfold Obligations.MatrixEngineSteps
  intro s c e rest k mended tiles opers hq hm hs hheld hseal
  have hh : mxHead s c = some e := mxHead_of hq hm hs hheld hseal
  have hmend {k' : Core} {keys : List Nat} {gone : Nat → Prop} {i : Instr}
      (he : exec i s = .next (s.withPkg ((s.pkg.setCore c k').mend keys))) (hk : ∀ q, q ∈ keys ↔ gone q) : mended k' gone i := by
    obtain ⟨l, hl, hsub, hmem⟩ := (s.pkg.setCore c k').mend_frame hk
    exact ⟨l, hl ▸ he, hsub, hmem⟩
  refine ⟨fun t oA oB n tA tB fmt he ht hp => ?kstep, fun o rows he hlen => ?ofillv, fun o t va sd sup he ps bs n f hn h0 => ?ofill,
    fun m he => ?mzero, fun m he hst => ?mseal, fun f n he => ?orelease⟩
  case kstep =>
    intro at' bt w a b v
    obtain ⟨acc, tsat, hk, hin, hout, hts⟩ := k.kstep_spec t oA oB tA tB fmt
    refine ⟨_, exec_kStepExecute hh hq he hp, ?_⟩
    rw [hk]
    refine ⟨rfl, hin, fun t' i j ht' hi hj => ?_, hts, ?_, rfl⟩
    · exact congrArg BitVec.toInt (hout t' i j ht' hi hj)
    · exact RMap.get_set_same k.ksteps 0 t (k.ksteps.get 0 t + 1)
  case ofillv =>
    refine ⟨_, hmend (exec_ofillvExecute hh hq he) fun q => mem_operKeys_one, fun x hx => ?_, fun x hx => ?_⟩
    · exact Core.fillOper_opnd_in k o hlen hx
    · exact Core.fillOper_opnd_out k hlen hx
  case ofill =>
    intro read hok hf p
    have hrows : fillRows s.er c (e.strand / 96) sup t va sd s.pkg = (filledRows t bs n, p, f) := by
      rw [← h0]
      exact fillRows_of hn hok (hf.imp_right fun ⟨hlt, cs, v, hfv, herr, _⟩ => ⟨hlt, (cs, v), hfv, herr⟩)
    have hcause : ∀ y ∈ f, y.1 ≠ 0 ∧ y.1 ≠ 0x30 := by
      rintro y hy
      rcases hf with ⟨-, rfl⟩ | ⟨-, cs, v, rfl, -, h0, h30⟩
      · cases hy
      · cases hy
        exact ⟨h0, h30⟩
    have hcore : p.core c = s.pkg.core c := by
      rw [← h0, Pkg.core, core_of_reads hok]
      rfl
    obtain ⟨l, hl, hsub, hmem⟩ := (p.setCore c { k with mxq := rest, opnd := (k.fillOper o (filledRows t bs n)).opnd }).mend_frame
      (keys := operKeys c o) fun q => mem_operKeys_one
    refine ⟨_, l, _, hsub, hmem, rfl, fun i hi j hj => ?_, fun x hx => ?_, hl ▸ exec_ofillExecute hh hq he hrows hcause hcore⟩
    · exact (Core.fillOper_opnd_in k o (filledRows_length t bs hn) (by omega)).trans (filledRows_get t bs hj)
    · exact Core.fillOper_opnd_out k (filledRows_length t bs hn) hx
  case mzero =>
    refine ⟨_, hmend (exec_mzeroExecute hh hq he) fun q => mem_tileKeys_mask, rfl, fun t ht i hi j hj => ⟨?_, fun hb => ⟨?_, ?_⟩⟩⟩
    · have hkey : (t * 256 + i * 16 + j) / 256 = t := by omega
      rw [Spec.tile, RMap.get_filter k.acc 0 (fun x => decide (x / 256 ∉ maskTiles m)), hkey]
      simp only [decide_not, mem_maskTiles ht]
      cases m.getLsbD t <;> rfl
    all_goals rw [RMap.get_foldl_clear, if_pos ((mem_maskTiles ht).2 hb)]
  case mseal =>
    refine ⟨_, exec_msealRetirement hh hq he hst, fun t ht => ?_⟩
    rw [RMap.get_foldl_clear]
    exact if_congr (mem_maskTiles ht) rfl rfl
  case orelease =>
    have hclaim (o : Nat) := RMap.find?_filter_key k.claim (fun x => !inSlots f n x) o
    have hopnd (o : Nat) {x : Nat} (hx : x < 256) := get_freed f n k.opnd o hx
    have hrel (o : Nat) : o ∈ k.releasing.filter (fun o => !inSlots f n o) ↔ o ∈ k.releasing ∧ inSlots f n o = false := by simp
    refine ⟨_, _, _, hmend (exec_oreleaseExecute hh hq he) fun q => mem_operKeys_range, fun o hf hn => ?_, fun o ho => ?_⟩
    · have hin : inSlots f n o = true := inSlots_iff.2 ⟨hf, hn⟩
      exact ⟨(hclaim o).trans (by simp [hin]), fun h => by simp [hin] at h, fun x hx => (hopnd o hx).trans (if_pos hin)⟩
    · have hout : inSlots f n o = false := Bool.eq_false_iff.2 fun h => ho (inSlots_iff.1 h)
      exact ⟨(hclaim o).trans (by simp [hout]), (hrel o).trans (by simp [hout]), fun x hx => (hopnd o hx).trans (if_neg (by simp [hout]))⟩

end Sys2Proof.Machine
end

section
/-! SUPPORT. The registers of BAR 0 and BAR 2 (R98, R171, R172, R418): what a write to each makes of the host's registers. -/

namespace Sys2Proof.Machine

/-! ### What recalling granules leaves (R98) -/

/-- The strands and the cores. -/
def Pkg.seated (p : Pkg) : RMap Strand × RMap Core := (p.strands, p.cores)

theorem Pkg.seated_of_aside {p q : Pkg} (h : q.aside = p.aside) : q.seated = p.seated := by
  rw [seated, seated, strands_of_standing (standing_of_aside h), cores_of_aside h]

theorem Pkg.seated_clearValid (p : Pkg) (er cu : Nat) : (p.clearValid er cu).seated = p.seated := by
  rw [clearValid]
  have hread := @aside_engRead
  have hwrite := @aside_engWrite
  generalize @Pkg.engRead = read at hread ⊢
  generalize @Pkg.engWrite = write at hwrite ⊢
  -- a lemma over any read and write, so that the kernel evaluates neither
  as_aux_lemma =>
    split
    · rename_i hr
      split
      · rename_i hw
        exact seated_of_aside ((hwrite hw).trans (hread hr))
      all_goals rfl
    all_goals rfl

theorem Pkg.seated_clearLate (p : Pkg) (er : Nat) : (p.clearLate er).seated = p.seated := by
  rw [clearLate]
  exact List.foldlRecOn (motive := fun q : Pkg => q.seated = p.seated) _ _ rfl fun q ih cu _ => (seated_clearValid _ _ _).trans ih

theorem Pkg.seated_recall (p : Pkg) (er : Nat) : (p.recall er).seated = p.seated := by
  rw [Pkg.recall]
  refine (seated_clearLate _ er).trans (List.foldlRecOn (motive := fun q : Pkg => q.seated = p.seated) _ _ rfl fun q ih e _ => ?_)
  dsimp only
  split
  · exact ih
  · split <;> exact ih

/-! ### The registers of a queue -/

theorem bits_eq {n : Nat} (w : BitVec n) (hi lo : Nat) : bits w hi lo = w.toNat / 2 ^ lo % 2 ^ (hi + 1 - lo) := by
  rw [bits, Nat.shiftRight_eq_div_pow]

theorem bit_eq {n : Nat} (w : BitVec n) (i : Nat) : bit w i = w.getLsbD i := rfl

theorem HQueue.ctl_eq (k : HQueue) (v : X) (en : Bool) :
    k.ctl v en = { k with root := v.toNat / 2 ^ 16 % 2 ^ 32, qlog := v.toNat % 16, en := en } := by
  simp [ctl, bits_eq]

/-- Instruction i leaves queue q with the registers k, and nothing else changes. -/
def SetsQueue (s : State) (q : Nat) (i : Instr) (k : HQueue) : Prop :=
  ∃ m, exec i s = .next (s.withHost { s.host with queues := m }) ∧ m.find? q = some k ∧ ∀ r, r ≠ q → m.find? r = s.host.queues.find? r

theorem SetsQueue.of_exec {s : State} {q : Nat} {i : Instr} {k : HQueue} (h : exec i s = .next (s.withHost (s.host.setQueue q k))) :
    SetsQueue s q i k :=
  ⟨_, h, RMap.find?_put_same .., fun _ hr => RMap.find?_put_ne _ _ _ _ hr⟩

section
variable {s : State} {q : Nat} {v : X}

theorem exec_qctlEnable (hu : s.host.pcieUp = true) (hq : q < 8192) (hv : v.getLsbD 4 = true) : exec (.qctlEnable q v) s =
    if (s.host.queue q).en then .next (s.withHost (s.host.err 1))
    else if v.toNat % 16 = 0 ∨ 12 < v.toNat % 16 ∨ (s.host.queue q).base.toNat % 64 ≠ 0 then .next (s.withHost (s.host.err 2))
    else .next (s.withHost (s.host.setQueue q ((s.host.queue q).ctl v true))) := by
  show execQctlEnable q v s = _
  simp [execQctlEnable, hu, bit, hv, Nat.not_le.2 hq, bits_eq]

theorem exec_qctlDisable (hu : s.host.pcieUp = true) (hq : q < 8192) (hv : v.getLsbD 4 = false) (he : (s.host.queue q).en = true) :
    exec (.qctlDisable q v) s = .next (s.withHost (s.host.setQueue q { s.host.queue q with en := false })) := by
  show execQctlDisable q v s = _
  rw [execQctlDisable, if_neg (by simp [hu, bit_eq, hv, hq, -BitVec.getLsbD_eq_getElem]), if_pos he]

theorem exec_qtailDoorbell (hu : s.host.pcieUp = true) (hq : q < 8192) (t : BitVec 32) :
    exec (.qtailDoorbell q t) s = .next (s.withHost (s.host.setQueue q { s.host.queue q with tail := t })) := by
  show execQtailDoorbell q t s = _
  rw [execQtailDoorbell, if_pos ⟨hu, hq⟩]

/-! ### Writes to BAR 0 -/

/-- A write that leaves EXPLICIT_RING as it is changes the host's registers alone. -/
theorem exec_hostRegisterWrite (hu : s.host.pcieUp = true) {off : Nat} {h : HostRegs} (hw : hostWrite s.pkg.runs s.host off v = h)
    (hr : h.explicitRing = s.host.explicitRing) : exec (.hostRegisterWrite off v) s = .next (s.withHost h) := by
  show execHostRegisterWrite off v s = _
  simp [execHostRegisterWrite, hu, hw, hr, State.withHost]

theorem hostWrite_ygrace (running : Bool) (h : HostRegs) (v : X) : hostWrite running h 0x108 v = { h with ygrace := v.setWidth 32 } := rfl

theorem configOff_comm {n : Nat} (hn : n < 256) : configOff (0x1000 + 16 * n) = true := by
  have hlt : 0x1000 + 16 * n < 0x2000 := by omega
  simp [configOff, hlt]

theorem hostWrite_running {h : HostRegs} {off : Nat} (ho : off = 0x8 ∨ off = 0x100 ∨ ∃ n < 256, off = 0x1000 + 16 * n) (v : X) :
    hostWrite true h off v = h.err 0 := by
  have hc : configOff off = true := by
    obtain rfl | rfl | ⟨n, hn, rfl⟩ := ho
    · rfl
    · rfl
    · exact configOff_comm hn
  have hne : off ≠ 0x108 := by rintro rfl; cases hc
  rw [hostWrite, if_neg hne, if_pos hc, if_pos rfl]

theorem hostWrite_comm (h : HostRegs) {n : Nat} (hn : n < 256) (v : X) : hostWrite false h (0x1000 + 16 * n) v =
    { h with comm := RMap.set h.comm 0 n (v.setWidth 32 &&& 0x8FFFFFFF#32) } := by
  rw [hostWrite, if_neg (by omega), if_pos (configOff_comm hn), if_neg Bool.false_ne_true, HostRegs.config, if_neg (by omega), if_neg (by omega),
    show (0x1000 + 16 * n - 0x1000) / 16 = n by omega]

theorem hostWrite_qbase (running : Bool) (h : HostRegs) {q : Nat} (hq : q < 8192) (v : X) : hostWrite running h (0x100000 + 32 * q) v =
    if (h.queue q).en then h.err 1 else h.setQueue q { h.queue q with base := v } := by
  have hc : configOff (0x100000 + 32 * q) = false := by
    simp only [configOff, Bool.or_eq_false_iff, Bool.and_eq_false_iff, beq_eq_false_iff_ne, decide_eq_false_iff_not]
    omega
  have hb : qbaseOff (0x100000 + 32 * q) = some q := by
    rw [qbaseOff, if_pos (by omega), show (0x100000 + 32 * q - 0x100000) / 32 = q by omega]
  rw [hostWrite, if_neg (by omega), hc, if_neg Bool.false_ne_true, hb]

theorem exec_writeExplicitRing (hu : s.host.pcieUp = true) (hr : s.pkg.runs = false) : ∃ t, exec (.hostRegisterWrite 0x100 v) s = .next t
    ∧ t.host = { s.host with explicitRing := v.setWidth 7 } ∧ t.pkg.seated = s.pkg.seated := by
  have hw : hostWrite s.pkg.runs s.host 0x100 v = { s.host with explicitRing := v.setWidth 7 } := by rw [hr]; rfl
  refine ⟨{ s with
    host := { s.host with explicitRing := v.setWidth 7 }
    pkg := if v.setWidth 7 = s.host.explicitRing then s.pkg else s.pkg.recall (v.setWidth 7).toNat }, ?_, rfl, ?_⟩
  · show execHostRegisterWrite 0x100 v s = _
    rw [execHostRegisterWrite, hu, hw]
    rfl
  · dsimp only
    split
    · rfl
    · exact Pkg.seated_recall _ _

/-- Without the link no write takes place (R182). -/
theorem exec_hostRegisterWrite_down (hu : s.host.pcieUp = false) (off : Nat) (v : X) : exec (.hostRegisterWrite off v) s = .next s := by
  show execHostRegisterWrite off v s = _
  rw [execHostRegisterWrite, hu]
  rfl

theorem Pkg.runs_iff (p : Pkg) : p.runs = true ↔ ∃ e ∈ p.launches, e.2.recorded = false := by
  simp only [runs, List.any_eq_true, Bool.not_eq_true']

theorem cfgerr_cleared (e : BitVec 4) (v : X) (j : Nat) : (e &&& ~~~(v.setWidth 4)).getLsbD j = (e.getLsbD j && !v.getLsbD j) := by
  by_cases hj : j < 4
  · simp [hj]
  · simp [hj, BitVec.getLsbD_of_ge e j (by omega)]

/-! ### Reads -/

theorem HostRegs.masked_eq (h : HostRegs) (v : Nat) : h.masked v = Spec.masked h v := by
  rw [masked, msixWord, if_pos (by omega)]
  rfl

theorem State.hostReg_eq (hr : s.host.ready.getLsbD 11 = true) (off : Nat) : s.hostReg off = Spec.hostValue s off := by
  rw [hostReg, Spec.hostValue, if_pos hr]
  dsimp only
  iterate 7 refine ite_congr rfl (fun _ => rfl) fun _ => ?_
  by_cases hq : 0x100000 ≤ off ∧ off < 0x140000
  · simp only [hq, true_and, if_true, Nat.mul_comm (2 ^ 16)]
  · simp only [hq, ← and_assoc, false_and, if_false]

end

end Sys2Proof.Machine
end

section
/-! Writes and reads of the host's registers (O53). -/

namespace Sys2Proof.Machine

/-- Settles O53, register by register. -/
theorem hostRegisterWrites : Obligations.HostRegisterWrites := by
  intro s v q h k running err queue
  refine ⟨fun hd => ?_, fun n => ⟨fun hm => ?_, fun hm => ?_⟩, fun hu hr off => ?_, fun hu w => ?_, fun hu hq => ?_⟩
  · have hread : ∀ off, s.hostRead off = s ∧ s.msixRead off = s := fun off => by simp [State.hostRead, State.msixRead, show s.host.pcieUp = false from hd]
    refine ⟨fun off => ⟨exec_hostRegisterWrite_down hd off v, hread off⟩, ?_, ?_, ?_, fun t => ?_⟩
    · show execCfgerrClear v s = _
      rw [execCfgerrClear, hd]; rfl
    · show execQctlEnable q v s = _
      rw [execQctlEnable, if_pos (.inl (by rw [hd]; rfl))]
    · show execQctlDisable q v s = _
      rw [execQctlDisable, if_pos (.inl (by rw [hd]; rfl))]
    · show execQtailDoorbell q t s = _
      rw [execQtailDoorbell, hd]; rfl
  · rw [HostRegs.signal, HostRegs.masked_eq, hm]; rfl
  · rw [HostRegs.signal, HostRegs.masked_eq, hm]; rfl
  · rw [State.hostRead, if_pos hu, State.hostReg_eq hr]
  · rw [State.msixRead, if_pos hu]; rfl
  have hoff : k.en = false → ¬ (s.host.queue q).en = true := fun he => (Bool.eq_false_iff.1 he :)
  have hruns : running ↔ s.pkg.runs = true := (Pkg.runs_iff _).symm
  have hidle : ¬ running → s.pkg.runs = false := fun hn => Bool.eq_false_iff.2 (mt hruns.2 hn)
  refine ⟨exec_hostRegisterWrite hu (hostWrite_ygrace ..) rfl, fun hrun off ho => ?_, fun hrun => ⟨?_, fun he => ?_, ?_, fun n hn => ?_⟩,
    fun he => ?_, fun he => ?_, ?_, fun hv he => ?_, fun hv he hbad => ?_, fun hv he h1 h2 h3 => ?_, fun hv he => ?_, fun t => ?_⟩
  · exact exec_hostRegisterWrite hu (by rw [hruns.1 hrun]; exact hostWrite_running ho v) rfl
  · exact exec_hostRegisterWrite hu (by rw [hidle hrun]; rfl) rfl
  · exact exec_hostRegisterWrite hu (h := s.host) (by rw [hidle hrun]; exact congrArg (fun e => { s.host with explicitRing := e }) he) rfl
  · obtain ⟨t, ht, hhost, hseat⟩ := exec_writeExplicitRing (v := v) hu (hidle hrun)
    exact ⟨t, ht, hhost, congrArg (·.1) hseat, congrArg (·.2) hseat⟩
  · refine ⟨RMap.set s.host.comm 0 n (v.setWidth 32 &&& 0x8FFFFFFF#32), exec_hostRegisterWrite hu (by rw [hidle hrun]; exact hostWrite_comm _ hn v) rfl,
      fun j => ?_⟩
    split
    · next hj => subst hj; exact RMap.get_set_same ..
    · next hj => exact RMap.get_set_ne _ _ _ _ _ hj
  · exact exec_hostRegisterWrite hu (by rw [hostWrite_qbase _ _ hq, if_pos he]; rfl) rfl
  · exact SetsQueue.of_exec (exec_hostRegisterWrite hu (by rw [hostWrite_qbase _ _ hq, if_neg (hoff he)]) rfl)
  · exact ⟨_, show execCfgerrClear v s = _ by rw [execCfgerrClear, if_pos hu], fun j => cfgerr_cleared ..⟩
  · exact (exec_qctlEnable hu hq hv).trans (if_pos he)
  · exact (exec_qctlEnable hu hq hv).trans (by rw [if_neg (hoff he), if_pos hbad]; rfl)
  · have hb : (s.host.queue q).base.toNat % 64 = 0 := h3
    exact SetsQueue.of_exec (by rw [exec_qctlEnable hu hq hv, if_neg (hoff he), if_neg (by omega), HQueue.ctl_eq])
  · exact SetsQueue.of_exec (exec_qctlDisable hu hq hv he)
  · exact SetsQueue.of_exec (exec_qtailDoorbell hu hq t)

end Sys2Proof.Machine
end

section
/-! SUPPORT. The new value of an atomic (R277), beside the words of the scalar's width. -/

namespace Sys2Proof.Machine

/-- The value of a word in a format. -/
def wordVal {w : Nat} (sg : Bool) (b : BitVec w) : Int := if sg then b.toInt else b.toNat

theorem readFmt_mod {w : Nat} (sg : Bool) (hw : 0 < w) (n : Nat) : readFmt sg w (n % 2 ^ w) = wordVal sg (BitVec.ofNat w n) := by
  cases sg
  · simp [readFmt, wordVal]
  · rw [readFmt_signed hw (Nat.mod_lt _ (Nat.two_pow_pos w)), wordVal, if_pos rfl,
      show BitVec.ofNat w (n % 2 ^ w) = BitVec.ofNat w n from BitVec.eq_of_toNat_eq (by simp)]

theorem wrapBits_eq_ofInt (w : Nat) (v : Int) : wrapBits w v = (BitVec.ofInt w v).toNat := by
  rw [wrapBits, BitVec.toNat_ofInt]

theorem ofInt_wordVal {w : Nat} (sg : Bool) (b : BitVec w) : BitVec.ofInt w (wordVal sg b) = b := by
  cases sg <;> simp [wordVal]

theorem wordVal_inj {w : Nat} {sg : Bool} {a b : BitVec w} : wordVal sg a = wordVal sg b ↔ a = b :=
  ⟨fun h => by rw [← ofInt_wordVal sg a, h, ofInt_wordVal], fun h => h ▸ rfl⟩

theorem ofInt_wordVal_add {w : Nat} (sg : Bool) (a b : BitVec w) : BitVec.ofInt w (wordVal sg a + wordVal sg b) = a + b := by
  rw [BitVec.ofInt_add, ofInt_wordVal, ofInt_wordVal]

theorem wordVal_lt {w : Nat} {sg : Bool} {a b : BitVec w} : wordVal sg a < wordVal sg b ↔ (if sg then a.slt b else a.ult b) = true := by
  cases sg <;> simp [wordVal, BitVec.slt, BitVec.ult]

theorem scW_pos (t : Nat) : 0 < scW t := Nat.mul_pos (by decide) (Nat.two_pow_pos _)

/-- The model's new value is the spec's. -/
theorem atomNew_eq {op : Nat} (h : 0x40 ≤ op) (h' : op ≤ 0x48) (t old v c : Nat) : atomNew op t old v c =
    (Spec.atomicNew (scSigned t) op (BitVec.ofNat (scW t) old) (BitVec.ofNat (scW t) v) (BitVec.ofNat (scW t) c)).map BitVec.toNat := by
  have hw := scW_pos t
  have hlt (a b : BitVec (scW t)) := @wordVal_lt _ (scSigned t) a b
  obtain rfl | rfl | rfl | rfl | rfl | rfl | rfl | rfl | rfl : op = 0x40 ∨ op = 0x41 ∨ op = 0x42 ∨ op = 0x43 ∨ op = 0x44 ∨ op = 0x45 ∨ op = 0x46
    ∨ op = 0x47 ∨ op = 0x48 := by omega
  all_goals simp only [atomNew, Spec.atomicNew, readFmt_mod _ hw, wrapBits_eq_ofInt, ofInt_wordVal_add, Option.map_some]
  · rw [satTo_eq]
    rfl
  · simp only [← hlt, min_def]
    split
    · next hle => rw [ofInt_wordVal, if_neg (Int.not_lt.2 hle)]
    · next hle => rw [ofInt_wordVal, if_pos (Int.not_le.1 hle)]
  · simp only [← hlt, max_def]
    split
    · next hle =>
      rw [ofInt_wordVal]
      split
      · rfl
      · next hge => rw [wordVal_inj.1 (le_antisymm hle (Int.not_lt.1 hge))]
    · next hle => rw [ofInt_wordVal, if_neg (by omega)]
  · rw [BitVec.toNat_and, BitVec.toNat_ofNat, BitVec.toNat_ofNat]
  · rw [BitVec.toNat_or, BitVec.toNat_ofNat, BitVec.toNat_ofNat]
  · rw [BitVec.toNat_xor, BitVec.toNat_ofNat, BitVec.toNat_ofNat]
  · rw [BitVec.toNat_ofNat]
  · simp only [wordVal_inj]
    split
    · rw [Option.map_some, BitVec.toNat_ofNat]
    · rfl

end Sys2Proof.Machine
end

section
/-! SUPPORT. The end of an access of one part, once that part has been performed for every agent (R114, R120, R272). -/

namespace Sys2Proof.Machine

/-- Access a of one part q, finished at the step now. -/
def Acc.finished (a : Acc) (q : Part) (now : Nat) : Acc := { a with parts := [{ q with reached := 7, shown := q.shown ++ [(7, now)] }] }

theorem RMap.del_modify {α : Type} (m : RMap α) (k : Nat) (f : α → α) : (m.modify k f).del k = m.del k := by
  induction m with
  | nil => rfl
  | cons e m ih =>
    by_cases h : e.1 = k <;> simp_all [modify, del]

/-- The package when access num, which is a, leaves: its banks awake and its data delivered; what it acquires comes then. -/
def Pkg.delivered (p : Pkg) (num : Nat) (a : Acc) : Pkg :=
  (match a.dest, p.strands.find? a.strand with
   | .v r, some st => ({ p with accs := p.accs.del num } : Pkg).wakeBanks st.core [st.banks.getD (r / 64) 16]
   | _, _ => { p with accs := p.accs.del num }).modStrand a.strand (fun st => st.arrive num a)

section
variable {p : Pkg} {num : Nat} {a : Acc} {q : Part}

theorem Pkg.delivered_frame (p : Pkg) (num : Nat) (a : Acc) : p.delivered num a =
    { p with accs := p.accs.del num, strands := p.strands.modify a.strand (fun st => st.arrive num a), cores := (p.delivered num a).cores } := by
  unfold delivered
  split <;> rfl

theorem Pkg.settleAcc_delivers (hf : p.accs.find? num = some a) (hr : a.parts.all (fun q => q.reached == 7) = true) (hk : a.kind ≠ .store) :
    p.settleAcc num = (p.delivered num a).acquire a := by
  rw [settleAcc, hf]
  exact (if_pos hr).trans (if_neg hk)

theorem Pkg.find?_markParts_one (hf : p.accs.find? num = some a) (hq : a.parts = [q]) :
    (p.markParts num [0] 7).accs.find? num = some (a.finished q p.tick) := by
  simp only [markParts, RMap.find?_modify_same, hf, Option.map_some, hq]
  rfl

@[simp] theorem Pkg.acquire_accs (p : Pkg) (a : Acc) : (p.acquire a).accs = p.accs := by
  unfold acquire
  split
  · rfl
  · split <;> rfl

theorem Strand.acqAt_fillL3 (st : Strand) (num : Nat) (v : V) : (st.fillL3 num v).acqAt = st.acqAt := by
  unfold fillL3
  dsimp only
  repeat' split
  all_goals rfl

theorem Strand.acqAt_arrive (st : Strand) (num : Nat) (a : Acc) : (st.arrive num a).acqAt = st.acqAt := by
  rw [arrive, acqAt_fillL3]
  split
  · split
    · unfold setX; split <;> rfl
    · rfl
  · split <;> rfl
  all_goals rfl

/-- The strand once access a has been delivered: an acquire of memory has observed what the access has (R121). -/
theorem Pkg.acquire_strand {st : Strand} (hs : p.strands.find? a.strand = some st) (hm : ∀ q ∈ a.parts, q.addr < 2 ^ 53) (hk : a.kind ≠ .store) :
    (p.acquire a).strands.find? a.strand =
      some { st with acqAt := if a.order = 1 ∨ a.order = 3 then max st.acqAt a.obs else st.acqAt } := by
  have hacq : a.acquires = decide (a.order = 1 ∨ a.order = 3) := by
    have hk' : (a.kind != .store) = true := by simpa using hk
    rw [Acc.acquires, hk', Bool.true_and, Bool.decide_or]
    rfl
  have hno : a.parts.any (fun q => decide (2 ^ 53 ≤ q.addr)) = false := by
    simpa using hm
  rw [acquire, hacq]
  by_cases ho : a.order = 1 ∨ a.order = 3
  · rw [hno]
    simp only [ho, decide_true, Bool.not_true, Bool.false_eq_true, if_false, if_true]
    rw [modStrand, RMap.find?_modify_same, show (p.dropEarly a.strand a.scope).strands = p.strands from rfl, hs]
    rfl
  · simp [ho, hs]

/-- An access of one part that is performed for every agent leaves; its strand takes its data. -/
theorem Pkg.settle_onePart {st : Strand} (hf : p.accs.find? num = some a) (hq : a.parts = [q]) (hm : q.addr < 2 ^ 53) (hk : a.kind ≠ .store)
    (hs : p.strands.find? a.strand = some st) : let p' := (p.markParts num [0] 7).settleAcc num
    p'.mem = p.mem ∧ p'.accs = p.accs.del num ∧ p'.strands.find? a.strand = some { st.arrive num (a.finished q p.tick) with
      acqAt := if a.order = 1 ∨ a.order = 3 then max st.acqAt a.obs else st.acqAt } := by
  intro p'
  have hp' : p' = ((p.markParts num [0] 7).delivered num (a.finished q p.tick)).acquire (a.finished q p.tick) :=
    settleAcc_delivers (find?_markParts_one hf hq) rfl hk
  have hfr := (p.markParts num [0] 7).delivered_frame num (a.finished q p.tick)
  refine ⟨settleAcc_mem .., ?_, ?_⟩
  · rw [hp', acquire_accs, hfr]
    exact (by rw [markParts, RMap.del_modify] : (p.markParts num [0] 7).accs.del num = p.accs.del num)
  · rw [hp', ← st.acqAt_arrive num (a.finished q p.tick)]
    refine acquire_strand (a := a.finished q p.tick) ?_ (by simpa [Acc.finished] using hm) hk
    rw [hfr]
    simp only [RMap.find?_modify_same]
    exact congrArg (Option.map _) hs

end

end Sys2Proof.Machine
end

section
/-! Atomics performed (O32). -/

namespace Sys2Proof.Machine

/-- The package after atomic a, numbered num, has replaced its word at part q; it is still to leave. -/
def Pkg.swapped (p : Pkg) (num : Nat) (a : Acc) (q : Part) : Pkg :=
  let k := p.physKey q.addr
  let old := p.num k q.len
  let w := match atomNew a.op a.ty old a.opnd a.cmp with
    | some v => ((p.logCode (some a.strand) a.core [] q.addr q.len).write k (toBytes q.len v)).heard (some a.strand) (common a.core)
    | none => p
  { w.touch a.core q.flags q.addr 1 with
    accs := RMap.modify w.accs num (fun b => { b with buf := BitVec.ofNat 512 old, obs := p.newest a.strand a.core q.addr q.len }) }

theorem exec_remoteAtomic {s : State} {num : Nat} {a : Acc} {q : Part} (hf : s.pkg.accs.find? num = some a) (hk : a.kind = .atomic)
    (hq : a.parts = [q]) (hm : s.pkg.mayPerform num 0 6 = true) (hr : refusal s.pkg s.host.pcieUp a q = none)
    (hp : s.pkg.poisoned (s.pkg.physKey q.addr) q.len = none) :
    exec (.remoteAtomic num) s = .next (s.withPkg (((s.pkg.swapped num a q).markParts num [0] 7).settleAcc num)) := by
  show execRemoteAtomic num s = _
  have hq0 : a.parts[0]? = some q := by rw [hq]; rfl
  simp only [execRemoteAtomic, hf, hq0]
  rw [if_neg (by simp [hk, hm])]
  cases hv : atomNew a.op a.ty (s.pkg.num (s.pkg.physKey q.addr) q.len) a.opnd a.cmp
  all_goals
    simp only [hr, Pkg.consumes, hp, Pkg.swapped, hv]

section
variable {p : Pkg} {num : Nat} {a : Acc} {q : Part}

theorem Pkg.touch_frame (p : Pkg) (c flags pa n : Nat) : p.touch c flags pa n = { p with granules := (p.touch c flags pa n).granules } := by
  unfold touch
  split <;> rfl

theorem Pkg.swapped_frame (p : Pkg) (num : Nat) (a : Acc) (q : Part) : (p.swapped num a q).strands = p.strands
    ∧ (p.swapped num a q).accs = RMap.modify p.accs num (fun b =>
        { b with buf := BitVec.ofNat 512 (p.num (p.physKey q.addr) q.len), obs := p.newest a.strand a.core q.addr q.len }) := by
  unfold swapped
  dsimp only
  rw [touch_frame]
  split <;> exact ⟨rfl, rfl⟩

theorem Pkg.swapped_mem (p : Pkg) (num : Nat) (a : Acc) (q : Part) : (p.swapped num a q).mem =
    match atomNew a.op a.ty (p.num (p.physKey q.addr) q.len) a.opnd a.cmp with
    | some v => (p.write (p.physKey q.addr) (toBytes q.len v)).mem
    | none => p.mem := by
  unfold swapped
  dsimp only
  rw [touch_frame]
  split <;> rfl

end

/-- Settles O32: the word is replaced, then the access leaves as any of one part does. -/
theorem atomicPerforms : Obligations.AtomicPerforms := by
  intro s num a q st hf hk hq hty hop hop' hlen haddr hmay href hpois hst k w old
  obtain ⟨hstr, haccs⟩ := s.pkg.swapped_frame num a q
  let a' : Acc := { a with buf := BitVec.ofNat 512 (s.pkg.num k q.len), obs := s.pkg.newest a.strand a.core q.addr q.len }
  have hf' : (s.pkg.swapped num a q).accs.find? num = some a' := by
    rw [haccs, RMap.find?_modify_same, hf, Option.map_some]
  obtain ⟨hmem, hdel, hstrand⟩ := Pkg.settle_onePart (a := a') hf' hq haddr (by simp [a', hk]) (hstr ▸ hst)
  have hpow : 2 ^ w = 256 ^ q.len := by rw [show w = 8 * q.len from hlen.symm, Nat.pow_mul]
  have hold : old.toNat = s.pkg.num k q.len := by
    rw [BitVec.toNat_ofNat, Nat.mod_eq_of_lt (hpow ▸ s.pkg.num_lt k q.len)]
  rw [Pkg.swapped_mem, atomNew_eq hop hop'] at hmem
  refine ⟨_, a'.finished q (s.pkg.swapped num a q).tick, exec_remoteAtomic hf hk hq hmay href hpois,
    hdel.trans (by rw [haccs, RMap.del_modify]), rfl, by rw [hold]; rfl, hstrand, fun j hj => ?_, ?_⟩
  · cases hv : Spec.atomicNew (scSigned a.ty) a.op old (BitVec.ofNat w a.opnd) (BitVec.ofNat w a.cmp) with
    | none =>
      rw [hv] at hmem
      exact Pkg.byte_of_mem hmem j
    | some v =>
      rw [hv] at hmem
      exact (Pkg.byte_of_mem hmem j).trans (Pkg.byte_write_out _ _ _ _ (by rwa [toBytes_length]))
  · cases hv : Spec.atomicNew (scSigned a.ty) a.op old (BitVec.ofNat w a.opnd) (BitVec.ofNat w a.cmp) with
    | none =>
      rw [hv] at hmem
      exact hmem
    | some v =>
      rw [hv] at hmem
      exact (Pkg.num_congr fun x _ _ => Pkg.byte_of_mem hmem x).trans
        ((s.pkg.num_write_same k q.len v.toNat).trans (Nat.mod_eq_of_lt (hpow ▸ v.isLt)))

end Sys2Proof.Machine
end

section
/-! SUPPORT. Fetching (R91, R99, R102, R129, R185, R186): a word that lies at an address, the length of a bundle and its slot words. -/

namespace Sys2Proof.Machine

/-! ### The words fetched -/

section
variable {s : State} {st : Strand} {va w : Nat}

/-- With every logged write observed, a fetch reads memory. -/
theorem codeByte_observed {p : Pkg} (hacc : p.accs = []) (hlog : ∀ e ∈ p.codeLog, e.observed st = true) (k : Nat) :
    codeByte p st k = p.byte (p.physKey k) := by
  have hnone : p.codeLog.foldl (fun (r : Option Byte) e =>
      if !within e.key e.old.length k then r else if e.observed st then none else some (r.getD (e.old.getD (k - e.key) 0))) none = none :=
    List.foldlRecOn (motive := fun r : Option Byte => r = none) _ _ rfl fun r hr e he => by
      rw [hlog e he]
      split
      · exact hr
      · rfl
  have hits : p.hits (fun q => q.meets k 1) = [] := by rw [Pkg.hits, hacc]; rfl
  rw [codeByte, hnone, Option.getD_none, Pkg.pkgByte, Pkg.seenByte, hits]
  rfl

theorem fetchWord_of_wordAt (h : Spec.wordAt s st va w) : fetchWord s.pkg st va = .ok w := by
  obtain ⟨hva, hacc, hlog, t, ht, hx, hsup, hmov, hpois, hw⟩ := h
  have hloc : locOf va = .general := if_pos hva
  have hperm : permOk st.sup t.flags 3 = true := by
    simp only [permOk, bitN_eq_testBit, hx, Bool.and_true, Bool.or_eq_true, Bool.not_eq_true']
    by_cases h11 : t.flags.testBit 11 = true
    · exact .inr (hsup h11)
    · exact .inl (Bool.eq_false_iff.2 h11)
  have hobs : ∀ e ∈ s.pkg.codeLog, e.observed st = true := fun e he => by
    obtain ⟨h1, h2⟩ := hlog e he
    simp [CodeStore.observed, h1, h2]
  simp only [fetchWord, hloc, ht, hperm, hmov, hpois, codeByte_observed hacc hobs, hw, Bool.not_true, Bool.false_eq_true, if_false]

end

/-- The first n of the words l, which lie from pc on. -/
theorem fetchWords_of_words {s : State} {st : Strand} {pc : X} {l : List Nat}
    (h : ∀ i < l.length, fetchWord s.pkg st (pc + BitVec.ofNat 64 (4 * i)).toNat = .ok (l.getD i 0)) {n : Nat} (hn : n ≤ l.length) :
    fetchWords s.pkg st pc n = .ok (l.take n) := by
  induction n with
  | zero => rfl
  | succ n ih =>
    have hl : n < l.length := hn
    rw [fetchWords, List.range_succ, List.foldl_append, ← fetchWords, ih (by omega)]
    simp only [List.foldl_cons, List.foldl_nil, h n hl, List.take_add_one, List.getD_eq_getElem?_getD, List.getElem?_eq_getElem hl]
    rfl

/-! ### The header -/

section
variable {h : Nat} (hh : h < 2 ^ 32)
include hh

theorem hdr_field (hi lo : Nat) : bits (BitVec.ofNat 32 h) hi lo = h / 2 ^ lo % 2 ^ (hi + 1 - lo) := by
  rw [bits_eq, BitVec.toNat_ofNat, Nat.mod_eq_of_lt hh]

theorem present_ofNat (k : Nat) : present (BitVec.ofNat 32 h) k = h.testBit k := by
  rw [present, BitVec.getLsbD, BitVec.toNat_ofNat, Nat.mod_eq_of_lt hh]

end

theorem slotWords_eq {k : Nat} (hk : k < 8) : slotWords k = if k ∈ [2, 3, 4, 7] then 2 else 1 := by
  revert k; decide

/-- The slots of 64 bits are those of the mask 0x9C (R186). -/
theorem mem_wide_iff {k : Nat} (hk : k < 8) : k ∈ [2, 3, 4, 7] ↔ Nat.testBit 0x9C k = true := by
  revert k; decide

theorem foldl_slotWords (f : Nat → Bool) {l : List Nat} (hl : ∀ k ∈ l, k < 8) (n : Nat) : (l.filter f).foldl (fun n k => n + slotWords k) n =
    n + l.countP f + l.countP (fun k => f k && Nat.testBit 0x9C k) := by
  induction l generalizing n with
  | nil => rfl
  | cons k l ih =>
    have hk := hl k (List.mem_cons_self ..)
    have hl' : ∀ j ∈ l, j < 8 := fun j hj => hl j (List.mem_cons_of_mem _ hj)
    have hw := slotWords_eq hk
    simp only [mem_wide_iff hk] at hw
    by_cases hf : f k = true
    · rw [List.filter_cons_of_pos hf, List.foldl_cons, ih hl', hw, List.countP_cons_of_pos hf]
      by_cases hb : Nat.testBit 0x9C k = true
      · rw [List.countP_cons_of_pos (by simp only [hf, hb, Bool.and_self]), if_pos hb]
        omega
      · rw [List.countP_cons_of_neg (by simp only [hf, Bool.true_and]; exact hb), if_neg hb]
        omega
    · rw [List.filter_cons_of_neg hf, ih hl', List.countP_cons_of_neg hf, List.countP_cons_of_neg (by simp [hf])]

theorem testBit_mask {h k : Nat} (hk : k < 8) : (h % 256).testBit k = h.testBit k := by
  rw [show 256 = 2 ^ 8 from rfl, Nat.testBit_mod_two_pow]
  simp [hk]

/-- The length of a bundle (R186). -/
theorem bundleWords_eq {h : Nat} (hh : h < 2 ^ 32) : bundleWords (BitVec.ofNat 32 h) = Spec.words h := by
  have hlt : ∀ k ∈ List.range 8, k < 8 := fun k hk => List.mem_range.1 hk
  have hall : (List.range 8).countP (present (BitVec.ofNat 32 h)) = (List.range 8).countP (fun j => (h % 256).testBit j) :=
    List.countP_congr fun k hk => by rw [present_ofNat hh, testBit_mask (hlt k hk)]
  have hwide : (List.range 8).countP (fun k => present (BitVec.ofNat 32 h) k && Nat.testBit 0x9C k)
      = (List.range 8).countP (fun j => (h % 256 &&& 0x9C).testBit j) :=
    List.countP_congr fun k hk => by rw [present_ofNat hh, Nat.testBit_and, testBit_mask (hlt k hk)]
  rw [bundleWords, foldl_slotWords _ hlt, hall, hwide, hdrLit, hdr_field hh, Spec.words]
  dsimp only
  omega

/-! ### The slot words -/

/-- The slot words of the words l after the header h, as far as slot m: those slots' words, and the words that are left. -/
def slotsUpTo (h : Word32) (l : List Nat) (m : Nat) : RMap Nat × List Nat :=
  (List.range m).foldl (fun (r : RMap Nat × List Nat) k =>
    if present h k then
      if slotWords k = 1 then (r.1 ++ [(k, r.2.headD 0)], r.2.drop 1)
      else (r.1 ++ [(k, r.2.headD 0 + r.2.getD 1 0 * 2 ^ 32)], r.2.drop 2)
    else r) ([], l)

theorem slotStart_succ (m k : Nat) : Spec.slotStart m (k + 1) = Spec.slotStart m k + if m.testBit k then (if k ∈ [2, 3, 4, 7] then 2 else 1) else 0 := by
  rw [Spec.slotStart, List.range_succ, List.filter_append, List.foldl_append, Spec.slotStart, Nat.add_assoc]
  by_cases h : m.testBit k = true
  · simp [h]
  · simp [h]

theorem slotsUpTo_spec {h : Nat} (hh : h < 2 ^ 32) (l : List Nat) {m : Nat} (hm : m ≤ 8) :
    (slotsUpTo (BitVec.ofNat 32 h) (l.drop 1) m).2 = l.drop (Spec.slotStart (h % 256) m)
    ∧ ∀ k, (slotsUpTo (BitVec.ofNat 32 h) (l.drop 1) m).1.find? k =
        if k < m ∧ h.testBit k = true then some (Spec.slotWord l (h % 256) k) else none := by
  induction m with
  | zero => exact ⟨rfl, fun k => rfl⟩
  | succ m ih =>
    obtain ⟨ih2, ih1⟩ := ih (by omega)
    have hm8 : m < 8 := hm
    have hword : ∀ j, (l.drop (Spec.slotStart (h % 256) m)).getD j 0 = l.getD (Spec.slotStart (h % 256) m + j) 0 := fun j => by
      simp [List.getD_eq_getElem?_getD]
    have hgo : ∀ k, k ≠ m → ((k < m + 1 ∧ h.testBit k = true) ↔ (k < m ∧ h.testBit k = true)) := fun k hk => by
      constructor <;> rintro ⟨h1, h2⟩ <;> exact ⟨by omega, h2⟩
    rw [slotsUpTo, List.range_succ, List.foldl_append, ← slotsUpTo, List.foldl_cons, List.foldl_nil, present_ofNat hh, slotStart_succ, testBit_mask hm8,
      slotWords_eq hm8, ih2]
    by_cases hp : h.testBit m = true
    · have hstep : ∀ A : RMap Nat, (if (if m ∈ [2, 3, 4, 7] then 2 else 1) = 1 then
            (A ++ [(m, (l.drop (Spec.slotStart (h % 256) m)).headD 0)], (l.drop (Spec.slotStart (h % 256) m)).drop 1)
          else (A ++ [(m, (l.drop (Spec.slotStart (h % 256) m)).headD 0 + (l.drop (Spec.slotStart (h % 256) m)).getD 1 0 * 2 ^ 32)],
            (l.drop (Spec.slotStart (h % 256) m)).drop 2)) =
          (A ++ [(m, Spec.slotWord l (h % 256) m)], l.drop (Spec.slotStart (h % 256) m + if m ∈ [2, 3, 4, 7] then 2 else 1)) := fun A => by
        rw [List.headD_eq_getD, hword, hword, Spec.slotWord]
        split <;> simp_all [Nat.mul_comm]
      rw [if_pos hp, if_pos hp, hstep]
      refine ⟨rfl, fun k => ?_⟩
      rw [RMap.find?_append, ih1 k]
      by_cases hk : k = m
      · subst hk
        simp [hp, RMap.find?]
      · simp only [hgo k hk, RMap.find?, if_neg hk, Option.or_none]
    · simp only [hp, if_false, Bool.false_eq_true, Nat.add_zero]
      refine ⟨ih2, fun k => (ih1 k).trans ?_⟩
      by_cases hk : k = m
      · rw [if_neg (by omega), if_neg (by rintro ⟨-, h2⟩; exact hp (hk ▸ h2))]
      · simp only [hgo k hk]

end Sys2Proof.Machine
end

section
/-! A bundle taken (O5). -/

namespace Sys2Proof.Machine

/-- Only granules differ, and no granule's place or move does. -/
def Pkg.Counts (p q : Pkg) : Prop :=
  ∃ gs, q = { p with granules := gs } ∧ ∀ f,
    ((gs.find? f).getD {}).place = ((p.granules.find? f).getD {}).place ∧ ((gs.find? f).getD {}).moving = ((p.granules.find? f).getD {}).moving

theorem Pkg.Counts.refl (p : Pkg) : p.Counts p := ⟨p.granules, rfl, fun _ => ⟨rfl, rfl⟩⟩

theorem Pkg.Counts.trans {p q r : Pkg} (h : p.Counts q) (h' : q.Counts r) : p.Counts r := by
  obtain ⟨gs, rfl, hg⟩ := h
  obtain ⟨gs', rfl, hg'⟩ := h'
  exact ⟨gs', rfl, fun f => ⟨(hg' f).1.trans (hg f).1, (hg' f).2.trans (hg f).2⟩⟩

theorem Pkg.counts_touch (p : Pkg) (c flags pa n : Nat) : p.Counts (p.touch c flags pa n) := by
  unfold touch
  split
  · exact .refl p
  · refine ⟨_, rfl, fun f => ?_⟩
    rw [RMap.find?_put]
    split
    · next hf => exact hf ▸ ⟨rfl, rfl⟩
    · exact ⟨rfl, rfl⟩

theorem counts_touchFetch (p : Pkg) (st : Strand) (va n : Nat) : p.Counts (touchFetch p st va n) := by
  refine List.foldlRecOn (motive := fun q => p.Counts q) _ _ (.refl p) fun q ih x _ => ?_
  split
  · exact ih.trans (q.counts_touch ..)
  · exact ih

/-- A bundle that lies at the strand's pc and is legal is taken. -/
theorem exec_bundleDecode {s : State} {st : Strand} {l : List Nat} {h : Nat} (hs : s.focused st) (hr : st.run = .ready) (hp : st.phase = .boundary)
    (hg : st.grant = none) (hb : st.bun = {}) (hl : l.head? = some h) (hh : h < 2 ^ 32) (hn : l.length = Spec.words h)
    (hw : ∀ i < l.length, Spec.wordAt s st (st.pc + BitVec.ofNat 64 (4 * i)).toNat (l.getD i 0))
    (hlegal : illegalBundle (BitVec.ofNat 32 h) (slotWordsOf (BitVec.ofNat 32 h) (l.drop 1)) st.sticky = false) :
    let waits := h / 2 ^ 16 % 4 = 1 ∨ h / 2 ^ 16 % 4 = 3
    let b : Bundle := { pc := st.pc, header := BitVec.ofNat 32 h, words := slotWordsOf (BitVec.ofNat 32 h) (l.drop 1),
                        lits := l.drop (l.length - h / 2 ^ 14 % 4), granted := decide (¬ waits) }
    exec .bundleDecode s = .next (s.withPkg ((touchFetch s.pkg st st.pc.toNat (4 * l.length)).setStrand s.focus
      (if waits then { st with bun := b, phase := .wait } else ({ st with bun := b } : Strand).beginIssues))) := by
  intro waits b
  have hwords {n : Nat} (hn : n ≤ l.length) : fetchWords s.pkg st st.pc n = .ok (l.take n) :=
    fetchWords_of_words (fun i hi => fetchWord_of_wordAt (hw i hi)) hn
  have hfetch1 : fetchWords s.pkg st st.pc 1 = .ok [h] := by
    cases l with
    | nil => cases hl
    | cons x l => cases hl; exact hwords (by simp)
  have hfetch : fetchWords s.pkg st st.pc l.length = .ok l := by rw [hwords le_rfl, List.take_length]
  have hlit : hdrLit (BitVec.ofNat 32 h) = h / 2 ^ 14 % 4 := hdr_field hh 15 14
  have hsync : hdrSync (BitVec.ofNat 32 h) = h / 2 ^ 16 % 4 := hdr_field hh 17 16
  have hdec : (hdrSync (BitVec.ofNat 32 h) == 1 || hdrSync (BitVec.ofNat 32 h) == 3) = decide waits := by
    rw [hsync, Bool.decide_or]; rfl
  have hlen : bundleWords (BitVec.ofNat 32 h) = l.length := by rw [bundleWords_eq hh, hn]
  show execBundleDecode s = _
  rw [execBundleDecode, hs]
  dsimp only
  rw [if_neg (by simp [hr, hp])]
  simp only [hg, hb, hfetch1, List.headD_cons, Nat.not_lt_zero, decide_false, Bool.false_or, Bool.not_false, Bool.true_and, Bool.and_true, hdec,
    decide_eq_true_eq, hlen, hlit, hfetch, hlegal, Bool.false_eq_true, if_false, b, decide_not]
  rfl

/-- Settles O5: the words are fetched, then the header read from them, and the counts of the granules alone change. -/
theorem decodeTakesTheBundleAtThePc : Obligations.DecodeTakesTheBundleAtThePc := by
  intro s st l h hs hr hp hg hb hl hh hn hw hlegal p
  refine ⟨counts_touchFetch .., _, fun k hk => ?_, exec_bundleDecode hs hr hp hg hb hl hh hn hw hlegal⟩
  exact ((slotsUpTo_spec hh l le_rfl).2 k).trans (if_congr (and_iff_right hk) rfl rfl)

end Sys2Proof.Machine
end

section
/-! SUPPORT. The checks of loads, stores and atomics (R270, R271, R275 to R277): alignment, then the checks of an access of one piece. -/

namespace Sys2Proof.Machine

/-! ### Addresses, sizes and units -/

theorem eaX_eq (st : Strand) (o : MOps) : eaX st o = Spec.ea st o := by
  rw [Spec.ea, eaX]
  split
  · next h => rw [if_pos (show o.update = 0 from h)]; rfl
  · next h => rw [if_neg (show ¬ o.update = 0 from h)]; exact (BitVec.add_zero _).symm

theorem eaN_eq (st : Strand) (o : MOps) : eaN st o = Spec.eaNoIx st o := rfl

theorem scW_eq_size (o : MOps) : scW o.ty.toNat / 8 = Spec.size o := by
  have h : ∀ t : BitVec 3, scW t.toNat / 8 = if t.toNat < 2 then 1 else if t.toNat < 4 then 2 else if t.toNat < 6 then 4 else 8 := by decide
  exact h o.ty

theorem esOf_eq (o : MOps) : esOf o.ty.toNat = Spec.es o := by
  have h : ∀ t : BitVec 3, esOf t.toNat = if t.toNat < 4 then 1 else if t.toNat < 6 then 2 else 4 := by decide
  exact h o.ty

theorem unitsOn_eq (st : Strand) (o : MOps) : unitsOn (mMask st o) o.ty.toNat = Spec.units st o := by
  rw [unitsOn, esOf_eq]
  rfl

/-- The sizes of scalars and elements. -/
abbrev EltSize (n : Nat) : Prop := n = 1 ∨ n = 2 ∨ n = 4 ∨ n = 8

theorem eltSize_size (o : MOps) : EltSize (Spec.size o) := by
  unfold Spec.size
  split_ifs <;> decide

theorem eltSize_es (o : MOps) : EltSize (Spec.es o) := by
  unfold Spec.es
  split_ifs <;> decide

theorem EltSize.pos {n : Nat} (h : EltSize n) : 0 < n := by omega

/-! ### One piece -/

theorem pageParts_one {va n : Nat} (hn : 0 < n) (h : va % 65536 + n ≤ 65536) : pageParts va n = [(va, n)] := by
  have hm : min n (65536 - va % 65536) = n := by omega
  simp [pageParts, framesFrom, hm, Nat.ne_of_gt hn]

/-- An aligned piece of such a size lies on one line. -/
theorem EltSize.fits {va n m : Nat} (hn : EltSize n) (ha : va % n = 0) (hm : m % 8 = 0) (hm0 : 0 < m) : va % m + n ≤ m := by
  obtain ⟨c, rfl⟩ : ∃ c, m = 8 * c := ⟨m / 8, by omega⟩
  have hlt := Nat.mod_lt va hm0
  have hdvd : n ∣ 8 * c := Dvd.dvd.mul_right (by rcases hn with rfl | rfl | rfl | rfl <;> decide) c
  have hmod : va % (8 * c) % n = 0 := (Nat.mod_mod_of_dvd va hdvd).trans ha
  rcases hn with rfl | rfl | rfl | rfl <;> omega

theorem blockParts_one {b : Blk} (hn : 0 < b.n) (h : b.va % 65536 + b.n ≤ 65536) :
    blockParts [b] = [[{ va := b.va, n := b.n, pos := b.pos, data := b.data.take b.n }]] := by
  simp [blockParts, mergeBlks, Blk.pages, pageParts_one hn h, groupPages]

/-! ### The checks of each instruction -/

/-- EA and the stride are multiples of al. -/
def AlignedTo (ea stride : X) (al : Nat) : Prop := ea.toNat % al = 0 ∧ stride.toNat % al = 0

/-- What the check of unit operation i finds. -/
def Finds (i : Instr) (s : State) (st : Strand) (w : Option Stop) : Prop :=
  ∃ chk eff, exec i s = onUnit i noFx noPv chk eff s ∧ chk s st = w

/-- Access i of the pieces l checks alignment, then, where it has one piece, that piece (R271). -/
def ChecksAccess (i : Instr) (k : AccKind) (s : State) (st : Strand) (ea stride : X) (al : Nat) (l : List Spec.Unit) : Prop :=
  ∃ w, Finds i s st w
    ∧ (l ≠ [] → ¬ AlignedTo ea stride al → w = some (.trap 0x08 ea))
    ∧ ∀ u, l = [u] → AlignedTo ea stride al → ∃ b : Blk, b.va = u.va ∧ b.n = u.bytes.length ∧ EltSize b.n ∧ b.va % b.n = 0
        ∧ w = accStop s.pkg st k [[b]]

section
variable {s : State} {st : Strand} {o : MOps}

theorem memChk_eq {k : AccKind} {al : Nat} {a : X} {gs : List (List Blk)} :
    memChk k al a gs s st = if a.toNat % al = 0 then accStop s.pkg st k gs else some (.trap 0x08 a) := by
  rw [memChk, alignStop]
  split <;> rfl

/-- A scalar access. -/
theorem checksAccess_scalar {i : Instr} {k : AccKind} {ea : X} {data bs : List Byte}
    (hi : Finds i s st (memChk k (scW o.ty.toNat / 8) ea (blockParts (scalarBlk ea o data)) s st))
    (hbs : bs.length = Spec.size o) : ChecksAccess i k s st ea 0 (Spec.size o) [⟨ea.toNat, 0, bs⟩] := by
  refine ⟨_, hi, fun _ hmis => ?_, fun u hu hal => ?_⟩
  · rw [memChk_eq, scW_eq_size, if_neg fun h => hmis ⟨h, Nat.zero_mod _⟩]
  · cases hu
    have hsz := eltSize_size o
    refine ⟨{ va := ea.toNat, n := Spec.size o, pos := 0, data := data.take (Spec.size o) }, rfl, hbs.symm, hsz, hal.1, ?_⟩
    rw [memChk_eq, scW_eq_size, if_pos hal.1, scalarBlk, scW_eq_size, blockParts_one hsz.pos (hsz.fits hal.1 (by decide) (by decide))]

/-- A vector access with its pieces, which make its parts as a contiguous form, where whole is set, or each on its own. -/
theorem checksAccess_vector {i : Instr} {k : AccKind} {ea stride : X} {blks : List Blk} {whole : Bool} {l : List Spec.Unit}
    (hi : Finds i s st (vecChk k (Spec.es o) ea stride (Spec.units st o) (if whole then blockParts blks else blks.map (fun b => [b])) s st))
    (hl : l ≠ [] → Spec.units st o ≠ [])
    (hb : blks.map (fun b => (b.va, b.n)) = l.map (fun u => (u.va, u.bytes.length)))
    (hsz : ∀ u ∈ l, u.bytes.length = Spec.es o) (hva : AlignedTo ea stride (Spec.es o) → ∀ u ∈ l, u.va % Spec.es o = 0) :
    ChecksAccess i k s st ea stride (Spec.es o) l := by
  refine ⟨_, hi, fun hne hmis => ?_, fun u hu hal => ?_⟩
  · rw [vecChk, if_neg (hl hne), if_pos (by rw [← not_and_or]; exact hmis)]
  · subst hu
    have hes := eltSize_es o
    obtain ⟨b, rfl, hbu⟩ := List.map_eq_singleton_iff.1 hb
    obtain ⟨hbva, hbn⟩ := Prod.mk.inj hbu
    have hn := hsz u (List.mem_singleton_self u)
    have hal' := hva hal u (List.mem_singleton_self u)
    rw [vecChk, if_neg (hl (by simp)), if_neg (by rw [← not_and_or, not_not]; exact hal)]
    cases whole with
    | false => exact ⟨b, hbva, hbn, hbn ▸ hn ▸ hes, by rwa [hbn, hn, hbva], rfl⟩
    | true =>
      have hfit : b.va % 65536 + b.n ≤ 65536 := by rw [hbn, hn, hbva]; exact hes.fits hal' (by decide) (by decide)
      exact ⟨{ b with data := b.data.take b.n }, hbva, hbn, hbn ▸ hn ▸ hes, by dsimp only; rwa [hbn, hn, hbva],
        by rw [if_pos rfl, blockParts_one (by rw [hbn, hn]; exact hes.pos) hfit]⟩

end

/-! ### What an access of one piece meets -/

section
variable {p : Pkg} {st : Strand} {k : AccKind} {b : Blk}

theorem regionStop_ne_range (b : Blk) (v : X) : regionStop b ≠ some (.trap 0x12 v) := by
  unfold regionStop
  split
  · simp
  · split <;> simp
  · simp

theorem blkStop_ne_range (p : Pkg) (st : Strand) (k : AccKind) (b : Blk) (v : X) : blkStop p st k b ≠ some (.trap 0x12 v) := by
  unfold blkStop
  dsimp only
  split
  · simp
  · split <;> simp
  · split
    · simp
    · split <;> simp
  · split
    · simp
    · split
      · simp
      · split <;> simp

/-- The checks of an access of one piece: its region, its page, then the ranges (R271). -/
theorem accStop_one (p : Pkg) (st : Strand) (k : AccKind) (b : Blk) :
    accStop p st k [[b]] = ((regionStop b).or (blkStop p st k b)).or (rangeStop p st k b) := by
  have hpart : [[b]].findSome? (partStop p st k) = ((regionStop b).or (blkStop p st k b)).or (rangeStop p st k b) := by simp [partStop]
  rw [accStop, hpart]
  cases hr : regionStop b with
  | some w =>
    split
    · next v hv => exact absurd (hr.trans hv) (regionStop_ne_range b v)
    · rfl
  | none =>
    cases hb : blkStop p st k b with
    | some w =>
      split
      · next v hv => exact absurd (hb.trans hv) (blkStop_ne_range p st k b v)
      · rfl
    | none =>
      cases hh : rangeHit p st k b with
      | none => simp [rangeStop, hh]
      | some a => simp [rangeStop, hh, minOf]

theorem accStop_one_region {w : Stop} (hr : regionStop b = some w) : accStop p st k [[b]] = some w := by
  rw [accStop_one, hr]; rfl

theorem accStop_one_page {w : Stop} (hr : regionStop b = none) (hb : blkStop p st k b = some w) : accStop p st k [[b]] = some w := by
  rw [accStop_one, hr, hb]; rfl

theorem accStop_one_range {a : Nat} (hr : regionStop b = none) (hb : blkStop p st k b = none) (hh : rangeHit p st k b = some a) :
    accStop p st k [[b]] = some (.trap 0x12 (BitVec.ofNat 64 a)) := by
  rw [accStop_one, hr, hb, rangeStop, hh]; rfl

/-! ### Regions and pages -/

theorem locOf_bad {va : Nat} (h : 0x7F0000601000 ≤ va) : locOf va = .bad := by
  unfold locOf windowBase noticeBase
  rw [if_neg (by omega), if_neg (by omega), if_neg (by omega)]

theorem locOf_notice {va : Nat} (h : 0x7F0000600000 ≤ va) (h' : va < 0x7F0000601000) : locOf va = .notice (va - 0x7F0000600000) := by
  unfold locOf windowBase noticeBase
  rw [if_neg (by omega), if_neg (by omega), if_pos (by omega)]

theorem locOf_window {va : Nat} (h : 0x7F0000000000 ≤ va) (h' : va < 0x7F0000600000) :
    locOf va = .window ((va - 0x7F0000000000) / 2 ^ 18) ((va - 0x7F0000000000) % 2 ^ 18) := by
  unfold locOf windowBase noticeBase
  rw [if_neg (by omega), if_pos (by omega)]

theorem locOf_general {va : Nat} (h : va < 0x7F0000000000) : locOf va = .general := if_pos h

theorem regionStop_window (h : 0x7F0000000000 ≤ b.va) (h' : b.va < 0x7F0000600000) : regionStop b = none := by
  rw [regionStop, locOf_window h h']

theorem regionStop_general (h : b.va < 0x7F0000000000) : regionStop b = none := by
  rw [regionStop, locOf_general h]

theorem regionStop_notice (h : 0x7F0000600000 ≤ b.va) (h' : b.va + b.n ≤ 0x7F0000601000) (hn : 0 < b.n) : regionStop b = none := by
  rw [regionStop, locOf_notice h (by omega)]
  exact if_neg (by omega)

/-- In a general page: no translation held, or no permission (R92, R386). -/
theorem blkStop_walk (h : b.va < 0x7F0000000000) (ht : p.tlbHit st.core (p.crew st.crew).launch b.va = none) :
    blkStop p st k b = some (.block (.walk b.va k.code)) := by
  simp only [blkStop, locOf_general h, ht]

theorem permOk_denied {sup : Bool} {flags : Nat} (h : (flags.testBit 11 = true ∧ sup = false) ∨ (k ≠ .store ∧ flags.testBit 1 = false)
    ∨ (k ≠ .load ∧ flags.testBit 2 = false) ∨ (k = .atomic ∧ flags / 2 ^ 7 % 4 = 3)) : permOk sup flags k.code = false := by
  have hf : fieldN flags 8 7 = flags / 2 ^ 7 % 4 := rfl
  cases k <;> simp_all [permOk, bitN_eq_testBit, AccKind.code] <;> grind

theorem blkStop_denied {t : Tlb} (h : b.va < 0x7F0000000000) (ht : p.tlbHit st.core (p.crew st.crew).launch b.va = some t)
    (hp : permOk st.sup t.flags k.code = false) : blkStop p st k b = some (.trap 0x11 (BitVec.ofNat 64 b.va)) := by
  simp only [blkStop, locOf_general h, ht, hp, Bool.not_false, if_true]

theorem blkStop_outside (h : 0x7F0000000000 ≤ b.va) (h' : b.va < 0x7F0000600000)
    (ho : (p.launch (p.crew st.crew).launch).cpc ≤ (b.va - 0x7F0000000000) / 2 ^ 18
      ∨ (p.launch (p.crew st.crew).launch).spad < (b.va - 0x7F0000000000) % 2 ^ 18 + b.n) :
    blkStop p st k b = some (.trap 0x13 (BitVec.ofNat 64 b.va)) := by
  have hw : p.inWin st.crew ((b.va - 0x7F0000000000) / 2 ^ 18) ((b.va - 0x7F0000000000) % 2 ^ 18) b.n = false := by
    simp only [Pkg.inWin, Bool.and_eq_false_iff, decide_eq_false_iff_not, Nat.not_lt, Nat.not_le]
    exact ho
  simp only [blkStop, locOf_window h h', hw, Bool.false_eq_true, if_false]

theorem blkStop_notice (h : 0x7F0000600000 ≤ b.va) (h' : b.va + b.n ≤ 0x7F0000601000) (hn : 0 < b.n) (hk : k ≠ .load ∨ 0x7F0000600248 < b.va + b.n) :
    blkStop p st k b = some (.trap 0x13 (BitVec.ofNat 64 b.va)) := by
  simp only [blkStop, locOf_notice h (show b.va < 0x7F0000601000 by omega)]
  rw [if_neg (by omega), if_neg]
  rintro ⟨hl, hin⟩
  rcases hk with hk | hk
  · exact hk hl
  · omega

/-! ### Ranges -/

theorem minOf_eq {l : List Nat} {a : Nat} (h : a ∈ l) (hle : ∀ x ∈ l, a ≤ x) : minOf l = some a := by
  cases l with
  | nil => cases h
  | cons x l =>
    have hmin : ∀ (l : List Nat) (x : Nat), a ∈ x :: l → (∀ y ∈ x :: l, a ≤ y) → l.foldl min x = a := by
      intro l
      induction l with
      | nil => intro x hx _; exact (List.mem_singleton.1 hx).symm
      | cons y l ih =>
        intro x hx hall
        refine ih (min x y) ?_ ?_
        · rw [List.mem_cons] at hx ⊢
          rcases hx with rfl | hx
          · exact .inl (min_eq_left (hall y (by simp))).symm
          · rcases List.mem_cons.1 hx with rfl | hx
            · exact .inl (min_eq_right (hall x (by simp))).symm
            · exact .inr hx
        · refine List.forall_mem_cons.2 ⟨le_min (hall x (by simp)) (hall y (by simp)), fun z hz => hall z (by simp [hz])⟩
    exact congrArg some (hmin l x h hle)

/-- The first byte of a piece inside an entry that refuses it is the lowest inside any. -/
theorem rangeHit_first {r : Range} (hr : r ∈ p.ranges ++ p.wanted) (hl : r.launch = (p.crew st.crew).launch) (hm : r.mode = 2 ∨ k ≠ .load)
    (hlo : r.base * 64 ≤ b.va) (hhi : b.va < (r.base + r.units) * 64) (hn : 0 < b.n) : rangeHit p st k b = some b.va := by
  refine minOf_eq (List.mem_map.2 ⟨r, List.mem_filter.2 ⟨hr, ?_⟩, max_eq_left hlo⟩) fun x hx => ?_
  · have hlt : r.base * 64 < b.va + b.n := by omega
    simp only [hl, hlt, hhi, beq_self_eq_true, decide_true, Bool.true_and, Bool.and_true, Bool.or_eq_true, beq_iff_eq, decide_eq_true_eq]
    exact hm
  · obtain ⟨r', -, rfl⟩ := List.mem_map.1 hx
    exact le_max_left _ _

/-- An accessible aligned piece is in a region. -/
theorem regionStop_accessible (ha : Spec.Accessible p st k b.va b.n) (hn : EltSize b.n) : regionStop b = none := by
  have h0 := hn.pos
  rcases ha.1 b.va le_rfl (by omega) with ⟨hg, -⟩ | ⟨hlo, hhi, -⟩ | ⟨-, hlo, hhi⟩
  · exact regionStop_general hg
  · exact regionStop_window hlo hhi
  · exact regionStop_notice hlo (by rcases hn with h | h | h | h <;> omega) h0

end

/-! ### Every access -/

section
variable {s : State} {st : Strand} {o : MOps}

theorem specBytes_length (n v : Nat) : (Spec.bytes n v).length = n := by simp [Spec.bytes]

/-- A unit of a row of aligned elements is aligned. -/
theorem row_aligned {a u n : Nat} (h : a % n = 0) : (a + u * n) % n = 0 := by simp [h]

/-- A unit at an aligned stride is aligned. -/
theorem strided_aligned {a stride : X} {n u : Nat} (hn : EltSize n) (h : AlignedTo a stride n) :
    (a + stride * BitVec.ofNat 64 u).toNat % n = 0 := by
  obtain ⟨ha, hs⟩ := h
  have hd : n ∣ 2 ^ 64 := by rcases hn with rfl | rfl | rfl | rfl <;> decide
  rw [BitVec.toNat_add, BitVec.toNat_mul, Nat.mod_mod_of_dvd _ hd, Nat.add_mod, ha, Nat.mod_mod_of_dvd _ hd, Nat.mul_mod, hs]
  simp

theorem checksAccess_load {i : Instr} {sz : Nat} {l : List Spec.Unit} {ea stride : X} {al : Nat}
    (h : Spec.load st i = some (o, ea, al, stride, sz, l)) : ChecksAccess i .load s st ea stride al l := by
  cases i <;> simp only [Spec.load, Option.some.injEq, Prod.mk.injEq, reduceCtorEq] at h <;> obtain ⟨rfl, rfl, rfl, rfl, rfl, rfl⟩ := h
  case ldx =>
    rw [← eaX_eq]
    exact checksAccess_scalar ⟨_, _, by rfl, by rfl⟩ List.length_replicate
  case ldv o =>
    refine checksAccess_vector (whole := true) (by rw [← esOf_eq, ← unitsOn_eq, ← eaX_eq]; exact ⟨_, _, by rfl, by rfl⟩) ?_ ?_ ?_ ?_
    · simp
    · simp [rowBlks, unitsOn_eq, esOf_eq, eaX_eq]
    · simp
    · rintro ⟨hal, -⟩ u hu
      obtain ⟨w, -, rfl⟩ := List.mem_map.1 hu
      exact row_aligned hal
  case ldvs o =>
    refine checksAccess_vector (whole := false) (by rw [← esOf_eq, ← unitsOn_eq, ← eaN_eq]; exact ⟨_, _, by rfl, by rfl⟩) ?_ ?_ ?_ ?_
    · intro hl hu
      simp [hu] at hl
    · simp [strideBlks, unitsOn_eq, esOf_eq, eaN_eq]
    · simp
    · intro hal u hu
      obtain ⟨w, -, rfl⟩ := List.mem_map.1 hu
      exact strided_aligned (eltSize_es o) hal
  case ldvb o =>
    refine checksAccess_vector (whole := true) (by rw [← esOf_eq, ← unitsOn_eq, ← eaX_eq]; exact ⟨_, _, by rfl, by rfl⟩) ?_ ?_ ?_ ?_
    · intro hl hu
      exact hl (if_pos hu)
    · simp only [unitsOn_eq, esOf_eq, eaX_eq]
      split <;> simp
    · intro u hu
      split at hu
      · cases hu
      · rw [List.mem_singleton.1 hu, List.length_replicate]
    · rintro ⟨hal, -⟩ u hu
      split at hu
      · cases hu
      · rw [List.mem_singleton.1 hu]
        exact hal

theorem checksAccess_store {i : Instr} {sz : Nat} {l : List Spec.Unit} {ea stride : X} {al : Nat}
    (h : Spec.store st i = some (o, ea, al, stride, sz, l)) : ChecksAccess i .store s st ea stride al l := by
  cases i <;> simp only [Spec.store, Option.some.injEq, Prod.mk.injEq, reduceCtorEq] at h <;> obtain ⟨rfl, rfl, rfl, rfl, rfl, rfl⟩ := h
  case stx =>
    rw [← eaX_eq]
    exact checksAccess_scalar ⟨_, _, by rfl, by rfl⟩ (specBytes_length _ _)
  case stv o =>
    refine checksAccess_vector (whole := true) (by rw [← esOf_eq, ← unitsOn_eq, ← eaX_eq]; exact ⟨_, _, by rfl, by rfl⟩) ?_ ?_ ?_ ?_
    · simp
    · simp [rowBlks, unitsOn_eq, esOf_eq, eaX_eq, specBytes_length]
    · simp [specBytes_length]
    · rintro ⟨hal, -⟩ u hu
      obtain ⟨w, -, rfl⟩ := List.mem_map.1 hu
      exact row_aligned hal
  case stvs o =>
    refine checksAccess_vector (whole := false) (by rw [← esOf_eq, ← unitsOn_eq, ← eaN_eq]; exact ⟨_, _, by rfl, by rfl⟩) ?_ ?_ ?_ ?_
    · simp
    · simp [strideBlks, unitsOn_eq, esOf_eq, eaN_eq, specBytes_length]
    · simp [specBytes_length]
    · intro hal u hu
      obtain ⟨w, -, rfl⟩ := List.mem_map.1 hu
      exact strided_aligned (eltSize_es o) hal
  case stvm o =>
    refine checksAccess_vector (whole := true) (by rw [← esOf_eq, ← unitsOn_eq, ← eaX_eq]; exact ⟨_, _, by rfl, by rfl⟩) ?_ ?_ ?_ ?_
    · simp
    · simp [packBlks, unitsOn_eq, esOf_eq, eaX_eq, specBytes_length]
    · intro u hu
      obtain ⟨w, -, rfl⟩ := List.mem_map.1 hu
      exact specBytes_length _ _
    · rintro ⟨hal, -⟩ u hu
      obtain ⟨w, -, rfl⟩ := List.mem_map.1 hu
      exact row_aligned hal

theorem checksAccess_atomic {i : Instr} {op : Nat} {ea : X}
    (h : Spec.atomic st i = some (o, op, ea)) : ChecksAccess i .atomic s st ea 0 (Spec.size o) [⟨ea.toNat, 0, List.replicate (Spec.size o) 0⟩] := by
  cases i <;> simp only [Spec.atomic, Option.some.injEq, Prod.mk.injEq, reduceCtorEq] at h <;> obtain ⟨rfl, -, rfl⟩ := h
  case acas => exact checksAccess_scalar ⟨_, _, by rfl, by rfl⟩ List.length_replicate
  all_goals
    rw [← eaX_eq]
    exact checksAccess_scalar ⟨_, _, by rfl, by rfl⟩ List.length_replicate

theorem checksAccess_of {i : Instr} {k : AccKind} {sz : Nat} {l : List Spec.Unit} {ea stride : X} {al : Nat}
    (h : (k = .load ∧ Spec.load st i = some (o, ea, al, stride, sz, l)) ∨ (k = .store ∧ Spec.store st i = some (o, ea, al, stride, sz, l))
      ∨ (k = .atomic ∧ (∃ op, Spec.atomic st i = some (o, op, ea)) ∧ al = Spec.size o ∧ stride = 0
          ∧ l = [⟨ea.toNat, 0, List.replicate (Spec.size o) 0⟩])) : ChecksAccess i k s st ea stride al l := by
  rcases h with ⟨rfl, h⟩ | ⟨rfl, h⟩ | ⟨rfl, ⟨op, h⟩, rfl, rfl, rfl⟩
  · exact checksAccess_load h
  · exact checksAccess_store h
  · exact checksAccess_atomic h

end

end Sys2Proof.Machine
end

section
/-! Where an access traps (O29). -/

namespace Sys2Proof.Machine

/-- Settles O29: alignment comes first, and an access of one piece takes what its region, its page and the ranges give, in this order. -/
theorem scalarAccessChecks : Obligations.ScalarAccessChecks := by
  unfold Obligations.ScalarAccessChecks
  intro i k s st o ea stride al sz l hi hs hl
  obtain ⟨w, ⟨chk, eff, hexec, rfl⟩, hmis, hone⟩ := checksAccess_of hi
  have stops {w : Stop} (hw : chk s st = some w) : exec i s = .next (s.withPkg (s.pkg.stopAt s.er s.focus st w)) :=
    hexec.trans (onUnit_ready_stop hs rfl rfl hw)
  refine ⟨fun hna => stops (hmis hl hna), fun u hu => ?_⟩
  intro n a ln traps hal
  obtain ⟨b, hva, hn, hsz, hmod, hchk⟩ := hone u hu hal
  have ha : a = b.va := hva.symm
  have hnb : n = b.n := hn.symm
  clear_value a n
  subst ha hnb
  have hpos := hsz.pos
  have hfit : b.va % 65536 + b.n ≤ 65536 := hsz.fits hmod (by decide) (by decide)
  have hlow : b.va % 4096 + b.n ≤ 4096 := hsz.fits hmod (by decide) (by decide)
  have region {w : Stop} (hr : regionStop b = some w) := stops (hchk.trans (accStop_one_region hr))
  have page {w : Stop} (hr : regionStop b = none) (hb : blkStop s.pkg st k b = some w) := stops (hchk.trans (accStop_one_page hr hb))
  refine ⟨fun h => region (w := .trap 0x10 (BitVec.ofNat 64 b.va)) ?_, fun h h' hk => ?_, fun h h' ho => ?_, fun t hg ht hp => ?_,
    fun r hr hacc hln hm hlo hhi => ?_, fun hg ht => ?_⟩
  · simp only [regionStop, locOf_bad h]
  · have hin : b.va + b.n ≤ 0x7F0000601000 := by omega
    exact page (regionStop_notice h hin hpos) (blkStop_notice h hin hpos hk)
  · exact page (regionStop_window h h') (blkStop_outside h h' ho)
  · exact page (regionStop_general hg) (blkStop_denied hg ht (permOk_denied hp))
  · have hb : blkStop s.pkg st k b = none :=
      blkStop_of_accessible (p := { s.pkg with ranges := [], wanted := [] }) hacc hpos le_rfl le_rfl hfit
    exact stops (hchk.trans (accStop_one_range (regionStop_accessible hacc hsz) hb (rangeHit_first hr hln hm hlo hhi hpos)))
  · exact page (regionStop_general hg) (blkStop_walk hg ht)

end Sys2Proof.Machine
end

section
/-! SUPPORT. Objects of the window that a unit operation names (R280, R285): the checks of the object, its place, and what an accepted one lets pass. -/

namespace Sys2Proof.Machine

section
variable {s : State} {st : Strand} {a : X} {n : Nat} {notice : Bool}

theorem inWin_iff_inWindow {va m : Nat} (h : 0x7F0000000000 ≤ va) (h' : va < 0x7F0000600000) :
    s.pkg.inWin st.crew ((va - 0x7F0000000000) / 2 ^ 18) ((va - 0x7F0000000000) % 2 ^ 18) m = true ↔ Spec.inWindow s st va m := by
  simp only [Pkg.inWin, Bool.and_eq_true, decide_eq_true_eq, Spec.inWindow]
  exact ⟨fun hw => ⟨h, h', hw⟩, fun hw => hw.2.2⟩

/-- The unit's checks of the object: its alignment, then its place. -/
theorem objStop_misaligned (h : a.toNat % n ≠ 0) : objStop s.pkg st a n n notice = some (.trap 0x08 a) := by
  rw [objStop, alignStop, if_neg h]; rfl

theorem objStop_bad (h : a.toNat % n = 0) (hb : 0x7F0000601000 ≤ a.toNat) : objStop s.pkg st a n n notice = some (.trap 0x10 a) := by
  simp only [objStop, alignStop, if_pos h, locOf_bad hb, Option.none_or]

theorem objStop_outside (h : a.toNat % n = 0) (hb : a.toNat < 0x7F0000601000) (hw : ¬ Spec.inWindow s st a.toNat n)
    (hn : ¬(notice = true ∧ a.toNat = 0x7F0000600000)) : objStop s.pkg st a n n notice = some (.trap 0x13 a) := by
  simp only [objStop, alignStop, if_pos h, Option.none_or]
  by_cases hg : a.toNat < 0x7F0000000000
  · simp only [locOf_general hg]
  · by_cases hlt : a.toNat < 0x7F0000600000
    · simp only [locOf_window (Nat.le_of_not_lt hg) hlt, inWin_iff_inWindow (Nat.le_of_not_lt hg) hlt, if_neg hw]
    · simp only [locOf_notice (Nat.le_of_not_lt hlt) hb]
      rw [if_neg fun h => hn ⟨h.1, by omega⟩]

theorem objStop_inside (h : a.toNat % n = 0) (hw : Spec.inWindow s st a.toNat n ∨ (notice = true ∧ a.toNat = 0x7F0000600000)) :
    objStop s.pkg st a n n notice = none := by
  simp only [objStop, alignStop, if_pos h, Option.none_or]
  rcases hw with hw | ⟨hn, ha⟩
  · simp only [locOf_window hw.1 hw.2.1, inWin_iff_inWindow hw.1 hw.2.1, if_pos hw]
  · simp only [ha, locOf_notice (va := 0x7F0000600000) le_rfl (by decide), hn, Nat.sub_self, and_self, if_true]

/-- An operation that stops where its object does traps for its object's address. -/
theorem objectTraps_of {i : Instr} {o : MOps} (h : ∀ w, objStop s.pkg st (eaN st o) n n notice = some w →
    exec i s = .next (s.withPkg (s.pkg.stopAt s.er s.focus st w))) : Spec.ObjectTraps i s st o n notice :=
  ⟨fun hm => h _ (objStop_misaligned hm), fun hm hb => h _ (objStop_bad hm hb), fun hm hb hw hn => h _ (objStop_outside hm hb hw hn)⟩

theorem objKey_window {va : Nat} (ha : a.toNat = va) (hlo : 0x7F0000000000 ≤ va) (hhi : va < 0x7F0000600000) :
    objKey s.pkg st a = Spec.place s.pkg st va := by
  rw [Spec.place, if_neg (by omega), if_pos hlo]
  simp only [objKey, ha, locOf_window hlo hhi, Crew.winKey, spadKey]

theorem objKey_notice (ha : a.toNat = 0x7F0000600000) : objKey s.pkg st a = Spec.place s.pkg st a.toNat := by
  rw [Spec.place, if_pos (by omega)]
  simp only [objKey, ha, locOf_notice (va := 0x7F0000600000) le_rfl (by decide), noticeKey]

end

section
variable {s : State} {st : Strand} {a : X} {n : Nat} {notice : Bool} (h : Spec.Object s st a.toNat n notice)
include h

theorem objStop_object : objStop s.pkg st a n n notice = none := objStop_inside h.1 h.2.1

theorem objKey_object : objKey s.pkg st a = Spec.place s.pkg st a.toNat := by
  rcases h.2.1 with hw | ⟨-, ha⟩
  · exact objKey_window rfl hw.1 hw.2.1
  · exact objKey_notice ha

/-- Nothing that the operation is ordered after is left. -/
theorem unitStop_object (ord : UnitOrder) (k m : Nat) : unitStop s.pkg st ord k m = none := by
  obtain ⟨-, -, ho, hp, -⟩ := h
  rw [unitStop, Pkg.popAhead_none hp, ho]
  rfl

theorem poisoned_object (k m : Nat) : s.pkg.poisoned k m = none := by
  obtain ⟨-, -, -, -, hq, -⟩ := h
  rw [Pkg.poisoned, List.filter_eq_nil_iff.2 fun q hm => by simp only [decide_eq_false (Nat.not_lt.2 (hq q hm)), Bool.false_and, Bool.false_eq_true,
    not_false_eq_true]]
  rfl

theorem unitUpset_object (k m : Nat) : unitUpset s.pkg st k m = none := by rw [unitUpset, poisoned_object h]; rfl

theorem deadObj_object : deadObj s.pkg st (Spec.place s.pkg st a.toNat) = false := by
  obtain ⟨-, -, -, -, -, hd⟩ := h
  simp only [deadObj, Pkg.deadCore, Bool.and_eq_false_iff, decide_eq_false_iff_not, bne_eq_false_iff_eq, Bool.or_eq_false_iff]
  by_cases hk : Spec.place s.pkg st a.toNat < 2 ^ 52
  · rcases hd hk with hc | ⟨hs, hn⟩
    · exact .inr (.inl hc)
    · exact .inr (.inr ⟨hs, hn⟩)
  · exact .inl hk

end

/-- The data field of a scalar M form. -/
theorem xd_toNat {o : MOps} (h : xData o = []) : o.xd.toNat = o.data.toNat := by
  have hlt : o.data.toNat < 32 := by
    rw [xData, below] at h
    by_contra hge
    rw [if_neg hge] at h
    cases h
  rw [MOps.xd, BitVec.toNat_setWidth, Nat.mod_eq_of_lt hlt]

/-! ### Records written -/

theorem Pkg.write_append (p : Pkg) (k : Nat) (a b : List Byte) : p.write k (a ++ b) = (p.write k a).write (k + a.length) b := by
  simp only [write, memWrite_append]

end Sys2Proof.Machine
end

section
/-! Galley words (O35). -/

namespace Sys2Proof.Machine

section
variable {o : MOps} {s : State} {st : Strand}

/-- The 16 bytes that GWINIT writes (R280). -/
def galleyInit (gen : Nat) (v : X) : List Byte :=
  toBytes 4 (bits v 31 0) ++ toBytes 4 0 ++ toBytes 2 gen ++ toBytes 1 (bits v 36 32) ++ toBytes 1 (bits v 41 37) ++ toBytes 2 (bits v 57 42) ++ toBytes 2 0

/-- The word of GWINIT, field by field (R103). -/
theorem galleyInit_fields (p : Pkg) (k gen : Nat) (v : X) :
    let q := p.write k (galleyInit gen v)
    q.num k 4 = v.toNat % 2 ^ 32 ∧ q.num (k + 4) 4 = 0 ∧ q.num (k + 8) 2 = gen % 2 ^ 16 ∧ q.num (k + 10) 1 = v.toNat / 2 ^ 32 % 32
    ∧ q.num (k + 11) 1 = v.toNat / 2 ^ 37 % 32 ∧ q.num (k + 12) 2 = v.toNat / 2 ^ 42 % 2 ^ 16 ∧ q.num (k + 14) 2 = 0 := by
  simp only [galleyInit, bits, Nat.shiftRight_eq_div_pow, Pkg.write_append, toBytes_length, List.length_append, Nat.reduceAdd]
  refine ⟨?_, ?_, ?_, ?_, ?_, ?_, ?_⟩
  all_goals
    repeat rw [Pkg.num_write_apart _ _ _ _ _ (by simp only [toBytes_length]; omega)]
    rw [Pkg.num_write_same]
    omega

theorem xData_of_gwinit {lits : List Nat} (h : WellFormed lits (.gwinit o)) : xData o = [] := by
  have hb : mBad 0x63 o = [] := h.2
  simp only [mBad, List.append_eq_nil_iff, and_assoc] at hb
  obtain ⟨-, -, hx, -⟩ := hb
  exact hx

theorem xData_of_gwwait {lits : List Nat} (h : WellFormed lits (.gwwait o)) : xData o = [] := by
  have hb : mBad 0x64 o = [] := h.2
  simp only [mBad, List.append_eq_nil_iff, and_assoc] at hb
  obtain ⟨-, -, hx, -⟩ := hb
  exact hx

theorem gwinit_traps_object (h : SlotReady (.gwinit o) s st) : Spec.ObjectTraps (.gwinit o) s st o 16 false := by
  refine objectTraps_of fun w hw => ?_
  show execGwinit o s = _
  unfold execGwinit
  exact onUnit_ready_stop h rfl rfl (by rw [hw]; rfl)

theorem gwwait_traps_object (h : SlotReady (.gwwait o) s st) : Spec.ObjectTraps (.gwwait o) s st o 16 false := by
  refine objectTraps_of fun w hw => ?_
  show execGwwait o s = _
  unfold execGwwait
  exact onUnit_ready_stop h rfl rfl hw

theorem gwinit_traps_fcore (h : SlotReady (.gwinit o) s st) (hal : (eaN st o).toNat % 16 = 0) (hw : Spec.inWindow s st (eaN st o).toNat 16)
    (hf : (s.pkg.launchOf st).cpc ≤ bits (st.getX o.xd.toNat) 41 37) :
    Spec.Traps (.gwinit o) s st 0x13 (BitVec.ofNat 64 (bits (st.getX o.xd.toNat) 41 37)) := by
  show execGwinit o s = _
  unfold execGwinit
  refine onUnit_ready_stop (w := .trap 0x13 _) h rfl rfl ?_
  rw [objStop_inside hal (.inl hw), if_pos hf]
  rfl

/-- The package after GWINIT. -/
def Pkg.galleyInited (p : Pkg) (u k : Nat) (v : X) : Pkg := ((p.write k (galleyInit (p.num (k + 8) 2) v)).clearPoison k 8).dropEarlyAt u k 16

theorem Pkg.galleyInited_mem (p : Pkg) (u k : Nat) (v : X) :
    (p.galleyInited u k v).mem = (p.write k (galleyInit (p.num (k + 8) 2) v)).mem := rfl

theorem Pkg.galleyInited_fields (p : Pkg) (u k : Nat) (v : X) :
    let q := p.galleyInited u k v
    q.num k 4 = v.toNat % 2 ^ 32 ∧ q.num (k + 4) 4 = 0 ∧ q.num (k + 8) 2 = p.num (k + 8) 2 ∧ q.num (k + 10) 1 = v.toNat / 2 ^ 32 % 32
    ∧ q.num (k + 11) 1 = v.toNat / 2 ^ 37 % 32 ∧ q.num (k + 12) 2 = v.toNat / 2 ^ 42 % 2 ^ 16 ∧ q.num (k + 14) 2 = 0 := by
  intro q
  have hq (a n : Nat) : q.num a n = (p.write k (galleyInit (p.num (k + 8) 2) v)).num a n :=
    num_congr fun x _ _ => byte_of_mem (p.galleyInited_mem u k v) x
  simp only [hq]
  have hgen : p.num (k + 8) 2 % 2 ^ 16 = p.num (k + 8) 2 := Nat.mod_eq_of_lt (p.num_lt (k + 8) 2)
  have h := galleyInit_fields p k (p.num (k + 8) 2) v
  rwa [hgen] at h

theorem Pkg.galleyInited_byte (p : Pkg) (u k : Nat) (v : X) {j : Nat} (hj : ¬(k ≤ j ∧ j < k + 16)) : (p.galleyInited u k v).byte j = p.byte j :=
  (byte_of_mem (p.galleyInited_mem u k v) j).trans (byte_write_out _ _ _ _ hj)

theorem Pkg.galleyInited_strands (p : Pkg) (u k : Nat) (v : X) : (p.galleyInited u k v).strands = p.strands := rfl

theorem gwinit_done (h : SlotReady (.gwinit o) s st) (hob : Spec.Object s st (eaN st o).toNat 16 false)
    (hf : bits (st.getX o.xd.toNat) 41 37 < (s.pkg.launchOf st).cpc) :
    exec (.gwinit o) s = .next (s.unitDone (.gwinit o) st
      (s.pkg.galleyInited s.focus (Spec.place s.pkg st (eaN st o).toNat) (st.getX o.xd.toNat)) (Spec.updated st st o 16)) := by
  show execGwinit o s = _
  unfold execGwinit
  refine onUnit_ready h rfl rfl ?_ ?_
  · rw [objStop_object hob, if_neg (Nat.not_le.2 hf)]
    rfl
  · simp only [objKey_object hob, unitStop_object hob, unitUpset_object hob, Option.none_or, deadObj_object hob, Bool.false_eq_true, if_false,
      Strand.update, Strand.updateFrom_eq]
    rfl

theorem gwwait_returns (h : SlotReady (.gwwait o) s st) (hob : Spec.Object s st (eaN st o).toNat 16 false) (hg : st.grant = none)
    (hne : s.pkg.num (Spec.place s.pkg st (eaN st o).toNat + 8) 2 ≠ bits (st.getX o.ix.toNat) 15 0) :
    exec (.gwwait o) s = .next (s.unitDone (.gwwait o) st (s.pkg.forget s.focus)
      { Spec.updated st (st.mResult o (BitVec.ofNat 64 (s.pkg.num (Spec.place s.pkg st (eaN st o).toNat + 8) 2))) o 16 with acqAt := s.pkg.tick }) := by
  show execGwwait o s = _
  unfold execGwwait
  refine onUnit_ready h rfl rfl (objStop_object hob) ?_
  simp only [hg, objKey_object hob, unitStop_object hob, unitUpset_object hob, Option.none_or, deadObj_object hob, Bool.false_eq_true, if_false,
    if_pos hne, Strand.updateFrom_eq]
  rfl

theorem gwwait_waits (h : SlotReady (.gwwait o) s st) (hob : Spec.Object s st (eaN st o).toNat 16 false) (hg : st.grant = none)
    (heq : s.pkg.num (Spec.place s.pkg st (eaN st o).toNat + 8) 2 = bits (st.getX o.ix.toNat) 15 0) :
    let k := Spec.place s.pkg st (eaN st o).toNat
    exec (.gwwait o) s = .next (s.withPkg (({ s.pkg with unitWaits := s.pkg.unitWaits ++
      [{ strand := s.focus, key := k, va := (eaN st o).toNat, kind := 2, gen := s.pkg.num (k + 8) 2 }] } : Pkg).setStrand s.focus
        { st with run := .blocked .galley, grant := none })) := by
  show execGwwait o s = _
  unfold execGwwait
  refine onUnit_wait h rfl rfl (objStop_object hob) ?_
  simp only [hg, objKey_object hob, unitStop_object hob, unitUpset_object hob, Option.none_or, deadObj_object hob, Bool.false_eq_true, if_false]
  rw [if_neg (not_not.2 heq), heq]

end

/-- Settles O35: an accepted object lets its operation pass to what its word says, and a stop of the object is the operation's. -/
theorem galleyOperations : Obligations.GalleyOperations := by
  unfold Obligations.GalleyOperations
  intro o s st va k v hg
  have hgen : (st.getX o.ix.toNat).toNat % 2 ^ 16 = bits (st.getX o.ix.toNat) 15 0 := by simp [bits]
  have hcore (hx : xData o = []) : v / 2 ^ 37 % 32 = bits (st.getX o.xd.toNat) 41 37 := by
    simp only [bits, Nat.shiftRight_eq_div_pow, xd_toNat hx, v, Nat.reducePow, Nat.reduceAdd, Nat.reduceSub]
  refine ⟨gwinit_traps_object, gwwait_traps_object, fun h hal hw hf => ?_, fun hob => ⟨fun h hf => ?_, fun h => ⟨fun hne => ?_, fun heq => ?_⟩⟩⟩
  · rw [hcore (xData_of_gwinit h.2.2.2.1)] at hf ⊢
    exact gwinit_traps_fcore h hal hw hf
  · have hx := xData_of_gwinit h.2.2.2.1
    rw [hcore hx] at hf
    have hd := gwinit_done h hob hf
    rw [xd_toNat hx] at hd
    obtain ⟨h0, h4, h8, h10, h11, h12, h14⟩ := s.pkg.galleyInited_fields s.focus k (st.getX o.data.toNat)
    exact ⟨_, hd, h0, h4, h8, h10, h11, h12, h14, fun j hj => Pkg.galleyInited_byte _ _ _ _ hj, Pkg.galleyInited_strands ..⟩
  · exact gwwait_returns h hob hg (hgen ▸ hne)
  · exact gwwait_waits h hob hg (heq.trans hgen)

end Sys2Proof.Machine
end

section
/-! A ring beyond the window (O36). -/

namespace Sys2Proof.Machine

set_option Elab.async false

/-- ENQ of x1 to the ring at x2. -/
def farEnq : Instr := .enqX ⟨1, 0, 1, 0, 2, 0, 0, 0, 0, 0⟩

/-- The strand at that slot: x1 holds the element 1, x2 the descriptor's address. -/
def farStrand : Strand :=
  (({ bun := { slot := 4, cur := [(4, encode farEnq)], granted := true, started := true }, phase := .issue } : Strand).setX 1 1).setX 2 0x7F0000000000

/-- A launch with 32 positions of 511 KiB, more than the 256 KiB that a position has of the window. -/
def farLaunch : Launch :=
  { queue := 0, packet := List.replicate 24 0 ++ toBytes 8 (31 * 2 ^ 57 + 511 * 2 ^ 44) ++ List.replicate 32 0, headed := true, placing := false, nextCrew := 1 }

/-- A ring at the start of position 0, of 4096 slots of 64 bytes from the last KiB of position 23 on; HEAD and TAIL are 100, and slot 100
lies beyond every region. -/
def farRing : List Byte := toBytes 8 0x7F00005FFC00 ++ toBytes 4 100 ++ toBytes 4 100 ++ [0x6C, 1]

def farState : State :=
  { State.reset with
    pkg := ({ State.reset.pkg with
      strands := [(0, farStrand)], cores := [(0, { res := [(0, 0)], cur := some 0 })]
      crews := [(0, { launch := 0, index := 0, cluster := 0, cores := [0], spad := [0] })]
      launches := [(0, farLaunch)] } : Pkg).write (spadKey 0 0) farRing }

theorem farState_ready : SlotReady farEnq farState farStrand := by
  refine ⟨?_, ?_, ?_, ?_, ?_, ?_, ?_, ?_, ?_, ?_⟩
  all_goals decide +kernel

theorem farState_object : Spec.Object farState farStrand 0x7F0000000000 32 false := by
  refine ⟨?_, .inl ⟨?_, ?_, ?_, ?_⟩, ?_, ?_, ?_, fun _ => .inl ?_⟩
  all_goals decide +kernel

theorem farState_place : Spec.place farState.pkg farStrand 0x7F0000000000 = spadKey 0 0 := by decide +kernel

theorem farState_ring : Spec.Ring farState farStrand 0x7F0000000000 (spadKey 0 0) := by
  refine ⟨?_, .inl ⟨?_, ?_, ?_, ?_⟩⟩
  all_goals decide +kernel

theorem farState_closed : Spec.closed farState.pkg (spadKey 0 0) = false := by decide +kernel

/-- The ring has room at slot 100. -/
theorem farState_occ : (Spec.tail farState.pkg (spadKey 0 0) + 2 ^ 32 - Spec.head farState.pkg (spadKey 0 0)) % 2 ^ 32
    < Spec.cap farState.pkg (spadKey 0 0) := by decide +kernel

/-- The byte at address 0 after an instruction. -/
def byteZero : Out → Byte
  | .next t => t.pkg.byte 0
  | _ => 0

/-- The model gives an address beyond every region the key 0, where it writes the element. -/
theorem farEnq_writes : byteZero (exec farEnq farState) = 1 := by decide +kernel

/-- Refutes O36: where one position's allocation reaches beyond the window, a slot past every region is not where the statement has it. -/
theorem not_ringOperations : ¬ Obligations.RingOperations := by
  unfold Obligations.RingOperations
  intro h
  obtain ⟨-, hop⟩ := h farEnq ⟨1, 0, 1, 0, 2, 0, 0, 0, 0, 0⟩ farState farStrand true _ (.inl ⟨rfl, rfl, rfl⟩) farState_ready rfl
  have hva : (Spec.eaNoIx farStrand ⟨1, 0, 1, 0, 2, 0, 0, 0, 0, 0⟩).toNat = 0x7F0000000000 := by decide +kernel
  rw [hva, farState_place] at hop
  obtain ⟨-, -, hring⟩ := hop farState_object
  obtain ⟨-, hroom, -⟩ := hring farState_ring
  obtain ⟨l, hl, he⟩ := hroom rfl farState_closed farState_occ
  obtain rfl : l = [] := List.sublist_nil.1 hl
  have hb := congrArg byteZero he
  rw [farEnq_writes] at hb
  exact absurd hb (by decide +kernel)

end Sys2Proof.Machine
end

section
/-! SUPPORT. Tracked ranges (R110 to R112): the entries of a run of bytes, and the ranges of a command in force or waiting. -/

namespace Sys2Proof.Machine

/-! ### The entries of a run of bytes -/

/-- Byte a lies in an entry. -/
def Range.covers (r : Range) (a : Nat) : Prop := r.base * 64 ≤ a ∧ a < (r.base + r.units) * 64

theorem Range.covers_iff {r : Range} {a : Nat} : r.covers a ↔ r.base ≤ a / 64 ∧ a / 64 < r.base + r.units := by
  unfold covers
  omega

section
variable {va n mode owner ln src tok : Nat}

theorem rangeEntries_of_pos (hn : n ≠ 0) : rangeEntries va n mode owner ln src tok =
    (List.range (((va + n - 1) / 64 + 1 - va / 64 + 2 ^ 26 - 1) / 2 ^ 26)).map (fun i =>
      { base := va / 64 + i * 2 ^ 26, units := min (2 ^ 26) ((va + n - 1) / 64 + 1 - va / 64 - i * 2 ^ 26), mode := mode, owner := owner, launch := ln,
        src := src, tok := tok }) := if_neg hn

/-- A run of at most 2^26 units is one entry. -/
theorem rangeEntries_one (hn : n ≠ 0) (hu : (va + n - 1) / 64 + 1 - va / 64 ≤ 2 ^ 26) : rangeEntries va n mode owner ln src tok =
    [{ base := va / 64, units := (va + n - 1) / 64 + 1 - va / 64, mode := mode, owner := owner, launch := ln, src := src, tok := tok }] := by
  have hcount : ((va + n - 1) / 64 + 1 - va / 64 + 2 ^ 26 - 1) / 2 ^ 26 = 1 := by omega
  rw [rangeEntries_of_pos hn, hcount]
  simp only [List.range_one, List.map_cons, List.map_nil, Nat.zero_mul, Nat.add_zero, Nat.sub_zero, min_eq_right hu]

theorem mem_rangeEntries {r : Range} (h : r ∈ rangeEntries va n mode owner ln src tok) :
    r.mode = mode ∧ r.src = src ∧ r.tok = tok ∧ r.launch = ln ∧ r.units ≤ 2 ^ 26 := by
  by_cases hn : n = 0
  · rw [rangeEntries, if_pos hn] at h; cases h
  · rw [rangeEntries_of_pos hn] at h
    obtain ⟨i, -, rfl⟩ := List.mem_map.1 h
    exact ⟨rfl, rfl, rfl, rfl, min_le_left _ _⟩

/-- The entries cover the units that the bytes meet. -/
theorem covers_rangeEntries (hn : n ≠ 0) (a : Nat) :
    (∃ r ∈ rangeEntries va n mode owner ln src tok, r.covers a) ↔ va / 64 ≤ a / 64 ∧ a / 64 ≤ (va + n - 1) / 64 := by
  simp only [Range.covers_iff, rangeEntries_of_pos hn, List.mem_map, List.mem_range, exists_exists_and_eq_and]
  constructor
  · rintro ⟨i, -, hlo, hhi⟩
    omega
  · rintro ⟨hlo, hhi⟩
    exact ⟨(a / 64 - va / 64) / 2 ^ 26, by omega, by omega, by omega⟩

end

/-! ### In force, or waiting -/

theorem Pkg.dropCovered_eq (p : Pkg) (l : List Range) : p.dropCovered l = { p with early := Spec.uncovered p l } := by
  have hf : (fun e : Early => !l.any (fun r => r.mode == 2 && (p.crew (e.strand / 96)).launch == r.launch && decide (r.base * 64 < e.va + 8)
      && decide (e.va < (r.base + r.units) * 64))) = fun e => decide (∀ r ∈ l, r.mode = 2 → (p.crew (e.strand / 96)).launch = r.launch →
        e.va + 8 ≤ r.base * 64 ∨ (r.base + r.units) * 64 ≤ e.va) := by
    funext e
    rw [Bool.eq_iff_iff]
    simp only [Bool.not_eq_true', List.any_eq_false, Bool.and_eq_true, beq_iff_eq, decide_eq_true_eq, not_and, Nat.not_lt, and_imp]
    refine forall₂_congr fun r _ => forall₂_congr fun _ _ => ?_
    omega
  exact congrArg (fun f => { p with early := p.early.filter f }) hf

theorem Pkg.wantRanges_room {p : Pkg} {l : List Range} (h : p.ranges.length + l.length ≤ 512) :
    p.wantRanges l = { p with ranges := p.ranges ++ l, early := Spec.uncovered p l } := by
  simp only [wantRanges, enterRanges, if_pos h, Option.map_some, Option.getD_some, dropCovered_eq]
  rfl

theorem Pkg.wantRanges_full {p : Pkg} {l : List Range} (h : ¬ p.ranges.length + l.length ≤ 512) :
    p.wantRanges l = { p with wanted := p.wanted ++ l, early := Spec.uncovered p l } := by
  simp only [wantRanges, enterRanges, if_neg h, Option.map_none, Option.getD_none, awaitRanges, dropCovered_eq]
  rfl

/-- A new command's ranges refuse from its issue on (R112). -/
theorem Pkg.added_wantRanges (p : Pkg) (l : List Range) : Spec.Added p (p.wantRanges l) l := by
  by_cases h : p.ranges.length + l.length ≤ 512
  · rw [wantRanges_room h]
    exact ⟨rfl, fun _ => ⟨rfl, rfl⟩, fun hn => absurd h (Nat.not_le.2 hn)⟩
  · rw [wantRanges_full h]
    exact ⟨rfl, fun hn => absurd hn h, fun _ => ⟨rfl, rfl⟩⟩

section
variable {p : Pkg} {src tok : Nat} {l : List Range}

theorem any_own {ranges : List Range} : ranges.any (fun r => r.src == src && r.tok == tok) = true ↔ ∃ x ∈ ranges, x.src = src ∧ x.tok = tok := by
  simp only [List.any_eq_true, Bool.and_eq_true, beq_iff_eq]

/-- The ranges l of a command that had none in the table, entered. -/
def Pkg.forced (p : Pkg) (src tok : Nat) (l : List Range) : Pkg :=
  { p with ranges := p.ranges ++ l, wanted := p.wanted.filter (fun r => !(r.src == src && r.tok == tok)), early := Spec.uncovered p l }

theorem Pkg.inForce_room (h : Spec.Room p src tok l) : ∃ q, p.inForce src tok l = some q ∧ Spec.InForce p q src tok l := by
  by_cases ho : ∃ x ∈ p.ranges, x.src = src ∧ x.tok = tok
  · obtain ⟨x, hx, hs, ht⟩ := ho
    refine ⟨p, if_pos (any_own.2 ⟨x, hx, hs, ht⟩), rfl, fun _ => rfl, fun hno => absurd ⟨hs, ht⟩ (hno x hx)⟩
  · have hl : p.ranges.length + l.length ≤ 512 := h.resolve_left ho
    refine ⟨p.forced src tok l, (if_neg (fun ha => ho (any_own.1 ha))).trans ?_, rfl, fun hy => absurd hy ho, fun _ => ⟨rfl, rfl, fun x => ?_⟩⟩
    · simp only [enterRanges, if_pos hl, Option.map_some, dropCovered_eq]
      rfl
    · simp only [forced, List.mem_filter, Bool.not_eq_true', Bool.and_eq_false_iff, beq_eq_false_iff_ne, not_and_or, ne_eq]

theorem Pkg.inForce_full (h : ¬ Spec.Room p src tok l) : p.inForce src tok l = none := by
  obtain ⟨ho, hl⟩ := not_or.1 h
  refine (if_neg (fun ha => ho (any_own.1 ha))).trans ?_
  simp only [enterRanges, if_neg hl, Option.map_none]

end

end Sys2Proof.Machine
end

section
/-! SUPPORT. Communicators and parameter blocks (R158, R159, R183): the box, the ports on its paths, and the block's own checks. -/

namespace Sys2Proof.Machine

/-! ### The box -/

section
variable (s : State) (cm : Nat) {d : Nat} (hd : d < 3)
include hd

theorem box_ext : (s.box cm).ext.getD d 1 = Spec.ext s cm d := by
  interval_cases d <;> rfl

theorem box_pod : (s.box cm).pod.getD d 1 = Spec.pod s d := by
  interval_cases d <;> rfl

theorem box_disp : (s.box cm).disp d = Spec.disp s cm d := by
  have hp : (s.box cm).pos.getD d 0 = Spec.pos s d := by interval_cases d <;> rfl
  have ho : (s.box cm).org.getD d 0 = Spec.org s cm d := by interval_cases d <;> rfl
  rw [Box.disp, hp, ho, box_pod s cm hd]
  rfl

end

theorem box_rank (s : State) (cm : Nat) : (s.box cm).rank = Spec.rank s cm := by
  simp only [Box.rank, box_disp s cm (show 0 < 3 by decide), box_disp s cm (show 1 < 3 by decide), box_disp s cm (show 2 < 3 by decide),
    Spec.rank]
  rfl

theorem commOk_iff (s : State) (cm : Nat) : s.commOk cm = true ↔ Spec.CommOk s cm := by
  simp only [State.commOk, Box.holds, Bool.and_eq_true, List.all_eq_true, List.mem_range, decide_eq_true_eq, State.comm, bitN_eq_testBit]
  refine and_congr Iff.rfl (forall₂_congr fun d hd => ?_)
  rw [box_ext s cm hd, box_pod s cm hd, box_disp s cm hd]

/-! ### Ports (R15, R183) -/

/-- The ports of a path of a ring of n, from place i to place j, at place x. -/
theorem pathPorts_iff (n x i j : Nat) :
    let fwd := (j + n - i % n) % n
    let t := (x + n - i % n) % n
    let back := (i + n - x % n) % n
    ((pathPorts n x i j).1 = true ↔ (n = 2 ∧ fwd ≠ 0) ∨ (n ≠ 2 ∧ fwd ≠ 0 ∧ 2 * fwd ≤ n ∧ t < fwd) ∨ (n ≠ 2 ∧ n < 2 * fwd ∧ 0 < back ∧ back ≤ n - fwd))
    ∧ ((pathPorts n x i j).2 = true ↔ (n ≠ 2 ∧ fwd ≠ 0 ∧ 2 * fwd ≤ n ∧ 0 < t ∧ t ≤ fwd) ∨ (n ≠ 2 ∧ n < 2 * fwd ∧ back < n - fwd)) := by
  intro fwd t back
  by_cases h0 : fwd = 0
  · have hp : pathPorts n x i j = (false, false) := if_pos h0
    rw [hp]
    simp [h0]
  by_cases h2 : n = 2
  · have hp : pathPorts n x i j = (true, false) := (if_neg h0).trans (if_pos h2)
    rw [hp]
    simp [h0, h2]
  by_cases hf : 2 * fwd ≤ n
  · have hp : pathPorts n x i j = (decide (t < fwd), decide (0 < t) && decide (t ≤ fwd)) := ((if_neg h0).trans (if_neg h2)).trans (if_pos hf)
    simp only [hp, decide_eq_true_eq, Bool.and_eq_true]
    omega
  · have hp : pathPorts n x i j = (decide (0 < back) && decide (back ≤ n - fwd), decide (back < n - fwd)) :=
      ((if_neg h0).trans (if_neg h2)).trans (if_neg hf)
    simp only [hp, decide_eq_true_eq, Bool.and_eq_true]
    omega

/-- A READY bit that some path asks for is set. -/
theorem all_port_iff {α : Type} {l : List α} {f : α → Bool} {ready : Nat → Bool} {b : Nat} :
    (if l.any f then [b] else []).all ready = true ↔ ∀ u ∈ l, f u = true → ready b = true := by
  cases h : l.any f
  · simpa using fun u hu hf => absurd hf (List.any_eq_false.1 h u hu)
  · obtain ⟨u, hu, hf⟩ := List.any_eq_true.1 h
    simpa using ⟨fun hr u hu hf => hr, fun hall => hall u hu hf⟩

theorem ports_iff (s : State) (cm : Nat) : ((s.box cm).ports.all (fun b => s.host.ready.getLsbD b)) = true ↔ Spec.PortsReady s cm := by
  simp only [Box.ports, List.all_flatMap, List.all_eq_true (l := List.range 3), List.mem_range]
  refine forall₂_congr fun d hd => ?_
  rw [box_ext s cm hd, box_pod s cm hd, box_disp s cm hd, List.all_append, Bool.and_eq_true, all_port_iff, all_port_iff, ← forall₂_and]
  simp only [List.mem_flatMap, List.mem_map, List.mem_range, forall_exists_index, and_imp]
  have hpath (i j : Nat) := pathPorts_iff (Spec.pod s d) (Spec.disp s cm d) i j
  constructor
  · intro h i hi j hj
    have hu := h _ i hi j hj rfl
    rw [(hpath i j).1, (hpath i j).2] at hu
    obtain ⟨hplus, hminus⟩ := hu
    exact ⟨fun h2 hf => hplus (.inl ⟨h2, hf⟩),
      fun h2 hf hle => ⟨fun ht => hplus (.inr (.inl ⟨h2, hf, hle, ht⟩)), fun ht ht' => hminus (.inl ⟨h2, hf, hle, ht, ht'⟩)⟩,
      fun h2 hlt => ⟨fun hb => hminus (.inr ⟨h2, hlt, hb⟩), fun hb hb' => hplus (.inr (.inr ⟨h2, hlt, hb, hb'⟩))⟩⟩
  · rintro h _ i hi j hj rfl
    rw [(hpath i j).1, (hpath i j).2]
    obtain ⟨htwo, hpos, hneg⟩ := h i hi j hj
    refine ⟨?_, ?_⟩
    · rintro (⟨h2, hf⟩ | ⟨h2, hf, hle, ht⟩ | ⟨h2, hlt, hb, hb'⟩)
      · exact htwo h2 hf
      · exact (hpos h2 hf hle).1 ht
      · exact (hneg h2 hlt).2 hb hb'
    · rintro (⟨h2, hf, hle, ht, ht'⟩ | ⟨h2, hlt, hb⟩)
      · exact (hpos h2 hf hle).2 ht ht'
      · exact (hneg h2 hlt).1 hb

/-! ### Bytes of a record -/

theorem ofBytes_digit (l : List Byte) (k : Nat) : ofBytes l / 256 ^ k % 256 = (l.getD k 0).toNat := by
  induction l generalizing k with
  | nil => simp [ofBytes]
  | cons b l ih =>
    cases k with
    | zero => simp only [ofBytes, pow_zero, Nat.div_one, List.getD_cons_zero]; omega
    | succ k =>
      rw [List.getD_cons_succ, ← ih k, ofBytes, pow_succ', ← Nat.div_div_eq_div_mul]
      congr 2
      omega

/-- COMM of a block (R159). -/
theorem block_comm (bs : List Byte) : fieldN (recN bs 0 8) 55 48 = (bs.getD 6 0).toNat := by
  have h := ofBytes_digit ((bs.drop 0).take 8) 6
  have hg : ((bs.drop 0).take 8).getD 6 0 = bs.getD 6 0 := by simp [List.getD_eq_getElem?_getD]
  rw [hg] at h
  exact h

theorem newColl_eq (s : State) (u : Nat) (st : Strand) (n va : Nat) (sup : Bool) (bs : List Byte) :
    s.newColl u st n va sup bs = Spec.collFor s u n st va sup bs := by
  simp only [State.newColl, Spec.collFor, block_comm, box_rank]
  rfl

/-! ### The block's own checks (R402) -/

theorem flag_eq_nil {b : Bool} {v : Nat} : (if b = true then [v] else []) = [] ↔ b = false := by cases b <;> simp

/-- A galley word at an aligned offset lies in one position. -/
theorem inOff_galley (p : Pkg) (cu : Nat) {off : Nat} (h : off % 16 = 0) : p.inOff cu off 16 = true ↔ Spec.Spans p cu off 16 := by
  have hcut : offPieces off 16 = [(off, 16)] := by
    have hm : min 16 (2 ^ 18 - off % 2 ^ 18) = 16 := by omega
    simp only [offPieces, offCut, hm]
    rfl
  simp only [Pkg.inOff, hcut, List.all_cons, List.all_nil, Bool.and_true, Pkg.inWin, Bool.and_eq_true, decide_eq_true_eq]
  constructor
  · rintro ⟨hc, hs⟩ x hx
    exact ⟨by omega, by omega⟩
  · intro hx
    obtain ⟨hc, -⟩ := hx 0 (by decide)
    obtain ⟨-, hs⟩ := hx 15 (by decide)
    exact ⟨by omega, by omega⟩

/-- A word beyond the fields is 0. -/
theorem recN_word_eq_zero (l : List Byte) (o : Nat) : recN l o 8 / 2 ^ 0 % 2 ^ 64 = 0 ↔ recN l o 8 = 0 := by
  rw [pow_zero, Nat.div_one, Nat.mod_eq_of_lt (show recN l o 8 < 2 ^ 64 from recN_lt l o 8)]

theorem statin_top (c : Coll) : bitN c.statin 31 = false ↔ recN c.block (8 * 6) 8 / 2 ^ 31 % 2 ^ 1 = 0 := by
  simp only [bitN, Coll.statin, fieldN, Coll.w, beq_eq_false_iff_ne]
  omega

theorem localBad_iff (p : Pkg) (c : Coll) : c.localBad p = [] ↔ Spec.BlockLegal p c := by
  unfold Coll.localBad
  simp only [List.append_eq_nil_iff, flag_eq_nil, List.flatMap_eq_nil_iff, List.mem_range, and_assoc, decide_eq_false_iff_not, beq_eq_false_iff_ne,
    bne_eq_false_iff_eq, Bool.or_eq_false_iff, Bool.and_eq_false_iff, Bool.not_eq_false', Nat.not_lt, Nat.not_le, statin_top]
  constructor
  · rintro ⟨hop, hrop, hty, halg, hc0, hc1, hr0, hr1, hz0, hz1, hs, hs', hz2, hr, hr', hz3, hn, hn', hz4, hm, hf, hz5, hg, hst, hw⟩
    refine ⟨hop, hrop, hty, halg, hc0, hc1, hr0, ?_, hz0, hz1, hs, hz2, hr, hz3, fun hb => ⟨?_, ?_, ?_⟩, hn, hz4, hm, hf, hz5, fun h2 => ?_, hst, fun n h => ?_⟩
    · exact fun h3 => hr1.resolve_left h3
    · exact hs'.resolve_left (not_not.2 hb)
    · exact hr'.resolve_left (not_not.2 hb)
    · exact hn'.resolve_left (not_not.2 hb)
    · obtain ⟨ha, ho⟩ := hg.resolve_left (not_not.2 h2)
      exact ⟨ha, (inOff_galley p c.crew ha).1 ho⟩
    · exact (recN_word_eq_zero _ _).2 (hw n h)
  · rintro ⟨hop, hrop, hty, halg, hc0, hc1, hr0, hr1, hz0, hz1, hs, hz2, hr, hz3, hbar, hn, hz4, hm, hf, hz5, hg, hst, hw⟩
    refine ⟨hop, hrop, hty, halg, hc0, hc1, hr0, ?_, hz0, hz1, hs, ?_, hz2, hr, ?_, hz3, hn, ?_, hz4, hm, hf, hz5, ?_, hst, fun n h => ?_⟩
    · exact or_iff_not_imp_left.2 hr1
    · exact not_or_of_imp fun hb => (hbar hb).1
    · exact not_or_of_imp fun hb => (hbar hb).2.1
    · exact not_or_of_imp fun hb => (hbar hb).2.2
    · refine not_or_of_imp fun h2 => ?_
      obtain ⟨ha, ho⟩ := hg h2
      exact ⟨ha, (inOff_galley p c.crew ha).2 ho⟩
    · exact (recN_word_eq_zero _ _).1 (hw n h)

end Sys2Proof.Machine
end

section
/-! SUPPORT. The ranges of a collective (R162), and commands that join a strand's COLL queue (R125, R299). -/

namespace Sys2Proof.Machine

/-! ### The ranges of a collective -/

/-- The entries of the bytes from a up to b. -/
def Coll.run (c : Coll) (a b mode : Nat) : List Range := if a < b then rangeEntries a (b - a) mode c.comm c.launch 2 c.num else []

section
variable {c : Coll} {a b m : Nat}

theorem Coll.mem_run {r : Range} (h : r ∈ c.run a b m) : r.mode = m ∧ r.src = 2 ∧ r.tok = c.num ∧ r.launch = c.launch ∧ r.units ≤ 2 ^ 26 := by
  rw [run] at h
  split at h
  · exact mem_rangeEntries h
  · cases h

/-- The entries of a run that have a mode cover the units that its bytes meet. -/
theorem Coll.covers_run (m' x : Nat) :
    (∃ r ∈ c.run a b m, r.mode = m' ∧ r.covers x) ↔ m = m' ∧ ∃ y, y / 64 = x / 64 ∧ a ≤ y ∧ y < b := by
  have hmode : (∃ r ∈ c.run a b m, r.mode = m' ∧ r.covers x) ↔ m = m' ∧ ∃ r ∈ c.run a b m, r.covers x := by
    constructor
    · rintro ⟨r, hr, hm, hx⟩
      exact ⟨(mem_run hr).1.symm.trans hm, r, hr, hx⟩
    · rintro ⟨hm, r, hr, hx⟩
      exact ⟨r, hr, (mem_run hr).1.trans hm, hx⟩
  rw [hmode]
  refine and_congr_right fun _ => ?_
  by_cases hab : a < b
  · rw [run, if_pos hab, covers_rangeEntries (by omega), Nat.add_sub_cancel' hab.le]
    exact ⟨fun ⟨hlo, hhi⟩ => ⟨max a (x / 64 * 64), by omega, by omega, by omega⟩, fun ⟨y, hy, ha, hb⟩ => ⟨by omega, by omega⟩⟩
  · rw [run, if_neg hab]
    constructor
    · rintro ⟨r, hr, -⟩; cases hr
    · rintro ⟨y, -, ha, hb⟩; omega

end

theorem Coll.ranges_eq (c : Coll) :
    let s1 := c.send + c.sendN * c.size
    let r1 := c.recv + c.recvN * c.size
    c.ranges = c.run c.recv r1 2 ++ (if c.recv < s1 ∧ c.send < r1 then c.run c.send (min s1 c.recv) 1 ++ c.run (max c.send r1) s1 1
      else c.run c.send s1 1) := rfl

theorem Coll.mem_ranges {c : Coll} {r : Range} (h : r ∈ c.ranges) : r.src = 2 ∧ r.tok = c.num ∧ r.launch = c.launch ∧ r.units ≤ 2 ^ 26 := by
  rw [ranges_eq, List.mem_append] at h
  rcases h with h | h
  · exact (mem_run h).2
  · split at h
    · rcases List.mem_append.1 h with h | h <;> exact (mem_run h).2
    · exact (mem_run h).2

/-- RECV is entered NA, and what of SEND lies outside it RO. -/
theorem Coll.covers_ranges (c : Coll) (m x : Nat) : (∃ r ∈ c.ranges, r.mode = m ∧ r.covers x) ↔
    (2 = m ∧ ∃ y, y / 64 = x / 64 ∧ c.recv ≤ y ∧ y < c.recv + c.recvN * c.size)
    ∨ (1 = m ∧ ∃ y, y / 64 = x / 64 ∧ c.send ≤ y ∧ y < c.send + c.sendN * c.size ∧ ¬(c.recv ≤ y ∧ y < c.recv + c.recvN * c.size)) := by
  rw [ranges_eq]
  simp only [List.mem_append, or_and_right, exists_or, covers_run]
  refine or_congr_right ?_
  generalize c.send + c.sendN * c.size = s1, c.recv + c.recvN * c.size = r1, c.send = s0, c.recv = r0
  split
  · simp only [List.mem_append, or_and_right, exists_or, covers_run, ← and_or_left]
    refine and_congr_right fun _ => ?_
    rw [← exists_or]
    refine exists_congr fun y => ?_
    omega
  · rw [covers_run]
    refine and_congr_right fun _ => exists_congr fun y => ?_
    omega

/-! ### Joining the queue -/

section
variable {i : Instr} {s : State} {st : Strand} {c : CollCmd} {r : List Range}

/-- Instruction i enters command c with the ranges r in the strand's COLL queue, after its checks. -/
def CollEnters (i : Instr) (s : State) (st : Strand) (c : CollCmd) (r : List Range) : Prop :=
  ∃ fx chk eff l, exec i s = onUnit i fx noPv chk eff s ∧ fx s st = [] ∧ chk s st = none ∧ eff s st = collEnter s st c l ∧ l s.pkg.nextNum = r

/-- It joins the queue where that has room; else the strand waits. -/
theorem CollEnters.queues (he : CollEnters i s st c r) (h : SlotReady i s st) (ho : s.pkg.owed st 6 = []) :
    (collUsed s.pkg s.focus st < 8 → ∃ p, Spec.Added { s.pkg with nextNum := s.pkg.nextNum + 1 } p r
      ∧ exec i s = .next (s.unitDone i st p { st with collq := st.collq ++ [(s.pkg.nextNum, c)] }))
    ∧ (8 ≤ collUsed s.pkg s.focus st →
        exec i s = .next (s.withPkg (s.pkg.setStrand s.focus { st with run := .blocked (.queueFull 3), grant := none }))) := by
  obtain ⟨fx, chk, eff, l, hexec, hfx, hchk, heff, rfl⟩ := he
  have horder : orderStop s.pkg st 6 = none := by rw [orderStop, ho]; rfl
  rw [hexec]
  refine ⟨fun hu => ⟨_, Pkg.added_wantRanges _ _, onUnit_ready h hfx rfl hchk (heff.trans ?_)⟩,
    fun hu => onUnit_ready_effStop (w := .block (.queueFull 3)) h hfx rfl hchk (heff.trans ?_)⟩
  · simp only [collEnter, collWait, horder, Option.none_or, if_neg (Nat.not_le.2 hu)]
    rfl
  · simp only [collEnter, collWait, horder, Option.none_or, if_pos hu]

end

end Sys2Proof.Machine
end

section
/-! SUPPORT. COLL, RTADD, RTDEL and COLLQ at their slots (R310, R311). -/

namespace Sys2Proof.Machine

section
variable {s : State} {st : Strand}

/-! ### COLL -/

/-- Bytes of a clean run can be accessed, ranges apart. -/
theorem reach_of_clean {va n a m : Nat} (h : Spec.Clean s.pkg st.crew va n) (k : AccKind) (ha : va ≤ a) (hm : a + m ≤ va + n) :
    Spec.Reach s st k a m := by
  obtain ⟨hlo, hhi, ⟨hc, hs⟩, hu, -⟩ := h
  refine ⟨fun x hx hx' => .inr (.inl ⟨by omega, by omega, lt_of_eq_of_lt ?_ hc, ?_⟩), fun r hr => (List.not_mem_nil hr).elim⟩
  · omega
  · refine lt_of_lt_of_le ?_ hs
    omega

theorem collSeen_legal {u n va : Nat} {sup : Bool} {bs : List Byte} (hc : Spec.CommOk s (Spec.collFor s u n st va sup bs).comm)
    (hb : Spec.BlockLegal s.pkg (Spec.collFor s u n st va sup bs)) : s.collSeen u st va sup bs n = (Spec.collFor s u n st va sup bs).ranges := by
  rw [State.collSeen, newColl_eq]
  exact if_pos ⟨(commOk_iff s _).2 hc, (localBad_iff _ _).2 hb⟩

theorem collSeen_refused {u n va : Nat} {sup : Bool} {bs : List Byte} (h : ¬(Spec.CommOk s (Spec.collFor s u n st va sup bs).comm
    ∧ Spec.BlockLegal s.pkg (Spec.collFor s u n st va sup bs))) : s.collSeen u st va sup bs n = [] := by
  rw [State.collSeen, newColl_eq]
  exact if_neg fun ⟨hc, hb⟩ => h ⟨(commOk_iff s _).1 hc, (localBad_iff _ _).1 hb⟩

variable {o : EAddr}

theorem coll_misaligned (h : SlotReady (.coll o) s st) (ha : (eaE st o.xB o.off).toNat % 64 ≠ 0) :
    Spec.Traps (.coll o) s st 0x08 (BitVec.ofNat 64 (eaE st o.xB o.off).toNat) := by
  rw [BitVec.ofNat_toNat, BitVec.setWidth_eq]
  show execColl o s = _
  unfold execColl
  exact onUnit_ready_stop (w := .trap 0x08 _) h rfl rfl (by dsimp only; rw [alignStop, if_neg ha]; rfl)

/-- A COLL of an aligned, readable block. -/
theorem coll_enters (ha : (eaE st o.xB o.off).toNat % 64 = 0) (hc : Spec.Clean s.pkg st.crew (eaE st o.xB o.off).toNat 128) :
    let a := (eaE st o.xB o.off).toNat
    let bs := s.pkg.bytes (winAt s.pkg st.crew a) 128
    CollEnters (.coll o) s st (.coll a st.sup bs) (if s.pkg.held s.focus 3 s.pkg.nextNum then [] else s.collSeen s.focus st a st.sup bs s.pkg.nextNum) := by
  intro a bs
  have h52 : (eaE st o.xB o.off + 52).toNat = a + 52 := by
    obtain ⟨-, hhi, -⟩ := hc
    rw [BitVec.toNat_add]
    exact Nat.mod_eq_of_lt (by change a + 52 < _; omega)
  refine ⟨noFx, _, _, if s.pkg.held s.focus 3 s.pkg.nextNum then fun _ => [] else s.collSeen s.focus st a st.sup bs, by rfl, rfl, ?_, ?_, ?_⟩
  · dsimp only
    rw [alignStop, if_pos ha, Option.none_or, rangeChk_reach (reach_of_clean hc .load le_rfl le_rfl), Option.none_or, h52,
      rangeChk_reach (reach_of_clean hc .store (by omega) (by omega))]
  · dsimp only
    rw [Pkg.engRead_run (Pkg.run_of_clean hc)]
    cases hw : collWait s st with
    | some w => simp only [collEnter, hw]
    | none => rfl
  · split <;> rfl

section
variable {a : Nat} (hea : (eaE st o.xB o.off).toNat = a) (ha : a % 64 = 0) (hc : Spec.Clean s.pkg st.crew a 128)
include hea ha hc

/-- A legal block gives the collective's ranges, but behind a join. -/
theorem coll_enters_legal (hb : ¬ s.pkg.held s.focus 3 s.pkg.nextNum = true) :
    let bs := s.pkg.bytes (Spec.offAt s.pkg st.crew (a - 0x7F0000000000)) 128
    let x := Spec.collFor s s.focus s.pkg.nextNum st a st.sup bs
    Spec.CommOk s x.comm → Spec.BlockLegal s.pkg x → CollEnters (.coll o) s st (.coll a st.sup bs) x.ranges := by
  subst hea
  intro bs x hcomm hblock
  have he : CollEnters _ s st (.coll _ st.sup bs) (if _ then [] else s.collSeen s.focus st _ st.sup bs s.pkg.nextNum) := coll_enters ha hc
  rwa [if_neg hb, collSeen_legal hcomm hblock] at he

theorem coll_enters_bare :
    let bs := s.pkg.bytes (Spec.offAt s.pkg st.crew (a - 0x7F0000000000)) 128
    let x := Spec.collFor s s.focus s.pkg.nextNum st a st.sup bs
    ¬(Spec.CommOk s x.comm ∧ Spec.BlockLegal s.pkg x) ∨ s.pkg.held s.focus 3 s.pkg.nextNum = true →
      CollEnters (.coll o) s st (.coll a st.sup bs) [] := by
  subst hea
  intro bs x hno
  have he : CollEnters _ s st (.coll _ st.sup bs) (if _ then [] else s.collSeen s.focus st _ st.sup bs s.pkg.nextNum) := coll_enters ha hc
  split at he
  · exact he
  · next hb => rwa [collSeen_refused (hno.resolve_right hb)] at he

end

end

/-! ### RTADD, RTDEL, COLLQ -/

section
variable {s : State} {st : Strand}

/-- A ready slot with one field value that is illegal takes 0x02 with it. -/
theorem onUnit_ready_field {i : Instr} {fx : State → Strand → List Nat} {pv : Strand → Option Stop} {chk : State → Strand → Option Stop}
    {eff : State → Strand → Res} {v : Nat} (h : SlotReady i s st) (hf : fx s st = [v]) :
    onUnit i fx pv chk eff s = .next (s.withPkg (s.pkg.stopAt s.er s.focus st (.trap 0x02 (BitVec.ofNat 64 v)))) := by
  have hs := slotStop_ready_fields h (List.cons_ne_nil v []) (pv st) (chk s st)
  simp only [onUnit, h.1, hf, hs]
  rfl

theorem rtadd_enters {o : ERtadd} (hn : (st.getX o.xL.toNat).toNat ≠ 0) (hu : ((st.getX o.xB.toNat).toNat + (st.getX o.xL.toNat).toNat - 1) / 64 + 1
      - (st.getX o.xB.toNat).toNat / 64 ≤ 2 ^ 26) :
    let b := (st.getX o.xB.toNat).toNat
    let n := (st.getX o.xL.toNat).toNat
    CollEnters (.rtadd o) s st (.rtadd b n o.mode.toNat o.tag.toNat) [Spec.rtRange s st s.pkg.nextNum b n o.mode.toNat o.tag.toNat] := by
  intro b n
  refine ⟨_, noChk, _, _, by rfl, ?_, rfl, rfl, rangeEntries_one hn hu⟩
  exact if_neg (not_or.2 ⟨hn, Nat.not_lt.2 hu⟩)

theorem rtadd_refused {o : ERtadd} (h : SlotReady (.rtadd o) s st) (hn : ¬((st.getX o.xL.toNat).toNat ≠ 0
      ∧ ((st.getX o.xB.toNat).toNat + (st.getX o.xL.toNat).toNat - 1) / 64 + 1 - (st.getX o.xB.toNat).toNat / 64 ≤ 2 ^ 26)) :
    Spec.Traps (.rtadd o) s st 0x02 (BitVec.ofNat 64 (st.getX o.xL.toNat).toNat) := by
  show execRtadd o s = _
  unfold execRtadd
  refine onUnit_ready_field h (if_pos ?_)
  by_contra hc
  exact hn ⟨fun h0 => hc (.inl h0), Nat.not_lt.1 fun hu => hc (.inr hu)⟩

theorem rtdel_enters (o : ETag) : CollEnters (.rtdel o) s st (.rtdel o.tag.toNat) [] :=
  ⟨noFx, noChk, _, fun _ => [], by rfl, rfl, rfl, rfl, rfl⟩

theorem collq_counts {o : ECollq} (h : SlotReady (.collq o) s st) (hv : (s.host.comm.get 0 o.comm.toNat).getLsbD 31 = true) :
    let d := s.pkg.collDone.get 0 o.comm.toNat
    exec (.collq o) s = .next (s.unitDone (.collq o) st s.pkg (st.setX o.xd.toNat
      (BitVec.ofNat 64 (2 ^ 16 * (d % 2 ^ 32) + (s.pkg.collAcc.get 0 o.comm.toNat - d) % 2 ^ 16)))) := by
  intro d
  show execCollq o s = _
  unfold execCollq
  refine onUnit_ready h (if_pos ?_) rfl rfl ?_
  · rw [State.comm, bitN_eq_testBit]
    exact hv
  · rw [Nat.mul_comm]

theorem collq_refused {o : ECollq} (h : SlotReady (.collq o) s st) (hv : (s.host.comm.get 0 o.comm.toNat).getLsbD 31 = false) :
    Spec.Traps (.collq o) s st 0x02 (BitVec.ofNat 64 o.comm.toNat) := by
  show execCollq o s = _
  unfold execCollq
  refine onUnit_ready_field h (if_neg ?_)
  rw [State.comm, bitN_eq_testBit]
  exact Bool.eq_false_iff.1 hv

end

end Sys2Proof.Machine
end

section
/-! SUPPORT. The collective engine takes the head of a queue (R124, R163, R310, R311). -/

namespace Sys2Proof.Machine

section
variable {s : State} {u n : Nat} {st : Strand} {x : CollCmd} {rest : List (Nat × CollCmd)}

/-- The package with the head of the queue taken. -/
def State.headTaken (s : State) (u : Nat) (rest : List (Nat × CollCmd)) : Pkg := s.pkg.modStrand u (fun st => { st with collq := rest })

/-- Command n of strand u is at the head of its queue, may start, and has rest behind it. -/
structure AtHead (s : State) (u n : Nat) (st : Strand) (x : CollCmd) (rest : List (Nat × CollCmd)) : Prop where
  strand : s.pkg.strands.find? u = some st
  queue : st.collq = (n, x) :: rest
  free : s.pkg.held u 3 n = false
  here : (s.pkg.crew st.crew).isSaved = false

theorem AtHead.go (h : AtHead s u n st x rest) : ¬(s.pkg.held u 3 n = true ∨ (s.pkg.crew st.crew).isSaved = true) := by
  rw [h.free, h.here]
  decide

/-! ### RTADD and RTDEL -/

section
variable {b len mode tag : Nat} (h : AtHead s u n st (.rtadd b len mode tag) rest) (hlen : len ≠ 0) (hu : (b + len - 1) / 64 + 1 - b / 64 ≤ 2 ^ 26)
include h hlen hu

theorem collAccept_rtadd : exec (.collAccept u) s = match (s.headTaken u rest).inForce 0 n [Spec.rtRange s st n b len mode tag] with
      | some p => .next (s.withPkg p)
      | none => .next s := by
  have hr : rangeEntries b len mode tag (s.pkg.crew st.crew).launch 0 n = [Spec.rtRange s st n b len mode tag] := rangeEntries_one hlen hu
  show execCollAccept u s = _
  simp only [execCollAccept, h.strand, h.queue, if_neg h.go, hr]
  rfl

theorem collAccept_rtadd_room (hroom : Spec.Room s.pkg 0 n [Spec.rtRange s st n b len mode tag]) :
    ∃ p, Spec.InForce (s.headTaken u rest) p 0 n [Spec.rtRange s st n b len mode tag] ∧ exec (.collAccept u) s = .next (s.withPkg p) := by
  obtain ⟨p, hp, hin⟩ := Pkg.inForce_room (p := s.headTaken u rest) hroom
  exact ⟨p, hin, (collAccept_rtadd h hlen hu).trans (by rw [hp])⟩

theorem collAccept_rtadd_full (hfull : ¬ Spec.Room s.pkg 0 n [Spec.rtRange s st n b len mode tag]) : exec (.collAccept u) s = .next s := by
  rw [collAccept_rtadd h hlen hu, Pkg.inForce_full (p := s.headTaken u rest) hfull]

end

/-- An entry that RTDEL of a tag leaves: another launch's or tag's, an engine's, or one of an RTADD that is still queued. -/
def Pkg.rtdelLeaves (p : Pkg) (ln tag : Nat) (r : Range) : Bool :=
  !(r.src == 0 && r.launch == ln && r.owner == tag && !p.strands.any (fun e => e.2.collq.any (fun q => q.1 == r.tok)))

theorem Pkg.rtdelLeaves_iff {p : Pkg} {ln tag : Nat} {r : Range} : p.rtdelLeaves ln tag r = true ↔
    ¬(r.src = 0 ∧ r.launch = ln ∧ r.owner = tag ∧ ∀ e ∈ p.strands, ∀ q ∈ e.2.collq, q.1 ≠ r.tok) := by
  simp only [rtdelLeaves, Bool.not_eq_true', Bool.and_eq_false_iff, Bool.not_eq_false', beq_eq_false_iff_ne, List.any_eq_true, beq_iff_eq, not_and_or,
    not_forall, not_not, exists_prop, or_assoc, ne_eq]

theorem collAccept_rtdel {tag : Nat} (h : AtHead s u n st (.rtdel tag) rest) :
    exec (.collAccept u) s = .next (s.withPkg { s.headTaken u rest with
      ranges := s.pkg.ranges.filter ((s.headTaken u rest).rtdelLeaves (s.pkg.crew st.crew).launch tag) }) := by
  show execCollAccept u s = _
  simp only [execCollAccept, h.strand, h.queue, if_neg h.go]
  rfl

/-! ### COLL -/

/-- Collective c of command n accepted, with the ranges l. -/
def Pkg.collAccepted (p : Pkg) (n : Nat) (l : List Range) (c : Coll) : Pkg :=
  { p with
    colls := p.colls ++ [c], collAcc := RMap.put p.collAcc c.comm (c.m + 1)
    ranges := (p.collRanges n l).ranges, wanted := (p.collRanges n l).wanted, early := (p.collRanges n l).early }

theorem Pkg.collRanges_frame (p : Pkg) (n : Nat) (l : List Range) :
    p.collRanges n l = { p with ranges := (p.collRanges n l).ranges, wanted := (p.collRanges n l).wanted, early := (p.collRanges n l).early } := by
  rw [collRanges]
  split
  · rfl
  · obtain ⟨he, -⟩ := added_wantRanges (p.dropRanges 2 n) l
    rw [he]
    rfl

theorem Pkg.collAccepted_eq (p : Pkg) (n : Nat) (l : List Range) (c : Coll) :
    (let q := p.collRanges n l; { q with collAcc := RMap.put q.collAcc c.comm (c.m + 1), colls := q.colls ++ [c] }) = p.collAccepted n l c :=
  congrArg (fun q : Pkg => { q with collAcc := RMap.put q.collAcc c.comm (c.m + 1), colls := q.colls ++ [c] }) (p.collRanges_frame n l)

section
variable {va : Nat} {sup : Bool} {seen bs : List Byte} (h : AtHead s u n st (.coll va sup seen) rest)
include h

theorem collAccept_waits (hr : s.host.ready.getLsbD 12 = false) : exec (.collAccept u) s = .next s := by
  show execCollAccept u s = _
  simp only [execCollAccept, h.strand, h.queue, if_neg h.go, hr, Bool.not_false, if_true]

variable (hr : s.host.ready.getLsbD 12 = true)
include hr

theorem collAccept_fails {e v : Nat} (hf : (s.headTaken u rest).engRead s.er baseAgent st.crew sup va 128 = .error (e, v)) (h0 : e ≠ 0) (h30 : e ≠ 0x30) :
    exec (.collAccept u) s = .next (s.withPkg (((s.headTaken u rest).dropRanges 2 n).asyncTo u e (BitVec.ofNat 64 v))) := by
  show execCollAccept u s = _
  rw [State.headTaken] at hf
  simp only [execCollAccept, h.strand, h.queue, if_neg h.go, hr, Bool.not_true, Bool.false_eq_true, if_false, hf]
  rfl

/-- The block bs has been read. -/
theorem collAccept_read (hb : (s.headTaken u rest).engRead s.er baseAgent st.crew sup va 128 = .ok (bs, s.headTaken u rest)) :
    let c := Spec.collFor s u n st va sup bs
    exec (.collAccept u) s =
      if !s.collReady c.comm then .next s
      else if !s.commOk c.comm then .next (s.withPkg (((s.headTaken u rest).dropRanges 2 n).asyncTo u 0x02 (BitVec.ofNat 64 c.comm)))
      else .next (s.withPkg ((s.headTaken u rest).collAccepted n (s.collSeen u st va sup bs n) c)) := by
  show execCollAccept u s = _
  rw [State.headTaken] at hb
  simp only [execCollAccept, h.strand, h.queue, if_neg h.go, hr, Bool.not_true, Bool.false_eq_true, if_false, hb, newColl_eq, ← Pkg.collAccepted_eq]
  rfl

end

/-! ### The ranges of the block read -/

/-- The strand's ranges n are out, the others as they were. -/
theorem Pkg.dropRanges_ranges (p : Pkg) (src tok : Nat) : (p.dropRanges src tok).ranges = p.ranges.filter (fun r => !(r.src == src && r.tok == tok)) := rfl

theorem Pkg.collRanges_reranged (p : Pkg) (n : Nat) (l : List Range) : Spec.Reranged p (p.collRanges n l) n l := by
  rw [collRanges]
  split
  · next h => exact ⟨fun _ => ⟨rfl, rfl, rfl⟩, fun hne => absurd h hne⟩
  · next h =>
    obtain ⟨he, hroom, hfull⟩ := added_wantRanges (p.dropRanges 2 n) l
    exact ⟨fun h' => absurd h' h, fun _ => ⟨congrArg Pkg.early he, hroom, hfull⟩⟩

end

end Sys2Proof.Machine
end

section
/-! Collective commands (O46). -/

namespace Sys2Proof.Machine

section
variable {s : State} {u n : Nat} {st : Strand} {rest : List (Nat × CollCmd)}

/-- Taking the head changes strands alone. -/
theorem clean_headTaken {va m : Nat} (hc : Spec.Clean s.pkg st.crew va m) : Spec.Clean (s.headTaken u rest) st.crew va m := hc

theorem bytes_headTaken (k m : Nat) : (s.headTaken u rest).bytes k m = s.pkg.bytes k m := rfl

/-- A command that is over without a collective: its strand is told, and its ranges go. -/
theorem told_headTaken (e : Nat) (v : X) :
    let t := ((s.headTaken u rest).dropRanges 2 n).asyncTo u e v
    Spec.Told (s.headTaken u rest) t u e v ∧ t.colls = s.pkg.colls ∧ t.mem = s.pkg.mem
    ∧ ∀ r, r ∈ t.ranges ++ t.wanted ↔ r ∈ s.pkg.ranges ++ s.pkg.wanted ∧ ¬(r.src = 2 ∧ r.tok = n) := by
  intro t
  have hf : t = _ := Pkg.asyncTo_frame ((s.headTaken u rest).dropRanges 2 n) u e v
  have htold : Spec.Told ((s.headTaken u rest).dropRanges 2 n) t u e v := Pkg.told_asyncTo ..
  refine ⟨htold, by rw [hf]; rfl, by rw [hf]; rfl, fun r => ?_⟩
  have hl : t.ranges ++ t.wanted = (s.pkg.ranges ++ s.pkg.wanted).filter (fun r => !(r.src == 2 && r.tok == n)) := by
    rw [hf, List.filter_append]
    rfl
  simp only [hl, List.mem_filter, Bool.not_eq_true', Bool.and_eq_false_iff, beq_eq_false_iff_ne, not_and_or, ne_eq]

end

/-- What the package is once a COLL of a communicator that holds it is accepted. -/
theorem accepted_spec {va : Nat} {sup : Bool} {bs : List Byte} (hyes : Spec.CommOk s (Spec.collFor s u n st va sup bs).comm) :
    let c := Spec.collFor s u n st va sup bs
    let r := s.collSeen u st va sup bs n
    let t := (s.headTaken u rest).collAccepted n r c
    t.colls = s.pkg.colls ++ [c]
      ∧ (Spec.BlockLegal s.pkg c → r = c.ranges) ∧ (¬ Spec.BlockLegal s.pkg c → r = []) ∧ Spec.Reranged s.pkg t n r
      ∧ (∀ m, t.collAcc.get 0 m = s.pkg.collAcc.get 0 m + if m = c.comm then 1 else 0)
      ∧ t = { s.headTaken u rest with colls := t.colls, collAcc := t.collAcc, ranges := t.ranges, wanted := t.wanted, early := t.early } := by
  intro c r t
  refine ⟨rfl, fun hb => collSeen_legal hyes hb, fun hb => collSeen_refused fun h => hb h.2, (s.headTaken u rest).collRanges_reranged n r,
    fun m => ?_, rfl⟩
  show (RMap.put s.pkg.collAcc c.comm (s.pkg.collAcc.get 0 c.comm + 1)).get 0 m = _
  simp only [RMap.get, RMap.find?_put]
  split
  · next hm => rw [hm, Option.getD_some]
  · rfl

/-- A COLL whose block is read. -/
theorem collAccept_clean {va : Nat} {sup : Bool} {seen : List Byte} (h : AtHead s u n st (.coll va sup seen) rest) (hr : s.host.ready.getLsbD 12 = true)
    (hc : Spec.Clean s.pkg st.crew va 128) :
    let bs := s.pkg.bytes (Spec.offAt s.pkg st.crew (va - 0x7F0000000000)) 128
    let cm := (bs.getD 6 0).toNat
    let c := Spec.collFor s u n st va sup bs
    (¬ Spec.CommOk s cm → ∃ t, exec (.collAccept u) s = .next (s.withPkg t) ∧ Spec.Told (s.headTaken u rest) t u 0x02 (BitVec.ofNat 64 cm)
      ∧ t.colls = s.pkg.colls ∧ t.mem = s.pkg.mem ∧ ∀ r, r ∈ t.ranges ++ t.wanted ↔ r ∈ s.pkg.ranges ++ s.pkg.wanted ∧ ¬(r.src = 2 ∧ r.tok = n))
    ∧ (Spec.CommOk s cm → ¬ Spec.PortsReady s cm → exec (.collAccept u) s = .next s)
    ∧ (Spec.CommOk s cm → Spec.PortsReady s cm →
      ∃ (t : Pkg) (r : List Range), exec (.collAccept u) s = .next (s.withPkg t) ∧ t.colls = s.pkg.colls ++ [c]
        ∧ (Spec.BlockLegal s.pkg c → r = c.ranges) ∧ (¬ Spec.BlockLegal s.pkg c → r = []) ∧ Spec.Reranged s.pkg t n r
        ∧ (∀ m, t.collAcc.get 0 m = s.pkg.collAcc.get 0 m + if m = cm then 1 else 0)
        ∧ t = { s.headTaken u rest with colls := t.colls, collAcc := t.collAcc, ranges := t.ranges, wanted := t.wanted, early := t.early }) := by
  intro bs cm c
  have hread := collAccept_read h hr (bs := bs) (Pkg.engRead_run (Pkg.run_of_clean (clean_headTaken hc)) s.er baseAgent sup)
  have hok : s.commOk c.comm = true ↔ Spec.CommOk s cm := commOk_iff s _
  have hready : s.collReady c.comm = true ↔ (Spec.CommOk s cm → Spec.PortsReady s cm) := by
    rw [State.collReady, hr, Bool.true_and, Bool.or_eq_true, Bool.not_eq_true', ← Bool.not_eq_true, hok, ports_iff, imp_iff_not_or]
    exact Iff.rfl
  have unready : ¬(!s.collReady c.comm) = true ↔ (Spec.CommOk s cm → Spec.PortsReady s cm) := by rw [Bool.not_eq_true', Bool.not_eq_false, hready]
  refine ⟨fun hno => ⟨_, hread.trans ((if_neg (unready.2 fun hy => absurd hy hno)).trans (if_pos ?_)), told_headTaken _ _⟩,
    fun hyes hports => hread.trans (if_pos ?_), fun hyes hports => ?_⟩
  · rw [Bool.not_eq_true', ← Bool.not_eq_true, hok]
    exact hno
  · by_contra hn
    exact hports (unready.1 hn hyes)
  · refine ⟨_, s.collSeen u st va sup bs n, hread.trans ((if_neg (unready.2 fun _ => hports)).trans (if_neg ?_)), ?_⟩
    · rw [Bool.not_eq_true', Bool.not_eq_false, hok]
      exact hyes
    · exact accepted_spec hyes

/-- Settles O46: a command joins its queue by what keeps it out, and the engine takes a head by what it is. -/
theorem collectiveCommands : Obligations.CollectiveCommands := by
  unfold Obligations.CollectiveCommands
  intro s
  refine ⟨fun st => ?_, fun c => ?_, fun u n st x rest hst hq hheld hsaved => ?_⟩
  · intro used enters
    have joins {i : Instr} {c : CollCmd} {r : List Range} (he : CollEnters i s st c r) : enters i c r := fun h ho => he.queues h ho
    refine ⟨fun o => ?_, fun o => ?_, fun o => joins (rtdel_enters o), fun o => ?_⟩
    · intro a bs x legal
      exact ⟨fun h ha => coll_misaligned h ha, fun ha hc => ⟨fun ⟨hcomm, hblock⟩ hb => joins (coll_enters_legal rfl ha hc hb hcomm hblock),
        fun hno => joins (coll_enters_bare rfl ha hc hno)⟩⟩
    · intro b n ok
      exact ⟨fun ⟨hn, hu⟩ => joins (rtadd_enters hn hu), fun hno h => rtadd_refused h hno⟩
    · exact fun h => ⟨collq_counts h, collq_refused h⟩
  · intro on recv
    refine ⟨fun a => ?_, fun a => ?_, fun r hr => Coll.mem_ranges hr⟩
    · exact (c.covers_ranges 2 a).trans (by simp [recv])
    · exact (c.covers_ranges 1 a).trans (by simp [recv])
  · intro ln taken ends
    refine ⟨fun b len mode tag hx hlen hu => ?_, fun tag hx => ?_, fun va sup seen hx => ?_⟩
    · subst hx
      have hh : AtHead s u n st _ rest := ⟨hst, hq, hheld, hsaved⟩
      exact ⟨collAccept_rtadd_room hh hlen hu, collAccept_rtadd_full hh hlen hu⟩
    · subst hx
      refine ⟨_, collAccept_rtdel ⟨hst, hq, hheld, hsaved⟩, fun r => ?_⟩
      rw [List.mem_filter, Pkg.rtdelLeaves_iff]
      exact Iff.rfl
    · subst hx
      have hh : AtHead s u n st _ rest := ⟨hst, hq, hheld, hsaved⟩
      refine ⟨fun hr => collAccept_waits hh hr, fun hr => ⟨fun e v hf h0 h30 => ⟨_, collAccept_fails hh hr hf h0 h30, told_headTaken _ _⟩, fun hc => ?_⟩⟩
      exact collAccept_clean hh hr hc

end Sys2Proof.Machine
end

section
/-! SUPPORT. The fields of a copy command beside the spec's (R151 to R153): sizes, places, what an element becomes, and its census. -/

namespace Sys2Proof.Machine

/-! ### Fields -/

section
variable (c : CopyCmd)

theorem CopyCmd.field_eq (n : Nat) : c.field n = Spec.field c.fields n := rfl

theorem CopyCmd.offset?_eq (n : Nat) : c.offset? n = Spec.offset c.fields n := by rw [offset?, Spec.offset, bitN_eq_testBit]; rfl

theorem CopyCmd.positions_eq : c.positions = Spec.castTo c.fields :=
  List.filter_congr fun j _ => bitN_eq_testBit _ j

theorem CopyCmd.stride_eq (n : Nat) : c.stride n = Spec.stride c.fields n :=
  readFmt_mod true (by decide) _

theorem elementBytes_eq {t : Nat} (h : t < 8) : max 1 (tyW t / 8) = Spec.esOf t := by
  interval_cases t <;> rfl

variable {c}

theorem CopyCmd.es_eq (h : Spec.field c.fields 2 < 8) : c.es = Spec.esOf (Spec.field c.fields 2) := elementBytes_eq h

theorem CopyCmd.total_eq (h : Spec.field c.fields 2 < 8) : c.total = Spec.total c.fields := by
  rw [total, es_eq h]; rfl

/-- An element has no more bytes in the spec than in the model, whatever its type code holds. -/
theorem CopyCmd.total_le (c : CopyCmd) : c.total ≤ Spec.total c.fields := by
  have hes : Spec.esOf (Spec.field c.fields 2) ≤ c.es := by
    by_cases h : Spec.field c.fields 2 < 8
    · exact (es_eq h).ge
    · have h16 : 2 ^ 4 ≤ 2 ^ (c.field 2 / 2) := Nat.pow_le_pow_right (by decide) (by rw [field_eq]; omega)
      rw [Spec.esOf, es, tyW]
      split_ifs <;> omega
  have hpos : 0 < Spec.esOf (Spec.field c.fields 2) := by rw [Spec.esOf]; split_ifs <;> decide
  rw [total, Spec.total]
  split
  · next h => rw [if_pos (show Spec.field c.fields 11 = 0 from h)]; rfl
  · next h =>
    rw [if_neg (show ¬ Spec.field c.fields 11 = 0 from h)]
    exact Nat.mul_le_mul_left _ (Nat.div_le_div_left hes hpos)

theorem CopyCmd.dstOf_eq (h : Spec.field c.fields 2 < 8) (n : Nat) : c.dstOf n = Spec.dest c.fields n := by
  rw [dstOf, Spec.dest, Spec.destAt, es_eq h]
  split
  · next h0 =>
    rw [if_pos (show Spec.field c.fields 11 = 0 from h0)]
    simp only [addrOf, stride_eq, Nat.cast_mul]
    rfl
  · next h0 =>
    rw [if_neg (show ¬ Spec.field c.fields 11 = 0 from h0)]
    rfl

theorem CopyRun.place_src {r : CopyRun} (h : Spec.field r.cmd.fields 2 < 8) (n : Nat) : (r.place n).1 = Spec.source r.cmd.fields r.ix n := by
  rw [place, Spec.source, Spec.sourceAt, CopyCmd.es_eq h]
  dsimp only
  split
  · next h0 =>
    rw [if_pos (show Spec.field r.cmd.fields 11 = 0 from h0)]
    simp only [addrOf, CopyCmd.stride_eq, Nat.cast_mul]
    rfl
  · next h0 =>
    rw [if_neg (show ¬ Spec.field r.cmd.fields 11 = 0 from h0)]
    simp only [addrOf, CopyCmd.stride_eq, Nat.cast_mul]
    rfl

theorem CopyRun.place_dst {r : CopyRun} (h : Spec.field r.cmd.fields 2 < 8) (n : Nat) : (r.place n).2 = Spec.dest r.cmd.fields n :=
  CopyCmd.dstOf_eq h n

/-- The writes of an element. -/
theorem CopyCmd.dests_length (c : CopyCmd) (d : Nat) :
    (c.dests d).length = if Spec.field c.fields 14 = 0 then 1 else (Spec.castTo c.fields).length := by
  rw [dests, positions_eq]
  split
  · next h => rw [if_pos (show Spec.field c.fields 14 = 0 from h)]; rfl
  · next h => rw [if_neg (show ¬ Spec.field c.fields 14 = 0 from h), List.length_map]

theorem getD_map_of_lt {f : Nat → Nat} {l : List Nat} {k : Nat} (hk : k < l.length) : (l.map f).getD k 0 = f (l.getD k 0) := by
  rw [List.getD_eq_getElem _ _ (by rwa [List.length_map]), List.getElem_map, List.getD_eq_getElem _ _ hk]

theorem CopyCmd.dests_getD {n k : Nat} (hk : k < if Spec.field c.fields 14 = 0 then 1 else (Spec.castTo c.fields).length) :
    (c.dests (Spec.dest c.fields n)).getD k 0 = Spec.destOf c.fields n k := by
  rw [dests, positions_eq, Spec.destOf]
  by_cases h : Spec.field c.fields 14 = 0
  · rw [if_pos h] at hk
    rw [if_pos (show c.field 14 = 0 from h), if_pos h, Nat.lt_one_iff.1 hk, List.getD_cons_zero]
  · rw [if_neg h] at hk
    rw [if_neg (show ¬ c.field 14 = 0 from h), if_neg h, getD_map_of_lt hk, atPos, windowBase]

end

/-! ### What an element becomes -/

/-- The element types that an operation other than a store takes: the signed ones of 8, 16 and 32 bits. -/
abbrev OpTypes (m : RMap X) : Prop := Spec.field m 13 ≤ 4 ∧ (Spec.field m 13 ≠ 0 → Spec.field m 2 = 2 ∨ Spec.field m 2 = 4 ∨ Spec.field m 2 = 6)

theorem CopyCmd.es_pos (c : CopyCmd) : 0 < c.es := Nat.lt_of_lt_of_le Nat.one_pos (le_max_left _ _)

section
variable {c : CopyCmd}

/-- A store writes the element as it is, whatever the destination holds. -/
theorem CopyCmd.combine_store (h : Spec.field c.fields 13 = 0) (o x : Nat) : c.combine o x = (x, false) := by
  have h' : c.field 13 = 0 := h
  simp only [combine, h']

theorem satTo_clamp (w : Nat) (v : Int) : satTo true w v = max (-2 ^ (w - 1)) (min (2 ^ (w - 1) - 1) v) := by
  rw [satTo_eq]
  simp [fmtMin, fmtMax]

/-- A clamped value survives the wrap to its width. -/
theorem toInt_ofNat_clamp {w : Nat} (hw : 0 < w) (v : Int) :
    (BitVec.ofNat w (BitVec.ofInt w (max (-2 ^ (w - 1)) (min (2 ^ (w - 1) - 1) v))).toNat).toInt = max (-2 ^ (w - 1)) (min (2 ^ (w - 1) - 1) v) := by
  have h2 : (2 : Int) ^ w = 2 * 2 ^ (w - 1) := by rw [← pow_succ', Nat.sub_add_cancel hw]
  have h0 : (0 : Int) < 2 ^ (w - 1) := by positivity
  rw [BitVec.ofNat_toNat, BitVec.setWidth_eq, BitVec.toInt_ofInt, Int.bmod_eq_of_le]
  · push_cast
    omega
  · push_cast
    omega

/-- The bits written, and whether they saturated. -/
theorem CopyCmd.combine_spec (h : OpTypes c.fields) (h2 : Spec.field c.fields 2 < 8) (o x : Nat) :
    let w := 8 * Spec.esOf (Spec.field c.fields 2)
    let y := Spec.combine (Spec.field c.fields 13) w o x
    (c.combine o x).1 % 2 ^ w = y
    ∧ (c.combine o x).2 = decide (Spec.field c.fields 13 = 2 ∧ (BitVec.ofNat w y).toInt ≠ (BitVec.ofNat w o).toInt + (BitVec.ofNat w x).toInt) := by
  intro w y
  have hw : 8 * c.es = w := by rw [es_eq h2]
  have hw0 : 0 < w := by rw [← hw]; exact Nat.mul_pos (by decide) c.es_pos
  obtain ⟨hop, hty⟩ := h
  by_cases h0 : Spec.field c.fields 13 = 0
  · rw [combine_store h0]
    simp [y, Spec.combine, h0]
  have hsg : tySigned (Spec.field c.fields 2) = true := by rcases hty h0 with h | h | h <;> rw [h] <;> rfl
  have hrd (n : Nat) : readFmt true w (n % 2 ^ w) = (BitVec.ofNat w n).toInt := readFmt_mod true hw0 n
  have hmod (v : Int) : wrapBits w v % 2 ^ w = (BitVec.ofInt w v).toNat := by rw [wrapBits_eq_ofInt]; exact Nat.mod_eq_of_lt (BitVec.isLt _)
  have h13 : Spec.field c.fields 13 = 1 ∨ Spec.field c.fields 13 = 2 ∨ Spec.field c.fields 13 = 3 ∨ Spec.field c.fields 13 = 4 := by omega
  simp only [combine, hsg, hw, hrd, field_eq]
  rcases h13 with h | h | h | h
  · simp [h, y, Spec.combine, hmod]
  · simp only [h, y, Spec.combine, hmod, satTo_clamp, toInt_ofNat_clamp hw0, true_and]
  · simp [h, y, Spec.combine, hmod]
  · simp [h, y, Spec.combine, hmod]

/-- The count of one value, by its bits. -/
theorem rsb_value {t v n : Nat} (hv : v = n % 2 ^ tyW t) : rsb (tySigned t) (tyW t) (readFmt (tySigned t) (tyW t) (n % 2 ^ tyW t))
    = rsb (t % 2 == 0) (tyW t) (if t % 2 = 0 then (BitVec.ofNat (tyW t) v).toInt else v) := by
  have hw : 0 < tyW t := Nat.mul_pos (by decide) (Nat.two_pow_pos _)
  have hbits : BitVec.ofNat (tyW t) v = BitVec.ofNat (tyW t) n := BitVec.eq_of_toNat_eq (by simp [hv])
  rw [readFmt_mod _ hw, wordVal, tySigned, hbits]
  by_cases he : t % 2 = 0
  · simp [he]
  · simp [he, hv]

/-- The census of an element (R152). -/
theorem CopyCmd.counts_spec (h2 : Spec.field c.fields 2 < 8) (n : Nat) :
    let t := Spec.field c.fields 2
    let y := n % 2 ^ (8 * Spec.esOf t)
    c.counts n = (if t < 2 then [y % 16, y / 16] else [y]).map (fun v =>
      rsb (t % 2 == 0) (tyW t) (if t % 2 = 0 then (BitVec.ofNat (tyW t) v).toInt else v)) := by
  intro t y
  show (if tyW t = 4 then _ else _) = _
  by_cases ht : t < 2
  · have h4 : tyW t = 4 := by interval_cases t <;> rfl
    have hes : Spec.esOf t = 1 := by rw [Spec.esOf, if_pos (by omega)]
    have hy : y = n % 2 ^ 8 := by simp only [y, hes]
    rw [if_pos h4, if_pos ht, List.map_cons, List.map_cons, List.map_nil, ← rsb_value (n := n) (by rw [h4]; omega),
      ← rsb_value (n := n / 16) (by rw [h4]; omega)]
    rfl
  · have hw : tyW t = 8 * Spec.esOf t := by
      have : t < 8 := h2
      interval_cases t <;> rfl
    have h4 : tyW t ≠ 4 := by rw [hw]; omega
    rw [if_neg h4, if_neg ht, List.map_cons, List.map_nil, ← rsb_value (n := n) (by rw [hw])]
    rfl

end

end Sys2Proof.Machine
end

section
/-! SUPPORT. Galley words and census blocks (R103, R104, R154): what an update counts and posts, what a merge writes, and what neither
changes. -/

namespace Sys2Proof.Machine

/-! ### Window offsets in one position -/

theorem offPieces_one {off n : Nat} (h : off % 2 ^ 18 + n ≤ 2 ^ 18) (hn : 0 < n) : offPieces off n = [(off, n)] := by
  have hm : min n (2 ^ 18 - off % 2 ^ 18) = n := by omega
  have hne : n ≠ 0 := by omega
  simp only [offPieces, offCut, hm, if_neg hne, Nat.sub_self, if_true]

theorem Pkg.offPoison_one (p : Pkg) (cu : Nat) {off n : Nat} (h : off % 2 ^ 18 + n ≤ 2 ^ 18) (hn : 0 < n) :
    p.offPoison cu off n = p.poisoned (Spec.offAt p cu off) n := by
  have hk : p.offKey cu off = Spec.offAt p cu off := rfl
  simp only [offPoison, offPieces_one h hn, List.findSome?_cons, List.findSome?_nil, hk]
  cases p.poisoned (Spec.offAt p cu off) n <;> rfl

/-! ### Waits met -/

/-- Package q is p but for strands, values fixed ahead, clusters and the waits for units. -/
def Pkg.Roused (p q : Pkg) : Prop := q = { p with strands := q.strands, early := q.early, clusters := q.clusters, unitWaits := q.unitWaits }

theorem Pkg.Roused.trans {p q r : Pkg} (h : p.Roused q) (h' : q.Roused r) : p.Roused r := by
  unfold Roused at *
  rw [h', h]

theorem Pkg.Roused.foldl {α : Type} {f : Pkg → α → Pkg} (hf : ∀ (p : Pkg) a, p.Roused (f p a)) (l : List α) (p : Pkg) : p.Roused (l.foldl f p) := by
  induction l generalizing p with
  | nil => rfl
  | cons a l ih => exact (hf p a).trans (ih _)

theorem Pkg.roused_wake (p : Pkg) (u : Nat) (g : Grant) : p.Roused (p.wake u g) := rfl

theorem Pkg.roused_makeReady (p : Pkg) (cl n : Nat) : p.Roused (p.makeReady cl n) := rfl

theorem Pkg.roused_together (p p0 : Pkg) : p.Roused (p.together p0) := rfl

/-- Testing the galley waits again changes no memory, range or core. -/
theorem Pkg.roused_retestGalleys (p : Pkg) : p.Roused p.retestGalleys := by
  unfold retestGalleys
  refine .trans ?_ (roused_together _ p)
  refine .trans ?_ (.foldl (fun q (w : UnitWait) => q.roused_makeReady (q.crew w.strand).cluster w.rslot) _ _)
  refine .trans ?_ (.foldl (fun q (w : UnitWait) => q.roused_wake w.strand _) _ _)
  rfl

/-! ### Posts (R54) -/

/-- Package q is p but for what rouses and for cores. -/
def Pkg.Posted (p q : Pkg) : Prop :=
  q = { p with strands := q.strands, early := q.early, clusters := q.clusters, unitWaits := q.unitWaits, cores := q.cores }

theorem Pkg.Roused.cores {p q : Pkg} (h : p.Roused q) : q.cores = p.cores := (congrArg Pkg.cores h :)

theorem Pkg.Roused.posted {p q : Pkg} (h : p.Roused q) : p.Posted q := by
  unfold Roused at h
  unfold Posted
  rw [h]

theorem Pkg.Posted.trans {p q r : Pkg} (h : p.Posted q) (h' : q.Posted r) : p.Posted r := by
  unfold Posted at *
  rw [h', h]

theorem Pkg.Posted.mem {p q : Pkg} (h : p.Posted q) : q.mem = p.mem := (congrArg Pkg.mem h :)
theorem Pkg.Posted.ranges {p q : Pkg} (h : p.Posted q) : q.ranges = p.ranges := (congrArg Pkg.ranges h :)
theorem Pkg.Posted.wanted {p q : Pkg} (h : p.Posted q) : q.wanted = p.wanted := (congrArg Pkg.wanted h :)

theorem Spec.flag_of_cores {p q : Pkg} (h : q.cores = p.cores) (c f : Nat) : Spec.flag q c f = Spec.flag p c f := by
  rw [Spec.flag, Pkg.core, h]; rfl

/-- Waits for other flags leave flag f of value v as it is. -/
theorem walkFlag_other {f : Nat} (l : List FlagWait) (v : Nat) (h : ∀ w ∈ l, w.flag ≠ f) : walkFlag f l v = (l, v, []) := by
  induction l with
  | nil => rfl
  | cons w l ih =>
    obtain ⟨hw, hl⟩ := List.forall_mem_cons.1 h
    rw [walkFlag, if_neg fun hc => hw hc.1, ih hl]

/-- Serving a flag that no strand or record waits for changes nothing but the way its core is written. -/
theorem Pkg.serveFlag_quiet {p : Pkg} {c f : Nat} (hw : ∀ w ∈ (p.core c).waits, w.flag ≠ f) :
    p.serveFlag c f = p.setCore c { p.core c with flags := RMap.set (p.core c).flags 0 f (BitVec.ofNat 32 (Spec.flag p c f)) } := by
  unfold serveFlag
  dsimp only
  rw [walkFlag_other _ _ hw]
  rfl

/-- A post to a flag that no one waits for and that it does not saturate. -/
theorem Pkg.post_quiet (p : Pkg) {c f n pcu pcore psn : Nat} (hw : ∀ w ∈ (p.core c).waits, w.flag ≠ f) (hv : Spec.flag p c f + n < 2 ^ 32) :
    p.Posted (p.post c f n pcu pcore psn) ∧ Spec.flag (p.post c f n pcu pcore psn) c f = Spec.flag p c f + n := by
  have hle : ((p.core c).flags.get 0 f).toNat + n ≤ 2 ^ 32 - 1 := Nat.le_sub_one_of_lt hv
  unfold post
  dsimp only
  rw [if_pos hle, serveFlag_quiet (by rw [core_setCore, if_pos rfl]; exact hw)]
  refine ⟨rfl, ?_⟩
  simp only [Spec.flag, core_setCore, if_true, RMap.get_set_same, BitVec.toNat_ofNat, Nat.min_eq_left hle]
  have hlt := Nat.mod_eq_of_lt hv
  rw [Spec.flag] at hlt
  rw [hlt, hlt]

/-! ### An update of a galley word (R104) -/

/-- Packages p and q hold the same galley word at key k and place their crews alike. -/
structure Pkg.AgreeAt (p q : Pkg) (k : Nat) : Prop where
  byte : ∀ j, k ≤ j → j < k + 16 → q.byte j = p.byte j
  cores : q.cores = p.cores
  crews : q.crews = p.crews
  launches : q.launches = p.launches

/-- The generations that an update of n bytes into the galley word at key k completes. -/
def Pkg.gens (p : Pkg) (k n : Nat) : Nat := if p.num k 4 = 0 then 0 else (p.num (k + 4) 4 + n) / p.num k 4

/-- The core and the flag of the galley word at key k of crew cu. -/
def Pkg.postCore (p : Pkg) (cu k : Nat) : Nat := (p.crew cu).cores.getD (p.num (k + 11) 1 % 32) 0
def Pkg.postFlag (p : Pkg) (k : Nat) : Nat := p.num (k + 10) 1 % 32

/-- An update of n bytes into the galley word at key k of crew cu posts nothing, or once to a flag that no one waits for. -/
def Pkg.PostsQuietly (p : Pkg) (cu k n : Nat) : Prop :=
  p.gens k n = 0 ∨ p.num (k + 12) 2 = 0 ∨ (p.gens k n = 1 ∧ p.num (k + 11) 1 % 32 < (p.launch (p.crew cu).launch).cpc ∧ (p.crew cu).away = false
    ∧ Spec.flag p (p.postCore cu k) (p.postFlag k) + p.num (k + 12) 2 < 2 ^ 32 ∧ ∀ w ∈ (p.core (p.postCore cu k)).waits, w.flag ≠ p.postFlag k)

/-- What q has of the galley word at key k of crew cu once n bytes are counted into p's. -/
def Pkg.Counted (p q : Pkg) (cu k n : Nat) : Prop :=
  q.num (k + 4) 4 = (if p.num k 4 = 0 then min (p.num (k + 4) 4 + n) (2 ^ 32 - 1) else (p.num (k + 4) 4 + n) % p.num k 4)
  ∧ q.num (k + 8) 2 = (if p.num k 4 = 0 then p.num (k + 8) 2 else (p.num (k + 8) 2 + p.gens k n) % 2 ^ 16)
  ∧ Spec.flag q (p.postCore cu k) (p.postFlag k) = Spec.flag p (p.postCore cu k) (p.postFlag k) + if p.gens k n = 1 then p.num (k + 12) 2 else 0

section
variable {p q : Pkg} {k : Nat} (h : p.AgreeAt q k)
include h

theorem Pkg.AgreeAt.num (i n : Nat) (hi : i + n ≤ 16) : q.num (k + i) n = p.num (k + i) n :=
  num_congr fun x _ _ => h.byte x (by omega) (by omega)

theorem Pkg.AgreeAt.core (c : Nat) : q.core c = p.core c := by rw [Pkg.core, h.cores]; rfl

theorem Pkg.AgreeAt.crew (cu : Nat) : q.crew cu = p.crew cu := by rw [Pkg.crew, h.crews]; rfl

theorem Pkg.AgreeAt.gens (n : Nat) : q.gens k n = p.gens k n := by
  rw [Pkg.gens, show q.num k 4 = p.num k 4 from h.num 0 4 (by decide), h.num 4 4 (by decide)]; rfl

theorem Pkg.AgreeAt.postCore (cu : Nat) : q.postCore cu k = p.postCore cu k := by
  rw [Pkg.postCore, h.crew, h.num 11 1 (by decide)]; rfl

theorem Pkg.AgreeAt.postFlag : q.postFlag k = p.postFlag k := by
  rw [Pkg.postFlag, h.num 10 1 (by decide)]; rfl

theorem Pkg.AgreeAt.flag (c f : Nat) : Spec.flag q c f = Spec.flag p c f := Spec.flag_of_cores h.cores c f

theorem Pkg.AgreeAt.quiet {cu n : Nat} (hq : p.PostsQuietly cu k n) : q.PostsQuietly cu k n := by
  have hl : q.launch = p.launch := by unfold launch; rw [h.launches]
  unfold PostsQuietly
  rw [h.gens, h.num 12 2 (by decide), h.num 11 1 (by decide), h.crew, h.postCore, h.postFlag, h.flag, h.core, hl]
  exact hq

theorem Pkg.AgreeAt.counted {r : Pkg} {cu n : Nat} (hc : q.Counted r cu k n) : p.Counted r cu k n := by
  unfold Counted at *
  rw [h.gens, h.num 12 2 (by decide), show q.num k 4 = p.num k 4 from h.num 0 4 (by decide), h.num 4 4 (by decide), h.num 8 2 (by decide),
    h.postCore, h.postFlag, h.flag] at hc
  exact hc

end

/-- Package q is p but for memory and what a post changes. -/
def Pkg.Updated (p q : Pkg) : Prop := q = { p with
  mem := q.mem, strands := q.strands, early := q.early, clusters := q.clusters, unitWaits := q.unitWaits, cores := q.cores }

theorem Pkg.Updated.of_write {p q : Pkg} {k : Nat} {bs : List Byte} (h : (p.write k bs).Posted q) : p.Updated q := by
  unfold Posted at h
  unfold Updated
  rw [h]
  rfl

theorem Pkg.Updated.ranges {p q : Pkg} (h : p.Updated q) : q.ranges = p.ranges := (congrArg Pkg.ranges h :)
theorem Pkg.Updated.wanted {p q : Pkg} (h : p.Updated q) : q.wanted = p.wanted := (congrArg Pkg.wanted h :)

theorem Pkg.Posted.byte {p q : Pkg} (h : p.Posted q) (j : Nat) : q.byte j = p.byte j := byte_of_mem h.mem j

theorem Pkg.Posted.num {p q : Pkg} (h : p.Posted q) (k n : Nat) : q.num k n = p.num k n := num_congr fun x _ _ => h.byte x

/-- The posts of an update: times of n to flag f of position j. -/
def Pkg.postTimes (p : Pkg) (cu times j f n pcore : Nat) : Pkg :=
  if 0 < times ∧ 0 < n ∧ j < (p.launch (p.crew cu).launch).cpc then (List.range times).foldl (fun p _ => p.postPos cu j f n cu pcore 0) p else p

/-- The galley word at key k with m for COUNT and GEN. -/
def Pkg.recount (p : Pkg) (k m gen : Nat) : Pkg := p.write (k + 4) (toBytes 4 m ++ toBytes 2 gen)

theorem Pkg.galleyAdd_target {p : Pkg} {k : Nat} (h : p.num k 4 ≠ 0) (cu n pcore : Nat) :
    let w := p.recount k ((p.num (k + 4) 4 + n) % p.num k 4) ((p.num (k + 8) 2 + p.gens k n) % 2 ^ 16)
    p.galleyAdd cu k n pcore
      = (w.postTimes cu (p.gens k n) (w.num (k + 11) 1 % 32) (w.postFlag k) (w.num (k + 12) 2) pcore).retestGalleys.together p := by
  rw [galleyAdd, gens, if_neg h, if_neg h]
  rfl

theorem Pkg.galleyAdd_untargeted {p : Pkg} {k : Nat} (h : p.num k 4 = 0) (cu n pcore : Nat) :
    p.galleyAdd cu k n pcore = p.write (k + 4) (toBytes 4 (min (p.num (k + 4) 4 + n) (2 ^ 32 - 1))) := if_pos h

theorem Pkg.byte_recount (p : Pkg) (k m gen j : Nat) (hj : ¬(k + 4 ≤ j ∧ j < k + 10)) : (p.recount k m gen).byte j = p.byte j :=
  byte_write_out _ _ _ _ (by rw [List.length_append, toBytes_length, toBytes_length]; omega)

/-- COUNT and GEN of the word as written. -/
theorem Pkg.num_recount (p : Pkg) (k m gen : Nat) :
    (p.recount k m gen).num (k + 4) 4 = m % 2 ^ 32 ∧ (p.recount k m gen).num (k + 8) 2 = gen % 2 ^ 16 := by
  have hw : p.recount k m gen = (p.write (k + 4) (toBytes 4 m)).write (k + 8) (toBytes 2 gen) := write_append _ _ _ _
  rw [hw]
  exact ⟨(num_write_apart _ _ _ _ _ (by omega)).trans (num_write_same _ _ _ _), num_write_same _ _ _ _⟩

/-- Posts that are none, or one to a flag that no one waits for. -/
theorem Pkg.postTimes_quiet {p : Pkg} {cu times j f n : Nat} (pcore : Nat)
    (hq : times = 0 ∨ n = 0 ∨ (times = 1 ∧ j < (p.launch (p.crew cu).launch).cpc ∧ (p.crew cu).away = false
      ∧ Spec.flag p ((p.crew cu).cores.getD j 0) f + n < 2 ^ 32 ∧ ∀ w ∈ (p.core ((p.crew cu).cores.getD j 0)).waits, w.flag ≠ f)) :
    let c := (p.crew cu).cores.getD j 0
    let q := p.postTimes cu times j f n pcore
    p.Posted q ∧ Spec.flag q c f = Spec.flag p c f + if times = 1 then n else 0 := by
  intro c q
  by_cases h0 : times = 0 ∨ n = 0
  · have hqp : q = p := if_neg (by omega)
    rw [hqp]
    refine ⟨rfl, ?_⟩
    split <;> omega
  · have hq' := hq.resolve_left fun h => h0 (.inl h)
    obtain ⟨h1, hf, haw, hv, hw⟩ := hq'.resolve_left fun h => h0 (.inr h)
    have hqp : q = p.post c f n cu pcore 0 := by
      show postTimes _ _ _ _ _ _ _ = _
      rw [postTimes, if_pos (by omega), h1]
      show p.postPos _ _ _ _ _ _ _ = _
      rw [postPos, if_neg (by rw [haw]; decide)]
    rw [hqp, if_pos h1]
    exact post_quiet p hw hv

/-- n bytes counted into a galley word. -/
theorem Pkg.galleyAdd_counts {p : Pkg} {cu k n : Nat} (hq : p.PostsQuietly cu k n) (pcore : Nat) :
    p.Counted (p.galleyAdd cu k n pcore) cu k n ∧ p.Updated (p.galleyAdd cu k n pcore)
    ∧ ∀ j, ¬(k + 4 ≤ j ∧ j < k + 10) → (p.galleyAdd cu k n pcore).byte j = p.byte j := by
  by_cases h0 : p.num k 4 = 0
  · have hg : p.gens k n = 0 := if_pos h0
    rw [galleyAdd_untargeted h0, Counted, hg, if_pos h0, if_pos h0, num_write_same, num_write_apart _ _ _ _ _ (by rw [toBytes_length]; omega)]
    exact ⟨⟨by omega, rfl, rfl⟩, rfl, fun j hj => byte_write_out _ _ _ _ (by rw [toBytes_length]; omega)⟩
  · have hm : (p.num (k + 4) 4 + n) % p.num k 4 % 2 ^ 32 = (p.num (k + 4) 4 + n) % p.num k 4 :=
      Nat.mod_eq_of_lt ((Nat.mod_lt _ (Nat.pos_of_ne_zero h0)).trans (num_lt p k 4))
    rw [galleyAdd_target h0, Counted, if_neg h0, if_neg h0]
    generalize (p.num (k + 4) 4 + n) % p.num k 4 = m at hm ⊢
    generalize (p.num (k + 8) 2 + p.gens k n) = g
    obtain ⟨hcount, hgen⟩ := p.num_recount k m (g % 2 ^ 16)
    have hout := p.byte_recount k m (g % 2 ^ 16)
    have hlater : ∀ a m', k + 10 ≤ a → (p.recount k m (g % 2 ^ 16)).num a m' = p.num a m' := fun a m' ha => num_congr fun x _ _ => hout x (by omega)
    have hfl : (p.recount k m (g % 2 ^ 16)).postFlag k = p.postFlag k := by rw [postFlag, hlater _ _ (by omega)]; rfl
    rw [hlater _ _ (by omega), hlater _ _ (by omega), hfl]
    obtain ⟨hposted, hflag⟩ := postTimes_quiet (p := p.recount k m (g % 2 ^ 16)) pcore hq
    generalize (p.recount k m (g % 2 ^ 16)).postTimes cu (p.gens k n) (p.num (k + 11) 1 % 32) (p.postFlag k) (p.num (k + 12) 2) pcore = v at *
    have hroused : v.Roused (v.retestGalleys.together p) := (roused_retestGalleys v).trans (roused_together _ p)
    have hall := hposted.trans hroused.posted
    exact ⟨⟨(hall.num _ _).trans (hcount.trans hm), (hall.num _ _).trans (hgen.trans (Nat.mod_mod _ _)),
      (Spec.flag_of_cores hroused.cores _ _).trans hflag⟩, Updated.of_write hall, fun j hj => (hall.byte j).trans (hout j hj)⟩

/-! ### A merge of the census (R154) -/

/-- What merging the counts and the saturation into the block at key kb makes of p. -/
def Pkg.Merged (p q : Pkg) (kb : Nat) (count : Nat) (sat : Bool) : Prop :=
  q.num kb 4 = min (p.num kb 4) count ∧ q.num (kb + 4) 4 = (p.num (kb + 4) 4 ||| if sat then 1 else 0)
  ∧ ∀ j, ¬(kb ≤ j ∧ j < kb + 8) → q.byte j = p.byte j

theorem Pkg.mergeBlock_one (p : Pkg) (cu off count : Nat) (sat : Bool) :
    let kb := Spec.offAt p cu off
    let w := p.write kb (toBytes 4 (min (p.num kb 4) count))
    p.mergeBlock cu off [count] sat false = w.write (kb + 4) (toBytes 4 (w.num (kb + 4) 4 ||| (if sat then 1 else 0) ||| 0)) := rfl

theorem Pkg.mergeBlock_merged (p : Pkg) (cu off count : Nat) (sat : Bool) :
    let q := p.mergeBlock cu off [count] sat false
    p.Merged q (Spec.offAt p cu off) count sat ∧ q = { p with mem := q.mem } := by
  rw [mergeBlock_one]
  generalize Spec.offAt p cu off = kb
  have hle : min (p.num kb 4) count % 2 ^ 32 = min (p.num kb 4) count := Nat.mod_eq_of_lt (Nat.lt_of_le_of_lt (min_le_left _ _) (num_lt p _ 4))
  have hor : (p.num (kb + 4) 4 ||| if sat then 1 else 0) % 2 ^ 32 = (p.num (kb + 4) 4 ||| if sat then 1 else 0) :=
    Nat.mod_eq_of_lt (Nat.or_lt_two_pow (num_lt p _ 4) (by split <;> decide))
  rw [num_write_apart p kb (toBytes 4 _) (kb + 4) 4 (by rw [toBytes_length]; omega), Nat.or_zero]
  refine ⟨⟨?_, (num_write_same _ _ _ _).trans hor, fun j hj => ?_⟩, rfl⟩
  · rw [num_write_apart _ (kb + 4) _ kb 4 (by omega), num_write_same]; exact hle
  · rw [byte_write_out _ (kb + 4) _ j (by rw [toBytes_length]; omega), byte_write_out _ kb _ j (by rw [toBytes_length]; omega)]

end Sys2Proof.Machine
end

section
/-! SUPPORT. How a copy command starts, leaves and aborts (R112, R152, R154, R393). -/

namespace Sys2Proof.Machine

/-- The ranges and waiting ranges of copy command n are gone from q; all others are p's. -/
abbrev RangesGone (n : Nat) (p q : Pkg) : Prop := (∀ e, e ∈ q.ranges ↔ e ∈ p.ranges ∧ ¬(e.src = 1 ∧ e.tok = n))
  ∧ ∀ e, e ∈ q.wanted ↔ e ∈ p.wanted ∧ ¬(e.src = 1 ∧ e.tok = n)

theorem mem_filter_own {l : List Range} {e : Range} {n : Nat} :
    e ∈ l.filter (fun r => !(r.src == 1 && r.tok == n)) ↔ e ∈ l ∧ ¬(e.src = 1 ∧ e.tok = n) := by
  simp only [List.mem_filter, Bool.not_eq_true', ← Bool.not_eq_true, Bool.and_eq_true, beq_iff_eq]

theorem Pkg.dropRanges_gone (p : Pkg) (n : Nat) : RangesGone n p (p.dropRanges 1 n) := ⟨fun _ => mem_filter_own, fun _ => mem_filter_own⟩

/-! ### The start -/

section
variable {s : State} {c : Nat} {x : CopyCmd} {rest : List CopyCmd}

theorem copyHead_head (hq : (s.pkg.core c).copyq = x :: rest) (hr : (s.pkg.core c).copyRun = none) (hs : (s.pkg.core c).service = .inService)
    (hh : s.pkg.held x.strand 1 x.num = false) : copyHead s c = some x := by
  simp [copyHead, hq, hr, hs, hh]

/-- The entries of the index list of command x. -/
def CopyCmd.indexList (x : CopyCmd) (p : Pkg) : List Nat :=
  (List.range (Spec.field x.fields 11)).map (fun i => p.num (Spec.offAt p x.crew (Spec.field x.fields 10 + 4 * i - 0x7F0000000000)) 4)

/-- An index list in clean memory is read as it stands. -/
theorem readIndex_clean {p : Pkg} (er : Nat) (h : ∀ i < Spec.field x.fields 11, Spec.Clean p x.crew (Spec.field x.fields 10 + 4 * i) 4) :
    readIndex er c p x = .ok (x.indexList p, p) := by
  simp only [readIndex, CopyCmd.indexList, CopyCmd.field_eq]
  generalize Spec.field x.fields 11 = n at h ⊢
  induction n with
  | zero => rfl
  | succ n ih =>
    rw [List.range_succ, List.foldl_append, ih fun i hi => h i (Nat.lt_succ_of_lt hi), List.map_append]
    simp only [List.foldl_cons, List.foldl_nil, Pkg.engRead_run (Pkg.run_of_clean (h n (Nat.lt_succ_self n)))]
    rfl

/-- A command whose list is read, and whose ranges are in the table or none, starts. -/
theorem copyStart_runs {ix : List Nat} (hq : (s.pkg.core c).copyq = x :: rest) (hh : copyHead s c = some x)
    (hix : readIndex s.er c s.pkg x = .ok (ix, s.pkg))
    (hr : x.ranges c (s.pkg.crew x.crew).launch ix = [] ∨ ∃ r ∈ s.pkg.ranges, r.src = 1 ∧ r.tok = x.num) :
    exec (.copyStart c) s = .next (s.withPkg (s.pkg.setCore c { s.pkg.core c with copyq := rest, copyRun := some { cmd := x, ix := ix } })) := by
  have hin : (if x.ranges c (s.pkg.crew x.crew).launch ix = [] then some s.pkg else s.pkg.inForce 1 x.num (x.ranges c (s.pkg.crew x.crew).launch ix))
      = some s.pkg := by
    split
    · rfl
    · next h =>
      obtain ⟨r, hr, hsrc, htok⟩ := hr.resolve_left h
      exact if_pos (List.any_eq_true.2 ⟨r, hr, by simp [hsrc, htok]⟩)
  show execCopyStart c s = _
  unfold execCopyStart
  rw [hh]
  dsimp only
  rw [hix]
  dsimp only
  rw [hin]
  dsimp only
  rw [hq]
  rfl

theorem CopyCmd.ranges_untracked (h : Spec.field x.fields 19 = 0) (c ln : Nat) (ix : List Nat) : x.ranges c ln ix = [] := by
  simp only [ranges, field_eq, h]

end

/-! ### The end of a command (R154) -/

/-- The census is merged and the ranges are removed, unless that has been done. -/
def CopyRun.settle (r : CopyRun) (p : Pkg) : Pkg := if r.merged then p else (r.merge p).dropRanges 1 r.cmd.num

/-- The command's counter is decremented. -/
def CopyCmd.countDown (x : CopyCmd) (c : Nat) (p : Pkg) : Pkg :=
  match x.offset? 18 with
  | some off => p.decrement x.crew off c 0
  | none => p

/-- The command's flag is posted. -/
def CopyCmd.postEnd (x : CopyCmd) (c : Nat) (p : Pkg) : Pkg :=
  if fieldN (x.field 15) 31 16 = 0 then p
  else p.postPos x.crew (fieldN (x.field 15) 9 5) (fieldN (x.field 15) 4 0) (fieldN (x.field 15) 31 16) x.crew c 0

/-- The uncorrectable word that the end of a command would consume. -/
def CopyRun.endUpset (r : CopyRun) (p : Pkg) : Option Nat :=
  (if r.merged then none else r.cmd.censusUpset p).or ((r.cmd.offset? 18).bind (fun off => p.counterUpset r.cmd.crew off))

section
variable {x : CopyCmd} {c : Nat}

theorem CopyCmd.countDown_none (h : Spec.offset x.fields 18 = none) (p : Pkg) : x.countDown c p = p := by
  rw [countDown, offset?_eq, h]

theorem CopyCmd.countDown_some {o : Nat} (h : Spec.offset x.fields 18 = some o) (p : Pkg) : x.countDown c p = p.decrement x.crew o c 0 := by
  rw [countDown, offset?_eq, h]

theorem CopyCmd.postEnd_none (h : Spec.field x.fields 15 / 2 ^ 16 % 2 ^ 16 = 0) (p : Pkg) : x.postEnd c p = p := if_pos h

theorem CopyCmd.postEnd_here (p : Pkg) (h : 0 < Spec.field x.fields 15 / 2 ^ 16 % 2 ^ 16) (ha : (p.crew x.crew).away = false) :
    let f := Spec.field x.fields 15
    x.postEnd c p = p.post ((p.crew x.crew).cores.getD (f / 2 ^ 5 % 2 ^ 5) 0) (f % 2 ^ 5) (f / 2 ^ 16 % 2 ^ 16) x.crew c 0 := by
  intro f
  have h4 : fieldN (x.field 15) 4 0 = f % 2 ^ 5 := by rw [fieldN, pow_zero, Nat.div_one]; rfl
  have hn : ¬ fieldN (x.field 15) 31 16 = 0 := Nat.ne_of_gt h
  rw [postEnd, if_neg hn, h4, Pkg.postPos, if_neg (by rw [ha]; decide)]
  rfl

end

section
variable {s : State} {c : Nat} {r : CopyRun}

theorem CopyRun.merge_none (h : Spec.offset r.cmd.fields 20 = none) (p : Pkg) : r.merge p = p := by
  rw [merge, CopyCmd.offset?_eq, h]

theorem CopyRun.merge_some {o n : Nat} (h : Spec.offset r.cmd.fields 20 = some o) (hc : r.census = [n]) (p : Pkg) :
    r.merge p = p.mergeBlock r.cmd.crew o [n] r.sat false := by
  rw [merge, CopyCmd.offset?_eq, h, hc]

theorem CopyRun.settle_merged (h : r.merged = true) (p : Pkg) : r.settle p = p := if_pos h

theorem CopyRun.settle_unmerged (h : r.merged = false) (p : Pkg) : r.settle p = (r.merge p).dropRanges 1 r.cmd.num :=
  if_neg (by rw [h]; decide)

theorem CopyCmd.censusUpset_none {x : CopyCmd} (h : Spec.offset x.fields 20 = none) (p : Pkg) : x.censusUpset p = none := by
  rw [censusUpset, offset?_eq, h]; rfl

theorem CopyCmd.censusUpset_clean {x : CopyCmd} {o : Nat} {p : Pkg} (h : Spec.offset x.fields 20 = some o) (h8 : o % 8 = 0)
    (hp : p.poisoned (Spec.offAt p x.crew o) 8 = none) : x.censusUpset p = none := by
  rw [censusUpset, offset?_eq, h]
  exact (p.offPoison_one x.crew (by omega) (by decide)).trans hp

theorem CopyRun.endUpset_of {p : Pkg} (h20 : r.merged = true ∨ r.cmd.censusUpset p = none)
    (h18 : ∀ o, Spec.offset r.cmd.fields 18 = some o → p.counterUpset r.cmd.crew o = none) : r.endUpset p = none := by
  have h1 : (if r.merged then none else r.cmd.censusUpset p) = none := by rcases h20 with h | h <;> simp [h]
  rw [endUpset, h1, CopyCmd.offset?_eq]
  cases ho : Spec.offset r.cmd.fields 18 with
  | none => rfl
  | some o => exact h18 o ho

/-- A command whose elements are done leaves. -/
theorem copyCompletion_leaves (hr : (s.pkg.core c).copyRun = some r) (hd : Spec.total r.cmd.fields ≤ r.done) (hu : r.endUpset s.pkg = none) :
    let p := r.cmd.postEnd c (r.cmd.countDown c (r.settle s.pkg))
    exec (.copyCompletion c) s = .next (s.withPkg (p.setCore c { p.core c with copyRun := none })) := by
  show execCopyCompletion c s = _
  unfold execCopyCompletion
  unfold CopyRun.endUpset at hu
  rw [hr]
  simp only [if_neg (Nat.not_lt.2 (r.cmd.total_le.trans hd)), hu]
  rfl

end

section
variable {s : State} {c : Nat} {r : CopyRun} (hr : (s.pkg.core c).copyRun = some r) (hd : Spec.total r.cmd.fields ≤ r.done)

theorem CopyRun.settle_plain (hm : r.merged = false) (h20 : Spec.offset r.cmd.fields 20 = none) (p : Pkg) :
    r.settle p = p.dropRanges 1 r.cmd.num := by
  rw [settle_unmerged hm, merge_none h20]

include hr hd

theorem copyCompletion_merged (hm : r.merged = true) (h15 : Spec.field r.cmd.fields 15 / 2 ^ 16 % 2 ^ 16 = 0)
    (h18 : Spec.offset r.cmd.fields 18 = none) :
    exec (.copyCompletion c) s = .next (s.withPkg (s.pkg.setCore c { s.pkg.core c with copyRun := none })) := by
  have h := copyCompletion_leaves hr hd (CopyRun.endUpset_of (.inl hm) fun o ho => by rw [h18] at ho; cases ho)
  rwa [r.settle_merged hm, CopyCmd.countDown_none h18, CopyCmd.postEnd_none h15] at h

variable (hm : r.merged = false)
include hm

/-- A command without a census. -/
theorem copyCompletion_plain (h20 : Spec.offset r.cmd.fields 20 = none)
    (h18 : ∀ o, Spec.offset r.cmd.fields 18 = some o → s.pkg.counterUpset r.cmd.crew o = none) :
    let p := r.cmd.postEnd c (r.cmd.countDown c (s.pkg.dropRanges 1 r.cmd.num))
    exec (.copyCompletion c) s = .next (s.withPkg (p.setCore c { p.core c with copyRun := none })) := by
  have h := copyCompletion_leaves hr hd (CopyRun.endUpset_of (.inr (CopyCmd.censusUpset_none h20 _)) h18)
  rwa [r.settle_plain hm h20] at h

variable (h15 : Spec.field r.cmd.fields 15 / 2 ^ 16 % 2 ^ 16 = 0)
include h15

/-- A command with a census merges it. -/
theorem copyCompletion_census (h18 : Spec.offset r.cmd.fields 18 = none) {o n : Nat} (h20 : Spec.offset r.cmd.fields 20 = some o) (ho : o % 8 = 0)
    (hn : r.census = [n]) (hp : s.pkg.poisoned (Spec.offAt s.pkg r.cmd.crew o) 8 = none) :
    ∃ t, exec (.copyCompletion c) s = .next t ∧ (t.pkg.core c).copyRun = none ∧ RangesGone r.cmd.num s.pkg t.pkg
      ∧ s.pkg.Merged t.pkg (Spec.offAt s.pkg r.cmd.crew o) n r.sat := by
  have h := copyCompletion_leaves hr hd (CopyRun.endUpset_of (.inr (CopyCmd.censusUpset_clean h20 ho hp)) fun o ho => by rw [h18] at ho; cases ho)
  rw [CopyCmd.countDown_none h18, CopyCmd.postEnd_none h15, r.settle_unmerged hm, r.merge_some h20 hn] at h
  obtain ⟨hmerged, hframe⟩ := s.pkg.mergeBlock_merged r.cmd.crew o n r.sat
  refine ⟨_, h, ?_, ?_, hmerged⟩
  · exact congrArg Core.copyRun ((Pkg.core_setCore _ _ _ _).trans (if_pos rfl))
  · have hgone := (s.pkg.mergeBlock r.cmd.crew o [n] r.sat false).dropRanges_gone r.cmd.num
    rw [RangesGone, hframe] at hgone
    exact hgone

/-- A command with a counter decrements it. -/
theorem copyCompletion_counter (h20 : Spec.offset r.cmd.fields 20 = none) {o : Nat} (h18 : Spec.offset r.cmd.fields 18 = some o) (ho : o % 64 = 0)
    (hp : s.pkg.poisoned (Spec.offAt s.pkg r.cmd.crew o) 8 = none) :
    let q := (s.pkg.dropRanges 1 r.cmd.num).decrement r.cmd.crew o c 0
    exec (.copyCompletion c) s = .next (s.withPkg (q.setCore c { q.core c with copyRun := none })) := by
  have h := copyCompletion_plain hr hd hm h20 fun o' ho' => by
    rw [h18] at ho'
    cases ho'
    exact (s.pkg.offPoison_one _ (by omega) (by decide)).trans hp
  rwa [CopyCmd.countDown_some h18, CopyCmd.postEnd_none h15] at h

end

/-! ### A command aborts (R393) -/


/-- An engine reads nothing outside every region. -/
theorem Pkg.engRead_bad (p : Pkg) (er c cu : Nat) (sup : Bool) {va n : Nat} (skip : Option Nat) (hn : 0 < n) (hva : 0x7F0000601000 ≤ va) :
    p.engRead er c cu sup va n skip = .error (0x10, va) := by
  have hparts : ∃ m l, pageParts va n = (va, m) :: l := ⟨_, _, by rw [pageParts, framesFrom, if_neg (Nat.ne_of_gt hn)]⟩
  obtain ⟨m, l, hparts⟩ := hparts
  have hkey : p.engKey er c cu sup va m 0 skip = .error 0x10 := by rw [engKey, locOf_bad hva]
  rw [engRead, hparts, List.foldl_cons]
  simp only [hkey]
  clear hparts
  induction l with
  | nil => rfl
  | cons a l ih => exact ih

section
variable {s : State} {c : Nat} {r : CopyRun}

theorem copyStep_bad (er : Nat) (p : Pkg) (h2 : Spec.field r.cmd.fields 2 < 8) (hv : r.val = none)
    (hsrc : 0x7F0000601000 ≤ Spec.source r.cmd.fields r.ix r.done) : copyStep er c p r = .error (0x10, Spec.source r.cmd.fields r.ix r.done) := by
  rw [← CopyRun.place_src h2] at hsrc ⊢
  unfold copyStep
  simp only [hv, p.engRead_bad er c _ _ _ r.cmd.es_pos hsrc]

/-- A source outside every region aborts the command, and its strand is told. -/
theorem copyAbort_told {st : Strand} (hr : (s.pkg.core c).copyRun = some r) (h2 : Spec.field r.cmd.fields 2 < 8) (hv : r.val = none)
    (hd : r.done < Spec.total r.cmd.fields) (hsrc : 0x7F0000601000 ≤ Spec.source r.cmd.fields r.ix r.done)
    (hst : s.pkg.strands.find? r.cmd.strand = some st) (hrun : st.run ≠ .ended) (hl : st.lost = false) :
    ∃ t, exec (.copyAbort c) s = .next t ∧ (t.pkg.core c).copyRun = none ∧ RangesGone r.cmd.num s.pkg t.pkg ∧ t.pkg.mem = s.pkg.mem
      ∧ t.pkg.strands.find? r.cmd.strand =
          some { st with async := st.async ++ [{ cause := 0x10, tval := BitVec.ofNat 64 (Spec.source r.cmd.fields r.ix r.done) }] } := by
  let q := (s.pkg.setCore c { s.pkg.core c with copyRun := none }).dropRanges 1 r.cmd.num
  let v := BitVec.ofNat 64 (Spec.source r.cmd.fields r.ix r.done)
  have hq : q.asyncTo r.cmd.strand 0x10 v = q.modStrand r.cmd.strand (fun st => { st with async := st.async ++ [{ cause := 0x10, tval := v }] }) :=
    Pkg.asyncTo_live (p := q) hst hrun hl
  have he : exec (.copyAbort c) s = .next (s.withPkg (q.asyncTo r.cmd.strand 0x10 v)) := by
    show execCopyAbort c s = _
    unfold execCopyAbort
    simp only [hr, if_neg (Nat.not_le.2 (r.cmd.total_eq h2 ▸ hd)), copyStep_bad s.er s.pkg h2 hv hsrc]
    rfl
  rw [hq] at he
  refine ⟨_, he, ?_, Pkg.dropRanges_gone _ _, rfl, ?_⟩
  · show ((s.pkg.setCore c _).core c).copyRun = none
    rw [Pkg.core_setCore, if_pos rfl]
  · show (q.modStrand _ _).strands.find? _ = _
    rw [Pkg.modStrand_strands, RMap.find?_modify_same]
    exact congrArg (Option.map _) hst

end

end Sys2Proof.Machine
end

section
/-! SUPPORT. The next write of a copy command (R152, R153): what it reads, what it writes, and what it makes of the command. -/

namespace Sys2Proof.Machine

/-! ### The parts of a write -/

section
variable (r : CopyRun) (p : Pkg)

/-- The source and the destination of the next write, and the lines of the element before, which are counted already (R99). -/
def CopyRun.readAt : Nat := (r.place r.done).1
def CopyRun.writeAt : Nat := (r.cmd.dests (r.place r.done).2).getD r.dest 0

def CopyRun.lineFrom : Option Nat := (if r.done = 0 then none else some (r.place (r.done - 1))).map (fun q => q.1 / 64)
def CopyRun.lineTo : Option Nat := (if r.done = 0 then none else some (r.place (r.done - 1))).map (fun q => (r.cmd.dests q.2).getD r.dest 0 / 64)

/-- The next write is the last of its element; the element is the command's last. -/
def CopyRun.last : Bool := decide ((r.cmd.dests (r.place r.done).2).length ≤ r.dest + 1)
def CopyRun.final : Bool := decide (r.cmd.total ≤ r.done + 1)

/-- The galley word that the next write updates, and whether the update waits for the command's last write. -/
def CopyRun.galley : Option (Nat × Nat × Nat) := galleyOf p r.cmd r.writeAt
def CopyRun.holds : Bool := r.final && (r.galley p).any (fun g => p.galleyFires g.1 r.cmd.es)
def CopyRun.lates : List (Nat × Nat) := r.late ++ (if r.holds p then (r.galley p).toList.map (fun g => (g.1, g.2.1)) else [])

/-- The command after it has written y for the element x. -/
def CopyRun.written (x : Nat) (y : Nat × Bool) : CopyRun := { r with
  val := if r.last then none else some x
  dest := if r.last then 0 else r.dest + 1
  done := if r.last then r.done + 1 else r.done
  census := (minOf (r.census ++ r.cmd.counts y.1)).toList
  sat := r.sat || y.2
  late := r.lates p }

/-- The package q written, and the command, after the galley word has been updated. -/
def CopyRun.land (q : Pkg) (x : Nat) (y : Nat × Bool) : Pkg × CopyRun :=
  let q' := if r.holds p then q else (r.galley p).elim q (fun g => q.galleyAdd r.cmd.crew g.1 r.cmd.es g.2.1)
  if r.last && r.final then (r.written p x y).closeGalleys q' else (q', r.written p x y)

variable {r p}

/-- The next write of a command, of an element read as x over o, when its checks find nothing. -/
theorem copyStep_lands {er c : Nat} {x o : Nat} {q : Pkg}
    (hx : r.val = some x ∨ r.val = none ∧ ∃ bs, ofBytes bs = x ∧ p.engRead er c r.cmd.crew r.cmd.sup r.readAt r.cmd.es r.lineFrom = .ok (bs, p))
    (ho : r.cmd.field 13 = 0 ∨ ∃ bs, ofBytes bs = o ∧ p.engRead er c r.cmd.crew r.cmd.sup r.writeAt r.cmd.es r.lineTo = .ok (bs, p))
    (hw : p.engWrite er c r.cmd.crew r.cmd.sup r.writeAt (toBytes r.cmd.es (r.cmd.combine o x).1) r.lineTo = .ok q)
    (h13 : ¬(r.cmd.field 14 ≠ 0 ∧ !(decide (windowBase ≤ (r.place r.done).2) && decide ((r.place r.done).2 < noticeBase))))
    (hg : ¬ (r.galley p).any (fun g => (p.galleyUpset g.1).isSome) = true)
    (hc : ¬(r.last = true ∧ r.final = true ∧ r.lates p ≠ [] ∧ (r.cmd.censusUpset p).isSome = true)) :
    copyStep er c p r = .ok (r.land p q x (r.cmd.combine o x)) := by
  unfold copyStep
  unfold CopyRun.readAt CopyRun.lineFrom at hx
  unfold CopyRun.writeAt CopyRun.lineTo at ho hw
  unfold CopyRun.galley CopyRun.writeAt at hg
  rcases hx with hv | ⟨hv, bs, rfl, hread⟩
  case' inl => simp only [hv]
  case' inr => simp only [hv, hread]
  all_goals
    rw [if_neg h13, if_neg hg]
    refine (if_neg hc).trans ?_
    by_cases h0 : r.cmd.field 13 = 0
    · rw [CopyCmd.combine_store h0] at hw ⊢
      simp only [if_pos h0, CopyCmd.combine_store h0, hw]
      rfl
    · obtain ⟨bs, rfl, hold⟩ := ho.resolve_left h0
      simp only [if_neg h0, hold, hw]
      rfl

end

/-! ### The parts of a write in the spec's terms -/

section
variable (r : CopyRun) (p : Pkg)

/-- Of the next write, in the spec's terms: where the element comes from and goes to, its bytes, the writes of an element, the key written,
the element, what was there, and what is written. -/
abbrev CopyRun.src : Nat := Spec.source r.cmd.fields r.ix r.done
abbrev CopyRun.dst : Nat := Spec.destOf r.cmd.fields r.done r.dest
abbrev CopyRun.size : Nat := Spec.esOf (Spec.field r.cmd.fields 2)
abbrev CopyRun.writes : Nat := if Spec.field r.cmd.fields 14 = 0 then 1 else (Spec.castTo r.cmd.fields).length
abbrev CopyRun.key : Nat := winAt p r.cmd.crew r.dst
abbrev CopyRun.elem : Nat := r.val.getD (p.num (winAt p r.cmd.crew r.src) r.size)
abbrev CopyRun.out : Nat := Spec.combine (Spec.field r.cmd.fields 13) (8 * r.size) (p.num (r.key p) r.size) (r.elem p)

/-- The next write of a command of signed or stored elements can be made: its element is clean, and its destination. -/
abbrev CopyRun.CanWrite : Prop :=
  let f := Spec.field r.cmd.fields
  f 13 ≤ 4 ∧ (f 13 ≠ 0 → f 2 = 2 ∨ f 2 = 4 ∨ f 2 = 6) ∧ f 2 < 7 ∧ r.done < Spec.total r.cmd.fields ∧ r.dest < r.writes
    ∧ (r.val = none → Spec.Clean p r.cmd.crew r.src r.size) ∧ Spec.Clean p r.cmd.crew r.dst r.size
    ∧ (f 14 ≠ 0 → 0x7F0000000000 ≤ Spec.dest r.cmd.fields r.done ∧ Spec.dest r.cmd.fields r.done < 0x7F0000600000)

/-- The command r' is r after its next write, in package p. -/
abbrev CopyRun.Next (r' : CopyRun) : Prop :=
  let f := Spec.field r.cmd.fields
  let y := r.out p
  r'.cmd = r.cmd ∧ r'.ix = r.ix
    ∧ (r.writes ≤ r.dest + 1 → r'.done = r.done + 1 ∧ r'.val = none ∧ r'.dest = 0)
    ∧ (¬ r.writes ≤ r.dest + 1 → r'.done = r.done ∧ r'.val = some (r.elem p) ∧ r'.dest = r.dest + 1)
    ∧ r'.sat = (r.sat || decide (f 13 = 2 ∧ (BitVec.ofNat (8 * r.size) y).toInt
        ≠ (BitVec.ofNat (8 * r.size) (p.num (r.key p) r.size)).toInt + (BitVec.ofNat (8 * r.size) (r.elem p)).toInt))
    ∧ r'.census = (minOf (r.census ++ (if f 2 < 2 then [y % 16, y / 16] else [y]).map (fun v =>
        rsb (f 2 % 2 == 0) (tyW (f 2)) (if f 2 % 2 = 0 then (BitVec.ofNat (tyW (f 2)) v).toInt else v)))).toList

/-- The pair that combining the element over what was there gives. -/
def CopyRun.made : Nat × Bool := r.cmd.combine (p.num (r.key p) r.size) (r.elem p)

/-- The galley word at offset o of a multicast or not: its position and its key. -/
abbrev CopyRun.galleyPos (o : Nat) : Nat := if Spec.field r.cmd.fields 14 = 0 then o / 2 ^ 18 else (r.dst - 0x7F0000000000) / 2 ^ 18
abbrev CopyRun.galleyKey (o : Nat) : Nat := Spec.offAt p r.cmd.crew (r.galleyPos o * 2 ^ 18 + o % 2 ^ 18)

variable {r p}

theorem CopyRun.last_eq : r.last = decide (r.writes ≤ r.dest + 1) := by rw [last, CopyCmd.dests_length]

theorem CopyRun.galley_none (h : Spec.offset r.cmd.fields 16 = none) : r.galley p = none := by
  rw [galley, galleyOf, CopyCmd.offset?_eq, h]; rfl

section
variable (h2 : Spec.field r.cmd.fields 2 < 8)
include h2

theorem CopyRun.readAt_eq : r.readAt = r.src := place_src h2 _

theorem CopyRun.writeAt_eq (hk : r.dest < r.writes) : r.writeAt = r.dst := by
  rw [writeAt, place_dst h2, CopyCmd.dests_getD hk]

theorem CopyRun.final_eq : r.final = decide (Spec.total r.cmd.fields ≤ r.done + 1) := by rw [final, CopyCmd.total_eq h2]

theorem CopyRun.galley_some (hk : r.dest < r.writes) {o : Nat} (h : Spec.offset r.cmd.fields 16 = some o) :
    ∃ va, r.galley p = some (r.galleyKey p o, (p.crew r.cmd.crew).cores.getD (r.galleyPos o) 0, va) := by
  have hdiv : (r.galleyPos o * 2 ^ 18 + o % 2 ^ 18) / 2 ^ 18 = r.galleyPos o := by omega
  have hmod : (r.galleyPos o * 2 ^ 18 + o % 2 ^ 18) % 2 ^ 18 = o % 2 ^ 18 := by omega
  rw [galley, galleyOf, CopyCmd.offset?_eq, h, writeAt_eq h2 hk, galleyKey, Spec.offAt, hdiv, hmod]
  exact ⟨_, rfl⟩

end

theorem exists_minOf {l : List Nat} (h : l ≠ []) : ∃ n, minOf l = some n := by
  obtain ⟨a, l, rfl⟩ := List.exists_cons_of_ne_nil h
  exact ⟨_, rfl⟩

theorem CopyCmd.counts_ne_nil (x : CopyCmd) (n : Nat) : x.counts n ≠ [] := by
  unfold counts
  dsimp only
  split <;> exact List.cons_ne_nil _ _

/-- The census of a command that has written is one count. -/
theorem CopyRun.census_written (x : Nat) (y : Nat × Bool) : ∃ n, (r.written p x y).census = [n] := by
  obtain ⟨n, hn⟩ := exists_minOf (List.append_ne_nil_of_right_ne_nil r.census (r.cmd.counts_ne_nil y.1))
  exact ⟨n, congrArg Option.toList hn⟩

section
variable (h : r.CanWrite p)
include h

theorem CopyRun.CanWrite.type : Spec.field r.cmd.fields 2 < 8 := by
  obtain ⟨-, -, h, -⟩ := h
  exact Nat.lt_succ_of_lt h

theorem CopyRun.CanWrite.made_eq : (r.made p).1 % 2 ^ (8 * r.size) = r.out p
    ∧ (r.made p).2 = decide (Spec.field r.cmd.fields 13 = 2 ∧ (BitVec.ofNat (8 * r.size) (r.out p)).toInt
        ≠ (BitVec.ofNat (8 * r.size) (p.num (r.key p) r.size)).toInt + (BitVec.ofNat (8 * r.size) (r.elem p)).toInt) := by
  have h2 := h.type
  obtain ⟨h13, hty, -⟩ := h
  exact CopyCmd.combine_spec ⟨h13, hty⟩ h2 _ _

/-- What the write makes of the command. -/
theorem CopyRun.CanWrite.next : r.Next p (r.written p (r.elem p) (r.made p)) := by
  obtain ⟨hval, hsat⟩ := h.made_eq
  have hlast := r.last_eq
  refine ⟨rfl, rfl, fun hl => ?_, fun hl => ?_, congrArg (r.sat || ·) hsat, ?_⟩
  · have : r.last = true := hlast.trans (decide_eq_true hl)
    simp [written, this]
  · have : r.last = false := hlast.trans (decide_eq_false hl)
    simp [written, this]
  · show (minOf (r.census ++ r.cmd.counts (r.made p).1)).toList = _
    rw [CopyCmd.counts_spec h.type, hval]

/-- The write is made, unless its checks find an upset word. -/
theorem CopyRun.CanWrite.lands (er c : Nat) :
    ∃ q, p.Wrote q (r.key p) (toBytes r.size (r.made p).1) ∧
      (¬ (r.galley p).any (fun g => (p.galleyUpset g.1).isSome) = true →
       ¬(r.last = true ∧ r.final = true ∧ r.lates p ≠ [] ∧ (r.cmd.censusUpset p).isSome = true) →
       copyStep er c p r = .ok (r.land p q (r.elem p) (r.made p))) := by
  have h2 := h.type
  have hes : r.cmd.es = r.size := CopyCmd.es_eq h2
  obtain ⟨-, -, -, -, hk, hsrc, hdst, h14⟩ := h
  have hlen : (toBytes r.size (r.made p).1).length = r.size := toBytes_length _ _
  obtain ⟨q, hq, hw⟩ := Pkg.engWrite_run (bs := toBytes r.size (r.made p).1) (hlen.symm ▸ Pkg.run_of_clean hdst) er c r.cmd.sup r.lineTo
  refine ⟨q, hw, copyStep_lands (x := r.elem p) (o := p.num (r.key p) r.size) ?_ (.inr ⟨_, rfl, ?_⟩) ?_ ?_⟩
  · cases hv : r.val with
    | some x => exact .inl (by simp [CopyRun.elem, hv])
    | none =>
      refine .inr ⟨rfl, p.bytes (winAt p r.cmd.crew r.src) r.size, by simp only [elem, hv]; rfl, ?_⟩
      rw [readAt_eq h2, hes]
      exact Pkg.engRead_run (Pkg.run_of_clean (hsrc hv)) er c r.cmd.sup r.lineFrom
  · rw [writeAt_eq h2 hk, hes]
    exact Pkg.engRead_run (Pkg.run_of_clean hdst) er c r.cmd.sup r.lineTo
  · rw [writeAt_eq h2 hk, hes]
    exact hq
  · rintro ⟨hne, hout⟩
    obtain ⟨hlo, hhi⟩ := h14 hne
    rw [place_dst h2, decide_eq_true (show windowBase ≤ _ from hlo), decide_eq_true (show _ < noticeBase from hhi)] at hout
    cases hout

end

end

end Sys2Proof.Machine
end

section
/-! SUPPORT. What the next write of a copy command leaves: the bytes written, the galley word counted, and the command's end before its last
generation (R104, R112, R153, R154). -/

namespace Sys2Proof.Machine

/-! ### Bytes written beside a galley word -/

theorem Pkg.Wrote.num_same {p q : Pkg} {k n v : Nat} (h : p.Wrote q k (toBytes n v)) : q.num k n = v % 2 ^ (8 * n) := by
  have hb := h.bytes_same
  rw [toBytes_length] at hb
  rw [num, hb, ofBytes_toBytes, pow_mul]
  rfl

/-- What lies apart from a galley word is not changed with its COUNT and GEN. -/
theorem Pkg.num_apart_counts {p q : Pkg} {k n kg : Nat} (h : ∀ j, ¬(kg + 4 ≤ j ∧ j < kg + 10) → q.byte j = p.byte j)
    (hd : kg + 16 ≤ k ∨ k + n ≤ kg) : q.num k n = p.num k n := num_congr fun j _ _ => h j (by omega)

theorem Pkg.Wrote.byte_apart {p q : Pkg} {k n v j : Nat} (h : p.Wrote q k (toBytes n v)) (hj : ¬(k ≤ j ∧ j < k + n)) : q.byte j = p.byte j :=
  h.byte_out j (by rwa [toBytes_length])

theorem Pkg.Wrote.agree {p q : Pkg} {k kg : Nat} {bs : List Byte} (h : p.Wrote q k bs) (hd : kg + 16 ≤ k ∨ k + bs.length ≤ kg) : p.AgreeAt q kg := by
  refine ⟨fun j h1 h2 => h.byte_out j (by omega), ?_, ?_, ?_⟩ <;> rw [h.2]

theorem Pkg.Wrote.offAt {p q : Pkg} {k : Nat} {bs : List Byte} (h : p.Wrote q k bs) (cu off : Nat) : Spec.offAt q cu off = Spec.offAt p cu off := by
  rw [h.2]; rfl

theorem Pkg.galleyFires_eq (p : Pkg) (k n : Nat) : p.galleyFires k n = decide (0 < p.gens k n) := by
  rw [galleyFires, gens]
  by_cases h : p.num k 4 = 0
  · simp [h]
  · simp [h, Nat.div_pos_iff, Nat.pos_of_ne_zero h]

theorem Pkg.AgreeAt.trans {p q v : Pkg} {k : Nat} (h : p.AgreeAt q k) (h' : q.AgreeAt v k) : p.AgreeAt v k where
  byte j h1 h2 := (h'.byte j h1 h2).trans (h.byte j h1 h2)
  cores := h'.cores.trans h.cores
  crews := h'.crews.trans h.crews
  launches := h'.launches.trans h.launches

/-! ### The census merged before the last generation (R154) -/

/-- The key of the census block of a command, if it has one. -/
abbrev CopyCmd.block (x : CopyCmd) (p : Pkg) : Option Nat := (Spec.offset x.fields 20).map (Spec.offAt p x.crew)

/-- What a merge of one count makes of the block, and that it changes nothing else. -/
theorem CopyRun.merge_merged {r : CopyRun} {n : Nat} (hc : r.census = [n]) (p : Pkg) :
    (∀ kb ∈ r.cmd.block p, p.Merged (r.merge p) kb n r.sat)
    ∧ (∀ j, (∀ kb ∈ r.cmd.block p, ¬(kb ≤ j ∧ j < kb + 8)) → (r.merge p).byte j = p.byte j)
    ∧ r.merge p = { p with mem := (r.merge p).mem } := by
  cases ho : Spec.offset r.cmd.fields 20 with
  | none =>
    rw [r.merge_none ho]
    exact ⟨fun kb hkb => by simp [CopyCmd.block, ho] at hkb, fun _ _ => rfl, rfl⟩
  | some o =>
    obtain ⟨hm, hframe⟩ := p.mergeBlock_merged r.cmd.crew o n r.sat
    rw [r.merge_some ho hc]
    have hblock : r.cmd.block p = some (Spec.offAt p r.cmd.crew o) := by rw [CopyCmd.block, ho]; rfl
    rw [hblock]
    refine ⟨fun kb hkb => Option.some.inj hkb ▸ hm, fun j hj => ?_, hframe⟩
    obtain ⟨-, -, hout⟩ := hm
    exact hout j (hj _ rfl)

/-- A byte among m at key k is outside a block apart from them. -/
theorem outside_of_apart {k m kb j : Nat} (h : kb + 8 ≤ k ∨ k + m ≤ kb) (h1 : k ≤ j) (h2 : j < k + m) : ¬(kb ≤ j ∧ j < kb + 8) := by omega

/-- A merge apart from the bytes written before it and from the galley word counted after it. -/
theorem Pkg.Merged.apart {p q v P : Pkg} {kb kd kg n m : Nat} {sat : Bool} (h : q.Merged v kb n sat)
    (hq : ∀ j, ¬(kd ≤ j ∧ j < kd + m) → q.byte j = p.byte j) (hP : ∀ j, ¬(kg + 4 ≤ j ∧ j < kg + 10) → P.byte j = v.byte j)
    (hd : kb + 8 ≤ kd ∨ kd + m ≤ kb) (hg : kb + 8 ≤ kg ∨ kg + 16 ≤ kb) :
    P.num kb 4 = min (p.num kb 4) n ∧ P.num (kb + 4) 4 = (p.num (kb + 4) 4 ||| if sat then 1 else 0) := by
  obtain ⟨hmin, hor, -⟩ := h
  rw [num_congr (p := P) (q := v) fun j _ _ => hP j (by omega), hmin, num_congr (p := P) (q := v) fun j _ _ => hP j (by omega), hor,
    num_congr (p := q) (q := p) fun j _ _ => hq j (by omega), num_congr (p := q) (q := p) fun j _ _ => hq j (by omega)]
  exact ⟨rfl, rfl⟩

/-! ### The galley word of a write -/

section
variable {r : CopyRun} {p q : Pkg} {x : Nat} {y : Nat × Bool}

/-- Package q after the galley word has been updated, unless the update waits. -/
def CopyRun.updated (r : CopyRun) (p q : Pkg) : Pkg :=
  if r.holds p then q else (r.galley p).elim q (fun g => q.galleyAdd r.cmd.crew g.1 r.cmd.es g.2.1)

theorem CopyRun.updated_none (h : r.galley p = none) : r.updated p q = q := by
  rw [updated, h]
  split <;> rfl

theorem CopyRun.updated_held (h : r.holds p = true) : r.updated p q = q := if_pos h

theorem CopyRun.updated_some {g : Nat × Nat × Nat} (hg : r.galley p = some g) (h : r.holds p = false) :
    r.updated p q = q.galleyAdd r.cmd.crew g.1 r.cmd.es g.2.1 := by
  rw [updated, if_neg (by rw [h]; decide), hg]
  rfl

theorem CopyRun.lates_free (h : r.holds p = false) : r.lates p = r.late := by rw [lates, if_neg (by rw [h]; decide), List.append_nil]

theorem CopyRun.lates_held {g : Nat × Nat × Nat} (hg : r.galley p = some g) (h : r.holds p = true) : r.lates p = r.late ++ [(g.1, g.2.1)] := by
  rw [lates, if_pos h, hg]
  rfl

/-- A write that is not the command's last, or that no update has waited for. -/
theorem CopyRun.land_open (h : r.last = true → r.final = true → r.lates p = []) : r.land p q x y = (r.updated p q, r.written p x y) := by
  show (if _ then _ else _) = _
  split
  · next hlf =>
    obtain ⟨hl, hf⟩ := Bool.and_eq_true_iff.1 hlf
    exact if_pos (h hl hf)
  · rfl

/-- The command's last write, with one update that has waited for it. -/
theorem CopyRun.land_close {g : Nat × Nat} (hl : r.last = true) (hf : r.final = true) (hg : r.lates p = [g]) (hh : r.holds p = true) :
    let w := r.written p x y
    r.land p q x y = (((w.merge q).dropRanges 1 r.cmd.num).galleyAdd r.cmd.crew g.1 r.cmd.es g.2, { w with late := [], merged := true }) := by
  intro w
  have hw : w.late = [g] := hg
  have hq : r.updated p q = q := updated_held hh
  show (if (r.last && r.final) = true then w.closeGalleys (r.updated p q) else _) = _
  rw [if_pos (by rw [hl, hf]; rfl), hq, closeGalleys, if_neg (by rw [hw]; exact List.cons_ne_nil _ _), hw]
  rfl

theorem CopyRun.holds_eq {g : Nat × Nat × Nat} (hg : r.galley p = some g) : r.holds p = (r.final && decide (0 < p.gens g.1 r.cmd.es)) := by
  rw [holds, hg, ← Pkg.galleyFires_eq]
  rfl

end

/-! ### The state after a write -/

section
variable {s : State} {c : Nat} {r : CopyRun}

/-- Package P with command R running on core c. -/
def State.landed (s : State) (c : Nat) (P : Pkg) (R : CopyRun) : State := s.withPkg (P.setCore c { P.core c with copyRun := some R })

theorem State.landed_run (P : Pkg) (R : CopyRun) : ((s.landed c P R).pkg.core c).copyRun = some R :=
  congrArg Core.copyRun ((Pkg.core_setCore _ _ _ _).trans (if_pos rfl))

theorem State.landed_num (P : Pkg) (R : CopyRun) (k n : Nat) : (s.landed c P R).pkg.num k n = P.num k n := rfl
theorem State.landed_byte (P : Pkg) (R : CopyRun) (k : Nat) : (s.landed c P R).pkg.byte k = P.byte k := rfl
theorem State.landed_ranges (P : Pkg) (R : CopyRun) : (s.landed c P R).pkg.ranges = P.ranges := rfl
theorem State.landed_wanted (P : Pkg) (R : CopyRun) : (s.landed c P R).pkg.wanted = P.wanted := rfl

theorem State.landed_flag (P : Pkg) (R : CopyRun) (a f : Nat) : Spec.flag (s.landed c P R).pkg a f = Spec.flag P a f := by
  show (((P.setCore c { P.core c with copyRun := some R }).core a).flags.get 0 f).toNat = _
  rw [Pkg.core_setCore]
  split
  · next h => rw [h]; rfl
  · rfl

theorem Pkg.Counted.landed {p P : Pkg} {cu k n : Nat} (h : p.Counted P cu k n) (R : CopyRun) : p.Counted (s.landed c P R).pkg cu k n := by
  obtain ⟨hcount, hgen, hflag⟩ := h
  exact ⟨hcount, hgen, (State.landed_flag _ _ _ _).trans hflag⟩

theorem copyWriteLanded_landed {P : Pkg} {R : CopyRun} (hr : (s.pkg.core c).copyRun = some r) (h : r.CanWrite s.pkg)
    (hs : copyStep s.er c s.pkg r = .ok (P, R)) : exec (.copyWriteLanded c) s = .next (s.landed c P R) := by
  have hd : ¬ r.cmd.total ≤ r.done := by
    have h2 := h.type
    obtain ⟨-, -, -, h, -⟩ := h
    exact Nat.not_le.2 (r.cmd.total_eq h2 ▸ h)
  show execCopyWriteLanded c s = _
  unfold execCopyWriteLanded
  simp only [hr, if_neg hd, hs]
  rfl

variable (hr : (s.pkg.core c).copyRun = some r) (h : r.CanWrite s.pkg)

/-- The command that runs is r after its next write. -/
abbrev RunNext (s : State) (c : Nat) (r : CopyRun) (t : State) : Prop := ∃ r' : CopyRun, (t.pkg.core c).copyRun = some r' ∧ r.Next s.pkg r'

/-- Ranges, waiting galley words and the merge are as they were. -/
abbrev RunKeeps (s : State) (c : Nat) (r : CopyRun) (t : State) : Prop := t.pkg.ranges = s.pkg.ranges ∧ t.pkg.wanted = s.pkg.wanted
  ∧ ∃ r' : CopyRun, (t.pkg.core c).copyRun = some r' ∧ r'.late = r.late ∧ r'.merged = r.merged

include hr h

/-- A command without a galley word. -/
theorem copyWrite_plain (h16 : Spec.offset r.cmd.fields 16 = none) (hl : r.late = []) :
    ∃ t, exec (.copyWriteLanded c) s = .next t ∧ RunNext s c r t ∧ RunKeeps s c r t ∧ t.pkg.num (r.key s.pkg) r.size = r.out s.pkg
      ∧ (∀ j, ¬(r.key s.pkg ≤ j ∧ j < r.key s.pkg + r.size) → t.pkg.byte j = s.pkg.byte j) ∧ t.pkg.strands = s.pkg.strands := by
  obtain ⟨q, hw, hstep⟩ := h.lands s.er c
  have hg := CopyRun.galley_none (p := s.pkg) h16
  have hlates : r.lates s.pkg = [] := by rw [CopyRun.lates, hg, hl]; simp
  have hland := r.land_open (p := s.pkg) (q := q) (x := r.elem s.pkg) (y := r.made s.pkg) fun _ _ => hlates
  have hs := hstep (by rw [hg]; exact Bool.false_ne_true) (fun ⟨_, _, hne, _⟩ => hne hlates)
  rw [hland, CopyRun.updated_none hg] at hs
  exact ⟨_, copyWriteLanded_landed hr h hs, ⟨_, State.landed_run _ _, h.next⟩,
    ⟨(congrArg Pkg.ranges hw.2 :), (congrArg Pkg.wanted hw.2 :), _, State.landed_run _ _, hlates.trans hl.symm, rfl⟩,
    hw.num_same.trans h.made_eq.1, fun _ => hw.byte_apart, hw.strands⟩

/-! ### A command with a galley word -/

variable {o : Nat} (h16 : Spec.offset r.cmd.fields 16 = some o) (hclean : s.pkg.poisoned (r.galleyKey s.pkg o) 16 = none)

include h16

omit hr in
theorem galley_found : ∃ va, r.galley s.pkg = some (r.galleyKey s.pkg o, (s.pkg.crew r.cmd.crew).cores.getD (r.galleyPos o) 0, va) := by
  have h2 := h.type
  obtain ⟨-, -, -, -, hk, -⟩ := h
  exact CopyRun.galley_some h2 hk h16

omit hr in
/-- An update waits for the command's last write when it is by the last element and completes a generation. -/
theorem holds_iff : r.holds s.pkg = true ↔ Spec.total r.cmd.fields ≤ r.done + 1 ∧ 0 < s.pkg.gens (r.galleyKey s.pkg o) r.size := by
  obtain ⟨va, hg⟩ := galley_found h h16
  rw [CopyRun.holds_eq hg, CopyRun.final_eq h.type, CopyCmd.es_eq h.type, Bool.and_eq_true, decide_eq_true_iff, decide_eq_true_iff]

include hclean

omit hr in
/-- The write is made, unless the census cannot be merged. -/
theorem galley_lands : ∃ q, s.pkg.Wrote q (r.key s.pkg) (toBytes r.size (r.made s.pkg).1) ∧
    (¬(r.last = true ∧ r.final = true ∧ r.lates s.pkg ≠ [] ∧ (r.cmd.censusUpset s.pkg).isSome = true) →
      copyStep s.er c s.pkg r = .ok (r.land s.pkg q (r.elem s.pkg) (r.made s.pkg))) := by
  obtain ⟨q, hw, hstep⟩ := h.lands s.er c
  obtain ⟨va, hg⟩ := galley_found h h16
  refine ⟨q, hw, hstep ?_⟩
  have hup : s.pkg.galleyUpset (r.galleyKey s.pkg o) = none := hclean
  rw [hg, Option.any_some, hup]
  exact Bool.false_ne_true

/-- The last element's update completes a generation, and its write is not the command's last: the update waits. -/
theorem copyWrite_holds (hf : Spec.total r.cmd.fields ≤ r.done + 1) (ht : 0 < s.pkg.gens (r.galleyKey s.pkg o) r.size) (hl : ¬ r.writes ≤ r.dest + 1) :
    ∃ t, exec (.copyWriteLanded c) s = .next t ∧ RunNext s c r t ∧ t.pkg.num (r.key s.pkg) r.size = r.out s.pkg ∧ t.pkg.ranges = s.pkg.ranges
      ∧ (∃ r' : CopyRun, (t.pkg.core c).copyRun = some r'
          ∧ r'.late = r.late ++ [(r.galleyKey s.pkg o, (s.pkg.crew r.cmd.crew).cores.getD (r.galleyPos o) 0)])
      ∧ (∀ j, ¬(r.key s.pkg ≤ j ∧ j < r.key s.pkg + r.size) → t.pkg.byte j = s.pkg.byte j) := by
  obtain ⟨q, hw, hstep⟩ := galley_lands (c := c) h h16 hclean
  obtain ⟨va, hg⟩ := galley_found h h16
  have hheld := (holds_iff h h16).2 ⟨hf, ht⟩
  have hlast : r.last ≠ true := by rw [CopyRun.last_eq, ne_eq, decide_eq_true_iff]; exact hl
  have hs := hstep fun ⟨hlast', _⟩ => hlast hlast'
  rw [CopyRun.land_open fun hlast' _ => absurd hlast' hlast, CopyRun.updated_held hheld] at hs
  exact ⟨_, copyWriteLanded_landed hr h hs, ⟨_, State.landed_run _ _, h.next⟩, hw.num_same.trans h.made_eq.1, (congrArg Pkg.ranges hw.2 :),
    ⟨_, State.landed_run _ _, CopyRun.lates_held hg hheld⟩, fun _ => hw.byte_apart⟩

variable (hdis : r.galleyKey s.pkg o + 16 ≤ r.key s.pkg ∨ r.key s.pkg + r.size ≤ r.galleyKey s.pkg o)
  (hquiet : s.pkg.PostsQuietly r.cmd.crew (r.galleyKey s.pkg o) r.size)
include hdis hquiet

/-- An update that need not wait is counted at once. -/
theorem copyWrite_counts (hheld : ¬(Spec.total r.cmd.fields ≤ r.done + 1 ∧ 0 < s.pkg.gens (r.galleyKey s.pkg o) r.size))
    (hlate : ¬(r.writes ≤ r.dest + 1 ∧ Spec.total r.cmd.fields ≤ r.done + 1 ∧ r.late ≠ [])) :
    ∃ t, exec (.copyWriteLanded c) s = .next t ∧ RunNext s c r t ∧ RunKeeps s c r t ∧ t.pkg.num (r.key s.pkg) r.size = r.out s.pkg
      ∧ s.pkg.Counted t.pkg r.cmd.crew (r.galleyKey s.pkg o) r.size
      ∧ (∀ j, ¬(r.key s.pkg ≤ j ∧ j < r.key s.pkg + r.size) → ¬(r.galleyKey s.pkg o + 4 ≤ j ∧ j < r.galleyKey s.pkg o + 10) →
          t.pkg.byte j = s.pkg.byte j) := by
  obtain ⟨q, hw, hstep⟩ := galley_lands (c := c) h h16 hclean
  obtain ⟨va, hg⟩ := galley_found h h16
  have hfree : r.holds s.pkg = false := Bool.eq_false_iff.2 fun hc => hheld ((holds_iff h h16).1 hc)
  have hopen : r.last = true → r.final = true → r.lates s.pkg = [] := fun hl hf => by
    rw [CopyRun.lates_free hfree]
    rw [CopyRun.last_eq, decide_eq_true_iff] at hl
    rw [CopyRun.final_eq h.type, decide_eq_true_iff] at hf
    exact Classical.not_not.1 fun hne => hlate ⟨hl, hf, hne⟩
  have hs := hstep fun ⟨hl, hf, hne, _⟩ => hne (hopen hl hf)
  rw [CopyRun.land_open hopen, CopyRun.updated_some hg hfree, CopyCmd.es_eq h.type] at hs
  have hagree : s.pkg.AgreeAt q (r.galleyKey s.pkg o) := hw.agree (by rwa [toBytes_length])
  obtain ⟨hcounted, hupdated, hbytes⟩ := Pkg.galleyAdd_counts (hagree.quiet hquiet) ((s.pkg.crew r.cmd.crew).cores.getD (r.galleyPos o) 0)
  refine ⟨_, copyWriteLanded_landed hr h hs, ⟨_, State.landed_run _ _, h.next⟩, ⟨?_, ?_, _, State.landed_run _ _, CopyRun.lates_free hfree, rfl⟩, ?_,
    (hagree.counted hcounted).landed _, fun j hj hj' => ?_⟩
  · rw [State.landed_ranges, hupdated.ranges, hw.2]
  · rw [State.landed_wanted, hupdated.wanted, hw.2]
  · rw [State.landed_num, Pkg.num_apart_counts hbytes hdis, hw.num_same, h.made_eq.1]
  · rw [State.landed_byte, hbytes j hj', hw.byte_apart hj]

/-- The command's last write completes a generation: the census is merged and the ranges go before it is counted. -/
theorem copyWrite_closes (hf : Spec.total r.cmd.fields ≤ r.done + 1) (ht : 0 < s.pkg.gens (r.galleyKey s.pkg o) r.size) (hl : r.writes ≤ r.dest + 1)
    (hlate : r.late = [])
    (hblk : ∀ kb ∈ r.cmd.block s.pkg, s.pkg.poisoned kb 8 = none ∧ (kb + 8 ≤ r.key s.pkg ∨ r.key s.pkg + r.size ≤ kb)
      ∧ (kb + 8 ≤ r.galleyKey s.pkg o ∨ r.galleyKey s.pkg o + 16 ≤ kb))
    (hoff : ∀ o' ∈ Spec.offset r.cmd.fields 20, o' % 8 = 0) :
    ∃ (t : State) (r' : CopyRun), exec (.copyWriteLanded c) s = .next t ∧ RunNext s c r t ∧ t.pkg.num (r.key s.pkg) r.size = r.out s.pkg
      ∧ s.pkg.Counted t.pkg r.cmd.crew (r.galleyKey s.pkg o) r.size ∧ RangesGone r.cmd.num s.pkg t.pkg
      ∧ (t.pkg.core c).copyRun = some r' ∧ r'.late = [] ∧ r'.merged = true
      ∧ (∀ kb ∈ r.cmd.block s.pkg, t.pkg.num kb 4 = min (s.pkg.num kb 4) (r'.census.headD 0)
          ∧ t.pkg.num (kb + 4) 4 = (s.pkg.num (kb + 4) 4 ||| if r'.sat then 1 else 0))
      ∧ (∀ j, ¬(r.key s.pkg ≤ j ∧ j < r.key s.pkg + r.size) → ¬(r.galleyKey s.pkg o + 4 ≤ j ∧ j < r.galleyKey s.pkg o + 10) →
          (∀ kb ∈ r.cmd.block s.pkg, ¬(kb ≤ j ∧ j < kb + 8)) → t.pkg.byte j = s.pkg.byte j) := by
  obtain ⟨q, hw, hstep⟩ := galley_lands (c := c) h h16 hclean
  obtain ⟨va, hg⟩ := galley_found h h16
  have hheld := (holds_iff h h16).2 ⟨hf, ht⟩
  have hlast : r.last = true := by rw [CopyRun.last_eq, decide_eq_true_iff]; exact hl
  have hfinal : r.final = true := by rw [CopyRun.final_eq h.type, decide_eq_true_iff]; exact hf
  have hlates := CopyRun.lates_held hg hheld
  rw [hlate, List.nil_append] at hlates
  have hcensus : r.cmd.censusUpset s.pkg = none := by
    cases ho : Spec.offset r.cmd.fields 20 with
    | none => exact CopyCmd.censusUpset_none ho _
    | some o' => 
      obtain ⟨hp, -⟩ := hblk (Spec.offAt s.pkg r.cmd.crew o') (by rw [CopyCmd.block, ho]; rfl)
      exact CopyCmd.censusUpset_clean ho (hoff o' ho) hp
  have hs := hstep fun ⟨_, _, _, hup⟩ => by rw [hcensus] at hup; cases hup
  rw [CopyRun.land_close hlast hfinal hlates hheld, CopyCmd.es_eq h.type] at hs
  have hnext := h.next
  obtain ⟨n, hn⟩ := r.census_written (p := s.pkg) (r.elem s.pkg) (r.made s.pkg)
  generalize r.written s.pkg (r.elem s.pkg) (r.made s.pkg) = w at hs hnext hn
  obtain ⟨hcmd, -⟩ := id hnext
  obtain ⟨hmerged, hout, hframe⟩ := w.merge_merged hn q
  have hblock : w.cmd.block q = r.cmd.block s.pkg := by rw [hcmd, CopyCmd.block, show Spec.offAt q r.cmd.crew = _ from funext (hw.offAt _)]
  rw [hblock] at hmerged hout
  have hagree : s.pkg.AgreeAt ((w.merge q).dropRanges 1 r.cmd.num) (r.galleyKey s.pkg o) := by
    refine (hw.agree (by rwa [toBytes_length])).trans ⟨fun j h1 h2 => hout j fun kb hkb => ?_, ?_, ?_, ?_⟩
    · obtain ⟨-, -, hd⟩ := hblk kb hkb
      exact outside_of_apart hd h1 h2
    · exact (congrArg Pkg.cores hframe :)
    · exact (congrArg Pkg.crews hframe :)
    · exact (congrArg Pkg.launches hframe :)
  obtain ⟨hcounted, hupdated, hbytes⟩ := Pkg.galleyAdd_counts (hagree.quiet hquiet) ((s.pkg.crew r.cmd.crew).cores.getD (r.galleyPos o) 0)
  refine ⟨_, _, copyWriteLanded_landed hr h hs, ⟨_, State.landed_run _ _, hnext⟩, ?_, (hagree.counted hcounted).landed _, ?_,
    State.landed_run _ _, rfl, rfl, fun kb hkb => ?_, fun j hj hj' hj'' => ?_⟩
  · rw [State.landed_num, Pkg.num_apart_counts hbytes hdis, ← h.made_eq.1, ← hw.num_same]
    refine Pkg.num_congr fun j h1 h2 => hout j fun kb hkb => ?_
    obtain ⟨-, hd, -⟩ := hblk kb hkb
    exact outside_of_apart hd h1 h2
  · have hranges : (w.merge q).ranges = s.pkg.ranges := (congrArg Pkg.ranges hframe :).trans (congrArg Pkg.ranges hw.2 :)
    have hwanted : (w.merge q).wanted = s.pkg.wanted := (congrArg Pkg.wanted hframe :).trans (congrArg Pkg.wanted hw.2 :)
    rw [RangesGone, State.landed_ranges, State.landed_wanted, hupdated.ranges, hupdated.wanted, ← hranges, ← hwanted]
    exact Pkg.dropRanges_gone _ _
  · obtain ⟨-, hd, hd'⟩ := hblk kb hkb
    rw [State.landed_num, State.landed_num, hn]
    exact (hmerged kb hkb).apart (fun _ => hw.byte_apart) hbytes hd hd'
  · rw [State.landed_byte, hbytes j hj']
    exact (hout j hj'').trans (hw.byte_apart hj)

end

end Sys2Proof.Machine
end

section
/-! The copy engine (O44). -/

namespace Sys2Proof.Machine

section
variable {s : State} {c : Nat}

/-- A strided command with its ranges in the table, or with none to track, starts. -/
theorem copyStart_strided {x : CopyCmd} {rest : List CopyCmd} (hq : (s.pkg.core c).copyq = x :: rest) (hh : copyHead s c = some x)
    (h11 : Spec.field x.fields 11 = 0) (hr : Spec.field x.fields 19 = 0 ∨ ∃ r ∈ s.pkg.ranges, r.src = 1 ∧ r.tok = x.num) :
    exec (.copyStart c) s = .next (s.withPkg (s.pkg.setCore c { s.pkg.core c with copyq := rest, copyRun := some { cmd := x, ix := [] } })) := by
  have hix : x.indexList s.pkg = [] := by rw [CopyCmd.indexList, h11]; rfl
  refine copyStart_runs hq hh ?_ (hr.imp_left fun h19 => CopyCmd.ranges_untracked h19 _ _ _)
  rw [← hix]
  exact readIndex_clean s.er fun i hi => by rw [h11] at hi; cases hi

/-- A gather starts once its index list is read. -/
theorem copyStart_gather {x : CopyCmd} {rest : List CopyCmd} (hq : (s.pkg.core c).copyq = x :: rest) (hh : copyHead s c = some x)
    (h19 : Spec.field x.fields 19 = 0) (hc : ∀ i < Spec.field x.fields 11, Spec.Clean s.pkg x.crew (Spec.field x.fields 10 + 4 * i) 4) :
    exec (.copyStart c) s =
      .next (s.withPkg (s.pkg.setCore c { s.pkg.core c with copyq := rest, copyRun := some { cmd := x, ix := x.indexList s.pkg } })) :=
  copyStart_runs hq hh (readIndex_clean s.er hc) (.inl (CopyCmd.ranges_untracked h19 _ _ _))

end

/-- Settles O44: the next write is made once its checks find nothing, and its galley word is counted at once, kept for the command's last
write, or counted there after the census is merged and the ranges are gone; a command that is done settles, counts down and posts. -/
theorem copyEngineSteps : Obligations.CopyEngineSteps := by
  unfold Obligations.CopyEngineSteps
  intro s c
  refine ⟨fun x rest hq hr hserv hheld => ?_, fun r hr => ⟨?_, ?_, ?_, ?_⟩⟩
  · have hh := copyHead_head hq hr hserv hheld
    exact ⟨copyStart_strided hq hh, fun _ h19 hc => copyStart_gather hq hh h19 hc⟩
  · exact fun hcan h16 hl => copyWrite_plain hr hcan h16 hl
  · intro o hcan h16 _ j kg n target times gen at' fc fl counted blk hgal hdis hquiet
    obtain ⟨hclean, -⟩ := hgal
    refine ⟨fun hheld hlate => copyWrite_counts hr hcan h16 hclean hdis hquiet hheld hlate, fun hf ht hl => copyWrite_holds hr hcan h16 hclean hf ht hl,
      fun hf ht hl hlate hblk hoff => copyWrite_closes hr hcan h16 hclean hdis hquiet hf ht hl hlate hblk hoff⟩
  · intro hd leaves
    refine ⟨fun hm h15 h18 => copyCompletion_merged hr hd hm h15 h18, fun hm => ⟨fun h15 h18 h20 => ?_,
      fun o n h15 h18 h20 ho hn _ => copyCompletion_census hr hd hm h15 h18 h20 ho hn, fun o h15 h20 h18 ho hp => ?_, fun h18 h20 h15 haway => ?_⟩⟩
    · have h := copyCompletion_plain hr hd hm h20 fun o ho => by rw [h18] at ho; cases ho
      rw [CopyCmd.countDown_none h18, CopyCmd.postEnd_none h15] at h
      exact ⟨_, Pkg.dropRanges_gone _ _, rfl, h⟩
    · exact ⟨_, _, _, copyCompletion_counter hr hd hm h15 h20 h18 ho hp, Pkg.dropRanges_gone _ _, rfl, rfl, rfl⟩
    · have h := copyCompletion_plain hr hd hm h20 fun o ho => by rw [h18] at ho; cases ho
      rw [CopyCmd.countDown_none h18, CopyCmd.postEnd_here (s.pkg.dropRanges 1 r.cmd.num) h15 haway] at h
      exact ⟨_, _, Pkg.dropRanges_gone _ _, rfl, rfl, h⟩
  · exact fun st h2 hv hd hsrc hst hrun hl => copyAbort_told hr h2 hv hd hsrc hst hrun hl

end Sys2Proof.Machine
end
